-- ==== Sys2Proof/Word.lean ====
section
/-! DEFINITION. The words of the device and their plainest arithmetic. Bit 0 is the least significant bit of
any field (R4); a structure wider than 32 bits is little-endian 32-bit words. -/
namespace Sys2Proof

/-- A 32-bit word (R4). -/
abbrev W32 := BitVec 32

/-- A 64-bit word: a tag, a scalar payload, a Z64 (R12, R68). -/
abbrev W64 := BitVec 64

/-- A token payload; a scalar stands in bits 63:0 (R9, R10). -/
abbrev Payload := BitVec 512

/-- A byte. -/
abbrev Byte := BitVec 8

/-- The field of `w` bits whose low bit is `lo` (R4). -/
def fld (v lo w : Nat) : Nat := v / 2 ^ lo % 2 ^ w

end Sys2Proof
end

