-- ==== Sys2Proof/Syntax/Fields.lean ====
section
/-! DEFINITION. The fields that the steps of the device carry: element types, targets, tag actions, control
fields of node records, and what the outside world supplies with an event. -/
namespace Sys2Proof

/-- The element types of R58, in code order. -/
inductive Ty where
  | s4 | z4 | s8 | z8 | s16 | z16 | s32 | z32 | s64 | bf16 | fp16 | fp32 | fp64 | nf | pred | tag
  deriving DecidableEq, Repr, Inhabited

/-- The tag actions of R56, in code order. -/
inductive TagAct where
  | none | inc | push (v : Nat) | pop | setlvl (v : Nat) | clearlvl | popinc | incn (v : Nat) | popto (d : Nat)
  deriving DecidableEq, Repr, Inhabited

/-- The special sinks of R54. -/
inductive Sink where
  | exit | scale | trace | hq (q : Nat) | memnode (m : Nat)
  deriving DecidableEq, Repr, Inhabited

/-- A 22-bit target, by its KIND (R51). -/
inductive Target where
  | none
  | local (ta : TagAct) (node port : Nat)
  | route (ta : TagAct) (r : Nat)
  | special (ta : TagAct) (sink : Sink)
  deriving DecidableEq, Repr, Inhabited

/-- The OFL bits of R50. -/
structure Ofl where
  sticky : Bool
  purge  : Bool
  bump   : Bool
  lpass  : Bool
  deriving DecidableEq, Repr, Inhabited

/-- What every node record has beside its operation and literal (R48). -/
structure Hdr where
  fmt   : Ty
  arity : Nat
  ofl   : Ofl
  t0    : Target
  t1    : Target
  deriving DecidableEq, Repr, Inhabited

/-- A 96-bit record as its three words (R48). -/
structure Rec where
  w2 : W32
  w1 : W32
  w0 : W32
  deriving DecidableEq, Repr, Inhabited

/-- A literal: LIT, and bits 63:32 where an EXT record supplies them (R49, R59). -/
structure Lit where
  lo : W32
  hi : Option W32
  deriving DecidableEq, Repr, Inhabited

/-- The five scopes of R255, in code order. -/
inductive Scope where
  | site | quad | die | module | system
  deriving DecidableEq, Repr, Inhabited

/-- The rounding modes of R77, in code order. -/
inductive RMode where
  | rne | rtz | rup | rdn | rna
  deriving DecidableEq, Repr, Inhabited

/-- A code of a wave field: a block position, NONE or ANY (R270). -/
inductive WaveRef where
  | pos (p : Nat) | none | any
  deriving DecidableEq, Repr, Inhabited

/-- What TAGGET reads (R111). -/
inductive TagSel where
  | tagv | lvl | dep
  deriving DecidableEq, Repr, Inhabited

/-- The operations of REDUCE and SCAN (R193), in code order. -/
inductive RedOp where
  | add | min | max | and | or | xor
  deriving DecidableEq, Repr, Inhabited

/-- The control fields of CVT (R128). -/
structure CvtCtl where
  part  : Nat
  sati  : Bool
  rmode : RMode
  dtype : Ty
  deriving DecidableEq, Repr, Inhabited

/-- The control fields of CVTNF (R131); `other` is BF16, FP16 or FP32. -/
structure CvtNfCtl where
  part  : Nat
  other : Ty
  enc   : Bool
  rmode : RMode
  freg  : Nat
  deriving DecidableEq, Repr, Inhabited

/-- The control fields of REDUCE and SCAN (R193). -/
structure RedCtl where
  sat  : Bool
  excl : Bool
  op   : RedOp
  deriving DecidableEq, Repr, Inhabited

/-- The control fields of layouts M, A and O (R269, R270). `region` is the handle, or none for the generic
region; `vec` is VEC of a load. -/
structure MemCtl where
  region : Option Nat
  wpred  : WaveRef
  wsucc  : WaveRef
  scope  : Scope
  acq    : Bool
  rel    : Bool
  vec    : Bool
  deriving DecidableEq, Repr, Inhabited

/-- KINS control fields (R147). -/
structure KinsCtl where
  expg  : Nat
  kref  : Bool
  life  : Nat
  store : Nat
  deriving DecidableEq, Repr, Inhabited

/-- Weight modes of R141, in code order. -/
inductive WMode where
  | one | raw | exp | softmax
  deriving DecidableEq, Repr, Inhabited

/-- Distances of R139, in code order. -/
inductive Dist where
  | ip | cos | l2
  deriving DecidableEq, Repr, Inhabited

/-- Residences of a key store (R135), in code order. -/
inductive Resid where
  | frame | mtile | stream
  deriving DecidableEq, Repr, Inhabited

/-- KMATCH control fields and its EXT record (R142). -/
structure KmCtl where
  sh    : Bool
  vvec  : Bool
  qref  : Bool
  freg  : Nat
  d     : Nat
  res   : Resid
  wmode : WMode
  dist  : Dist
  k     : Nat
  ext   : Option (Nat × BitVec 16 × W32)   -- HNDL, BETA, FLOOR
  deriving DecidableEq, Repr, Inhabited

/-- A rectangle of pairs (R309). -/
structure Rect where
  col0 : Nat
  row0 : Nat
  col1 : Nat
  row1 : Nat
  deriving DecidableEq, Repr, Inhabited

/-- The command word of MXOP.ARM (R317). -/
structure MxCmd where
  atype : Ty
  btype : Ty
  afreg : Nat
  bfreg : Nat
  otype : Ty
  ofreg : Nat
  rmode : RMode
  sca   : Bool
  scb   : Bool
  bias  : Bool
  act   : Bool
  rq    : Bool
  ksm1  : Nat
  deriving DecidableEq, Repr, Inhabited

/-- MXTAB control fields (R326): the table (0 ACT, 1 BIAS, 2 QS) and the bank (none: shadow). -/
structure MxTabCtl where
  isl    : Nat
  cslot  : Nat
  tbl    : Nat
  bank   : Option Nat
  handle : Nat
  deriving DecidableEq, Repr, Inhabited

/-- AWALK control fields and its EXT record (R334). -/
structure AwCtl where
  handle : Nat
  qref   : Bool
  snap   : Bool
  wmode  : WMode
  k      : Nat
  ext    : Option (Nat × Nat × BitVec 16 × W32)   -- EBM1, LM1, BETA, FLOOR
  deriving DecidableEq, Repr, Inhabited

/-- AINS control fields and its EXT record (R336). -/
structure AinsCtl where
  handle : Nat
  kref   : Bool
  scope  : Scope
  ext    : Option (Nat × Nat)                      -- EBM1, LM1
  deriving DecidableEq, Repr, Inhabited

/-- TREV control fields (R355): ASRC 0 IMM, 1 payload, 2 SIDE. -/
structure TrevCtl where
  imm  : Nat
  asrc : Nat
  xt   : Bool
  code : Nat
  deriving DecidableEq, Repr, Inhabited

/-- SYSRD and SYSWR control fields (R385). -/
structure SysCtl where
  family : Nat
  index  : Nat
  part   : Nat
  other  : Bool
  deriving DecidableEq, Repr, Inhabited

/-- A pair's resident: die and logical resident number (R158). -/
structure Site where
  die : Nat
  res : Nat
  deriving DecidableEq, Repr, Inhabited

/-- Who acts on a register or table: the host through BAR0 (R409), or the context of a firing (R385). -/
inductive Actor where
  | host | ctx (c : Nat)
  deriving DecidableEq, Repr, Inhabited

/-- A soft error and where it strikes (R366). -/
inductive SoftErr where
  | corrected (die : Nat) (struct : Nat)            -- corrected in place and counted
  | memory (addr : Nat)                             -- an uncorrectable word of memory at this byte
  | slot (x : Site) (slot : Nat)                    -- in a slot's token
  | keyEntry (x : Site) (node seq : Nat)            -- in a key-store entry
  | islandBank (die isl cslot bank : Nat)           -- in an island bank
  | block (x : Site) (node : Nat) (planeBad : Bool) -- in a node record or port-map entry of the block of `node`
  | route (die col row ctx route ssite : Nat) (planeBad : Bool)
  | control (x : Site) (ctx : Nat)                  -- directory entry, ready entry, binding or LBOUND window
  deriving DecidableEq, Repr, Inhabited

/-- A debug request (R387); `data` are the bytes of a WRITE. -/
structure DebugReq where
  tenant : Nat
  w0     : W32
  w1     : W32
  w2     : W32
  w3     : W32
  data   : List Byte
  deriving DecidableEq, Repr, Inhabited

/-- A host table write of R409 (the layouts are those of the chapters named there). -/
inductive TableWrite where
  | ptroot (die tenant pa : Nat)
  | cowRing (die tenant size base log2 head tail : Nat)
  | sdmOwner (die granule : Nat) (tenant : Option Nat)
  | planeOwner (die plane : Nat) (tenant : Option Nat)
  | cxlWindow (k base len die : Nat) (valid : Bool)
  | metaBase (pa : Nat)
  | portal (die q : Nat) (w0 w1 w2 : W32)
  | remoteWindow (k : Nat) (w0 : W32)
  | exportRow (k dev tenant : Nat) (valid : Bool)
  | deviceNumber (n : Nat)
  /-- The host's read of CTX.TLBINV of a context through BAR0 (R254). -/
  | tlbinvRead (ctx : Nat)
  | loupePtp (w : W32)
  | loupeTen (tenant word : Nat) (w : W32)
  | powerCap (watts : Nat)
  deriving DecidableEq, Repr, Inhabited

end Sys2Proof
end

