-- ==== Sys2Proof/Syntax.lean ====
section
/-! DEFINITION. The steps of the device, one constructor for each row of the table of operations and events.
A constructor that names an operation of the opcode map (R62) carries its node record's fields, decoded; a
constructor that names an event carries what selects that event (which site, which queue, which access), and,
where the event is an input of the outside world, what the outside world supplies. -/
namespace Sys2Proof

/-- One step of the device. -/
inductive Instr where
  -- matching and firing
  | tokenMatch (x : Site)
  | bindingArrival (x : Site)
  | purgeArrival (x : Site)
  | nullArrival (x : Site)
  | streamEndArrival (x : Site)
  | spillRefill (x : Site) (ctx : Nat)
  | blockFetch (x : Site) (ctx node : Nat)
  | readyAging (x : Site)
  | firingTokensLeave (x : Site)
  | memoryAnswer (x : Site) (k : Nat)
  | spatialStageFire (x : Site) (stage : Nat)
  -- group 0x0: block and flow
  | exit (h : Hdr)
  | null (h : Hdr)
  | steer (h : Hdr)
  | merge (h : Hdr)
  | mergeOrd (h : Hdr)
  | mov (h : Hdr) (l : Lit)
  | mov4 (h : Hdr) (t2 t3 : Target)
  -- group 0x1: tags and loops
  | tagpush (h : Hdr) (l : Lit)
  | tagpop (h : Hdr)
  | taginc (h : Hdr)
  | tagset (h : Hdr) (level : Nat)
  | tagget (h : Hdr) (sel : TagSel) (level : Nat)
  | lcarry (h : Hdr) (level : Nat)
  | lbound (h : Hdr) (km1 : Nat)
  | mark (h : Hdr) (level : Nat) (pass : Bool)
  | purge (h : Hdr)
  -- group 0x2: integer arithmetic
  | add (h : Hdr) (l : Lit)
  | addSat (h : Hdr) (l : Lit)
  | sub (h : Hdr) (l : Lit)
  | subSat (h : Hdr) (l : Lit)
  | mul (h : Hdr) (l : Lit)
  | mulh (h : Hdr) (l : Lit)
  | div (h : Hdr) (l : Lit)
  | rem (h : Hdr) (l : Lit)
  | mad (h : Hdr) (l : Lit)
  | madSat (h : Hdr) (l : Lit)
  | min (h : Hdr) (l : Lit)
  | max (h : Hdr) (l : Lit)
  | abs (h : Hdr)
  | neg (h : Hdr)
  -- group 0x3: logic, shifts, counts, compare, select
  | and (h : Hdr) (l : Lit)
  | or (h : Hdr) (l : Lit)
  | xor (h : Hdr) (l : Lit)
  | not (h : Hdr)
  | shl (h : Hdr) (l : Lit)
  | shr (h : Hdr) (l : Lit)
  | sar (h : Hdr) (l : Lit)
  | rot (h : Hdr) (l : Lit)
  | clz (h : Hdr)
  | popc (h : Hdr)
  | cmpEq (h : Hdr) (l : Lit)
  | cmpNe (h : Hdr) (l : Lit)
  | cmpLt (h : Hdr) (l : Lit)
  | cmpLe (h : Hdr) (l : Lit)
  | cmpGt (h : Hdr) (l : Lit)
  | cmpGe (h : Hdr) (l : Lit)
  | sel (h : Hdr)
  -- groups 0x4 and 0x5: float
  | fadd (h : Hdr) (l : Lit)
  | fsub (h : Hdr) (l : Lit)
  | fmul (h : Hdr) (l : Lit)
  | ffma (h : Hdr) (l : Lit)
  | fmin (h : Hdr) (l : Lit)
  | fmax (h : Hdr) (l : Lit)
  | fdiv (h : Hdr) (l : Lit)
  | fsqrt (h : Hdr)
  | fabs (h : Hdr)
  | fneg (h : Hdr)
  | fcmpEq (h : Hdr) (l : Lit)
  | fcmpNe (h : Hdr) (l : Lit)
  | fcmpLt (h : Hdr) (l : Lit)
  | fcmpLe (h : Hdr) (l : Lit)
  | fcmpGt (h : Hdr) (l : Lit)
  | fcmpGe (h : Hdr) (l : Lit)
  | fcmpUn (h : Hdr) (l : Lit)
  | frcp (h : Hdr)
  | frsq (h : Hdr)
  | fexp2 (h : Hdr)
  | flog2 (h : Hdr)
  | ftanh (h : Hdr)
  | fsigm (h : Hdr)
  | ferf (h : Hdr)
  -- group 0x6: conversion
  | cvt (h : Hdr) (c : CvtCtl)
  | cvtnf (h : Hdr) (c : CvtNfCtl)
  -- group 0x7: lanes
  | shuf (h : Hdr) (pattern : Option W64)
  | bcast (h : Hdr) (side : Bool) (idx : Nat)
  | reduce (h : Hdr) (c : RedCtl)
  | scan (h : Hdr) (c : RedCtl)
  | dot16 (h : Hdr)
  | pack (h : Hdr) (freg : Nat)
  | unpack (h : Hdr) (freg : Nat)
  | lmset (h : Hdr) (mask : BitVec 16)
  | lmand (h : Hdr) (mask : BitVec 16)
  | lmor (h : Hdr) (mask : BitVec 16)
  | lmnot (h : Hdr)
  | lmget (h : Hdr)
  | lmpred (h : Hdr)
  -- group 0x8: memory
  | ld (h : Hdr) (c : MemCtl)
  | st (h : Hdr) (c : MemCtl)
  | ldG (h : Hdr) (c : MemCtl)
  | stG (h : Hdr) (c : MemCtl)
  | ldm (h : Hdr) (c : MemCtl)
  | stm (h : Hdr) (c : MemCtl)
  | pref (h : Hdr) (handle nlm1 : Nat)
  | prefG (h : Hdr) (nlm1 : Nat)
  | gtoh (h : Hdr) (handle : Nat)
  | htog (h : Hdr) (handle : Nat)
  | aptest (h : Hdr) (test : Nat)
  -- group 0x9: atomics and ordering
  | aadd (h : Hdr) (c : MemCtl)
  | afadd (h : Hdr) (c : MemCtl)
  | amin (h : Hdr) (c : MemCtl)
  | amax (h : Hdr) (c : MemCtl)
  | aand (h : Hdr) (c : MemCtl)
  | aor (h : Hdr) (c : MemCtl)
  | axor (h : Hdr) (c : MemCtl)
  | axchg (h : Hdr) (c : MemCtl)
  | acas (h : Hdr) (c : MemCtl)
  | ldr (h : Hdr) (c : MemCtl)
  | cmls (h : Hdr) (c : MemCtl)
  | ordtok (h : Hdr) (c : MemCtl)
  | fence (h : Hdr) (c : MemCtl)
  -- group 0xA: key stores
  | kins (h : Hdr) (c : KinsCtl)
  | kdel (h : Hdr) (byVal : Bool) (store : Nat)
  | kmatch (h : Hdr) (c : KmCtl)
  | kpurge (h : Hdr) (store : Nat)
  | kgenRead (h : Hdr) (store : Nat)
  | kgenAdv (h : Hdr) (store : Nat)
  | kgenSet (h : Hdr) (store : Nat)
  -- group 0xB: streamers and planes
  | strm (h : Hdr) (handle streamer : Nat) (scope : Option Scope)
  | arm (h : Hdr) (handle streamer tslot : Nat) (queue : Option Nat)
  | qpostPost (h : Hdr) (queue : Nat)
  | qpostUnbind (h : Hdr) (queue : Nat)
  | qpostStat (h : Hdr) (queue : Nat)
  | planeLoad (h : Hdr) (handle index : Nat)
  | planeEvict (h : Hdr) (handle index : Nat)
  | planeQuery (h : Hdr) (handle index : Nat)
  | recfgBlocks (h : Hdr) (plane : Nat) (rect : Option Rect)
  | recfgSite (h : Hdr) (plane : Nat) (rect : Option Rect)
  -- group 0xC: systolic islands
  | mxopArm (h : Hdr) (isl cslot : Nat) (cmd : MxCmd)
  | mxopTileA (h : Hdr) (isl cslot reg : Nat)
  | mxopTileB (h : Hdr) (isl cslot reg : Nat)
  | mxtab (h : Hdr) (c : MxTabCtl)
  | mxdrain (h : Hdr) (isl cslot : Nat) (scope : Scope) (handle : Nat)
  | scl (h : Hdr) (l : Lit)
  -- group 0xD: Antler walkers
  | awalk (h : Hdr) (c : AwCtl)
  | ains (h : Hdr) (c : AinsCtl)
  | adel (h : Hdr) (handle : Nat) (scope : Scope)
  -- group 0xE: trace, time, pins
  | trev (h : Hdr) (c : TrevCtl)
  | rdtime (h : Hdr)
  | hpin (h : Hdr)
  | hunpin (h : Hdr)
  -- group 0xF: system
  | trap (h : Hdr) (code : Nat) (cond : Bool)
  | sys (h : Hdr) (svc : Nat)
  | launch (h : Hdr) (handle : Nat) (die : Option Nat)
  | halt (h : Hdr)
  | brkpt (h : Hdr) (code : Nat) (cond : Bool)
  | sysrd (h : Hdr) (c : SysCtl)
  | syswr (h : Hdr) (c : SysCtl)
  | faultretResume (h : Hdr)
  | faultretSkip (h : Hdr)
  | faultretEnd (h : Hdr)
  -- networks
  | trackRouteEntry (die col row : Nat)
  | meshPacketHop (die k : Nat)
  -- contexts
  | hostLaunch (descPa : Nat)
  | dropComplete (ctx : Nat)
  | tokenInjection (ctx : Nat)
  | contextRelease (ctx : Nat)
  | hostTerminate (ctx : Nat)
  -- logical stores
  | storeOpSequence (die k : Nat)
  | shardPerform (x : Site)
  | lensMerge (die k : Nat)
  | shardCommit (x : Site)
  -- herd
  | swapInstant (die exLen : Nat)
  | mapVersionAdvance (die : Nat)
  | tokenForward (die k : Nat)
  | flushArrival (die k : Nat)
  -- memory system
  | waveSend (id : Nat) (useTlb : Bool)
  | accessPerform (id el : Nat) (evict : List Nat)
  | memnodeRequest (x : Site) (port : Nat)
  | pageWalk (id : Nat)
  | cowCopyDone (k : Nat)
  | faultLatchDrain (k : Nat)
  | bankPowerEffect (x : Site) (bank : Nat)
  | bankWake (x : Site) (bank : Nat)
  | sdmWake (die gib : Nat)
  -- streamers
  | hqToken (die q : Nat)
  | hqStreamEnd (die q : Nat)
  | copyStart (die streamer k : Nat)
  | sectorIssue (id : Nat)
  | sectorPerform (id sector : Nat)
  -- reconfiguration
  | recfgArrival (k : Nat)
  | siteReload (k : Nat)
  -- islands
  | mxNotice (die isl : Nat)
  | scaleArrival (die isl : Nat)
  | pairFire (die isl : Nat)
  | islandDrain (die isl cslot : Nat)
  -- walkers
  | walkRequest (die quad : Nat)
  | walkResult (die quad walker : Nat)
  -- trace and time
  | traceWatermark (die : Nat)
  | traceWrite (tenant : Nat)
  | ptpMessage (time : Nat) (offset : BitVec 16) (locked : Bool)
  | ptpMasterLoss
  -- faults, comparison, pre-emption
  | softError (e : SoftErr)
  | watchdogExpiry (ctx : Nat)
  | dualCompare (die k : Nat)
  | dualReplay (die k : Nat)
  | ctxPrePreempt (ctx : Nat) (who : Actor)
  | ctxPreRestore (ctx : Nat) (who : Actor)
  | markerArrival (x : Site)
  -- debug
  | debugStop (r : DebugReq)
  | debugStopDrain (r : DebugReq)
  | drained (k : Nat)
  | debugResume (r : DebugReq)
  | debugRead (r : DebugReq)
  | debugWrite (r : DebugReq)
  | chamois (r : DebugReq)
  | chamoisWindowEnd (die : Nat)
  -- registers
  | fmtWrite (ctx k : Nat) (v : W32) (who : Actor)
  | ctxHinv (ctx : Nat) (who : Actor)
  | ctxTlbinv (ctx : Nat) (v : W64) (who : Actor)
  | trapDualWrite (die k : Nat) (v : W64) (ctx : Nat) (who : Actor)
  | planeRejClear (die : Nat) (v : W32) (who : Actor)
  | cellMtpwrWrite (x : Site) (v : W32) (who : Actor)
  | loupeTenWrite (tenant word : Nat) (v : W32) (who : Actor)
  | registerWrite (x : Site) (ctx : Nat) (c : SysCtl) (v : W64) (who : Actor)
  | bar0TableWrite (t : TableWrite)
  | sysAnswer (k : Nat) (v : W64)
  -- portals and modules
  | portalForward (die q : Nat)
  | portalArrival (k : Nat)
  -- host, boot, power
  | powerUp (images : List (Nat × List Byte × List Byte × Bool))
  | planeKeyInstall (key : List Byte)
  | attestationQuote (nonce : List Byte)
  | diePowerDown (die : Nat)
  | diePowerUp (die : Nat)
  | sdmPowerWrite (die gib state : Nat)
  | clockGate (x : Site)
  | thermalThrottle (die : Nat) (temp : Nat)
  | thermalShutdown (die : Nat) (temp : Nat)
  | bringUp
  | lifetimeFlush (orderly : Bool)
  | dieReset (die : Nat)
  | hostMemoryAccess (pa : Nat) (write : Option (List Byte)) (len : Nat)
  | unreachableDestination (dev : Nat) (reachable : Bool)
  | linkTraining (width rate : Nat)
  | routeEntryFetch (die col row ctx route ssite : Nat)
  | verticalBusFallback (x : Site) (goodWires : Nat)
  | abruptPowerLoss
  deriving DecidableEq, Repr, Inhabited

end Sys2Proof
end

