-- ==== Sys2Proof/Config.lean ====
section
/-! DEFINITION. What an implementation fixes and what the spec leaves open. An `opaque` constant without a body
is a free value: nothing can be proved about which value it is, so a statement holds whatever it is. -/
namespace Sys2Proof

/-- What the device does next: a cell issues its first eligible ready entry (R165), a packed firing of that issue
follows (R167), a released parked firing is replayed (R252), one cycle passes, a cached handle entry or translation is
dropped (R238, R253), or an event of the table happens. -/
inductive Act where
  | tick
  | issue (x : Site)
  | packed (x : Site) (node uid : Nat)
  | refire (id : Nat)
  | hdrop (k : Nat)
  | tdrop (k : Nat)
  | event (i : Instr)
  deriving DecidableEq, Repr, Inhabited

/-- FREE VALUE (assumption 1): which agent moves next, and which input of the outside world arrives, at each step
for which the state does not say it. DESIGN CHOICE (assumption 1). -/
opaque Config.nextAct : Nat → Act

/-- FREE VALUE (assumption 2): a byte whose contents the spec leaves undefined (an MT bank after OFF, R242;
SDM and MT after power-off, R414; the data of an uncorrectable word, R366). DESIGN CHOICE (assumption 2). -/
opaque Config.freeByte : Nat → Byte

/-- FREE VALUE (assumption 3): a 64-bit value the spec leaves open. DESIGN CHOICE (assumption 3). -/
opaque Config.freeWord : Nat → W64

/-- FREE VALUE (assumption 90): the set of its slice in which a line of this number stands (R233). DESIGN CHOICE (assumption 90). -/
opaque Config.l2Set : Nat → BitVec 8

/-- FREE VALUE (assumption 4): whether an SLH-DSA-SHAKE-256s signature over a message verifies under a key
(R309, R412). Arguments: key, message, signature. DESIGN CHOICE (assumption 4). -/
opaque Config.sigOk : List Byte → List Byte → List Byte → Bool

/-- FREE VALUE (assumption 4): the SLH-DSA-SHAKE-256f signature of a message (R413). DESIGN CHOICE (assumption 4). -/
opaque Config.sign : List Byte → List Byte

/-- FREE VALUE (assumption 4): the 64-byte SHAKE-256 digest of a message (R413). DESIGN CHOICE (assumption 4). -/
opaque Config.shake256 : List Byte → List Byte

/-- FREE VALUE (assumption 5): the cross-die clock bound of LOUPE.SKEW; the spec says only that it is at most 8
(R343), so it is read through `Config.skewBound`. DESIGN CHOICE (assumption 5). -/
opaque Config.skewRaw : Nat → Nat

/-- LOUPE.SKEW.BOUND: at most 8 (R343). DESIGN CHOICE (assumption 5). -/
def Config.skewBound : Nat := Config.skewRaw 0 % 9

/-- FREE VALUE (assumption 6): the vendor key named by the fuses (R412). DESIGN CHOICE (assumption 6). -/
opaque Config.vendorKey : Nat → List Byte

/-- FREE VALUE (assumption 7): the link port that the external fabric's route table names for a device (R404).
DESIGN CHOICE (assumption 7). -/
opaque Config.linkPort : Nat → Nat

/-- FREE VALUE (assumption 8): the bytes that memory of another module or of the host returns. DESIGN CHOICE
(assumption 8). -/
opaque Config.remoteByte : Nat → Nat → Byte

/-- FREE VALUE (assumption 10): the bytes that one entry of a save-area segment takes, by TYPE, where the spec gives no layout
(R376). DESIGN CHOICE (assumption 10). -/
opaque Config.saveSize : Nat → Nat

/-- FREE VALUE (assumption 9): spare pairs that manufacturing left on a die (R417). DESIGN CHOICE (assumption 9). -/
opaque Config.spares : Nat → Nat

end Sys2Proof
end

