-- ==== Sys2Proof/Decode.lean ====
section
/-! DEFINITION. Decoding node records (R48 to R64), total on any words, refusing by the reason codes of R64; and
the encoder, written from the same layouts. -/
namespace Sys2Proof

/-- The rejection reasons of R64 Table 9. -/
inductive Reject where
  | opcUnassigned | reservedBit | fmtInvalid | arityInvalid | targetKind | targetNode | tagAction | litInvalid
  | extMisplaced | header | oflInvalid | routeIndex
  deriving DecidableEq, Repr, Inhabited

/-- The code of a reason (R64 Table 9). -/
def Reject.code : Reject → Nat
  | .opcUnassigned => 1 | .reservedBit => 2 | .fmtInvalid => 3 | .arityInvalid => 4 | .targetKind => 5
  | .targetNode => 6 | .tagAction => 7 | .litInvalid => 8 | .extMisplaced => 9 | .header => 10
  | .oflInvalid => 11 | .routeIndex => 12

/-- The code of an element type (R58 Table 6). -/
def Ty.code : Ty → Nat
  | .s4 => 0 | .z4 => 1 | .s8 => 2 | .z8 => 3 | .s16 => 4 | .z16 => 5 | .s32 => 6 | .z32 => 7 | .s64 => 8
  | .bf16 => 9 | .fp16 => 10 | .fp32 => 11 | .fp64 => 12 | .nf => 13 | .pred => 14 | .tag => 15

/-- The element type of a code, its low four bits taken (R58 Table 6). -/
def tyOf (n : Nat) : Ty :=
  match n % 16 with
  | 0 => .s4 | 1 => .z4 | 2 => .s8 | 3 => .z8 | 4 => .s16 | 5 => .z16 | 6 => .s32 | 7 => .z32 | 8 => .s64
  | 9 => .bf16 | 10 => .fp16 | 11 => .fp32 | 12 => .fp64 | 13 => .nf | 14 => .pred | _ => .tag

/-- Class I of R58. -/
def Ty.isInt (t : Ty) : Bool := t.code ≤ 8
/-- Class F of R58. -/
def Ty.isFloat (t : Ty) : Bool := 9 ≤ t.code && t.code ≤ 12
/-- A signed integer type. -/
def Ty.isSigned : Ty → Bool
  | .s4 | .s8 | .s16 | .s32 | .s64 => true
  | _ => false

/-- The element width of a type in bits; NF and PRED stand in whole 32-bit lanes where no format register says
otherwise (R68 to R70, R189). -/
def Ty.width : Ty → Nat
  | .s4 | .z4 => 4 | .s8 | .z8 => 8 | .s16 | .z16 | .bf16 | .fp16 => 16
  | .s32 | .z32 | .fp32 | .nf | .pred => 32
  | .s64 | .fp64 | .tag => 64

/-- Tag action of TA and ARG, none where TA is reserved or ARG lies outside Table 5 of R56. -/
def tagActOf (ta arg : Nat) : Option TagAct :=
  match ta with
  | 0 => if arg = 0 then some .none else none
  | 1 => if arg = 0 then some .inc else none
  | 2 => some (.push arg)
  | 3 => if arg = 0 then some .pop else none
  | 4 => some (.setlvl arg)
  | 5 => if arg = 0 then some .clearlvl else none
  | 6 => if arg = 0 then some .popinc else none
  | 7 => if arg = 0 then none else some (.incn arg)
  | 8 => if arg ≤ 14 then some (.popto arg) else none
  | _ => none

/-- TA and ARG of a tag action (R56 Table 5). -/
def TagAct.code : TagAct → Nat × Nat
  | .none => (0, 0) | .inc => (1, 0) | .push v => (2, v) | .pop => (3, 0) | .setlvl v => (4, v)
  | .clearlvl => (5, 0) | .popinc => (6, 0) | .incn v => (7, v) | .popto d => (8, d)

/-- What a 22-bit target reads as (R51): the target, or the reason it is refused for. -/
def targetOf (v : Nat) : Except Reject Target :=
  let ta := fld v 16 4
  let arg := fld v 12 4
  match fld v 20 2 with
  | 0 => if v % 2 ^ 20 = 0 then .ok .none else .error .reservedBit
  | 1 => match tagActOf ta arg with
    | some a => .ok (.local a (fld v 2 10) (fld v 0 2))
    | none => .error .tagAction
  | 2 =>
    if fld v 8 4 ≠ 0 then .error .reservedBit
    else match tagActOf ta arg with
      | some a => .ok (.route a (fld v 0 8))
      | none => .error .tagAction
  | _ =>
    let sarg := fld v 0 8
    match fld v 8 4 with
    | 0 => if sarg = 0 ∧ ta = 0 then
             (if arg = 0 then .ok (.special .none .exit) else .error .tagAction) else .error .targetKind
    | 1 => if sarg = 0 ∧ ta = 0 then
             (if arg = 0 then .ok (.special .none .scale) else .error .tagAction) else .error .targetKind
    | 2 => if sarg ≠ 0 then .error .targetKind else
           match tagActOf ta arg with
           | some a => .ok (.special a .trace)
           | none => .error .tagAction
    | 3 => match tagActOf ta arg with
           | some a => .ok (.special a (.hq sarg))
           | none => .error .tagAction
    | 4 => if sarg > 15 then .error .targetKind else
           match tagActOf ta arg with
           | some a => .ok (.special a (.memnode sarg))
           | none => .error .tagAction
    | _ => .error .targetKind

/-- A target as its kind and sink alone show it, whatever stands in ARG: a reserved TA counts as some tag action, so that
TARGET_KIND, the lower reason, is found beside TAG_ACTION (R64). -/
def targetShape (v : Nat) : Target :=
  match targetOf v with
  | .ok t => t
  | .error _ =>
    match targetOf (fld v 20 2 * 2 ^ 20 + (if fld v 16 4 = 0 then 0 else 2 ^ 16) + v % 2 ^ 12) with
    | .ok t => t
    | .error _ => .none

/-- SINK and SARG (R54 Table 4). -/
def Sink.code : Sink → Nat × Nat
  | .exit => (0, 0) | .scale => (1, 0) | .trace => (2, 0) | .hq q => (3, q) | .memnode m => (4, m)

/-- The 22 bits of a target (R51). -/
def Target.bits : Target → Nat
  | .none => 0
  | .local a n p => 1 * 2 ^ 20 + a.code.1 * 2 ^ 16 + a.code.2 * 2 ^ 12 + n * 4 + p
  | .route a r => 2 * 2 ^ 20 + a.code.1 * 2 ^ 16 + a.code.2 * 2 ^ 12 + r
  | .special a s => 3 * 2 ^ 20 + a.code.1 * 2 ^ 16 + a.code.2 * 2 ^ 12 + s.code.1 * 2 ^ 8 + s.code.2

/-- A target that names nothing. -/
def Target.isNone : Target → Bool
  | .none => true
  | _ => false

/-- The scope of a code, none for 5 to 7 (R255). -/
def scopeOf : Nat → Option Scope
  | 0 => some .site | 1 => some .quad | 2 => some .die | 3 => some .module | 4 => some .system
  | _ => none

/-- The code of a scope (R255). -/
def Scope.code : Scope → Nat
  | .site => 0 | .quad => 1 | .die => 2 | .module => 3 | .system => 4

/-- The rounding mode of a code, none for the reserved ones (R77). -/
def rmodeOf : Nat → Option RMode
  | 0 => some .rne | 1 => some .rtz | 2 => some .rup | 3 => some .rdn | 4 => some .rna
  | _ => none

/-- The code of a rounding mode (R77). -/
def RMode.code : RMode → Nat
  | .rne => 0 | .rtz => 1 | .rup => 2 | .rdn => 3 | .rna => 4

/-- The wave reference of a code (R270). -/
def waveOf (c : Nat) : WaveRef := if c < 32 then .pos c else if c = 32 then .none else .any

/-- The code of a wave reference (R270). -/
def WaveRef.code : WaveRef → Nat
  | .pos p => p | .none => 32 | .any => 33

/-- The operation of a REDUCE or SCAN code (R193). -/
def redOpOf : Nat → Option RedOp
  | 0 => some .add | 1 => some .min | 2 => some .max | 3 => some .and | 4 => some .or | 5 => some .xor
  | _ => none

/-- The code of a REDUCE or SCAN operation (R193). -/
def RedOp.code : RedOp → Nat
  | .add => 0 | .min => 1 | .max => 2 | .and => 3 | .or => 4 | .xor => 5

/-- The weight mode of a two-bit code (R142). -/
def wmodeOf (n : Nat) : WMode :=
  match n with | 0 => .one | 1 => .raw | 2 => .exp | _ => .softmax

/-- The code of a weight mode (R142). -/
def WMode.code : WMode → Nat
  | .one => 0 | .raw => 1 | .exp => 2 | .softmax => 3

/-- The distance of a code; 3 is rejected (R142). -/
def distOf : Nat → Option Dist
  | 0 => some .ip | 1 => some .cos | 2 => some .l2 | _ => none

/-- The code of a distance (R142). -/
def Dist.code : Dist → Nat
  | .ip => 0 | .cos => 1 | .l2 => 2

/-- The residence of a code; 3 is rejected (R142). -/
def residOf : Nat → Option Resid
  | 0 => some .frame | 1 => some .mtile | 2 => some .stream | _ => none

/-- The code of a residence (R142). -/
def Resid.code : Resid → Nat
  | .frame => 0 | .mtile => 1 | .stream => 2

/-- How LIT is used (R62). -/
inductive LitUse where
  | zero | op | ctl
  deriving DecidableEq, Repr

/-- How an EXT record is used (R62). -/
inductive ExtUse where
  | no | opt | e64 | req | req1
  deriving DecidableEq, Repr

/-- One row of the opcode map: the operation codes `lo` to `hi`, the type codes, the ARITY values, LIT and EXT. -/
structure OpRow where
  lo : Nat
  hi : Nat
  types : List Nat
  ars : List Nat
  lit : LitUse
  ext : ExtUse

/-- Type classes of R58 as code lists. -/
def clsI : List Nat := [0, 1, 2, 3, 4, 5, 6, 7, 8]
def clsF : List Nat := [9, 10, 11, 12]
def clsH : List Nat := [9, 10, 11]
def clsK : List Nat := [2, 9, 10, 13, 11]
def clsM : List Nat := clsI ++ clsF ++ [13, 15]
def clsMP : List Nat := clsM ++ [14]
def clsIP : List Nat := clsI ++ [14]
def clsIT : List Nat := clsI ++ [15]
def clsIF : List Nat := clsI ++ clsF
/-- Operations without a type: FMT must be 0x0. -/
def clsN : List Nat := [0]

/-- Table 8 of R62, groups 0x0 to 0x3. MOV accepts class M; its port form is checked apart. -/
def opRows1 : List OpRow :=
  [ ⟨0x001, 0x001, clsN, [0, 1, 2, 3], .zero, .no⟩, ⟨0x002, 0x002, clsN, [1], .zero, .no⟩,
    ⟨0x003, 0x004, clsN, [2], .zero, .no⟩, ⟨0x005, 0x005, clsN, [3], .zero, .no⟩,
    ⟨0x006, 0x006, clsM, [0, 1], .op, .e64⟩, ⟨0x007, 0x007, clsN, [1], .zero, .req⟩,
    ⟨0x040, 0x040, clsN, [1, 2], .op, .no⟩, ⟨0x041, 0x042, clsN, [1], .zero, .no⟩,
    ⟨0x043, 0x043, clsN, [2], .ctl, .no⟩, ⟨0x044, 0x044, [15], [1], .ctl, .no⟩,
    ⟨0x045, 0x046, clsN, [2], .ctl, .no⟩, ⟨0x047, 0x047, clsN, [1], .ctl, .no⟩,
    ⟨0x048, 0x048, clsN, [1], .zero, .no⟩,
    ⟨0x080, 0x087, clsI, [1, 2], .op, .e64⟩, ⟨0x088, 0x088, clsI, [2, 3], .op, .e64⟩,
    ⟨0x089, 0x08A, clsI, [1, 2], .op, .e64⟩, ⟨0x08B, 0x08C, clsI, [1], .zero, .no⟩,
    ⟨0x08D, 0x08D, clsI, [2, 3], .op, .e64⟩,
    ⟨0x0C0, 0x0C2, clsIP, [1, 2], .op, .e64⟩, ⟨0x0C3, 0x0C3, clsIP, [1], .zero, .no⟩,
    ⟨0x0C4, 0x0C7, clsI, [1, 2], .op, .no⟩, ⟨0x0C8, 0x0C9, clsI, [1], .zero, .no⟩,
    ⟨0x0D0, 0x0D5, clsIT, [1, 2], .op, .e64⟩, ⟨0x0D8, 0x0D8, clsMP, [3], .zero, .no⟩ ]

/-- Table 8 of R62, groups 0x4 to 0x7. -/
def opRows2 : List OpRow :=
  [ ⟨0x100, 0x102, clsF, [1, 2], .op, .e64⟩, ⟨0x103, 0x103, clsF, [2, 3], .op, .e64⟩,
    ⟨0x104, 0x105, clsF, [1, 2], .op, .e64⟩, ⟨0x106, 0x106, [11, 12], [1, 2], .op, .e64⟩,
    ⟨0x107, 0x107, [11, 12], [1], .zero, .no⟩, ⟨0x108, 0x109, clsF, [1], .zero, .no⟩,
    ⟨0x110, 0x116, clsF, [1, 2], .op, .e64⟩, ⟨0x140, 0x146, clsH, [1], .zero, .no⟩,
    ⟨0x180, 0x180, clsIF, [1], .ctl, .no⟩, ⟨0x181, 0x181, [13], [1], .ctl, .no⟩,
    ⟨0x1C0, 0x1C0, clsMP, [1, 2], .op, .req1⟩, ⟨0x1C1, 0x1C1, clsMP, [1], .ctl, .no⟩,
    ⟨0x1C2, 0x1C3, clsIF, [1], .ctl, .no⟩, ⟨0x1C4, 0x1C4, [2, 4, 9, 10, 11], [2], .zero, .no⟩,
    ⟨0x1C5, 0x1C6, clsIF ++ [13], [1], .ctl, .no⟩, ⟨0x1C8, 0x1C8, clsN, [1], .ctl, .no⟩,
    ⟨0x1C9, 0x1CA, clsN, [1, 2], .op, .no⟩, ⟨0x1CB, 0x1CC, clsN, [1], .zero, .no⟩,
    ⟨0x1CD, 0x1CD, [14], [2], .zero, .no⟩ ]

/-- Table 8 of R62, groups 0x8 to 0xF. ACAS is legal only with ARITY 3 (R268). -/
def opRows3 : List OpRow :=
  [ ⟨0x200, 0x200, clsMP, [1, 2], .ctl, .no⟩, ⟨0x201, 0x201, clsMP, [2, 3], .ctl, .no⟩,
    ⟨0x202, 0x202, clsMP, [1, 2], .ctl, .no⟩, ⟨0x203, 0x203, clsMP, [2, 3], .ctl, .no⟩,
    ⟨0x204, 0x204, clsMP, [1, 2], .ctl, .no⟩, ⟨0x205, 0x205, clsMP, [2, 3], .ctl, .no⟩,
    ⟨0x206, 0x207, clsN, [1], .ctl, .no⟩, ⟨0x208, 0x20A, clsN, [1], .ctl, .no⟩,
    ⟨0x240, 0x240, [6, 7, 8], [2, 3], .ctl, .no⟩, ⟨0x241, 0x241, [11, 12], [2, 3], .ctl, .no⟩,
    ⟨0x242, 0x243, [6, 7, 8], [2, 3], .ctl, .no⟩, ⟨0x244, 0x246, [7, 8], [2, 3], .ctl, .no⟩,
    ⟨0x247, 0x247, [6, 7, 8], [2, 3], .ctl, .no⟩, ⟨0x248, 0x248, [6, 7, 8], [3], .ctl, .no⟩,
    ⟨0x249, 0x249, clsN, [1], .ctl, .no⟩, ⟨0x24A, 0x24A, clsN, [2, 3], .ctl, .no⟩,
    ⟨0x24B, 0x24B, clsN, [1, 2, 3], .ctl, .no⟩, ⟨0x24C, 0x24C, clsN, [1], .ctl, .no⟩,
    ⟨0x280, 0x280, clsK, [2], .ctl, .no⟩, ⟨0x281, 0x281, clsN, [1], .ctl, .no⟩,
    ⟨0x282, 0x282, clsK, [1], .ctl, .opt⟩, ⟨0x283, 0x284, clsN, [1], .ctl, .no⟩,
    ⟨0x2C0, 0x2C4, clsN, [1], .ctl, .opt⟩, ⟨0x300, 0x300, clsN, [1], .ctl, .opt⟩,
    ⟨0x301, 0x302, clsN, [1], .ctl, .no⟩, ⟨0x303, 0x303, [9], [1, 2], .op, .no⟩,
    ⟨0x340, 0x340, clsK, [1], .ctl, .opt⟩, ⟨0x341, 0x341, clsK, [2], .ctl, .opt⟩,
    ⟨0x342, 0x342, clsN, [1], .ctl, .no⟩, ⟨0x380, 0x380, clsN, [1], .ctl, .no⟩,
    ⟨0x381, 0x383, clsN, [1], .zero, .no⟩, ⟨0x3C0, 0x3C1, clsN, [1], .ctl, .no⟩,
    ⟨0x3C2, 0x3C2, clsN, [1, 2], .ctl, .opt⟩, ⟨0x3C3, 0x3C3, clsN, [1], .zero, .no⟩,
    ⟨0x3C4, 0x3C5, clsN, [1], .ctl, .no⟩, ⟨0x3C6, 0x3C6, clsN, [2], .ctl, .no⟩,
    ⟨0x3C7, 0x3C7, clsN, [1], .zero, .no⟩ ]

/-- The row of the opcode map that assigns an operation code (R62). -/
def opRow (opc : Nat) : Option OpRow :=
  (opRows1 ++ (opRows2 ++ opRows3)).find? (fun r => r.lo ≤ opc && opc ≤ r.hi)

/-- The largest ARITY a row allows. -/
def OpRow.top (r : OpRow) : Nat := r.ars.foldl Nat.max 0

/-- A 64-bit element type, by code. -/
def is64 (c : Nat) : Bool := c = 8 || c = 12 || c = 15

/-- The BF16 codes of NaN and infinity: a BETA of these is rejected (R142, R334). -/
def bf16NonFinite (b : BitVec 16) : Bool := fld b.toNat 7 8 = 255

/-- The memory control layouts of R269. `lay` is 0 for M with VEC, 1 for M without, 2 for A, 3 for O; `gen` says a
.G form, `ld` says the ANN bit of layout M marks ACQ. -/
def memCtlOf (lay : Nat) (gen ld : Bool) (lit : W32) : Option MemCtl :=
  let v := lit.toNat
  let h := fld v 16 16
  let wave := fld v 5 11
  match scopeOf (fld v 2 3) with
  | none => none
  | some sc =>
    if wave ≥ 1156 then none else
    let wp := waveOf (wave / 34)
    let ws := waveOf (wave % 34)
    if lay = 2 then some ⟨some h, wp, ws, sc, fld v 0 1 = 1, fld v 1 1 = 1, false⟩
    else if lay = 3 then
      if fld v 0 1 ≠ 0 then none
      else if fld v 1 1 = 1 then (if h = 0 then some ⟨none, wp, ws, sc, false, false, false⟩ else none)
      else some ⟨some h, wp, ws, sc, false, false, false⟩
    else if lay = 1 ∧ fld v 0 1 ≠ 0 then none
    else if gen ∧ h ≠ 0 then none
    else some ⟨if gen then none else some h, wp, ws, sc, ld && (fld v 1 1 = 1), !ld && (fld v 1 1 = 1), fld v 0 1 = 1⟩

/-- LIT of a memory control layout (R269, R270). -/
def memCtlBits (lay : Nat) (c : MemCtl) : Nat :=
  let base := (match c.region with | some h => h * 2 ^ 16 | none => 0)
    + (34 * c.wpred.code + c.wsucc.code) * 32 + c.scope.code * 4
  match lay with
  | 2 => base + c.rel.toNat * 2 + c.acq.toNat
  | 3 => base + (match c.region with | some _ => 0 | none => 2)
  | _ => base + (c.acq || c.rel).toNat * 2 + c.vec.toNat

/-- A REG, INDEX and PART that R385 assigns. -/
def sysRegOk (family index part : Nat) : Bool :=
  match family with
  | 0 => index ≤ 7 && (part = 0 || (index = 1 && part = 1))
  | 1 => index ≤ 15 && part = 0
  | 2 => index ≤ 9 && part = 0
  | 3 => index ≤ 7 && part = 0
  | 4 => (index ≤ 5 && part = 0) || (0x100 ≤ index && index ≤ 0x1FF && part ≤ 3)
  | 5 => index ≤ 5 && part = 0
  | 6 => (index ≤ 2 || (0x10 ≤ index && index ≤ 0x17)) && part = 0
  | 7 => index ≤ 1 && part = 0
  | _ => false

/-- The command word of MXOP.ARM, none where R317 rejects it. -/
def mxCmdOf (w0 w1 : W32) : Option MxCmd :=
  let v := w0.toNat
  let a := tyOf (fld v 28 4)
  let b := tyOf (fld v 24 4)
  let o := tyOf (fld v 12 4)
  let okT : Ty → Bool := fun t => [0, 1, 2, 3, 9, 10, 13].contains t.code
  let intT : Ty → Bool := fun t => t.code ≤ 3
  match rmodeOf (fld v 5 3) with
  | none => none
  | some rm =>
    if !okT a || !okT b || (intT a != intT b) then none
    else if a != .nf && b != .nf && a.width != b.width then none
    else if (fld v 20 4 ≠ 0 && a != .nf) || (fld v 16 4 ≠ 0 && b != .nf) || (fld v 8 4 ≠ 0 && o != .nf) then none
    else if (fld v 4 1 = 1 && intT a) || (fld v 3 1 = 1 && intT b) then none
    else if !([2, 3, 4, 5, 6, 9, 10, 11, 13].contains o.code) then none
    else if fld w1.toNat 0 16 ≠ 0 then none
    else some ⟨a, b, fld v 20 4, fld v 16 4, o, fld v 8 4, rm, fld v 4 1 = 1, fld v 3 1 = 1, fld v 2 1 = 1,
      fld v 1 1 = 1, fld v 0 1 = 1, fld w1.toNat 16 16⟩

/-- EXT words 0 and 1 of a command word (R317). -/
def mxCmdBits (c : MxCmd) : Nat × Nat :=
  (c.atype.code * 2 ^ 28 + c.btype.code * 2 ^ 24 + c.afreg * 2 ^ 20 + c.bfreg * 2 ^ 16 + c.otype.code * 2 ^ 12
    + c.ofreg * 2 ^ 8 + c.rmode.code * 2 ^ 5 + c.sca.toNat * 16 + c.scb.toNat * 8 + c.bias.toNat * 4
    + c.act.toNat * 2 + c.rq.toNat, c.ksm1 * 2 ^ 16)

/-- A rectangle word (R309 Table 5). -/
def rectOf (w : W32) : Option Rect :=
  let v := w.toNat
  let r : Rect := ⟨fld v 0 7, fld v 7 7, fld v 14 7, fld v 21 7⟩
  if fld v 28 4 ≠ 0 || r.col0 > r.col1 || r.row0 > r.row1 || r.row1 > 71 then none else some r

/-- The bits of a rectangle word (R309 Table 5). -/
def Rect.bits (r : Rect) : Nat := r.col0 + r.row0 * 2 ^ 7 + r.col1 * 2 ^ 14 + r.row1 * 2 ^ 21

/-- KMATCH control fields (R142); none where the loader says LIT_INVALID on the record alone. -/
def kmCtlOf (fmt : Ty) (lit : W32) (ext : Option (W32 × W32)) : Option KmCtl :=
  let v := lit.toNat
  match residOf (fld v 11 2), distOf (fld v 7 2) with
  | some res, some dist =>
    let d := fld v 13 8 + 1
    let e : Option (Nat × BitVec 16 × W32) :=
      ext.map (fun p => (fld p.1.toNat 16 16, BitVec.ofNat 16 p.1.toNat, p.2))
    let hn := match e with | some x => x.1 | none => 0
    if fld v 28 4 ≠ 0 || fld v 0 7 > 64 then none
    else if dist = .cos && fmt = .s8 then none
    else if fld v 21 4 ≠ 0 && fmt != .nf then none
    else if fld v 25 1 = 0 && fmt != .nf && d * fmt.width > 512 then none
    else if (res = .stream && ext.isNone) || (res != .stream && hn ≠ 0) then none
    else if fld v 27 1 = 1 && res = .stream then none
    else if (match e with | some x => bf16NonFinite x.2.1 | none => false) then none
    else some ⟨fld v 27 1 = 1, fld v 26 1 = 1, fld v 25 1 = 1, fld v 21 4, d, res, wmodeOf (fld v 9 2), dist,
      fld v 0 7, e⟩
  | _, _ => none

/-- LIT of KMATCH (R142). -/
def kmCtlBits (c : KmCtl) : Nat :=
  c.sh.toNat * 2 ^ 27 + c.vvec.toNat * 2 ^ 26 + c.qref.toNat * 2 ^ 25 + c.freg * 2 ^ 21 + (c.d - 1) * 2 ^ 13
    + c.res.code * 2 ^ 11 + c.wmode.code * 2 ^ 9 + c.dist.code * 2 ^ 7 + c.k

/-- A literal operand as it stands in the record (R49): a 64-bit type takes EXT word 0 as bits 63:32. -/
def litOf (lit : W32) (ext : Option (W32 × W32)) : Lit := ⟨lit, ext.map Prod.fst⟩

/-- A 16-bit float type's literal has bits 31:16 zero (R120), and MOV.NF's has bits 31:8 zero (R105). DEDUCED
(assumption 28). -/
def litFits (f : Ty) (lit : W32) : Bool :=
  match f with
  | .bf16 | .fp16 => lit.toNat < 2 ^ 16
  | .nf => lit.toNat < 2 ^ 8
  | _ => true

/-- The instruction of an operation code with a literal operand, groups 0x0 to 0x5. -/
def buildOp (opc : Nat) (h : Hdr) (l : Lit) : Option Instr :=
  match opc with
  | 0x006 => some (.mov h l) | 0x040 => some (.tagpush h l)
  | 0x080 => some (.add h l) | 0x081 => some (.addSat h l) | 0x082 => some (.sub h l) | 0x083 => some (.subSat h l)
  | 0x084 => some (.mul h l) | 0x085 => some (.mulh h l) | 0x086 => some (.div h l) | 0x087 => some (.rem h l)
  | 0x088 => some (.mad h l) | 0x089 => some (.min h l) | 0x08A => some (.max h l) | 0x08D => some (.madSat h l)
  | 0x0C0 => some (.and h l) | 0x0C1 => some (.or h l) | 0x0C2 => some (.xor h l)
  | 0x0C4 => some (.shl h l) | 0x0C5 => some (.shr h l) | 0x0C6 => some (.sar h l) | 0x0C7 => some (.rot h l)
  | 0x0D0 => some (.cmpEq h l) | 0x0D1 => some (.cmpNe h l) | 0x0D2 => some (.cmpLt h l)
  | 0x0D3 => some (.cmpLe h l) | 0x0D4 => some (.cmpGt h l) | 0x0D5 => some (.cmpGe h l)
  | 0x100 => some (.fadd h l) | 0x101 => some (.fsub h l) | 0x102 => some (.fmul h l) | 0x103 => some (.ffma h l)
  | 0x104 => some (.fmin h l) | 0x105 => some (.fmax h l) | 0x106 => some (.fdiv h l)
  | 0x110 => some (.fcmpEq h l) | 0x111 => some (.fcmpNe h l) | 0x112 => some (.fcmpLt h l)
  | 0x113 => some (.fcmpLe h l) | 0x114 => some (.fcmpGt h l) | 0x115 => some (.fcmpGe h l)
  | 0x116 => some (.fcmpUn h l) | 0x303 => some (.scl h l)
  | _ => none

/-- The instruction of an operation code whose LIT is zero. -/
def buildZero (opc : Nat) (h : Hdr) : Option Instr :=
  match opc with
  | 0x001 => some (.exit h) | 0x002 => some (.null h) | 0x003 => some (.steer h) | 0x004 => some (.merge h)
  | 0x005 => some (.mergeOrd h) | 0x041 => some (.tagpop h) | 0x042 => some (.taginc h) | 0x048 => some (.purge h)
  | 0x08B => some (.abs h) | 0x08C => some (.neg h) | 0x0C3 => some (.not h) | 0x0C8 => some (.clz h)
  | 0x0C9 => some (.popc h) | 0x0D8 => some (.sel h) | 0x107 => some (.fsqrt h) | 0x108 => some (.fabs h)
  | 0x109 => some (.fneg h) | 0x140 => some (.frcp h) | 0x141 => some (.frsq h) | 0x142 => some (.fexp2 h)
  | 0x143 => some (.flog2 h) | 0x144 => some (.ftanh h) | 0x145 => some (.fsigm h) | 0x146 => some (.ferf h)
  | 0x1C4 => some (.dot16 h) | 0x1CB => some (.lmnot h) | 0x1CC => some (.lmget h) | 0x1CD => some (.lmpred h)
  | 0x381 => some (.rdtime h) | 0x382 => some (.hpin h) | 0x383 => some (.hunpin h) | 0x3C3 => some (.halt h)
  | 0x3C7 => some (.faultretResume h)
  | _ => none

/-- CVT control fields, none where R128 rejects them. -/
def cvtCtlOf (src : Ty) (lit : W32) : Option CvtCtl :=
  let v := lit.toNat
  let dt := tyOf (fld v 0 4)
  match rmodeOf (fld v 4 3) with
  | none => none
  | some rm =>
    let ws := src.width
    let wd := dt.width
    let ratio := Nat.max ws wd / Nat.min ws wd
    let ints := src.isInt && dt.isInt
    if fld v 12 20 ≠ 0 || dt.code > 12 then none
    else if fld v 8 4 ≥ ratio then none
    else if fld v 7 1 = 1 && !(ints && wd < ws) then none
    else if rm != .rne && ints then none
    else some ⟨fld v 8 4, fld v 7 1 = 1, rm, dt⟩

/-- CVTNF control fields, none where R131 rejects them. -/
def cvtNfCtlOf (lit : W32) : Option CvtNfCtl :=
  let v := lit.toNat
  match rmodeOf (fld v 4 3) with
  | none => none
  | some rm =>
    let ot := fld v 8 2
    let oty : Ty := if ot = 0 then .bf16 else if ot = 1 then .fp16 else .fp32
    if fld v 14 18 ≠ 0 || ot = 3 then none
    else if fld v 10 4 ≥ oty.width / 4 then none
    else some ⟨fld v 10 4, oty, fld v 7 1 = 1, rm, fld v 0 4⟩

/-- Lane instructions of group 0x7 with control fields (R191 to R198). -/
def buildLane (opc : Nat) (h : Hdr) (lit : W32) (ext : Option (W32 × W32)) : Option Instr :=
  let v := lit.toNat
  match opc with
  | 0x180 => (cvtCtlOf h.fmt lit).map (.cvt h)
  | 0x181 => (cvtNfCtlOf lit).map (.cvtnf h)
  | 0x1C0 => some (.shuf h (if h.arity = 1 then ext.map (fun p => p.1 ++ lit) else none))
  | 0x1C1 =>
    if fld v 9 23 ≠ 0 || fld v 0 8 ≥ 512 / h.fmt.width then none
    else if fld v 8 1 = 1 then
      (if fld v 0 8 = 0 && [6, 7, 11, 14].contains h.fmt.code then some (.bcast h true 0) else none)
    else some (.bcast h false (fld v 0 8))
  | 0x1C2 | 0x1C3 =>
    match redOpOf (fld v 0 3) with
    | none => none
    | some op =>
      let c : RedCtl := ⟨fld v 4 1 = 1, fld v 3 1 = 1, op⟩
      if fld v 5 27 ≠ 0 then none
      else if op.code ≥ 3 && h.fmt.isFloat then none
      else if c.sat && (h.fmt.isFloat || op != .add) then none
      else if c.excl && opc = 0x1C2 then none
      else some (if opc = 0x1C2 then .reduce h c else .scan h c)
  | 0x1C5 | 0x1C6 =>
    if fld v 4 28 ≠ 0 || (fld v 0 4 ≠ 0 && h.fmt != .nf) then none
    else some (if opc = 0x1C5 then .pack h (fld v 0 4) else .unpack h (fld v 0 4))
  | 0x1C8 => if v ≥ 2 ^ 16 then none else some (.lmset h (BitVec.ofNat 16 v))
  | 0x1C9 => if v ≥ 2 ^ 16 then none else some (.lmand h (BitVec.ofNat 16 v))
  | 0x1CA => if v ≥ 2 ^ 16 then none else some (.lmor h (BitVec.ofNat 16 v))
  | 0x043 => if v ≥ 16 then none else some (.tagset h v)
  | 0x044 =>
    let lev := fld v 0 4
    if fld v 6 26 ≠ 0 then none
    else match fld v 4 2 with
      | 0 => if lev = 0 then some (.tagget h .tagv 0) else none
      | 1 => some (.tagget h .lvl lev)
      | 2 => if lev = 0 then some (.tagget h .dep 0) else none
      | _ => none
  | 0x045 => if v ≥ 16 then none else some (.lcarry h v)
  | 0x046 => if v ≥ 64 then none else some (.lbound h v)
  | 0x047 => if v ≥ 32 then none else some (.mark h (fld v 0 4) (fld v 4 1 = 1))
  | _ => none

/-- The memory instructions of groups 0x8 and 0x9 (R269 to R293). -/
def buildMem (opc : Nat) (h : Hdr) (lit : W32) : Option Instr :=
  let v := lit.toNat
  let a := memCtlOf 2 false true lit
  match opc with
  | 0x200 => (memCtlOf 0 false true lit).map (.ld h)
  | 0x201 => (memCtlOf 1 false false lit).map (.st h)
  | 0x202 => (memCtlOf 0 true true lit).map (.ldG h)
  | 0x203 => (memCtlOf 1 true false lit).map (.stG h)
  | 0x204 => (memCtlOf 0 false true lit).map (.ldm h)
  | 0x205 => (memCtlOf 1 false false lit).map (.stm h)
  | 0x206 => if fld v 0 8 ≠ 0 then none else some (.pref h (fld v 16 16) (fld v 8 8))
  | 0x207 => if fld v 0 8 ≠ 0 || fld v 16 16 ≠ 0 then none else some (.prefG h (fld v 8 8))
  | 0x208 => if fld v 0 16 ≠ 0 then none else some (.gtoh h (fld v 16 16))
  | 0x209 => if fld v 0 16 ≠ 0 then none else some (.htog h (fld v 16 16))
  | 0x20A => if v > 4 then none else some (.aptest h v)
  | 0x240 => a.map (.aadd h) | 0x241 => a.map (.afadd h) | 0x242 => a.map (.amin h) | 0x243 => a.map (.amax h)
  | 0x244 => a.map (.aand h) | 0x245 => a.map (.aor h) | 0x246 => a.map (.axor h) | 0x247 => a.map (.axchg h)
  | 0x248 => a.map (.acas h)
  | 0x249 => (memCtlOf 1 false true lit).map (.ldr h)
  | 0x24A => match a with
    | some c => if c.acq then none else some (.cmls h c)
    | none => none
  | 0x24B => (memCtlOf 3 false true lit).map (.ordtok h)
  | 0x24C => (memCtlOf 3 false true lit).map (.fence h)
  | _ => none

/-- Engines: key stores, streamers, islands, walkers (R142 to R150, R313, R317, R326, R334 to R337). -/
def buildEngine (opc : Nat) (h : Hdr) (lit : W32) (ext : Option (W32 × W32)) : Option Instr :=
  let v := lit.toNat
  match opc with
  | 0x280 => some (.kins h ⟨fld v 27 5, fld v 26 1 = 1, fld v 10 16, fld v 0 10⟩)
  | 0x281 => if fld v 11 21 ≠ 0 then none else some (.kdel h (fld v 10 1 = 1) (fld v 0 10))
  | 0x282 => (kmCtlOf h.fmt lit ext).map (.kmatch h)
  | 0x283 => if fld v 10 22 ≠ 0 then none else some (.kpurge h (fld v 0 10))
  | 0x284 =>
    if fld v 12 20 ≠ 0 then none
    else match fld v 10 2 with
      | 0 => some (.kgenRead h (fld v 0 10)) | 1 => some (.kgenAdv h (fld v 0 10))
      | 2 => some (.kgenSet h (fld v 0 10)) | _ => none
  | 0x2C0 =>
    if fld v 0 13 ≠ 0 then none
    else match ext with
      | none => some (.strm h (fld v 16 16) (fld v 13 3) none)
      | some (e0, e1) =>
        if fld e0.toNat 3 29 ≠ 0 || e1.toNat ≠ 0 then none
        else match scopeOf (fld e0.toNat 0 3) with
          | some s => some (.strm h (fld v 16 16) (fld v 13 3) (some s))
          | none => none
  | 0x2C1 =>
    if fld v 0 6 ≠ 0 then none
    else match ext with
      | none => some (.arm h (fld v 16 16) (fld v 13 3) (fld v 7 6) none)
      | some (e0, e1) =>
        if fld e0.toNat 8 24 ≠ 0 || e1.toNat ≠ 0 then none
        else some (.arm h (fld v 16 16) (fld v 13 3) (fld v 7 6) (some (fld e0.toNat 0 8)))
  | 0x2C2 =>
    if fld v 10 22 ≠ 0 then none
    else match fld v 8 2 with
      | 0 => some (.qpostPost h (fld v 0 8)) | 1 => some (.qpostUnbind h (fld v 0 8))
      | 2 => some (.qpostStat h (fld v 0 8)) | _ => none
  | 0x2C3 =>
    if fld v 0 8 ≠ 0 then none
    else match fld v 14 2 with
      | 0 => some (.planeLoad h (fld v 16 16) (fld v 8 6)) | 1 => some (.planeEvict h (fld v 16 16) (fld v 8 6))
      | 2 => some (.planeQuery h (fld v 16 16) (fld v 8 6)) | _ => none
  | 0x2C4 =>
    if fld v 0 8 ≠ 0 || fld v 16 16 ≠ 0 then none
    else
      let rect : Option (Option Rect) := match ext with
        | none => some none
        | some (e0, e1) => if e1.toNat ≠ 0 then none else (rectOf e0).map some
      match rect, fld v 8 2 with
      | some r, 0 => some (.recfgBlocks h (fld v 10 6) r)
      | some r, 1 => some (.recfgSite h (fld v 10 6) r)
      | _, _ => none
  | 0x300 =>
    let isl := fld v 27 5
    let cs := fld v 23 4
    if fld v 0 19 ≠ 0 || isl > 23 then none
    else match fld v 21 2 with
      | 0 => if fld v 19 2 ≠ 0 then none else
             (ext.bind (fun p => mxCmdOf p.1 p.2)).map (.mxopArm h isl cs)
      | 1 => some (.mxopTileA h isl cs (fld v 19 2))
      | 2 => some (.mxopTileB h isl cs (fld v 19 2))
      | _ => none
  | 0x301 =>
    let bank := fld v 19 2
    if fld v 16 3 ≠ 0 || fld v 27 5 > 23 || fld v 21 2 = 3 || bank = 1 then none
    else some (.mxtab h ⟨fld v 27 5, fld v 23 4, fld v 21 2, if bank = 0 then none else some (bank - 2), fld v 0 16⟩)
  | 0x302 =>
    if fld v 16 4 ≠ 0 || fld v 27 5 > 23 then none
    else (scopeOf (fld v 20 3)).map (fun s => .mxdrain h (fld v 27 5) (fld v 23 4) s (fld v 0 16))
  | 0x340 =>
    let e : Option (Nat × Nat × BitVec 16 × W32) :=
      ext.map (fun p => (fld p.1.toNat 24 8, fld p.1.toNat 16 8, BitVec.ofNat 16 p.1.toNat, p.2))
    let l := match e with | some x => x.2.1 + 1 | none => 64
    if fld v 7 5 ≠ 0 || fld v 0 7 > 64 || l < fld v 0 7 then none
    else if (match e with | some x => bf16NonFinite x.2.2.1 | none => false) then none
    else some (.awalk h ⟨fld v 16 16, fld v 15 1 = 1, fld v 14 1 = 1, wmodeOf (fld v 12 2), fld v 0 7, e⟩)
  | 0x341 =>
    if fld v 0 12 ≠ 0 then none
    else match scopeOf (fld v 12 3) with
      | none => none
      | some s =>
        match ext with
        | none => some (.ains h ⟨fld v 16 16, fld v 15 1 = 1, s, none⟩)
        | some (e0, e1) =>
          if fld e0.toNat 0 16 ≠ 0 || e1.toNat ≠ 0 then none
          else some (.ains h ⟨fld v 16 16, fld v 15 1 = 1, s, some (fld e0.toNat 24 8, fld e0.toNat 16 8)⟩)
  | 0x342 =>
    if fld v 0 13 ≠ 0 then none else (scopeOf (fld v 13 3)).map (.adel h (fld v 16 16))
  | _ => none

/-- Groups 0xE and 0xF with control fields (R355, R380 to R385). -/
def buildSys (opc : Nat) (h : Hdr) (lit : W32) (ext : Option (W32 × W32)) : Option Instr :=
  let v := lit.toNat
  match opc with
  | 0x380 =>
    if fld v 8 8 ≠ 0 || fld v 6 2 = 3 || fld v 0 5 = 31 then none
    else some (.trev h ⟨fld v 16 16, fld v 6 2, fld v 5 1 = 1, fld v 0 5⟩)
  | 0x3C0 => if v ≥ 512 then none else some (.trap h (fld v 0 8) (fld v 8 1 = 1))
  | 0x3C1 => if v ≥ 4096 then none else some (.sys h v)
  | 0x3C2 =>
    if fld v 0 16 ≠ 0 then none
    else match ext with
      | none => some (.launch h (fld v 16 16) none)
      | some (e0, e1) =>
        if fld e0.toNat 3 29 ≠ 0 || e1.toNat ≠ 0 then none
        else some (.launch h (fld v 16 16) (if fld e0.toNat 2 1 = 1 then some (fld e0.toNat 0 2) else none))
  | 0x3C4 => if v ≥ 512 then none else some (.brkpt h (fld v 0 8) (fld v 8 1 = 1))
  | 0x3C5 | 0x3C6 =>
    let c : SysCtl := ⟨fld v 28 4, fld v 16 12, fld v 14 2, fld v 13 1 = 1⟩
    if fld v 0 13 ≠ 0 || !sysRegOk c.family c.index c.part then none
    else some (if opc = 0x3C5 then .sysrd h c else .syswr h c)
  | _ => none

/-- The instruction of a record whose fields have passed the checks before LIT; none means LIT_INVALID. -/
def build (row : OpRow) (opc : Nat) (h : Hdr) (lit : W32) (ext : Option Rec) : Option Instr :=
  let ew := ext.map (fun e => (e.w0, e.w1))
  match row.lit with
  | .zero =>
    if opc = 0x007 then
      match ext with
      | none => none
      | some e =>
        match targetOf (fld e.w0.toNat 0 22), targetOf (fld e.w1.toNat 0 22) with
        | .ok t2, .ok t3 => some (.mov4 h t2 t3)
        | _, _ => none
    else buildZero opc h
  | .op =>
    if opc = 0x1C0 ∨ opc = 0x1C9 ∨ opc = 0x1CA then buildLane opc h lit ew
    else if litFits h.fmt lit then buildOp opc h (litOf lit ew) else none
  | .ctl =>
    if opc < 0x200 then buildLane opc h lit ew
    else if opc < 0x280 then buildMem opc h lit
    else if opc < 0x380 then buildEngine opc h lit ew
    else buildSys opc h lit ew

/-- OFL as its four bits (R50). -/
def oflOf (n : Nat) : Ofl := ⟨fld n 3 1 = 1, fld n 2 1 = 1, fld n 1 1 = 1, fld n 0 1 = 1⟩

/-- The four bits of OFL (R50). -/
def Ofl.bits (o : Ofl) : Nat := o.sticky.toNat * 8 + o.purge.toNat * 4 + o.bump.toNat * 2 + o.lpass.toNat

/-- OPC of a record (R48). -/
def Rec.opc (r : Rec) : Nat := fld r.w2.toNat 22 10
/-- FMT of a record (R48). -/
def Rec.fmt (r : Rec) : Nat := fld r.w2.toNat 18 4
/-- ARITY of a record (R48). -/
def Rec.arity (r : Rec) : Nat := fld r.w2.toNat 16 2
/-- T0 of a record (R48). -/
def Rec.t0 (r : Rec) : Nat := fld r.w2.toNat 0 12 * 2 ^ 10 + fld r.w1.toNat 22 10
/-- T1 of a record (R48). -/
def Rec.t1 (r : Rec) : Nat := fld r.w1.toNat 0 22

/-- The sinks and kinds an operation may target (R54, R63, R279, R281, R323). -/
def targetKindOk (opc : Nat) (t0 t1 : Target) : Bool :=
  let sinkOk : Target → Bool := fun t =>
    match t with
    | .special _ .scale => opc = 0x303
    | .special _ (.memnode _) => opc = 0x006 || opc = 0x007 || opc / 64 = 8 || opc / 64 = 9
    | _ => true
  let reqDest : Target → Bool := fun t =>
    match t with
    | .local .none _ _ => true
    | _ => false
  sinkOk t0 && sinkOk t1 &&
  match opc with
  | 0x001 | 0x3C3 => t0.isNone && t1.isNone
  | 0x303 => (match t0 with | .special _ .scale => true | _ => false) && t1.isNone
  | 0x204 | 0x205 =>
    (match t0 with | .local _ _ _ => true | .route _ _ => true | .special _ (.memnode _) => true | _ => false) &&
      (reqDest t1 || (opc = 0x205 && t1.isNone))
  | 0x24B => (match t0 with | .special _ (.memnode _) => reqDest t1 | _ => true)
  | _ => true

/-- The EXT uses of R59: whether the record's EXT is misplaced or missing. DEDUCED (assumption 29). -/
def extBad (row : OpRow) (r : Rec) (ext : Option Rec) : Bool :=
  let usesLit := row.lit = .op && r.arity < row.top
  match ext with
  | some _ =>
    match row.ext with
    | .no => true
    | .e64 => !is64 r.fmt
    | .req1 => r.arity ≠ 1
    | .opt => (r.opc = 0x2C1 && fld r.w0.toNat 6 1 = 0) || (r.opc = 0x300 && fld r.w0.toNat 21 2 ≠ 0)
    | .req => false
  | none =>
    row.ext = .req || (row.ext = .req1 && r.arity = 1) || (usesLit && r.fmt = 12)
      || (r.opc = 0x2C1 && fld r.w0.toNat 6 1 = 1) || (r.opc = 0x300 && fld r.w0.toNat 21 2 = 0)

/-- Reserved bits of an EXT record, by the record it extends (R59, R191): W1 is zero where the instruction uses a 64-bit
literal. DEDUCED (assumption 28). -/
def extReserved (row : OpRow) (r : Rec) (e : Rec) : Bool :=
  fld e.w2.toNat 0 22 ≠ 0 ||
    (if r.opc = 0x007 then fld e.w0.toNat 22 10 ≠ 0 || fld e.w1.toNat 22 10 ≠ 0
     else e.w1.toNat ≠ 0 && ((row.ext = .e64 && is64 r.fmt) || (row.ext = .req1 && r.arity = 1)))

/-- The EXT operation code (R59). -/
def extOpc : Nat := 0x03F

/-- An EXT record without a fault of its own for a record, with which the record itself can be judged. -/
def plainExt (r : Rec) (e : Rec) : Rec :=
  let w0 : W32 := match r.opc with
    | 0x007 => 0x00100000
    | 0x300 => 0x22006000
    | 0x340 => e.w0 &&& 0xFFFF0000
    | _ => 0
  ⟨BitVec.ofNat 32 (extOpc * 2 ^ 22), if r.opc = 0x007 then 0x00100000 else 0, w0⟩

/-- The EXT record that LIT is judged with where EXT is misplaced or missing (R64): none where one stands that may not, a
plain one where one must stand and does not. DEDUCED (assumption 29). -/
def judgeExt (row : OpRow) (r : Rec) (ext : Option Rec) : Option Rec :=
  if extBad row r ext then (match ext with | some _ => none | none => some (plainExt r ⟨0, 0, 0⟩)) else ext

/-- Decoding a node record with the EXT record that follows it, if one does. A refusal names the lowest reason
code of R64 that the record itself shows (TARGET_NODE, HEADER and ROUTE_INDEX depend on the load). A MOV4 with targets on
T2 or T3 alone may have an OFL (R63). DEDUCED (assumptions 21, 28, 29, 67). -/
def decodeRec (r : Rec) (ext : Option Rec) : Except Reject Instr :=
  match opRow r.opc with
  | none => .error .opcUnassigned
  | some row =>
    let t0 := targetOf r.t0
    let t1 := targetOf r.t1
    let t2 := match r.opc, ext with
      | 0x007, some e => targetOf (fld e.w0.toNat 0 22)
      | _, _ => .ok .none
    let t3 := match r.opc, ext with
      | 0x007, some e => targetOf (fld e.w1.toNat 0 22)
      | _, _ => .ok .none
    let is (x : Reject) : Except Reject Target → Bool := fun t =>
      match t with | .error y => y = x | .ok _ => false
    let anyIs (x : Reject) : Bool := is x t0 || is x t1 || is x t2 || is x t3
    let litNonzero : Bool := r.w0.toNat ≠ 0
    let fmtOk := row.types.contains r.fmt && (r.opc ≠ 0x006 || r.arity = 0 || r.fmt = 0)
    let kindBad := !targetKindOk r.opc (targetShape r.t0) (targetShape r.t1) || (match r.opc, ext with
      | 0x007, some e => !targetKindOk r.opc (targetShape (fld e.w0.toNat 0 22)) (targetShape (fld e.w1.toNat 0 22))
      | _, _ => false)
    let ofl := oflOf (fld r.w2.toNat 12 4)
    let allNone := match t0, t1, t2, t3 with
      | .ok a, .ok b, .ok c, .ok d => a.isNone && b.isNone && c.isNone && d.isNone
      | _, _, _, _ => false
    if anyIs .reservedBit || (litNonzero && (row.lit = .zero || (row.lit = .op && r.arity = row.top)))
        || (match ext with | some e => extReserved row r e | none => false) then .error .reservedBit
    else if !fmtOk then .error .fmtInvalid
    else if !row.ars.contains r.arity then .error .arityInvalid
    else if anyIs .targetKind || kindBad then .error .targetKind
    else if anyIs .tagAction then .error .tagAction
    else
      match t0, t1 with
      | .ok a, .ok b =>
        let h : Hdr := ⟨tyOf r.fmt, r.arity, ofl, a, b⟩
        let oflBad : Bool := (ofl.sticky && ofl.purge) || (allNone && ofl.bits ≠ 0)
        match build row r.opc h r.w0 (judgeExt row r ext) with
        | none => .error .litInvalid
        | some i =>
          if extBad row r ext then .error .extMisplaced
          else if oflBad then .error .oflInvalid
          else .ok i
      | _, _ => .error .targetKind

/-- A record given as its 96 bits, W0 lowest (R4, R48). -/
def recOfNat (v : Nat) : Rec :=
  ⟨BitVec.ofNat 32 (fld v 64 32), BitVec.ofNat 32 (fld v 32 32), BitVec.ofNat 32 (fld v 0 32)⟩

/-- Decoding a list of bytes, as node memory holds them (R48): the first twelve are the record, and the next
twelve its EXT record when they hold one. Too few bytes are refused as an unassigned code. DEDUCED (assumption 27). -/
def decodeBytes (bs : List Byte) : Except Reject Instr :=
  let word (k : Nat) : W32 :=
    BitVec.ofNat 32 ((List.range 4).foldl (fun a j => a + (bs.getD (k + j) 0).toNat * 2 ^ (8 * j)) 0)
  if bs.length < 12 then .error .opcUnassigned
  else
    let r : Rec := ⟨word 8, word 4, word 0⟩
    let e : Rec := ⟨word 20, word 16, word 12⟩
    decodeRec r (if bs.length ≥ 24 ∧ e.opc = extOpc then some e else none)

/-- The bytes of `n` bits of a number, lowest first. -/
def bytesOfNat (n w : Nat) : List Byte := (List.range n).map (fun k => BitVec.ofNat 8 (w / 2 ^ (8 * k)))

/-- The instruction read from the bits of a record laid out as node memory stores it. FAULTRET's three actions
stand in its operand, so a FAULTRET record decodes to the RESUME form and the firing picks the action. DEDUCED
(assumption 27). -/
def decodeTableWord (nbits w : Nat) : Option Instr :=
  match decodeBytes (bytesOfNat 24 (w % 2 ^ nbits)) with
  | .ok i => some i
  | .error _ => none

/-- What an instruction's node record holds: operation code, header, LIT, and the EXT words (W0, W1). Events have
no record. -/
structure Parts where
  opc : Nat
  hdr : Hdr
  lit : Nat
  ext : Option (Nat × Nat)
  deriving DecidableEq, Repr

/-- Parts of an instruction whose operand may be a literal (R49). -/
def opParts (opc : Nat) (h : Hdr) (l : Lit) : Option Parts :=
  some ⟨opc, h, l.lo.toNat, l.hi.map (fun w => (w.toNat, 0))⟩

/-- Parts of an instruction with LIT zero. -/
def zParts (opc : Nat) (h : Hdr) : Option Parts := some ⟨opc, h, 0, none⟩

/-- Parts of an instruction with control fields and no EXT. -/
def cParts (opc : Nat) (h : Hdr) (lit : Nat) : Option Parts := some ⟨opc, h, lit, none⟩

/-- The node record of an instruction, none for an event of the table. DEDUCED (assumption 27). -/
def parts : Instr → Option Parts
  | .exit h => zParts 0x001 h | .null h => zParts 0x002 h | .steer h => zParts 0x003 h
  | .merge h => zParts 0x004 h | .mergeOrd h => zParts 0x005 h | .mov h l => opParts 0x006 h l
  | .mov4 h t2 t3 => some ⟨0x007, h, 0, some (t2.bits, t3.bits)⟩
  | .tagpush h l => opParts 0x040 h l | .tagpop h => zParts 0x041 h | .taginc h => zParts 0x042 h
  | .tagset h n => cParts 0x043 h n
  | .tagget h s n => cParts 0x044 h ((match s with | .tagv => 0 | .lvl => 1 | .dep => 2) * 16 + n)
  | .lcarry h n => cParts 0x045 h n | .lbound h n => cParts 0x046 h n
  | .mark h n p => cParts 0x047 h (p.toNat * 16 + n) | .purge h => zParts 0x048 h
  | .add h l => opParts 0x080 h l | .addSat h l => opParts 0x081 h l | .sub h l => opParts 0x082 h l
  | .subSat h l => opParts 0x083 h l | .mul h l => opParts 0x084 h l | .mulh h l => opParts 0x085 h l
  | .div h l => opParts 0x086 h l | .rem h l => opParts 0x087 h l | .mad h l => opParts 0x088 h l
  | .min h l => opParts 0x089 h l | .max h l => opParts 0x08A h l | .abs h => zParts 0x08B h
  | .neg h => zParts 0x08C h | .madSat h l => opParts 0x08D h l
  | .and h l => opParts 0x0C0 h l | .or h l => opParts 0x0C1 h l | .xor h l => opParts 0x0C2 h l
  | .not h => zParts 0x0C3 h | .shl h l => opParts 0x0C4 h l | .shr h l => opParts 0x0C5 h l
  | .sar h l => opParts 0x0C6 h l | .rot h l => opParts 0x0C7 h l | .clz h => zParts 0x0C8 h
  | .popc h => zParts 0x0C9 h | .cmpEq h l => opParts 0x0D0 h l | .cmpNe h l => opParts 0x0D1 h l
  | .cmpLt h l => opParts 0x0D2 h l | .cmpLe h l => opParts 0x0D3 h l | .cmpGt h l => opParts 0x0D4 h l
  | .cmpGe h l => opParts 0x0D5 h l | .sel h => zParts 0x0D8 h
  | .fadd h l => opParts 0x100 h l | .fsub h l => opParts 0x101 h l | .fmul h l => opParts 0x102 h l
  | .ffma h l => opParts 0x103 h l | .fmin h l => opParts 0x104 h l | .fmax h l => opParts 0x105 h l
  | .fdiv h l => opParts 0x106 h l | .fsqrt h => zParts 0x107 h | .fabs h => zParts 0x108 h
  | .fneg h => zParts 0x109 h | .fcmpEq h l => opParts 0x110 h l | .fcmpNe h l => opParts 0x111 h l
  | .fcmpLt h l => opParts 0x112 h l | .fcmpLe h l => opParts 0x113 h l | .fcmpGt h l => opParts 0x114 h l
  | .fcmpGe h l => opParts 0x115 h l | .fcmpUn h l => opParts 0x116 h l
  | .frcp h => zParts 0x140 h | .frsq h => zParts 0x141 h | .fexp2 h => zParts 0x142 h
  | .flog2 h => zParts 0x143 h | .ftanh h => zParts 0x144 h | .fsigm h => zParts 0x145 h
  | .ferf h => zParts 0x146 h
  | .cvt h c => cParts 0x180 h (c.part * 2 ^ 8 + c.sati.toNat * 128 + c.rmode.code * 16 + c.dtype.code)
  | .cvtnf h c => cParts 0x181 h (c.part * 2 ^ 10 +
      (match c.other with | .bf16 => 0 | .fp16 => 1 | _ => 2) * 2 ^ 8 + c.enc.toNat * 128 + c.rmode.code * 16 + c.freg)
  | .shuf h p => some ⟨0x1C0, h, (match p with | some v => fld v.toNat 0 32 | none => 0),
      p.map (fun v => (fld v.toNat 32 32, 0))⟩
  | .bcast h s n => cParts 0x1C1 h (s.toNat * 256 + n)
  | .reduce h c => cParts 0x1C2 h (c.sat.toNat * 16 + c.op.code)
  | .scan h c => cParts 0x1C3 h (c.sat.toNat * 16 + c.excl.toNat * 8 + c.op.code)
  | .dot16 h => zParts 0x1C4 h | .pack h f => cParts 0x1C5 h f | .unpack h f => cParts 0x1C6 h f
  | .lmset h m => cParts 0x1C8 h m.toNat | .lmand h m => cParts 0x1C9 h m.toNat
  | .lmor h m => cParts 0x1CA h m.toNat | .lmnot h => zParts 0x1CB h | .lmget h => zParts 0x1CC h
  | .lmpred h => zParts 0x1CD h
  | .ld h c => cParts 0x200 h (memCtlBits 0 c) | .st h c => cParts 0x201 h (memCtlBits 1 c)
  | .ldG h c => cParts 0x202 h (memCtlBits 0 c) | .stG h c => cParts 0x203 h (memCtlBits 1 c)
  | .ldm h c => cParts 0x204 h (memCtlBits 0 c) | .stm h c => cParts 0x205 h (memCtlBits 1 c)
  | .pref h hd n => cParts 0x206 h (hd * 2 ^ 16 + n * 2 ^ 8) | .prefG h n => cParts 0x207 h (n * 2 ^ 8)
  | .gtoh h hd => cParts 0x208 h (hd * 2 ^ 16) | .htog h hd => cParts 0x209 h (hd * 2 ^ 16)
  | .aptest h t => cParts 0x20A h t
  | .aadd h c => cParts 0x240 h (memCtlBits 2 c) | .afadd h c => cParts 0x241 h (memCtlBits 2 c)
  | .amin h c => cParts 0x242 h (memCtlBits 2 c) | .amax h c => cParts 0x243 h (memCtlBits 2 c)
  | .aand h c => cParts 0x244 h (memCtlBits 2 c) | .aor h c => cParts 0x245 h (memCtlBits 2 c)
  | .axor h c => cParts 0x246 h (memCtlBits 2 c) | .axchg h c => cParts 0x247 h (memCtlBits 2 c)
  | .acas h c => cParts 0x248 h (memCtlBits 2 c) | .ldr h c => cParts 0x249 h (memCtlBits 1 c)
  | .cmls h c => cParts 0x24A h (memCtlBits 2 c) | .ordtok h c => cParts 0x24B h (memCtlBits 3 c)
  | .fence h c => cParts 0x24C h (memCtlBits 3 c)
  | .kins h c => cParts 0x280 h (c.expg * 2 ^ 27 + c.kref.toNat * 2 ^ 26 + c.life * 2 ^ 10 + c.store)
  | .kdel h v s => cParts 0x281 h (v.toNat * 2 ^ 10 + s)
  | .kmatch h c => some ⟨0x282, h, kmCtlBits c,
      c.ext.map (fun e => (e.1 * 2 ^ 16 + e.2.1.toNat, e.2.2.toNat))⟩
  | .kpurge h s => cParts 0x283 h s | .kgenRead h s => cParts 0x284 h s
  | .kgenAdv h s => cParts 0x284 h (2 ^ 10 + s) | .kgenSet h s => cParts 0x284 h (2 ^ 11 + s)
  | .strm h hd st sc => some ⟨0x2C0, h, hd * 2 ^ 16 + st * 2 ^ 13, sc.map (fun s => (s.code, 0))⟩
  | .arm h hd st ts q => some ⟨0x2C1, h, hd * 2 ^ 16 + st * 2 ^ 13 + ts * 2 ^ 7 + q.isSome.toNat * 64,
      q.map (fun n => (n, 0))⟩
  | .qpostPost h q => cParts 0x2C2 h q | .qpostUnbind h q => cParts 0x2C2 h (2 ^ 8 + q)
  | .qpostStat h q => cParts 0x2C2 h (2 ^ 9 + q)
  | .planeLoad h hd n => cParts 0x2C3 h (hd * 2 ^ 16 + n * 2 ^ 8)
  | .planeEvict h hd n => cParts 0x2C3 h (hd * 2 ^ 16 + 2 ^ 14 + n * 2 ^ 8)
  | .planeQuery h hd n => cParts 0x2C3 h (hd * 2 ^ 16 + 2 ^ 15 + n * 2 ^ 8)
  | .recfgBlocks h p r => some ⟨0x2C4, h, p * 2 ^ 10, r.map (fun x => (x.bits, 0))⟩
  | .recfgSite h p r => some ⟨0x2C4, h, p * 2 ^ 10 + 2 ^ 8, r.map (fun x => (x.bits, 0))⟩
  | .mxopArm h i c cmd => some ⟨0x300, h, i * 2 ^ 27 + c * 2 ^ 23, some (mxCmdBits cmd)⟩
  | .mxopTileA h i c r => cParts 0x300 h (i * 2 ^ 27 + c * 2 ^ 23 + 2 ^ 21 + r * 2 ^ 19)
  | .mxopTileB h i c r => cParts 0x300 h (i * 2 ^ 27 + c * 2 ^ 23 + 2 ^ 22 + r * 2 ^ 19)
  | .mxtab h c => cParts 0x301 h (c.isl * 2 ^ 27 + c.cslot * 2 ^ 23 + c.tbl * 2 ^ 21
      + (match c.bank with | some b => (b + 2) * 2 ^ 19 | none => 0) + c.handle)
  | .mxdrain h i c s hd => cParts 0x302 h (i * 2 ^ 27 + c * 2 ^ 23 + s.code * 2 ^ 20 + hd)
  | .scl h l => opParts 0x303 h l
  | .awalk h c => some ⟨0x340, h, c.handle * 2 ^ 16 + c.qref.toNat * 2 ^ 15 + c.snap.toNat * 2 ^ 14
      + c.wmode.code * 2 ^ 12 + c.k,
      c.ext.map (fun e => (e.1 * 2 ^ 24 + e.2.1 * 2 ^ 16 + e.2.2.1.toNat, e.2.2.2.toNat))⟩
  | .ains h c => some ⟨0x341, h, c.handle * 2 ^ 16 + c.kref.toNat * 2 ^ 15 + c.scope.code * 2 ^ 12,
      c.ext.map (fun e => (e.1 * 2 ^ 24 + e.2 * 2 ^ 16, 0))⟩
  | .adel h hd s => cParts 0x342 h (hd * 2 ^ 16 + s.code * 2 ^ 13)
  | .trev h c => cParts 0x380 h (c.imm * 2 ^ 16 + c.asrc * 2 ^ 6 + c.xt.toNat * 32 + c.code)
  | .rdtime h => zParts 0x381 h | .hpin h => zParts 0x382 h | .hunpin h => zParts 0x383 h
  | .trap h c d => cParts 0x3C0 h (d.toNat * 256 + c) | .sys h n => cParts 0x3C1 h n
  | .launch h hd d => some ⟨0x3C2, h, hd * 2 ^ 16, d.map (fun n => (4 + n, 0))⟩
  | .halt h => zParts 0x3C3 h | .brkpt h c d => cParts 0x3C4 h (d.toNat * 256 + c)
  | .sysrd h c => cParts 0x3C5 h (c.family * 2 ^ 28 + c.index * 2 ^ 16 + c.part * 2 ^ 14 + c.other.toNat * 2 ^ 13)
  | .syswr h c => cParts 0x3C6 h (c.family * 2 ^ 28 + c.index * 2 ^ 16 + c.part * 2 ^ 14 + c.other.toNat * 2 ^ 13)
  | .faultretResume h => zParts 0x3C7 h
  | _ => none

/-- The record of its parts (R48). -/
def Parts.toRec (p : Parts) : Rec :=
  ⟨BitVec.ofNat 32 (p.opc * 2 ^ 22 + p.hdr.fmt.code * 2 ^ 18 + p.hdr.arity * 2 ^ 16 + p.hdr.ofl.bits * 2 ^ 12
      + p.hdr.t0.bits / 2 ^ 10),
   BitVec.ofNat 32 (p.hdr.t0.bits % 2 ^ 10 * 2 ^ 22 + p.hdr.t1.bits),
   BitVec.ofNat 32 p.lit⟩

/-- The EXT record of its parts (R59). -/
def Parts.toExt (p : Parts) : Option Rec :=
  p.ext.map (fun e => ⟨BitVec.ofNat 32 (extOpc * 2 ^ 22), BitVec.ofNat 32 e.2, BitVec.ofNat 32 e.1⟩)

/-- The node record of an instruction and its EXT record; an event has none. DEDUCED (assumption 21). -/
def encode (i : Instr) : Option (Rec × Option Rec) := (parts i).map (fun p => (p.toRec, p.toExt))

end Sys2Proof
end

