-- ==== Sys2Proof/Machine/State/Token.lean ====
section
/-! DEFINITION. Tokens (R9 to R12), fault codes and fault records (R361, R362). -/
namespace Sys2Proof.Machine

/-- A sparse table: number and value, numbers rising. -/
abbrev Table (α : Type) := List (Nat × α)

/-- Match actions (R9 Table 2). -/
inductive MA where
  | norm | sticky | count | purge
  deriving DecidableEq, Repr, Inhabited

/-- A token: header, tag and payload (R9), and the request extension where it carries one (R278). `node` and `port`
are DEST bits 14:5 and 4:3; `sent` is the departure time in the link framing of a token that crossed between dies
(R349), 0 otherwise; `came` the cycle in which it arrived at the cell that has not matched it yet (R153), 0 otherwise. -/
structure Tok where
  kind  : Nat := 0
  die   : Nat := 0
  site  : Nat := 0
  node  : Nat := 0
  port  : Nat := 0
  ctx   : Nat := 0
  depth : Nat := 0
  ma    : MA := .norm
  cnt   : Nat := 0
  pri   : Nat := 0
  fmt   : Ty := .s4
  vec   : Bool := false
  lmask : BitVec 16 := 1
  side  : W32 := 0
  flags : BitVec 10 := 0
  tag   : W64 := 0
  data  : Payload := 0
  req   : Option (BitVec 128) := none
  sent  : Nat := 0
  came  : Nat := 0
  deriving DecidableEq, Repr, Inhabited

/-- FLAGS bits (R9 Table 3). -/
inductive Flag where
  | marker | streamEnd | miss | poison | trace | null | fault | complete | scale
  deriving DecidableEq, Repr

/-- Fault codes (R361 Table 1), in code order. -/
inductive FCode where
  | configReject | destInvalid | routeMiss | tagOverflow | arith | exitExcess | loopOrder | streamSkew
  | keyFull | keyGen | herdPin | poisonAddr | cmlsSpan | barrierOp | barrierFull
  | hqUnbound | strmDesc | strmBusy | mxBusy | mxCmd | mxOrder | tableBusy
  | awDesc | awGen | awNode | awSlot | awOp
  | spillFault | spillFull | watchdog | sinkMismatch | user | break_ | eccState | keyFmt | keyOp
  | handleInvalid | handleBound | aperture | align | translation | pteInvalid | prot | nonres | cow
  | mtRange | mtMode | bankOff
  | cowFree | dualVote | siteRetired
  deriving DecidableEq, Repr, Inhabited

/-- The fields of a fault record that the fault itself fixes (R362 Table 2); SEQ comes with the writing. `psn` and `after` are
what its trace record says of the tokens that its event consumed: POISON (R344), and the latest departure from another die
(R349). -/
structure FRec where
  node  : Nat := 0x3FF
  src   : Nat := 0
  code  : FCode
  die   : Nat := 0
  col   : Nat := 0
  row   : Nat := 0
  ctx   : Nat := 0
  tag   : W64 := 0
  eng   : Nat := 0
  depth : Nat := 0
  arg   : W64 := 0
  psn   : Bool := false
  after : Nat := 0
  deriving DecidableEq, Repr

end Sys2Proof.Machine
end

