-- ==== Sys2Proof/Machine/State/Cell.lean ====
section
/-! DEFINITION. The state of one pair: its cell (R8), its memory tile (R226 to R230), and what herd placement,
pre-emption and the debug port keep for it. A pair's state is held under its logical resident (R158, R217). -/
namespace Sys2Proof.Machine

/-- A present frame slot: the token written there, its 8-bit count (R8, R17), and its place in the order of
arrivals (R103). -/
structure Slot where
  tok : Tok
  cnt : Nat
  arr : Nat
  deriving DecidableEq, Repr

/-- A frame directory entry (R14 Table 5). `uid` is the model's own name of the entry; `dying` says the
instance has been force-retired and its frame waits for sent stores (R23). -/
structure DirEnt where
  uid    : Nat
  bind   : Bool
  ctx    : Nat
  blk    : Nat
  tag    : W64
  depth  : Nat
  base   : Nat
  size   : Nat
  xfired : Nat
  sdone  : W32
  spend  : W32
  ready  : W32
  dying  : Bool
  deriving DecidableEq, Repr

/-- A ready-queue entry (R20, R164). `ord` is its place in the order in which entries became ready (R151); `alone`
is a token that fires its node without a frame slot (R107, R200); `pass` says it is passed over until a fault latch of
its site frees (R363). -/
structure RdyEnt where
  uid   : Option Nat
  node  : Nat
  ctx   : Nat
  level : Nat
  time  : Nat
  wait  : Nat
  ord   : Nat
  tag   : W64
  depth : Nat
  pri   : Nat
  alone : Option Tok
  pass  : Bool
  deriving DecidableEq, Repr

/-- A firing as it issues: where, its ready entry, its block and position, and its operand tokens by port. `taken`
says its operands have left their slots already (a replayed firing, R252). -/
structure Firing where
  x     : Site
  ent   : RdyEnt
  hdr   : Nat
  pos   : Nat
  ops   : List (Option Tok)
  taken : Bool
  deriving DecidableEq, Repr

/-- Tokens on their way out of S6 (R96), or an answer on its way back to its cell (R272). `due` is the first cycle in which they
may leave; `grp` names the issue they belong to (R167), or the access an answer is of; `home` the place an answer comes from;
`exits` says that their firing makes an exit, so that its instance waits for them (R100). -/
structure Dep where
  ctx  : Nat
  uid  : Option Nat
  node : Nat
  due  : Nat
  grp  : Nat
  home : Nat
  exits : Bool
  toks : List Tok
  deriving DecidableEq, Repr

/-- A block placed at a site (R60, R61, R311): its owner, its header, its records from position 0, its port-map
entries (four a position), and whether node memory holds it now. -/
structure Blk where
  ctx     : Nat
  plane   : Nat
  slot    : Nat
  hdr     : Nat
  exits   : Nat
  fsize   : Nat
  pmbase  : Nat
  prio    : Nat
  stores  : W32
  recs    : List Rec
  pmap    : List Nat
  present : Bool
  spatial : Bool
  deriving DecidableEq, Repr

/-- A key-store entry (R137). `slot` is its first frame slot where the store has FRAME residence. -/
structure KEnt where
  seq    : Nat
  life   : Nat
  gin    : Nat
  gout   : Nat
  norm   : W32
  poison : Bool
  vfmt   : Ty
  vec    : Bool
  value  : Payload
  key    : List Nat
  slot   : Nat
  deriving DecidableEq, Repr

/-- A shard's part of an operation on a logical store (R206): the operation's number in the die's list, and its
order number. -/
structure ShardOp where
  op : Nat
  on : Nat
  deriving DecidableEq, Repr

/-- A key store (R134, R135), named by the node index of its KMATCH record and its context. `width` is the slots an entry takes
in FRAME residence, 0 elsewhere; `ents` are the entries of FRAME residence; those of MTILE and STREAM residence stand in the
pair's tile and in memory (R135). `hold` is the query whose commit a shard awaits (R208), `queue` the sequenced operations
waiting at it (R206); `fresh` says that nothing has been done with it since it was made, so that it is empty whatever its region
holds (R134). -/
structure KStore where
  node  : Nat
  ctx   : Nat
  kw    : Nat
  width : Nat
  seq   : Nat
  g     : Nat
  ents  : List KEnt
  hold  : Option Nat
  queue : List ShardOp
  fresh : Bool
  deriving DecidableEq, Repr

/-- An LBOUND window (R201 Table 5), its record, and its place in the order of creation (R200). -/
structure LbWin where
  ctx    : Nat
  node   : Nat
  lvl    : Nat
  pfx    : W64
  base   : Nat
  adm    : W64
  done   : W64
  mkh    : Option Tok
  held   : Nat
  closed : Bool
  deriving DecidableEq, Repr

/-- A token in the escape buffer (R368) with the block it names, and whether LBOUND holds it (R200). -/
structure Esc where
  tok  : Tok
  hdr  : Nat
  held : Bool
  deriving DecidableEq, Repr

/-- The counters of a cell (R24, R100, R140, R311), 48 bits each. DESIGN CHOICE (assumption 12). -/
structure Counters where
  dangle   : Nat := 0
  nullmiss : Nat := 0
  spills   : Nat := 0
  refills  : Nat := 0
  packw    : Nat := 0
  knan     : Nat := 0
  psndrop  : Nat := 0
  cmiss    : Nat := 0
  deriving DecidableEq, Repr

/-- The cell's pipeline and its input: the tokens it sends itself (R153), the four ports of the input buffer (R8),
whose turn the last two ports have (R184), the firings and answers on their way to S6, and the cycles from which the
cell may issue, match and use S6 again. `packed` counts the tokens of the issue now being packed (R167); `rport` is the cycle
from which the router port may write again (R8), `rturn` says that a track delivery has the turn there (R184). DESIGN
CHOICE (assumption 12). -/
structure Pipe where
  selfq  : List Tok := []
  p0     : List Tok := []
  p1     : List Tok := []
  p2     : List Tok := []
  p3     : List Tok := []
  rr     : Bool := false
  deps   : List Dep := []
  ans    : List Dep := []
  issue  : Nat := 0
  matchAt : Nat := 0
  s6     : Nat := 0
  s6grp  : Nat := 0
  s6n    : Nat := 0
  packed : Nat := 0
  rport  : Nat := 0
  rturn  : Bool := false
  deriving DecidableEq, Repr

/-- The state of one MT region (R228, R229): OPSTORE buffers (FULL, write and read counts, WP, RP), FIFO (oldest
entry and number), LINE (newest line, complete lines, bytes of the line in progress). DESIGN CHOICE (assumption 13). -/
structure MtReg where
  full : List Bool := []
  wc   : List Nat := []
  rc   : List Nat := []
  wp   : Nat := 0
  rp   : Nat := 0
  head : Nat := 0
  cnt  : Nat := 0
  deriving DecidableEq, Repr

/-- A memory tile: MTR0 to MTR3 (R226), its regions' states, CELL.MTPWR (R242) and the power changes that wait, each a
bank, the state it goes to (none: it is waking) and the places, in the order of sending, of the accesses and sectors it waits for.
DESIGN CHOICE (assumption 13). -/
structure MTile where
  mtr  : List W32 := [0, 0, 0, 0]
  regs : List MtReg := [{}, {}, {}, {}]
  pwr  : Nat := 0
  pend : List (Nat × Option Nat × List Nat) := []
  deriving DecidableEq, Repr

/-- A range-scoreboard entry (R240 Table 4) and the copy that took it. `space` is 0 virt, 1 sdm, 2 mt. -/
structure Score where
  dst   : Bool
  ctx   : Nat
  space : Nat
  die   : Nat
  addr  : Nat
  len   : Nat
  copy  : Nat
  deriving DecidableEq, Repr

/-- A pin of a context on a resident (R219): its count, the issue that set it (R167), and whether that firing has left S6. -/
structure Pin where
  ctx   : Nat
  count : Nat
  grp   : Nat
  left  : Bool
  deriving DecidableEq, Repr

/-- What herd placement keeps for a resident: the traffic table (R211), the pins (R219); the instant of its load or last swap
(R215), its recent swaps, each an instant and a partner, the latest first (R216); and the flush beats of R218 that have not
arrived, each a source router and a class. -/
structure HerdSt where
  traf  : List (Option (Nat × Nat)) := List.replicate 8 none
  pins  : List Pin := []
  since : Nat := 0
  swaps : List (Nat × Nat) := []
  fl    : List (Nat × Nat) := []
  deriving DecidableEq, Repr

/-- A SPATIAL cell (R168 to R170): the latches of its internal ports (R358), each a node, a port and the operand it
holds; the bindings of its external ports, each a node, a port, the token and its count; and the cycles from which its
stages may fire again. -/
structure SpatSt where
  on    : Bool := false
  busy  : Table Nat := []
  inner : List (Nat × Nat × Tok) := []
  binds : List (Nat × Nat × Tok × Nat) := []
  deriving DecidableEq, Repr

/-- Pre-emption and debug state of a site: contexts whose unit has frozen (R374), the channels on which their marker
has arrived, channel tokens recorded with the port they came by (4 the cell's own, 5 the miss buffer), memory answers recorded, and a
STOP of the site (R388). A channel is a number given by its source. `gated` says the pair is clock-gated, `lastTok` when a token last
arrived (R414); `wires` counts the good wires of the vertical bus of the pair of this number (R310). DESIGN CHOICE
(assumption 12). -/
structure FrzSt where
  units   : List Nat := []
  marked  : List (Nat × Nat) := []
  chan    : List (Nat × Nat × Tok) := []
  resp    : List Dep := []
  stop    : Bool := false
  gated   : Bool := false
  lastTok : Nat := 0
  wires   : Nat := 72
  deriving DecidableEq, Repr

/-- One pair. `uids` numbers directory entries and arrivals; `nodeq` are the sixteen memory-node ports (R231), each
holding numbers of the requests in the module's list; `cgen` is the configuration generation (R310); `pmap` is the port-map store
(R61), 4,096 six-bit entries, those that are 0 not listed. DESIGN CHOICE
(assumption 12). -/
structure Cell where
  slots  : Table Slot := []
  dir    : List DirEnt := []
  ready  : List RdyEnt := []
  blks   : List Blk := []
  pmap   : Table Nat := []
  stores : List KStore := []
  lbs    : List LbWin := []
  miss   : List Tok := []
  escape : List Esc := []
  pipe   : Pipe := {}
  ctr    : Counters := {}
  mt     : MTile := {}
  score  : List Score := []
  herd   : HerdSt := {}
  spat   : SpatSt := {}
  frz    : FrzSt := {}
  nodeq  : List (List Nat) := List.replicate 16 []
  cgen   : Nat := 0
  uids   : Nat := 0
  deriving DecidableEq, Repr

end Sys2Proof.Machine
end

