-- ==== Sys2Proof/Machine/State/Memory.lean ====
section
/-! DEFINITION. The state of the memory system: accesses in flight (R256, R258), translations held in TLBs (R253),
cached handle entries (R238), lines and version clocks of the L2 slices (R287), and barrier counters (R285). -/
namespace Sys2Proof.Machine

/-- The spaces of R236. -/
inductive Space where
  | virt | sdm | mt
  deriving DecidableEq, Repr, Inhabited

/-- What an access does at its home (R256, R284, R288, R290); `mem` is a memory-node request of LDM or STM (R279). -/
inductive AccKind where
  | load | store | rmw (op : Nat) | ldr | cmls | ord | fence | mem (m : Nat)
  deriving DecidableEq, Repr, Inhabited

/-- How far an access has come. `check`: its firing is parked at its checks at issue (R252); `wait`: in its wave buffer;
`compare`: in a comparator (R371); `leaving`: a memory-node request on its way to S6 (R279), and `port`: one that a port has
accepted; `walk`: sent, its translation outstanding; `parked`: faulted (R252); `migr`: waiting on a page in migration or copy
(R250); `sent`: on its way to its home; `held`: held by R419; `barrier`: its result held by a barrier counter (R286); `home`:
performed at its home, not yet at its scope; `done`: performed. -/
inductive AccSt where
  | check | wait | compare | leaving | walk | parked | migr | sent | port | held | barrier | home | done | abandoned
  deriving DecidableEq, Repr, Inhabited

/-- A translation an access carries: the page of a virtual address and its frame. -/
structure Page where
  va   : Nat
  size : Nat
  pa   : Nat
  tier : Nat
  deriving DecidableEq, Repr

/-- An access (R256) from its issue to its answer. `addr` is its virtual address, SDM address or offset in region `mtr`
of its tile, `ew` the bytes of one element of it (R273), `elw` the bits of a scalar element; `desc`, `b` and `c` are the
operand tokens it carries; `sseq` is its place in the order of sending, `before` the accesses earlier in its chain, `prior`
those of its instance sent before it issued (R261), `park` its place in the order in which accesses wait on a page or at a
barrier counter; `els` the elements that have performed, `got` the bytes read; `outs` its result tokens, tag actions
applied at issue (R272); `ans` says that it has performed at its scope and its answer has gone; `twin` is the shadow's
access that its answer also serves (R371). -/
structure Access where
  id     : Nat
  x      : Site
  ctx    : Nat
  uid    : Option Nat
  hdr    : Nat
  node   : Nat
  pos    : Nat
  opc    : Nat
  tag    : W64
  depth  : Nat
  kind   : AccKind
  region : Option Nat
  wpred  : WaveRef
  wsucc  : WaveRef
  scope  : Scope
  acq    : Bool
  rel    : Bool
  vec    : Bool
  fmt    : Ty
  store  : Bool
  space  : Space
  die    : Nat
  mtr    : Nat
  addr   : Nat
  size   : Nat
  ew     : Nat
  elw    : Nat
  policy : Nat
  arg    : Nat
  desc   : Tok
  b      : Tok
  c      : Tok
  st     : AccSt := .wait
  pages  : List Page := []
  sseq   : Nat := 0
  before : List Nat := []
  prior  : List Nat := []
  park   : Nat := 0
  els    : List Nat := []
  got    : List Byte := []
  poison : Bool
  side   : W32 := 0
  outs   : List Tok
  ans    : Bool := false
  twin   : Option Nat := none
  deriving DecidableEq, Repr

/-- A translation held by a TLB of a die: in the micro-TLB of a pair (`place` its resident) or in a column TLB (`place`
8,192 plus the column) (R253). -/
structure Tlb where
  die    : Nat
  place  : Nat
  tenant : Nat
  va     : Nat
  size   : Nat
  pa     : Nat
  w      : Bool
  cow    : Bool
  dirty  : Bool
  tier   : Nat
  deriving DecidableEq, Repr

/-- A handle-table entry cached in a slice column of a die (R238). -/
structure HCache where
  die : Nat
  col : Nat
  ctx : Nat
  k   : Nat
  w   : BitVec 128
  deriving DecidableEq, Repr

/-- A line cached in its home slice: its version (R287), its policy and its last use (R234). -/
structure Line where
  ver    : Nat
  policy : Nat
  used   : Nat
  deriving DecidableEq, Repr

/-- A COW resolution in mid-copy (R248): the walked entry, its place, the frames, the virtual address of the write that began it,
what replays that write once the others are released, where it is to be replayed, and the latest departure from another die among the
tokens behind that write (R349). -/
structure CowCopy where
  die    : Nat
  tenant : Nat
  ctx    : Nat
  va     : Nat
  ptePa  : Nat
  pte    : Nat
  old    : Nat
  new    : Nat
  by_    : Nat
  init   : Option Act
  after  : Nat
  deriving DecidableEq, Repr

/-- What waits on a page (R250, R253): its die, context, tenant and virtual address, the act that replays it, and whether it
waits for the answer of a fault record and not for the page to leave MIGR. -/
structure PageWait where
  die    : Nat
  ctx    : Nat
  tenant : Nat
  va     : Nat
  act    : Act
  fault  : Bool
  deriving DecidableEq, Repr

/-- A request waiting at or on its way to a memory-node port (R280). `m` is its port, `x` the site whose bus it is; `ans` says that
its completion has gone, at SITE scope (R256). -/
structure NodeReq where
  id   : Nat
  x    : Site
  m    : Nat
  tok  : Tok
  st   : AccSt
  ans  : Bool
  deriving DecidableEq, Repr

/-- The memory system; `waits` stands in the order in which accesses parked on their pages (R250). DESIGN CHOICE (assumption 15). -/
structure MemSys where
  accs   : List Access := []
  nextId : Nat := 1
  sseq   : Nat := 0
  tlb    : List Tlb := []
  hcache : List HCache := []
  lines  : Table Line := []
  vclk   : Table Nat := []
  bars   : Table (Nat × Nat) := []
  cows   : List CowCopy := []
  waits  : List PageWait := []
  reqs   : List NodeReq := []
  deriving DecidableEq, Repr

end Sys2Proof.Machine
end

