-- ==== Sys2Proof/Machine/State/Engine.lean ====
section
/-! DEFINITION. The state of the engines of a die: streamers (R297 to R308), systolic islands (R315 to R327), Antler
walkers (R339), the Loupe unit (R341 to R351), and logical stores (R203 to R208). -/
namespace Sys2Proof.Machine

/-- A template descriptor as read from memory (R297), its sixteen words. -/
abbrev Desc := List W32

/-- A layout that an ARM gives a template slot (R308): its descriptor, the pair that armed it, the queue it binds, and the
answer its ARM awaits. -/
structure Layout where
  desc  : Desc
  x     : Site
  queue : Option Nat
  dep   : Dep
  deriving DecidableEq, Repr

/-- A template slot of a context in a streamer (R297): its descriptor, the pair that armed it, and a pending layout
(R308). -/
structure Tmpl where
  ctx   : Nat
  st    : Nat
  slot  : Nat
  x     : Site
  desc  : Desc
  pend  : Option Layout
  deriving DecidableEq, Repr

/-- A hardware queue (R299): tokens in arrival order and its binding (context, streamer, template slot); UNBINDs
that wait for it to empty, and tokens posted to it while it is full. -/
structure HQueue where
  toks  : List Tok := []
  bind  : Option (Nat × Nat × Nat) := none
  unb   : List (Site × Dep) := []
  posts : List (Tok × Site × Dep) := []
  deriving DecidableEq, Repr

/-- Copy-slot states (R304). -/
inductive CopySt where
  | start | run | fpark | saved
  deriving DecidableEq, Repr

/-- A copy slot in use (R301 to R305): its streamer and index, the firing token, the template's descriptor and the tokens its
completions are formed from (`direct`: the STRM firing and its targets), whether it has passed START, the cursor, the sectors
performed and those in flight, each with its place in the order of sending (R230), the sectors pending on a fault, the tile
whose completion comes next, and the offset in the PARK record of a copy that parked at START, until its REPLAY record is
written (R345). -/
structure Copy where
  id     : Nat
  st     : Nat
  k      : Nat
  ctx    : Nat
  x      : Site
  queue  : Option Nat
  tmpl   : Option Nat
  tok    : Tok
  desc   : Desc
  scope  : Scope
  direct : Option (Firing × Hdr)
  state  : CopySt
  began  : Bool
  cursor : Nat
  perf   : List Nat
  flight : List (Nat × Nat)
  pend   : List Nat
  tile   : Nat
  parkAt : Option Nat := none
  deriving DecidableEq, Repr

/-- A copy firing waiting for a copy slot (R301). -/
structure CopyReq where
  st     : Nat
  ctx    : Nat
  x      : Site
  queue  : Option Nat
  tmpl   : Option Nat
  tok    : Tok
  desc   : Desc
  scope  : Scope
  direct : Option (Firing × Hdr)
  deriving DecidableEq, Repr

/-- Bank states (R316). -/
inductive BankSt where
  | free | acc | done | drain
  deriving DecidableEq, Repr

/-- An accumulator bank of a command slot (R315, R320): its output key, the next k, the table banks it recorded, its poison and
its 128 by 128 values, row by row; `sent` is the latest departure from another die behind them (R349), as it is of a tile, a
scale, a notice and a drain. -/
structure Bank where
  st     : BankSt := .free
  tag    : W64 := 0
  depth  : Nat := 0
  next   : Nat := 0
  tbl    : Nat := 0
  poison : Bool := false
  trace  : Bool := false
  sent   : Nat := 0
  vals   : List Nat := []
  deriving DecidableEq, Repr

/-- A tile staged in the tile store (R319): its key, its 8 KiB as rows of 64 bytes, and its place in the order of
staging. -/
structure Tile where
  ctx    : Nat
  cslot  : Nat
  opB    : Bool
  tag    : W64
  depth  : Nat
  rows   : List Nat
  poison : Bool
  trace  : Bool
  sent   : Nat
  ord    : Nat
  deriving DecidableEq, Repr

/-- A scale held in the scale store (R322) and the values of g that have used it. -/
structure Scale where
  ctx    : Nat
  cslot  : Nat
  opB    : Bool
  tag    : W64
  depth  : Nat
  val    : Nat
  poison : Bool
  sent   : Nat
  used   : Nat
  deriving DecidableEq, Repr

/-- What a notice on its way to an island asks (R318, R326). -/
inductive NoticeKind where
  | arm (cmd : MxCmd) | tile (opB : Bool) (reg : Nat) | streamEnd (tok : Tok)
  | table (tbl : Nat) (bank : Option Nat) (bytes : List Byte)
  deriving DecidableEq, Repr

/-- A notice (R318): its issuing site, its fields, the ring slot it is spilled to (R319), whether it is parked on a fault, the
offset in a PARK record whose REPLAY record is not yet written (R345), and the tokens it answers with. -/
structure Notice where
  id     : Nat
  x      : Site
  ctx    : Nat
  node   : Nat
  cslot  : Nat
  tag    : W64
  depth  : Nat
  poison : Bool
  trace  : Bool
  sent   : Nat
  kind   : NoticeKind
  spilt  : Option Nat
  parked : Bool
  parkAt : Option Nat
  dep    : Dep
  deriving DecidableEq, Repr

/-- A drain queued at an island (R326): its slot, output key, destination and scope, the rows written, the pieces of 64 bytes of
the next row that are, the clamps; `parkAt` is as in a notice. -/
structure Drain where
  id     : Nat
  x      : Site
  ctx    : Nat
  node   : Nat
  cslot  : Nat
  tag    : W64
  depth  : Nat
  trace  : Bool
  sent   : Nat
  handle : Nat
  off    : Nat
  scope  : Scope
  bank   : Option Nat
  row    : Nat
  piece  : Nat
  clamps : Nat
  spilt  : Option Nat
  parked : Bool
  parkAt : Option Nat
  dep    : Dep
  deriving DecidableEq, Repr

/-- The tables of a command slot in one bank (R324). -/
structure MxTabs where
  slope : List Nat := []
  icpt  : List Nat := []
  bias  : List Nat := []
  qs    : List Nat := []
  deriving DecidableEq, Repr

/-- A command slot (R316): owner, command with the format registers it read (A, B, output), the pair that armed it, whether an ARM
waits (REARM), its banks and tables. -/
structure CSlot where
  n      : Nat
  ctx    : Nat
  x      : Site
  cmd    : MxCmd
  fmts   : List W32
  rearm  : Bool
  banks  : List Bank
  tabs   : List MxTabs
  active : Nat
  pend   : Bool
  deriving DecidableEq, Repr

/-- An island (R315): its command slots in use, tile store, scale store, notices and drains in the order they were
sent, the scale tokens on the scale network, and those spilled, each with its ring slot. DESIGN CHOICE (assumption
15). -/
structure Island where
  slots   : List CSlot := []
  tiles   : List Tile := []
  scales  : List Scale := []
  notices : List Notice := []
  drains  : List Drain := []
  scaleq  : List Tok := []
  sspill  : List (Tok × Nat) := []
  deriving DecidableEq, Repr

/-- What a walker runs (R334, R336, R337). -/
inductive WalkKind where
  | walk (c : AwCtl) | ins (c : AinsCtl) | del (handle : Nat) (scope : Scope)
  deriving DecidableEq, Repr

/-- Walker states in use (R339 Table 5). -/
inductive WalkSt where
  | seed | walk | link | finish | fpark | saved
  deriving DecidableEq, Repr

/-- A request of an AWALK, AINS or ADEL firing and, once a walker has taken it, the walk's state (R331, R339): the ring slot it is
spilled to, the descriptor and its key format register, the query, C with the expanded marks and R as node ids with their
scores, the visited hashes, expansions, the step of an insertion, the reverse edges made, the new node's NGEN, the offset in a PARK
record whose REPLAY record is not yet written (R345), and the result tokens of AINS and ADEL. DESIGN CHOICE (assumption 15). -/
structure Walk where
  id     : Nat
  quad   : Nat
  walker : Option Nat
  spilt  : Option Nat
  f      : Firing
  h      : Hdr
  kind   : WalkKind
  state  : WalkSt
  prev   : WalkSt
  desc   : List W32 := []
  reg    : W32 := 0
  query  : List Nat := []
  q      : Nat := 0
  cands  : List (Nat × Nat × Bool) := []
  res    : List (Nat × Nat) := []
  vis    : List Nat := []
  x      : Nat := 0
  budget : Bool := false
  poison : Bool := false
  step   : Nat := 0
  made   : Nat := 0
  ngen   : Nat := 0
  seen   : Option (Nat × Nat) := none
  tries  : Nat := 0
  parkAt : Option Nat := none
  dep    : Dep
  deriving DecidableEq, Repr

/-- A trace record (R344): its tenant, its words, and its place in the acceptance order of its die. -/
structure TRec where
  tenant : Nat
  time   : Nat
  die    : Nat
  seq    : Nat
  ws     : List W32
  deriving DecidableEq, Repr

/-- The Loupe unit of a die (R341 to R343, R348, R349): time, state, offset, drop and hold counters, the clock's rate and the
fraction of a tick it has counted (both in millionths of a tick times the clock in units of 100 MHz), whether the first lock
has stepped it, the record queues of its units (unit number and records), the records that wait for a place in one and hold their unit
(R352), the unit served last, the drop counters of each
unit and tenant, the acceptance number, the watermark last reported, and the records forwarded to it as a home.
DESIGN CHOICE (assumption 15). -/
structure Loupe where
  time  : Nat := 0
  state : Nat := 0
  offs  : BitVec 16 := 0
  dropx : Nat := 0
  holds : Nat := 0
  rate  : Nat := 40000000
  acc   : Nat := 0
  locked : Bool := false
  turn  : Nat := 0
  seq   : Nat := 0
  queue : List (Nat × TRec) := []
  backlog : List (Nat × TRec) := []
  last  : Table Nat := []
  drops : List (Nat × Nat × Nat) := []
  wmark : Nat := 0
  fwd   : List TRec := []
  deriving DecidableEq, Repr

/-- The trace block of a tenant (R347), eight words, and TIME [63:48] of the record last written, none since EN was
set (R350); records discarded that a DROP record has not yet reported (R351). DESIGN CHOICE (assumption 15). -/
structure TenBlk where
  w     : List W32 := List.replicate 8 0
  epoch : Option Nat := none
  lost  : Bool := false
  deriving DecidableEq, Repr

/-- A logical store at its home slice (R203, R204). -/
structure LStore where
  ctx    : Nat
  plane  : Nat
  node   : Nat
  slice  : Nat
  shards : List Nat
  seq    : Nat
  g      : Nat
  on     : Nat
  flive  : Nat
  deriving DecidableEq, Repr

/-- What an operation on a logical store does (R206). -/
inductive LKind where
  | query (c : KmCtl) (fmt : Ty) (reg : W32) (q : List Nat) (poison : Bool)
  | ins (c : KinsCtl) (e : KEnt)
  | del (byVal : Bool) (v : Nat) | purge | gen (op : Nat) (v : Nat)
  deriving DecidableEq, Repr

/-- An operation on a logical store (R205 to R208): its entry shard, its order number once sequenced, the shards that
have performed it with their removal counts or candidates, and the tokens it answers with. -/
structure LOp where
  id     : Nat
  ctx    : Nat
  node   : Nat
  x      : Site
  f      : Firing
  kind   : LKind
  on     : Option Nat
  todo   : List Nat
  count  : Nat
  cands  : List (Nat × Nat × KEnt)
  merged : Bool
  commit : List Nat
  dep    : Dep
  deriving DecidableEq, Repr

end Sys2Proof.Machine
end

