-- ==== Sys2Proof/Machine/State/System.lean ====
section
/-! DEFINITION. The state of contexts (R156 to R161), of a die, and of the module and its host interface. -/
namespace Sys2Proof.Machine

/-- Context states (R161). -/
inductive CState where
  | free | loading | running | stopped | saved | ended
  deriving DecidableEq, Repr, Inhabited

/-- What answering a fault record releases (R386, R365, R381, R368, R419). -/
inductive Resume where
  | fire (x : Site) (uid : Option Nat)
  | toks (x : Site) (uid : Option Nat) (d : Dep)
  | access (id : Nat)
  | refire (id : Nat)
  | copy (die id : Nat)
  | walk (die id : Nat)
  | notice (die isl id : Nat)
  | drain (die isl id : Nat)
  | spill (x : Site) (hdr : Nat) (tag : W64) (depth : Nat)
  | ecc
  | none
  deriving DecidableEq, Repr

/-- An open fault record (R386). -/
structure OpenRec where
  seq  : Nat
  kind : Nat
  code : FCode
  what : Resume
  deriving DecidableEq, Repr

/-- A firing parked at issue (R252): its number, its context's tenant, the virtual address of the page in migration it waits on,
none where a fault record holds it or it only waits; that of the page whose translation it awaits (R253); and the offset that
its PARK and REPLAY records give (R345). -/
structure Parked where
  id     : Nat
  f      : Firing
  tenant : Nat
  migr   : Option Nat
  miss   : Option Nat
  off    : Nat
  deriving DecidableEq, Repr

/-- A record in a fault latch (R363): the site or engine whose latch it is, the record, and what its answer
releases. -/
structure Latch where
  unit : Nat
  fr   : FRec
  what : Resume
  host : Bool
  deriving DecidableEq, Repr

/-- A spilled token (R16, R368): the ring slot it stands in, its cell and block, and whether LBOUND holds it (R200). -/
structure Spill where
  ring : Nat
  x    : Site
  hdr  : Nat
  tok  : Tok
  held : Bool
  deriving DecidableEq, Repr

/-- TRAP registers and the faults of a context (R364, R365, R369): FPORT, DBG, LAST and WDOG; Loupe ticks without progress; the next
SEQ; the records not yet answered; and answers given while it was SAVED, each a SEQ and an ACTION (R379). DESIGN
CHOICE (assumption 14). -/
structure TrapSt where
  fport  : W32 := 0xC0000000
  dbg    : Bool := false
  last   : Nat := 0
  wdog   : Nat := 0
  idle   : Nat := 0
  seq    : Nat := 0
  opens  : List OpenRec := []
  acks   : List (Nat × Nat) := []
  deriving DecidableEq, Repr

/-- SOPEN (R365): the stopping records not yet returned, saturating at 255. -/
def TrapSt.sopen (t : TrapSt) : Nat := Nat.min 255 (t.opens.filter (fun o => o.kind == 0)).length

/-- The spill ring of a context (R368): WP and RP in slots, the tokens in order, and whether a failure episode is
open. DESIGN CHOICE (assumption 14). -/
structure SpillSt where
  wp    : Nat := 0
  rp    : Nat := 0
  toks  : List Spill := []
  open_ : Bool := false
  deriving DecidableEq, Repr

/-- The state saved for one unit (R375): what its cell held of the context, and the bytes and poisoned granules of its MT where
no other live context uses the site. Its channel tokens stay with the cell. -/
structure SavedUnit where
  x    : Site
  cell : Cell
  mem  : Option (List Byte × List Byte)
  pois : List Nat
  deriving DecidableEq, Repr

/-- Pre-emption of a context (R373 to R378): CTX.PRE.PHASE, the source ports that still await a marker, the answers
owed to requesters, whether a request is held under a STOP (R390), and what has been saved: of units and engines (R304, R327,
R339), and the memory faults that lost to it (R305, R379, R397). DESIGN CHOICE (assumption 14). -/
structure PreSt where
  phase  : Nat := 0
  marks  : List W32 := []
  owed   : List (Site × Dep) := []
  held   : Bool := false
  units  : List SavedUnit := []
  copies : List Copy := []
  isls   : List (Nat × Island) := []
  walks  : List Walk := []
  faults : List Latch := []
  deriving DecidableEq, Repr

/-- A context (R156, R161). `desc` is the launch-ring entry that awaits its result, `owed` the answers of the LAUNCH that
made it, `since` the cycle in which it entered RUNNING (R157, R160). DESIGN CHOICE (assumption 14). -/
structure Ctx where
  st     : CState := .free
  tenant : Nat := 0
  prio   : Nat := 0
  plane  : Nat := 0
  slot   : Nat := 0
  tl     : BitVec 96 := 0
  fmt    : List W32 := List.replicate 16 0x000507C3
  aflags : W32 := 0
  amask  : W32 := 0
  htbase : Nat := 0
  htlast : Nat := 0
  spillh : Nat := 0
  saveh  : Nat := 0
  fqh    : Nat := 0
  hctx   : Nat := 0
  srcs   : List W32 := []
  inj    : List Tok := []
  trap   : TrapSt := {}
  spill  : SpillSt := {}
  pre    : PreSt := {}
  dstop  : Bool := false
  desc   : Option Nat := none
  owed   : List (Site × Dep) := []
  since  : Nat := 0
  deriving DecidableEq, Repr

/-- A couple in exchange (R217): its residents, the cost change that decided it (R213), and the positions they left. -/
structure Couple where
  a    : Nat
  b    : Nat
  cost : Int
  posA : Nat × Nat
  posB : Nat × Nat
  deriving DecidableEq, Repr

/-- HERD registers of a die (R221), its instant number and the cycle of the next, the couples of the last instant in
exchange, the cycle in which their exchange is complete, its length and phase. -/
structure HerdRegs where
  en     : Bool := true
  period : Nat := 100
  minage : Nat := 4
  cool   : Nat := 4
  gain   : Nat := 64
  mapver : Nat := 0
  swaps  : Nat := 0
  skips  : Nat := 0
  inst   : Nat := 0
  nextAt : Nat := 400000
  busy   : List Couple := []
  done   : Nat := 0
  len    : Nat := 0
  phase  : Nat := 0
  deriving DecidableEq, Repr

/-- A pattern record of a plane (R309). -/
structure Pattern where
  slot    : Nat
  spatial : Bool
  mtr     : List W32
  first   : Nat
  rects   : List Rect
  recs    : List Rec
  pmap    : List Nat
  routes  : List (Nat × Nat × Rec)
  deriving DecidableEq, Repr

/-- A plane of the plane store (R309), with the contexts its slots are bound to. -/
structure Plane where
  idx   : Nat
  nslot : Nat
  pats  : List Pattern
  bound : List (Nat × Nat)
  image : List Byte
  deriving DecidableEq, Repr

/-- A route entry in a router (R179), whether an uncorrectable error has invalidated it (R181). -/
structure RouteEnt where
  col   : Nat
  row   : Nat
  w     : Rec
  plane : Nat
  bad   : Bool
  deriving DecidableEq, Repr

/-- A route token on the tracks, at the segment end it is about to reach (R180), and what it comes by: a track of a class and
direction (OUT's bit × 8 + its number), 96 the position's own pair, 97 the mesh (R178). -/
structure TrackTok where
  trk : Nat
  col : Nat
  row : Nat
  due : Nat
  tok : Tok
  deriving DecidableEq, Repr

/-- What a packet of the mesh carries (R182). -/
inductive Body where
  | tok (t : Tok)
  | ans (x : Site) (d : Dep)
  | flush (src res : Nat)
  | recfg (k : Nat)
  deriving DecidableEq, Repr

/-- A packet of the mesh (R182): class (0 CTRL, 1 MEMRSP, 2 MEMREQ, 3 TOKEN), where it is, the die, position and resident
it goes to, the router it comes from (row × 128 + column), and whether it is marked FL (R218); a token held beyond the hold buffer
stands in a slot of its context's spill ring. -/
structure Packet where
  cls  : Nat
  col  : Nat
  row  : Nat
  ddie : Nat
  dcol : Nat
  drow : Nat
  res  : Nat
  src  : Nat
  fl   : Bool
  due  : Nat
  body : Body
  spilt : Option Nat := none
  deriving DecidableEq, Repr

/-- A reconfiguration under way (R312): its RECFG, the sites that have not yet reloaded, and whether each has begun its
drain; those of them whose channels have drained (R188). -/
structure Recfg where
  id    : Nat
  ctx   : Nat
  die   : Nat
  plane : Nat
  site  : Bool
  first : Nat
  last  : Nat
  todo  : List (Nat × Bool)
  x     : Site
  dep   : Dep
  shut  : List Nat
  deriving DecidableEq, Repr

/-- An output that waits in a comparator (R371): the node and target index that name it with its tag and DEPTH, the token,
or the access it stands for. -/
structure DOut where
  node : Nat
  idx  : Nat
  tok  : Tok
  acc  : Option Nat
  deriving DecidableEq, Repr

/-- A TRAP.DUAL register (R370) and the comparator (R371): outputs of the primary, the shadow and the replaying spare, the
retained inputs, whether a mismatch is held, and whether the spare replays (R372). -/
structure Dual where
  k      : Nat
  ctx    : Nat
  prim   : Nat
  shad   : Nat
  spare  : Option Nat
  outP   : List DOut := []
  outS   : List DOut := []
  outX   : List DOut := []
  kept   : List Tok := []
  held   : Bool := false
  replay : Bool := false
  deriving DecidableEq, Repr

/-- A COW pool (R249): ring base, log2 of its size, head and tail. -/
structure Pool where
  base : Nat := 0
  log2 : Nat := 0
  head : Nat := 0
  tail : Nat := 0
  deriving DecidableEq, Repr

/-- A Chamois walk (R394): start position, site and direction, window end and length, and the counters at its start. -/
structure ChamoisSt where
  x     : Site
  pos   : Nat
  up    : Bool
  until_ : Nat
  w     : Nat
  base  : List (Nat × Nat × Nat)
  req   : Nat
  deriving DecidableEq, Repr

/-- The reuse sampler of a slice (R395): access count, tag registers (line, count at last access), histograms by CGEN,
and OTHER. -/
structure Sampler where
  n     : Nat := 0
  tags  : List (Nat × Nat) := []
  hist  : List (Nat × List Nat) := []
  other : Nat := 0
  deriving DecidableEq, Repr

/-- The networks of a die (R177, R182): route entries; tokens on the tracks, and for each track of a switch box the cycle from
which it may take its next beat; packets on the mesh; the sent sets of the routers, the flushes under way, the residents of the
last exchanges with the positions they left, and the routers that have installed the map version of that exchange (R218). DESIGN
CHOICE (assumption 15). -/
structure Net where
  routes : List RouteEnt := []
  tracks : List TrackTok := []
  tfree  : Table Nat := []
  mesh   : List Packet := []
  sent   : List (Nat × Nat) := []
  fls    : List (Nat × Nat) := []
  prev   : List (Nat × (Nat × Nat)) := []
  inst   : List Nat := []
  deriving DecidableEq, Repr

/-- The tables the host writes for a die (R409), and its planes. DESIGN CHOICE (assumption 16). -/
structure Tables where
  ptroot  : Table Nat := []
  pools   : Table Pool := []
  sdmOwn  : Table Nat := []
  plOwn   : Table Nat := []
  planes  : List Plane := []
  portals : Table Rec := []
  retired : List Nat := []
  deriving DecidableEq, Repr

/-- The engines of a die; `scans` are the copy slots that scans of STREAM key stores occupy (R306), each a streamer, a slot and the
cycle in which it ends. DESIGN CHOICE (assumption 15). -/
structure Engines where
  tmpls   : List Tmpl := []
  queues  : Table HQueue := []
  creqs   : List CopyReq := []
  copies  : List Copy := []
  agens   : List (Nat × Nat × Nat × Nat × Nat) := []
  islands : Table Island := []
  walks   : List Walk := []
  aw      : List Nat := [0, 0, 0, 0, 0, 0]
  lstores : List LStore := []
  lops    : List LOp := []
  scans   : List (Nat × Nat × Nat) := []
  nextId  : Nat := 1
  deriving DecidableEq, Repr

/-- Power of a die (R414 to R416): on, the states of its SDM gibibytes (0 on, 1 retention, 2 off; unlisted: on), clock in units
of 100 MHz, last temperature, the gibibytes that are waking (R232), Loupe ticks not yet counted as a second at temperature
(R396). DESIGN CHOICE (assumptions 13, 16). -/
structure Power where
  on    : Bool := true
  sdm   : Table Nat := []
  clock : Nat := 18
  temp  : Nat := 45
  wakes : List Nat := []
  ticks : Nat := 0
  deriving DecidableEq, Repr

/-- A fabric die. `idle` counts the cycles in which its channels are counted (R393), `injAt` is the cycle from which its launch
engine may inject again (R160). `moved` holds the pair (as a rank) of each resident that is not at the pair of its own number.
DESIGN CHOICE (assumption 16). -/
structure Die where
  rej     : W32 := 0
  rejcnt  : Nat := 0
  herd    : HerdRegs := {}
  moved   : Table Nat := []
  net     : Net := {}
  tab     : Tables := {}
  eng     : Engines := {}
  loupe   : Loupe := {}
  power   : Power := {}
  idle    : Nat := 0
  injAt   : Nat := 0
  recfgs  : List Recfg := []
  duals   : List Dual := []
  chamois : List ChamoisSt := []
  samp    : Table Sampler := []
  chans   : Table (Nat × Nat × Nat) := []
  stop    : Bool := false
  deriving DecidableEq, Repr

/-- A request in the service ring (R382). -/
structure Service where
  k   : Nat
  ctx : Nat
  svc : Nat
  tag : W64
  pay : W64
  x   : Site
  dep : Dep
  deriving DecidableEq, Repr

/-- A debug request that awaits its drain or window, and the answers given (R387 Table 2). -/
structure DebugWait where
  k   : Nat
  req : DebugReq
  deriving DecidableEq, Repr

/-- The management controller (R396, R412, R413): RECOVERY, fused minimum versions by image, the image digests, the
plane key, whether a context has launched since reset, lifetime counters live and in flash, spare pairs used, Loupe ticks not yet
counted as a power-on hour. DESIGN CHOICE (assumption 16). -/
structure Mgmt where
  up        : Bool := false
  recovery  : Bool := false
  fused     : Table Nat := []
  images    : List (List Byte) := []
  planeKey  : List Byte := []
  launched  : Bool := false
  live      : Table Nat := []
  flash     : Table Nat := []
  spares    : Table Nat := []
  version   : Nat := 0
  ticks     : Nat := 0
  deriving DecidableEq, Repr

/-- A token that has left a portal and crosses to its destination die (R404): the portal's die and index, the tenant and context that
sent it, the die its entry names, and the token as rewritten. -/
structure PortalTok where
  die    : Nat
  q      : Nat
  tenant : Nat
  sctx   : Nat
  ddie   : Nat
  tok    : Tok
  deriving DecidableEq, Repr

/-- The host interface and the module's own tables (R408 to R411, R406): what the device has put on its rings, the
answers to debug requests and to host reads, host writes of CTX.TLBINV not yet performed, the link's width and rate, and
the tokens and accesses that wait at a link die for a destination that cannot be reached (R405). DESIGN CHOICE
(assumption 16); PRESUMED (assumption 20). -/
structure HostIf where
  launch   : List (Nat × Nat × Nat) := []
  faults   : List (List W32) := []
  service  : List Service := []
  notices  : List (Nat × Nat) := []
  debug    : List (Nat × Nat × List Byte) := []
  waits    : List DebugWait := []
  reads    : List (List Byte) := []
  tlbinv   : List (Nat × Nat × List Nat × Option (Site × Dep)) := []
  cxl      : Table (Nat × Nat × Nat) := []
  meta_    : Nat := 0
  remote   : Table W32 := []
  exports  : Table (Nat × Nat) := []
  dev      : Nat := 0
  ptp      : W32 := 0
  unreach  : List Nat := []
  portalq  : List PortalTok := []
  quotes   : List (List Byte) := []
  width    : Nat := 16
  rate     : Nat := 7
  cap      : Nat := 3000
  nextReq  : Nat := 0
  deriving DecidableEq, Repr

end Sys2Proof.Machine
end

