-- ==== Sys2Proof/Machine/State.lean ====
section
/-! DEFINITION. The state of the module, the faults and refusals of a step, and the state after reset. -/
namespace Sys2Proof.Machine

/-- The stops of a step. The device's own faults are not among them: they are taken (R361 to R365) and end in a next
state. -/
inductive Fault where
  /-- Raised by the meaning of an operation of the opcode map when no firing is under way: a step never runs an
  operation without one. Safe. -/
  | noFiring
  deriving DecidableEq, Repr

/-- The refusals of a step. -/
inductive Refusal where
  /-- Raised by the arm of an instruction that has no meaning yet. Safe. -/
  | notModelled (mnemonic : String)
  deriving DecidableEq, Repr

/-- The module. `cycle` counts cycles of the arithmetic clock (R5); `steps` and `agenda` are the model's own: how many
steps have been taken, and what happens next before anything else; `free` counts the free values used so far; `cur` is
the firing under way. Cells are held by die × 8,192 + resident, contexts by number, dies by number; a cell, context or
die not listed is as after reset. `mem` lists bytes in its one canonical form, `lost` the ranges whose contents power
or an error has taken (first byte, length, and the number of the loss), `poison` the poisoned 32-byte granules. -/
structure State where
  cycle   : Nat
  steps   : Nat
  free    : Nat
  agenda  : List Act
  cur     : Option Firing
  parked  : List Parked
  latches : List Latch
  mem     : List Host.Cell
  lost    : List (Nat × Nat × Nat)
  poison  : List Nat
  msys    : MemSys
  cells   : Table Cell
  ctxs    : Table Ctx
  dies    : Table Die
  tens    : Table TenBlk
  mgmt    : Mgmt
  host    : HostIf
  deriving DecidableEq, Repr

/-- The module right after reset. DESIGN CHOICE (assumptions 11, 12, 13, 14, 15, 16, 17). -/
def State.reset : State :=
  { cycle := 0, steps := 0, free := 0, agenda := [], cur := none, parked := [], latches := [], mem := [],
    lost := [], poison := [], msys := {}, cells := [], ctxs := [], dies := [], tens := [], mgmt := {}, host := {} }

end Sys2Proof.Machine
end

