-- ==== Sys2Proof/Machine/Geometry.lean ====
section
/-! DEFINITION. The grid of a die (R172 to R176), resident numbers (R158), and the physical address map (R233, R285,
R401). -/
namespace Sys2Proof.Machine

/-- Columns of L2 slices (R172). -/
def sliceCol (col : Nat) : Bool := col % 8 = 7

/-- A row of an island band (R173). -/
def bandRow (row : Nat) : Bool :=
  (8 ≤ row && row ≤ 11) || (24 ≤ row && row ≤ 27) || (44 ≤ row && row ≤ 47) || (60 ≤ row && row ≤ 63)

/-- A column that an island covers within the bands (R173). -/
def holeCol (col : Nat) : Bool :=
  [1, 3, 5, 9, 11, 13].contains (col / 8) && 2 ≤ col % 8 && col % 8 ≤ 5

/-- A position inside an island hole (R173). -/
def inHole (col row : Nat) : Bool := bandRow row && holeCol col

/-- A cell position (R174): in the fabric proper, outside the islands, and in the cell's row of its pair. -/
def cellPos (col row : Nat) : Bool :=
  col < 128 && row < 72 && !sliceCol col && !inHole col row && ((col + row / 2) % 2 == row % 2)

/-- Cells of a row. -/
def rowCells (row : Nat) : Nat :=
  (if (row / 2 + row) % 2 = 0 then 64 else 48) - (if bandRow row then 12 else 0)

/-- Cells of the rows above `row`. -/
def cellsAbove (row : Nat) : Nat := (List.range row).foldl (fun a r => a + rowCells r) 0

/-- The rank of a cell position in row-major order (R158). -/
def rankOf (col row : Nat) : Nat :=
  cellsAbove row + ((List.range col).filter (fun c => cellPos c row)).length

/-- The row that holds rank `k`, counting down the rows from `row`, and the rank within it. -/
def rowOfRank : Nat → Nat → Nat → Nat × Nat
  | 0, row, k => (row, k)
  | n + 1, row, k => if k < rowCells row then (row, k) else rowOfRank n (row + 1) (k - rowCells row)

/-- The cell position of a rank (R158), as column and row. -/
def posOf (k : Nat) : Nat × Nat :=
  let (row, i) := rowOfRank 72 0 k
  ((((List.range 128).filter (fun c => cellPos c row)).getD i 0), row)

/-- Residents of a die (R158). -/
def nResidents : Nat := 3840

/-- The distance of two pair positions (R175), from cell positions. -/
def pairDist (a b : Nat × Nat) : Nat :=
  (if a.1 ≤ b.1 then b.1 - a.1 else a.1 - b.1)
    + (if a.2 / 2 ≤ b.2 / 2 then b.2 / 2 - a.2 / 2 else a.2 / 2 - b.2 / 2)

/-- The quad of a position (R176). -/
def quadOf (p : Nat × Nat) : Nat := 2 * (if p.2 ≥ 36 then 1 else 0) + (if p.1 ≥ 64 then 1 else 0)

/-- The column group of an island and its band (R173), as first column and first row. -/
def islandPos (i : Nat) : Nat × Nat :=
  (8 * [1, 3, 5, 9, 11, 13].getD (i / 4) 0 + 2, [8, 24, 44, 60].getD (i % 4) 0)

/-- The slice column nearest east of a column (R203), by number. -/
def sliceColEast (col : Nat) : Nat := col / 8

/-- The column TLB and handle cache that serve a fabric column: those of the slice column of its seven (R253). -/
def colCache (col : Nat) : Nat := col / 8

/-- The column of the link die between two dies (R399). -/
def linkCol (a b : Nat) : Nat := if (a + b) % 2 = 0 then 0 else 127

/-- The position of a slice of a die, by its number (R172). -/
def slicePos (sl : Nat) : Nat × Nat := (8 * (sl / 18) + 7, 4 * (sl % 18))

/-- The first address of the barrier counter window (R285). -/
def barBase : Nat := 0xFFFFFF0000000

/-- A barrier counter at a physical address: die, slice and counter (R285). -/
def barAt (pa : Nat) : Option (Nat × Nat × Nat) :=
  if pa < barBase then none
  else
    let o := pa - barBase
    let d := o / 0x100000
    let sl := o % 0x100000 / 0x400
    if d ≤ 3 ∧ sl ≤ 287 then some (d, sl, o % 0x400 / 16) else none

/-- Where a physical address lies (R401): HBM of a die, a CXL window, a remote window, a barrier counter, or nowhere. -/
inductive PaKind where
  | hbm (die : Nat) | cxl (die : Nat) | remote (win : Nat) | barrier | nowhere
  deriving DecidableEq, Repr

/-- The physical address map (R401), with the host's CXL window table: base, length, die (R409). -/
def paKind (cxl : Table (Nat × Nat × Nat)) (pa : Nat) : PaKind :=
  if pa ≤ 0x7FFFFFFFFF then .hbm (pa / 2 ^ 37 % 4)
  else if 0x10000000000 ≤ pa ∧ pa ≤ 0xDFFFFFFFFFFF then
    match cxl.find? (fun w => w.2.1 ≤ pa && pa < w.2.1 + w.2.2.1) with
    | some w => .cxl w.2.2.2
    | none => .nowhere
  else if 0xE000000000000 ≤ pa ∧ pa ≤ 0xEFFFFFFFFFFFF then .remote (pa / 2 ^ 40 % 256)
  else if (barAt pa).isSome then .barrier
  else .nowhere

/-- The die of a physical address's home (R233, R285). -/
def paDie (cxl : Table (Nat × Nat × Nat)) (pa : Nat) : Nat :=
  match paKind cxl pa with
  | .hbm d => d
  | .cxl d => d
  | .barrier => (match barAt pa with | some (d, _, _) => d | none => 0)
  | _ => 0

/-- The home slice of a line (R233), as die × 288 + slice; of a barrier counter, its slice (R285). -/
def homeSlice (cxl : Table (Nat × Nat × Nat)) (pa : Nat) : Nat :=
  match barAt pa with
  | some (d, sl, _) => d * 288 + sl
  | none => paDie cxl pa * 288 + pa / 128 % 288

/-- First address of the model's place for the SDM of a die; physical memory lies below it. -/
def sdmBase (die : Nat) : Nat := 2 ^ 56 + die * 2 ^ 40

/-- First address of the model's place for the MT of a resident. -/
def mtBase (x : Site) : Nat := 2 ^ 57 + (x.die * 8192 + x.res) * 65536

/-- SDM bytes of a die (R231). -/
def sdmSize : Nat := 0x300000000

end Sys2Proof.Machine
end

