-- ==== Sys2Proof/Machine/Access.lean ====
section
/-! DEFINITION. Reading and writing the parts of the state: sparse tables, contexts, cells, dies, and bytes of memory in
their one canonical form. -/
namespace Sys2Proof.Machine

/-- The entry of a table. -/
def tget {α : Type} (k : Nat) (t : Table α) : Option α := (t.find? (fun e => e.1 == k)).map (fun e => e.2)

/-- A table with the entry `k` set, keys rising. -/
def tput {α : Type} (k : Nat) (v : α) : Table α → Table α
  | [] => [(k, v)]
  | (j, w) :: t => if k < j then (k, v) :: (j, w) :: t else if k = j then (k, v) :: t else (j, w) :: tput k v t

/-- A table without the entry `k`. -/
def tdel {α : Type} (k : Nat) (t : Table α) : Table α := t.filter (fun e => e.1 != k)

/-- A list with element `i` replaced. -/
def lset {α : Type} (l : List α) (i : Nat) (v : α) : List α := l.set i v

/-- A list with every element that satisfies `p` changed by `f`. -/
def lmap {α : Type} (p : α → Bool) (f : α → α) (l : List α) : List α := l.map (fun a => if p a then f a else a)

/-- A list without its first element that satisfies `p`. -/
def ldrop {α : Type} (p : α → Bool) : List α → List α
  | [] => []
  | a :: t => if p a then t else a :: ldrop p t

/-- Addition that stays at the maximum of a `w`-bit counter (R24). -/
def satAdd (w a b : Nat) : Nat := if a + b < 2 ^ w then a + b else 2 ^ w - 1

/-- The number of a cell in the table of cells. -/
def siteKey (x : Site) : Nat := x.die * 8192 + x.res

/-- The cell of a resident. -/
def State.cell (s : State) (x : Site) : Cell := (tget (siteKey x) s.cells).getD {}

/-- A state with a resident's cell replaced. -/
def State.setCell (s : State) (x : Site) (c : Cell) : State := { s with cells := tput (siteKey x) c s.cells }

/-- A state with a resident's cell changed. -/
def State.modCell (s : State) (x : Site) (f : Cell → Cell) : State := s.setCell x (f (s.cell x))

/-- A context. -/
def State.ctx (s : State) (c : Nat) : Ctx := (tget c s.ctxs).getD {}

/-- A state with a context replaced. -/
def State.setCtx (s : State) (c : Nat) (v : Ctx) : State := { s with ctxs := tput c v s.ctxs }

/-- A state with a context changed. -/
def State.modCtx (s : State) (c : Nat) (f : Ctx → Ctx) : State := s.setCtx c (f (s.ctx c))

/-- A context has made progress: its watchdog starts anew (R369). -/
def State.progress (s : State) (c : Nat) : State :=
  if (s.ctx c).trap.idle = 0 then s else s.modCtx c (fun k => { k with trap := { k.trap with idle := 0 } })

/-- A die. -/
def State.die (s : State) (d : Nat) : Die := (tget d s.dies).getD {}

/-- A state with a die replaced. -/
def State.setDie (s : State) (d : Nat) (v : Die) : State := { s with dies := tput d v s.dies }

/-- A state with a die changed. -/
def State.modDie (s : State) (d : Nat) (f : Die → Die) : State := s.setDie d (f (s.die d))

/-- The die of a context (R9, R157). -/
def ctxDie (c : Nat) : Nat := c / 4096 % 4

/-- The pair that holds a resident, as a rank (R158, R217). -/
def State.pairOf (s : State) (x : Site) : Nat := (tget x.res (s.die x.die).moved).getD x.res

/-- The cell position of a resident. -/
def State.pos (s : State) (x : Site) : Nat × Nat := posOf (s.pairOf x)

/-- A resident whose pair is in an exchange (R217): it neither issues nor accepts. -/
def State.swapping (s : State) (x : Site) : Bool :=
  let h := (s.die x.die).herd
  s.cycle < h.done && h.busy.any (fun b => b.a == x.res || b.b == x.res)

/-- The resident at a pair: the one moved there, or the one of that rank if it has not moved away. DESIGN CHOICE
(assumption 69). -/
def State.residentAt (s : State) (d k : Nat) : Nat :=
  match (s.die d).moved.find? (fun e => e.2 == k) with
  | some e => e.1
  | none => k

/-- What an unlisted byte of memory reads as: 0, or a free value where its contents were lost (assumption 2). DESIGN
CHOICE (assumptions 2, 11). -/
def unlisted (lost : List (Nat × Nat × Nat)) (a : Nat) : Byte :=
  match lost.find? (fun r => r.1 ≤ a && a < r.1 + r.2.1) with
  | some r => Config.freeByte (r.2.2 * 2 ^ 64 + a)
  | none => 0

/-- The memory list with byte `a` set to `b`: addresses strictly rising, and no entry equal to `d`, what the byte
reads as unlisted. -/
def memPut (a : Nat) (b d : Byte) : List Host.Cell → List Host.Cell
  | [] => if b = d then [] else [(a, b)]
  | (k, v) :: t =>
    if a < k then (if b = d then (k, v) :: t else (a, b) :: (k, v) :: t)
    else if a = k then (if b = d then t else (a, b) :: t)
    else (k, v) :: memPut a b d t

/-- The byte of a memory list at `a`, if listed. DESIGN CHOICE (assumption 11). -/
def memGet (a : Nat) (m : List Host.Cell) : Option Byte := (m.find? (fun e => e.1 == a)).map (fun e => e.2)

/-- An address in a remote window (R401, R406): its byte is another module's. DESIGN CHOICE (assumption 8). -/
def isRemote (a : Nat) : Bool := 0xE000000000000 ≤ a && a ≤ 0xEFFFFFFFFFFFF

/-- One byte of memory. A byte of another module is a free value (assumption 8). DESIGN CHOICE (assumptions 8, 11). -/
def State.byte (s : State) (a : Nat) : Byte :=
  if isRemote a then Config.remoteByte s.steps a else (memGet a s.mem).getD (unlisted s.lost a)

/-- A state with one byte of memory written; a byte of another module is written there. DESIGN CHOICE (assumption
8). -/
def State.setByte (s : State) (a : Nat) (b : Byte) : State :=
  if isRemote a then s else { s with mem := memPut a b (unlisted s.lost a) s.mem }

/-- The `n` bytes of memory from `a`. -/
def State.bytes (s : State) (a : Nat) : Nat → List Byte
  | 0 => []
  | n + 1 => s.byte a :: State.bytes s (a + 1) n

/-- A state with the bytes from `a` written. -/
def State.setBytes (s : State) (a : Nat) : List Byte → State
  | [] => s
  | b :: t => State.setBytes (s.setByte a b) (a + 1) t

/-- Little-endian bytes as a number (R4). -/
def leNat : List Byte → Nat
  | [] => 0
  | b :: t => b.toNat + 256 * leNat t

/-- The `n` little-endian bytes of a number (R4). -/
def leBytes : Nat → Nat → List Byte
  | 0, _ => []
  | n + 1, v => BitVec.ofNat 8 v :: leBytes n (v / 256)

/-- A little-endian number of `n` bytes in memory. -/
def State.num (s : State) (a n : Nat) : Nat := leNat (s.bytes a n)

/-- A state with a little-endian number of `n` bytes written. -/
def State.setNum (s : State) (a n v : Nat) : State := s.setBytes a (leBytes n v)

/-- A granule of 32 bytes is poisoned (R275). -/
def State.poisoned (s : State) (a n : Nat) : Bool := s.poison.any (fun g => a < g * 32 + 32 && g * 32 < a + n)

/-- Marks the granules of a range as poisoned (R275). -/
def State.setPoison (s : State) (a n : Nat) : State :=
  let gs := (List.range ((a + n + 31) / 32 - a / 32)).map (fun k => a / 32 + k)
  { s with poison := gs.filter (fun g => !s.poison.contains g) ++ s.poison }

/-- Clears the poison marks of the granules that a range covers whole (R275). -/
def State.clearPoison (s : State) (a n : Nat) : State :=
  { s with poison := s.poison.filter (fun g => !(a ≤ g * 32 && g * 32 + 32 ≤ a + n)) }

/-- Memory in its canonical form: addresses strictly rising, no entry equal to what it reads as unlisted. -/
def Memory.wf (lost : List (Nat × Nat × Nat)) : List Host.Cell → Bool
  | [] => true
  | (a, b) :: t => (b != unlisted lost a) && t.all (fun e => a < e.1) && Memory.wf lost t

/-- The memory of a state is in its canonical form. -/
abbrev State.memWf (s : State) : Bool := Memory.wf s.lost s.mem

/-- The contents of a range are lost (R242, R414, R366): it lists nothing and reads as free values. DESIGN CHOICE
(assumption 2). -/
def State.lose (s : State) (a n : Nat) : State :=
  { s with mem := s.mem.filter (fun e => !(a ≤ e.1 && e.1 < a + n)), lost := (a, n, s.free) :: s.lost,
           free := s.free + 1 }

/-- A free value of 64 bits (assumption 3), and the state that has used it. DESIGN CHOICE (assumptions 3, 17). -/
def State.freeVal (s : State) : W64 × State := (Config.freeWord s.free, { s with free := s.free + 1 })

/-- A level's width in bits (R12 Table 4). -/
def lvlWidth (tl : BitVec 96) (k : Nat) : Nat :=
  let lo := if k ≤ 6 then 5 * (k - 1) else if k ≤ 12 then 32 + 5 * (k - 7) else 64 + 5 * (k - 13)
  fld tl.toNat lo 5 + 1

/-- NLEV (R12 Table 4). -/
def nlev (tl : BitVec 96) : Nat := fld tl.toNat 80 4

/-- The lowest tag bit of level `k + 1`: the widths of levels 1 to `k` (R12). -/
def lvlLo (tl : BitVec 96) : Nat → Nat
  | 0 => 0
  | k + 1 => lvlLo tl k + lvlWidth tl (k + 1)

/-- Level `k` of a tag (R12). -/
def lvl (tl : BitVec 96) (tag : W64) (k : Nat) : Nat := fld tag.toNat (lvlLo tl (k - 1)) (lvlWidth tl k)

/-- A tag with level `k` set to `v` (R12). -/
def setLvl (tl : BitVec 96) (tag : W64) (k v : Nat) : W64 :=
  let lo := lvlLo tl (k - 1)
  let w := lvlWidth tl k
  BitVec.ofNat 64 (tag.toNat % 2 ^ lo + v % 2 ^ w * 2 ^ lo + tag.toNat / 2 ^ (lo + w) * 2 ^ (lo + w))

/-- A tag with the levels above `k` cleared (R13). -/
def tagUpTo (tl : BitVec 96) (tag : W64) (k : Nat) : W64 := BitVec.ofNat 64 (tag.toNat % 2 ^ lvlLo tl k)

/-- A pushed level (R13): none on TAG_OVERFLOW. -/
def tagPush (tl : BitVec 96) (t : W64 × Nat) (v : Nat) : Option (W64 × Nat) :=
  if t.2 ≥ nlev tl || v ≥ 2 ^ lvlWidth tl (t.2 + 1) then none else some (setLvl tl t.1 (t.2 + 1) v, t.2 + 1)

/-- A popped level (R13). -/
def tagPop (tl : BitVec 96) (t : W64 × Nat) : Option (W64 × Nat) :=
  if t.2 = 0 then none else some (setLvl tl t.1 t.2 0, t.2 - 1)

/-- The current level increased by `v` (R13, R56). -/
def tagIncBy (tl : BitVec 96) (t : W64 × Nat) (v : Nat) : Option (W64 × Nat) :=
  if t.2 = 0 || lvl tl t.1 t.2 + v ≥ 2 ^ lvlWidth tl t.2 then none
  else some (setLvl tl t.1 t.2 (lvl tl t.1 t.2 + v), t.2)

/-- The current level set to `v` (R56). -/
def tagSetCur (tl : BitVec 96) (t : W64 × Nat) (v : Nat) : Option (W64 × Nat) :=
  if t.2 = 0 || v ≥ 2 ^ lvlWidth tl t.2 then none else some (setLvl tl t.1 t.2 v, t.2)

/-- A target's tag action on a tag and its DEPTH (R56): none on TAG_OVERFLOW. -/
def tagAct (tl : BitVec 96) (a : TagAct) (t : W64 × Nat) : Option (W64 × Nat) :=
  match a with
  | .none => some t
  | .inc => tagIncBy tl t 1
  | .push v => tagPush tl t v
  | .pop => tagPop tl t
  | .setlvl v => tagSetCur tl t v
  | .clearlvl => tagSetCur tl t 0
  | .popinc => if t.2 < 2 then none else (tagPop tl t).bind (fun u => tagIncBy tl u 1)
  | .incn v => tagIncBy tl t v
  | .popto d => if d > t.2 then none else some (tagUpTo tl t.1 d, d)

/-- The bit of a flag (R9 Table 3). -/
def Flag.bit : Flag → Nat
  | .marker => 0 | .streamEnd => 1 | .miss => 2 | .poison => 3 | .trace => 4 | .null => 5 | .fault => 6
  | .complete => 7 | .scale => 8

/-- The code of a fault (R361 Table 1). -/
def FCode.code : FCode → Nat
  | .configReject => 0x01 | .destInvalid => 0x02 | .routeMiss => 0x03 | .tagOverflow => 0x04 | .arith => 0x05
  | .exitExcess => 0x06 | .loopOrder => 0x07 | .streamSkew => 0x08 | .keyFull => 0x09 | .keyGen => 0x0A
  | .herdPin => 0x0B | .poisonAddr => 0x0C | .cmlsSpan => 0x0D | .barrierOp => 0x0E | .barrierFull => 0x0F
  | .hqUnbound => 0x10 | .strmDesc => 0x11 | .strmBusy => 0x12 | .mxBusy => 0x13 | .mxCmd => 0x14
  | .mxOrder => 0x15 | .tableBusy => 0x16 | .awDesc => 0x17 | .awGen => 0x18 | .awNode => 0x19 | .awSlot => 0x1A
  | .awOp => 0x1B | .spillFault => 0x1C | .spillFull => 0x1D | .watchdog => 0x1E | .sinkMismatch => 0x1F
  | .user => 0x20 | .break_ => 0x21 | .eccState => 0x22 | .keyFmt => 0x23 | .keyOp => 0x24
  | .handleInvalid => 0x40 | .handleBound => 0x41 | .aperture => 0x42 | .align => 0x43 | .translation => 0x44
  | .pteInvalid => 0x45 | .prot => 0x46 | .nonres => 0x47 | .cow => 0x48 | .mtRange => 0x49 | .mtMode => 0x4A
  | .bankOff => 0x4B | .cowFree => 0x80 | .dualVote => 0x81 | .siteRetired => 0x82

/-- The kind of a fault: 0 stopping, 1 memory, 2 notice (R361, R362). -/
def FCode.kind (c : FCode) : Nat := if c.code < 0x40 then 0 else if c.code < 0x80 then 1 else 2

/-- A flag of a token. -/
def Tok.flag (t : Tok) (f : Flag) : Bool := t.flags.getLsbD f.bit

/-- A token with a flag set or cleared. -/
def Tok.setFlag (t : Tok) (f : Flag) (b : Bool) : Tok :=
  if b then { t with flags := t.flags ||| BitVec.ofNat 10 (2 ^ f.bit) }
  else { t with flags := t.flags &&& ~~~ (BitVec.ofNat 10 (2 ^ f.bit)) }

/-- Bits 63:0 of a token's payload. -/
def Tok.w64 (t : Tok) : Nat := t.data.toNat % 2 ^ 64

/-- Bits 31:0 of a token's payload. -/
def Tok.w32 (t : Tok) : Nat := t.data.toNat % 2 ^ 32

/-- A DEST word (R9 Table 1). -/
def destWord (kind die site node port : Nat) : Nat :=
  kind * 2 ^ 30 + die * 2 ^ 28 + site * 2 ^ 15 + node * 2 ^ 5 + port * 2 ^ 3

/-- A token sent to a DEST word (R9). -/
def Tok.toDest (t : Tok) (w : Nat) : Tok :=
  { t with kind := fld w 30 2, die := fld w 28 2, site := fld w 15 13, node := fld w 5 10, port := fld w 3 2 }

/-- The code of a match action (R9 Table 2). -/
def MA.code : MA → Nat
  | .norm => 0 | .sticky => 1 | .count => 2 | .purge => 3

/-- The match action of a code (R9 Table 2). -/
def maOf (n : Nat) : MA :=
  match n % 4 with
  | 0 => .norm | 1 => .sticky | 2 => .count | _ => .purge

/-- The 128-bit header of a token (R9 Table 1). -/
def Tok.header (t : Tok) : Nat :=
  destWord t.kind t.die t.site t.node t.port * 2 ^ 96 + t.ctx * 2 ^ 82 + t.depth * 2 ^ 78 + t.ma.code * 2 ^ 76
    + t.cnt * 2 ^ 68 + t.pri * 2 ^ 63 + t.fmt.code * 2 ^ 59 + t.vec.toNat * 2 ^ 58 + t.lmask.toNat * 2 ^ 42
    + t.side.toNat * 2 ^ 10 + t.flags.toNat

/-- The token of a header, a tag and a payload (R9); the spare bits of DEST and FLAGS bit 9 are ignored. -/
def tokOf (h : Nat) (tag : W64) (data : Payload) : Tok :=
  { kind := fld h 126 2, die := fld h 124 2, site := fld h 111 13, node := fld h 101 10, port := fld h 99 2,
    ctx := fld h 82 14, depth := fld h 78 4, ma := maOf (fld h 76 2), cnt := fld h 68 8, pri := fld h 63 5,
    fmt := tyOf (fld h 59 4), vec := fld h 58 1 = 1, lmask := BitVec.ofNat 16 (fld h 42 16),
    side := BitVec.ofNat 32 (fld h 10 32), flags := BitVec.ofNat 10 (fld h 0 9), tag := tag, data := data }

/-- A token record (R159): header, tag and payload; 32 bytes, or 96 for a vector. -/
def Tok.record (t : Tok) : List Byte :=
  leBytes 16 t.header ++ leBytes 8 t.tag.toNat
    ++ (if t.vec then leBytes 8 0 ++ leBytes 64 t.data.toNat else leBytes 8 t.data.toNat)

/-- The special sink a token of DEST.KIND 0b11 names: SINK and SARG (R54, R55). -/
def Tok.sink (t : Tok) : Nat × Nat := (t.node / 64, t.node % 64 * 4 + t.port)

/-- A token bound for the exit sink (R54). -/
def Tok.isExit (t : Tok) : Bool := t.kind == 3 && t.sink.1 == 0

end Sys2Proof.Machine
end

