-- ==== Sys2Proof/Machine/Translate.lean ====
section
/-! DEFINITION. Translation (R243 to R254), the lines of the L2 slices (R233, R234, R287), and handles (R236 to R239). -/
namespace Sys2Proof.Machine

/-- A state with the memory system changed. -/
def State.modMem (s : State) (f : MemSys → MemSys) : State := { s with msys := f s.msys }

/-- The home slice of a physical address. -/
def State.slice (s : State) (pa : Nat) : Nat := homeSlice s.host.cxl pa

/-- A state in which the version clock of a slice has advanced (R287). -/
def vclkTick (m : MemSys) (sl : Nat) : MemSys :=
  { m with vclk := tput sl (((tget sl m.vclk).getD 0 + 1) % 2 ^ 32) m.vclk }

/-- Ways of a set of a slice (R233). -/
def l2Ways : Nat := 16

/-- Ways of a set that PERSIST lines may take (R234). -/
def persistWays : Nat := 4

/-- The least recently used of some lines. -/
def oldestLine (l : Table Line) : Option Nat :=
  (l.foldl (fun a e => match a with
    | none => some e
    | some b => if e.2.used < b.2.used then some e else some b) (none : Option (Nat × Line))).map (fun e => e.1)

/-- The line of a set that a miss of a policy replaces (R234): none while the set has room. PERSIST lines take at most four ways,
and only PERSIST lines replace them. DEDUCED (assumption 75). -/
def l2Victim (set : Table Line) (policy : Nat) : Option Nat :=
  let kept := set.filter (fun e => e.2.policy == 3)
  if policy = 3 && kept.length ≥ persistWays then oldestLine kept
  else if set.length < l2Ways then none
  else oldestLine (set.filter (fun e => e.2.policy != 3))

/-- The memory system after line `ln` of slice `sl` is allocated (R234, R287); `same` says which lines stand in its set.
DEDUCED (assumption 75). -/
def allocLine (m : MemSys) (sl ln policy now : Nat) (same : Nat → Bool) : MemSys :=
  let m1 := match l2Victim (m.lines.filter (fun e => same e.1)) policy with
    | some k => { m with lines := tdel k m.lines }
    | none => m
  let m2 := vclkTick m1 sl
  { m2 with lines := tput ln ⟨(tget sl m2.vclk).getD 0, policy, if policy = 1 then 0 else now⟩ m2.lines }

/-- A read reaches its home slice (R233, R234): a hit is served; a miss allocates unless the policy is NOALLOC.
DEDUCED (assumption 75). -/
def State.touch (s : State) (pa policy : Nat) : State :=
  if (barAt pa).isSome then s else
  let ln := pa / 128
  match tget ln s.msys.lines with
  | some l => s.modMem (fun m => { m with lines := tput ln { l with used := s.cycle } m.lines })
  | none =>
    if policy = 2 then s
    else s.modMem (fun m => allocLine m (s.slice pa) ln policy s.cycle
      (fun k => s.slice (k * 128) == s.slice pa && Config.l2Set k == Config.l2Set ln))

/-- A write reaches its home slice: as a read, and the line takes a new version (R287). DEDUCED (assumption 75). -/
def State.touchWrite (s : State) (pa policy : Nat) : State :=
  if (barAt pa).isSome then s else
  let s1 := s.touch pa policy
  let sl := s.slice pa
  s1.modMem (fun m =>
    let m1 := vclkTick m sl
    match tget (pa / 128) m1.lines with
    | some l => { m1 with lines := tput (pa / 128) { l with ver := (tget sl m1.vclk).getD 0 } m1.lines }
    | none => m1)

/-- The version of a line (R287). -/
def State.version (s : State) (pa : Nat) : Nat :=
  match tget (pa / 128) s.msys.lines with
  | some l => l.ver
  | none => 0

/-- Page sizes by SIZE code (R244 Table 1), as log2 of bytes. -/
def pageLog : Nat → Nat
  | 0 => 12 | 1 => 14 | 2 => 16 | 3 => 18 | 4 => 20 | 5 => 21 | 6 => 22 | 7 => 24 | 8 => 26 | 9 => 28 | 10 => 30
  | _ => 32

/-- Bytes of a page (R244). -/
def pageBytes (size : Nat) : Nat := 2 ^ pageLog size

/-- A SIZE code is legal at a level (R244 Table 1). -/
def sizeAt (level size : Nat) : Bool :=
  (level = 1 && size ≤ 4) || (level = 2 && 5 ≤ size && size ≤ 9) || (level = 3 && (size = 10 || size = 11))

/-- Entries a page covers at its level (R244 Table 1). -/
def runLen (level size : Nat) : Nat := 2 ^ (pageLog size - (12 + 9 * (level - 1)))

/-- A page-table entry (R245), as a 64-bit number. -/
abbrev Pte := Nat
/-- V (R245). -/
def pteV (e : Pte) : Bool := fld e 0 1 = 1
/-- LEAF (R245). -/
def pteLeaf (e : Pte) : Bool := fld e 1 1 = 1
/-- DIRTY (R245). -/
def pteDirty (e : Pte) : Bool := fld e 3 1 = 1
/-- PA (R245). -/
def ptePa (e : Pte) : Nat := fld e 12 40 * 4096
/-- Reserved bits (R245). -/
def pteRes (e : Pte) : Nat := fld e 52 4
/-- SIZE (R245). -/
def pteSize (e : Pte) : Nat := fld e 56 4
/-- STATE (R245): 0 HBM, 1 CXL, 2 NONRES, 3 MIGR. -/
def pteState (e : Pte) : Nat := fld e 60 2
/-- COW (R245). -/
def pteCow (e : Pte) : Bool := fld e 62 1 = 1
/-- W (R245). -/
def pteW (e : Pte) : Bool := fld e 63 1 = 1

/-- What a leaf must satisfy beyond its SIZE and reserved bits (R245, R285, R401, R406): a resident frame is aligned to
its page and stands somewhere; a remote or barrier page is not COW. -/
def leafOk (cxl : Table (Nat × Nat × Nat)) (e : Pte) (va : Nat) : Bool :=
  if pteState e ≥ 2 then true
  else ptePa e % pageBytes (pteSize e) == 0 &&
    (match paKind cxl (ptePa e + va % pageBytes (pteSize e)) with
     | .nowhere => false
     | .remote _ => !pteCow e
     | .barrier => !pteCow e
     | _ => true)

/-- The walk of R245 from `level`: the leaf and the address of its lead entry, or the fault; and the entries read. -/
def walkFrom (s : State) (va : Nat) : Nat → Nat → List Nat → Except FCode (Pte × Nat) × List Nat
  | 0, _, rd => (.error .pteInvalid, rd)
  | level + 1, a, rd =>
    let idx := fld va (12 + 9 * level) 9
    let e := s.num (a + 8 * idx) 8
    let rd1 := rd ++ [a + 8 * idx]
    if !pteV e then (.error .translation, rd1)
    else if !pteLeaf e then
      (if level = 0 || pteW e || pteCow e || pteState e ≠ 0 || pteSize e ≠ 0 || pteRes e ≠ 0 then
         (.error .pteInvalid, rd1)
       else walkFrom s va level (ptePa e) rd1)
    else if !sizeAt (level + 1) (pteSize e) || pteRes e ≠ 0 then (.error .pteInvalid, rd1)
    else
      let lead := idx - idx % runLen (level + 1) (pteSize e)
      let l := s.num (a + 8 * lead) 8
      let rd2 := if lead = idx then rd1 else rd1 ++ [a + 8 * lead]
      if !pteV l || !pteLeaf l || pteSize l ≠ pteSize e || pteRes l ≠ 0 || !leafOk s.host.cxl l va then
        (.error .pteInvalid, rd2)
      else (.ok (l, a + 8 * lead), rd2)

/-- The walk of a tenant's virtual address on a die (R243, R245), through the slices with ALLOC. -/
def State.walk (s : State) (die tenant va : Nat) : Except FCode (Pte × Nat) × State :=
  let r := walkFrom s (va % 2 ^ 57) 5 ((tget tenant (s.die die).tab.ptroot).getD 0) []
  (r.1, r.2.foldl (fun t a => t.touch a 0) s)

/-- A page-table entry with bits set by an atomic OR at its home slice (R245). -/
def State.orPte (s : State) (a bits : Nat) : State :=
  let e := s.num a 8
  if e ||| bits = e then s else (s.setNum a 8 (e ||| bits)).touchWrite a 0

/-- Address of the metadata entry of a frame (R247). -/
def State.metaAt (s : State) (pa : Nat) : Nat := s.host.meta_ + 8 * (pa / 4096)

/-- REFCNT of a frame (R247). -/
def State.refcnt (s : State) (pa : Nat) : Nat := s.num (s.metaAt pa) 4

/-- REFCNT of a frame written at its home slice (R247). -/
def State.setRefcnt (s : State) (pa v : Nat) : State :=
  (s.setNum (s.metaAt pa) 4 (v % 2 ^ 32)).touchWrite (s.metaAt pa) 0

/-- An access reached the home slice of a CXL frame: HOT counts it, in the entry of the first frame of its page (R247). -/
def State.hot (s : State) (pa page : Nat) : State :=
  match paKind s.host.cxl pa with
  | .cxl _ =>
    let a := s.metaAt page + 4
    (s.setNum a 4 (satAdd 24 (s.num a 4 / 256) 1 * 256)).touchWrite a 0
  | _ => s

/-- The hash of R331. -/
def hash16 (id : Nat) : Nat := id * 0x9E3779B1 % 2 ^ 32 / 2 ^ 16

/-- The reuse sampler of a slice counts an access (R395). -/
def Sampler.access (m : Sampler) (ln cgen : Nat) : Sampler :=
  let m1 := { m with n := m.n + 1 }
  if hash16 (ln % 2 ^ 32) % 1024 ≠ 0 then m1
  else match m.tags.find? (fun t => t.1 == ln) with
    | some t =>
      let d := Nat.max 1 (m1.n - t.2)
      let bin := Nat.min 31 (Nat.log2 d)
      let bump (l : List Nat) : List Nat := l.set bin (satAdd 32 (l.getD bin 0) 1)
      let m2 := { m1 with tags := lmap (fun u => u.1 == ln) (fun u => (u.1, m1.n)) m1.tags }
      if m2.hist.any (fun h => h.1 == cgen) then { m2 with hist := lmap (fun h => h.1 == cgen) (fun h => (h.1, bump h.2)) m2.hist }
      else if m2.hist.length < 4 then { m2 with hist := m2.hist ++ [(cgen, bump (List.replicate 32 0))] }
      else { m2 with other := satAdd 32 m2.other 1 }
    | none =>
      let l := if m.tags.length < 64 then m.tags
        else
          let old := m.tags.foldl (fun a t => Nat.min a t.2) m1.n
          ldrop (fun t => t.2 == old) m.tags
      { m1 with tags := (ln, m1.n) :: l }

/-- An access of a site reaches the home slice of a physical address in the page that begins at `page`: HOT (R247) and the reuse
sampler (R395) see it. -/
def State.reach (s : State) (x : Site) (pa page : Nat) : State :=
  if (barAt pa).isSome || isRemote pa then s else
  let sl := s.slice pa
  let g := (s.cell x).cgen % 256
  (s.hot pa page).modDie (sl / 288) (fun d => { d with
    samp := tput (sl % 288) (((tget (sl % 288) d.samp).getD {}).access (pa / 128) g) d.samp })

/-- What a translated access meets (R246): it proceeds; it faults; it parks on a page in migration; or it must wait for
a COW copy, which a walk has to begin (R248): the walked entry and its place. -/
inductive Look where
  | ok (p : Page)
  | fault (c : FCode)
  | migr
  | copy (e : Pte) (at_ : Nat)
  | held
  deriving DecidableEq, Repr

/-- The unit number of a page walker (R348). -/
def unitPageWalker (k : Nat) : Nat := 8500 + k

/-- A record of a unit waits for a place in its queue, and holds the unit (R352). -/
def Loupe.waits (l : Loupe) (u : Nat) : Bool := l.backlog.any (fun e => e.1 == u)

/-- A translation enters the TLBs of its pair and column (R253, R251): only HBM and CXL leaves are held. -/
def State.fillTlb (s : State) (die place col tenant va : Nat) (e : Pte) : State :=
  if pteState e ≥ 2 then s else
  let base := va / pageBytes (pteSize e) * pageBytes (pteSize e)
  let ent (p : Nat) : Tlb := ⟨die, p, tenant, base, pteSize e, ptePa e, pteW e, pteCow e, pteDirty e, pteState e⟩
  let without := s.msys.tlb.filter (fun t => !(t.die == die && (t.place == place || t.place == 8192 + col)
    && t.tenant == tenant && t.va == base))
  let micro := without.filter (fun t => t.die == die && t.place == place)
  let cols := without.filter (fun t => t.die == die && t.place == 8192 + col)
  let rest := without.filter (fun t => !(t.die == die && (t.place == place || t.place == 8192 + col)))
  s.modMem (fun m => { m with tlb := ent place :: micro.take 31 ++ (ent (8192 + col) :: cols.take 4095) ++ rest })

/-- A cached translation that may serve an access (R245, R248, R253): a write needs W, DIRTY and no COW. -/
def State.tlbHit (s : State) (die place col tenant va : Nat) (write : Bool) : Option Page :=
  match s.msys.tlb.find? (fun t => t.die == die && (t.place == place || t.place == 8192 + col) && t.tenant == tenant
      && t.va ≤ va && va < t.va + pageBytes t.size && (!write || (t.w && t.dirty && !t.cow))) with
  | some t => some ⟨t.va, t.size, t.pa, t.tier⟩
  | none => none

/-- The walk of an access and what it meets (R246, R248). ACC is set when the TLBs fill, DIRTY for a write. -/
def State.lookup (s : State) (die place col tenant va : Nat) (write : Bool) : Look × State :=
  match s.walk die tenant va with
  | (.error c, s1) => (.fault c, s1)
  | (.ok (e, a), s1) =>
    if pteState e = 2 then (.fault .nonres, s1)
    else if pteState e = 3 then (.migr, s1)
    else
      let pg (e : Pte) : Page := ⟨va / pageBytes (pteSize e) * pageBytes (pteSize e), pteSize e, ptePa e, pteState e⟩
      if !write then (.ok (pg e), (s1.orPte a 4).fillTlb die place col tenant va (e ||| 4))
      else if !pteW e then (.fault .prot, s1)
      else if !pteCow e then (.ok (pg e), (s1.orPte a 12).fillTlb die place col tenant va (e ||| 12))
      else if (barAt (ptePa e)).isSome then (.fault .pteInvalid, s1)
      else if s1.refcnt (ptePa e) = 1 then
        -- COW cleared by a compare-and-swap that nothing comes between (R248)
        let e2 := (e - 2 ^ 62) ||| 12
        (.ok (pg e2), ((s1.setNum a 8 e2).touchWrite a 0).fillTlb die place col tenant va e2)
      else if pageLog (pteSize e) > 21 then (.fault .cow, s1)
      else (.copy e a, s1)

/-- The address of a byte in a page. -/
def Page.at (p : Page) (va : Nat) : Nat := p.pa + (va - p.va)

/-- The pages a virtual range meets, looked up in turn; `fuel` bounds their number. The first that does not proceed
decides. `some col` uses the TLBs of a pair's column first. -/
def State.lookRange (s : State) (die place col tenant : Nat) (write useTlb : Bool) :
    Nat → Nat → Nat → List Page → Except (Look × Nat) (List Page) × State
  | 0, _, _, acc => (.ok acc, s)
  | fuel + 1, va, n, acc =>
    if n = 0 then (.ok acc, s)
    else
      let r : Look × State :=
        match (if useTlb then s.tlbHit die place col tenant va write else none) with
        | some p => (.ok p, s)
        -- a page walker that a record holds starts no walk (R352)
        | none => if (s.die die).loupe.waits (unitPageWalker (va / 4096 % 16)) then (.held, s)
          else s.lookup die place col tenant va write
      match r with
      | (.ok p, s1) =>
        let m := Nat.min n (p.va + pageBytes p.size - va)
        State.lookRange s1 die place col tenant write useTlb fuel (va + m) (n - m) (acc ++ [p])
      | (l, s1) => (.error (l, va), s1)

/-- The page of a list that holds a virtual address. -/
def pageOf (ps : List Page) (va : Nat) : Option Page := ps.find? (fun p => p.va ≤ va && va < p.va + pageBytes p.size)

/-- The physical address of a virtual one under a list of pages. -/
def paOf (ps : List Page) (va : Nat) : Option Nat := (pageOf ps va).map (fun p => p.at va)

/-- An access of a site through pages reaches the home slice of a virtual address (R247, R395). -/
def State.reachVa (s : State) (x : Site) (ps : List Page) (va : Nat) : State :=
  match pageOf ps va with
  | some p => s.reach x (p.at va) p.pa
  | none => s

/-- A handle-table entry (R236), as a 128-bit number. -/
structure Handle where
  w : Nat
  deriving DecidableEq, Repr

/-- BASE (R236). -/
def Handle.base (h : Handle) : Nat := fld h.w 0 57
/-- VALID (R236). -/
def Handle.valid (h : Handle) : Bool := fld h.w 63 1 = 1
/-- SPACE (R236). -/
def Handle.space (h : Handle) : Nat := fld h.w 61 2
/-- PCLASS (R236). -/
def Handle.pclass (h : Handle) : Nat := fld h.w 57 4
/-- BOUND (R236). -/
def Handle.bound (h : Handle) : Nat := fld h.w 64 32 + fld h.w 96 25 * 2 ^ 32
/-- FMTI (R236). -/
def Handle.fmti (h : Handle) : Nat := fld h.w 124 4
/-- POLICY (R236). -/
def Handle.policy (h : Handle) : Nat := fld h.w 122 2
/-- The reserved bit (R236). -/
def Handle.res (h : Handle) : Nat := fld h.w 121 1

/-- MTRk of a memory tile (R226). -/
def MTile.word (m : MTile) (k : Nat) : Nat := (m.mtr.getD k 0).toNat
/-- VALID of MTRk (R226). -/
def MTile.valid (m : MTile) (k : Nat) : Bool := fld (m.word k) 31 1 = 1
/-- The base byte of region k (R226). -/
def MTile.base (m : MTile) (k : Nat) : Nat := fld (m.word k) 26 3 * 8192
/-- The size of region k in bytes (R226). -/
def MTile.rsize (m : MTile) (k : Nat) : Nat := (fld (m.word k) 23 3 + 1) * 8192
/-- MODE of region k: 0 OPSTORE, 1 FIFO, 2 LINE, 3 KEYSTORE (R226). -/
def MTile.mode (m : MTile) (k : Nat) : Nat := fld (m.word k) 21 2
/-- DEPTH of region k (R226). -/
def MTile.depth (m : MTile) (k : Nat) : Nat := fld (m.word k) 17 4
/-- SIZE of region k in bytes (R226). -/
def MTile.size (m : MTile) (k : Nat) : Nat := fld (m.word k) 0 16 * 8

/-- Why a use of a handle does not go through at once: a memory fault and the address its record names (R238), a page
in migration; a page that a write finds shared (R248); or something that it only has to wait for (R228 to R232, R241, R242, R405). -/
inductive Block where
  | fault (c : FCode) (arg : Nat)
  | migr (va : Nat)
  | copy (e : Pte) (at_ va : Nat)
  | wait
  deriving DecidableEq, Repr

/-- Lane `k` of a vector as Z32. -/
def Tok.lane (t : Tok) (k : Nat) : Nat := fld t.data.toNat (32 * k) 32

/-- The lines a CMLS descriptor uses, ascending, and their offsets (R289). -/
def cmlsLines (d : Tok) : List (Nat × Nat) :=
  ((List.range 4).filter (fun k => d.lmask.getLsbD k)).map (fun k => (k, d.lane k))

/-- The lines a CMLS writes, as addresses of its space. -/
def Access.lines (a : Access) : List (Nat × Nat) := (cmlsLines a.desc).map (fun p => (p.1, a.addr + p.2))

/-- The byte ranges of an access: first byte and length. -/
def Access.ranges (a : Access) : List (Nat × Nat) :=
  match a.kind with
  | .ord | .fence => []
  | .cmls => a.lines.map (fun p => (p.2, 128))
  | _ => [(a.addr, a.size)]

/-- An access writes, as translation sees it (R246): atomics, CMLS and LDR count as writes. -/
def Access.writes (a : Access) : Bool := a.store || a.kind == .ldr

/-- The pages of a range, in 4 KiB, that no TLB of a site serves (R253). -/
def State.missPages (s : State) (x : Site) (tenant va n : Nat) (write : Bool) : List (Nat × Nat) :=
  let col := colCache (s.pos x).1
  ((List.range (if n = 0 then 0 else (va + n - 1) / 4096 - va / 4096 + 1)).map (fun k => va / 4096 + k)).filterMap (fun p =>
    if (s.tlbHit x.die (s.pairOf x) col tenant (Nat.max va (p * 4096)) write).isSome then none else some (tenant, p))

/-- The pages that an access misses. -/
def State.accMisses (s : State) (a : Access) : List (Nat × Nat) :=
  (a.ranges.map (fun r => s.missPages a.x (s.ctx a.ctx).tenant r.1 r.2 a.writes)).flatten

/-- The misses outstanding on a die (R253): those of accesses that walk, and of all that has parked. -/
def State.misses (s : State) (die : Nat) : List (Nat × Nat) :=
  let walking (y : Access) : Bool :=
    y.x.die == die && y.space == .virt && (y.st == .walk || y.st == .parked || y.st == .migr)
  let waiting (w : PageWait) : Option (Nat × Nat) := if w.die = die then some (w.tenant, w.va / 4096) else none
  let firing (p : Parked) : Option (Nat × Nat) := if p.f.x.die = die then p.miss.map (fun v => (p.tenant, v / 4096)) else none
  (((s.msys.accs.filter walking).map s.accMisses).flatten ++ s.msys.waits.filterMap waiting ++ s.parked.filterMap firing).eraseDups

/-- A miss of a die finds no slot to be tracked in (R253). -/
def State.missFull (s : State) (die : Nat) (l : List (Nat × Nat)) : Bool :=
  !l.isEmpty && l.any (fun p => !(s.misses die).contains p) && (s.misses die).length ≥ 512

/-- The handle-table entry `k` of a context as a site uses it (R238): a cached entry of its slice column, or the entry
in memory, which is then cached. -/
def State.handleEntry (s : State) (x : Site) (c k : Nat) : Except Block Handle × State :=
  let col := colCache (s.pos x).1
  match s.msys.hcache.find? (fun h => h.die == x.die && h.col == col && h.ctx == c && h.k == k) with
  | some h => (.ok ⟨h.w.toNat⟩, s)
  | none =>
    let cx := s.ctx c
    let va := (cx.htbase + 16 * k) % 2 ^ 57
    if s.missFull x.die (s.missPages x cx.tenant va 16 false) then (.error .wait, s) else
    match s.lookRange x.die (s.pairOf x) col cx.tenant false true 2 va 16 [] with
    | (.error (.fault f, _), s1) => (.error (.fault f va), s1)
    | (.error (_, v), s1) => (.error (.migr v), s1)
    | (.ok ps, s1) =>
      match paOf ps va with
      | none => (.error (.fault .translation va), s1)
      | some pa =>
        let s2 := (s1.touch pa 0).reachVa x ps va
        if s2.poisoned pa 16 then (.error (.fault .handleInvalid va), s2)
        else
          let w := s2.num pa 16
          (.ok ⟨w⟩, s2.modMem (fun m => { m with hcache := ⟨x.die, col, c, k, BitVec.ofNat 128 w⟩ :: m.hcache }))

/-- The check of an access of `n` bytes at offset `o` through handle `h` (R237): the entry, or the fault. -/
def State.checkHandle (s : State) (x : Site) (c h o n : Nat) : Except Block Handle × State :=
  if h > (s.ctx c).htlast then (.error (.fault .handleInvalid o), s)
  else match s.handleEntry x c h with
    | (.error b, s1) => (.error b, s1)
    | (.ok e, s1) =>
      if !e.valid || e.space = 3 || (12 ≤ e.pclass && e.pclass ≤ 14) || e.res ≠ 0 then
        (.error (.fault .handleInvalid o), s1)
      else if e.bound = 0 || e.base + e.bound > 2 ^ 57 then (.error (.fault .handleInvalid o), s1)
      else if o + n > e.bound then (.error (.fault .handleBound (if e.space = 0 then e.base + o else o)), s1)
      else if e.space = 2 && (e.base ≥ 4 || !(s1.cell x).mt.valid e.base
          || e.bound > (s1.cell x).mt.rsize e.base) then
        (.error (.fault .handleInvalid o), s1)
      else (.ok e, s1)

/-- A generic address (R239): its space, die and address, or none. -/
def genericOf (die g : Nat) : Option (Space × Nat × Nat) :=
  if fld g 57 7 = 0 then some (.virt, die, fld g 0 57)
  else
    let top := fld g 56 8
    if (top = 0xFE ∨ top = 0xFD ∨ top = 0xFC) ∧ fld g 36 20 = 0 then
      if top = 0xFE then (if fld g 16 20 ≠ 0 then none else some (.mt, die, fld g 0 16))
      else if top = 0xFD ∧ fld g 34 2 ≠ 0 then none
      else
        let d := if top = 0xFD then die else fld g 34 2
        if fld g 0 34 ≥ sdmSize then none else some (.sdm, d, fld g 0 34)
    else none

/-- The tenant of an SDM granule (R232), if any. -/
def State.sdmTenant (s : State) (die a : Nat) : Option Nat := tget (a / 2 ^ 20) (s.die die).tab.sdmOwn

/-- A tenant owns every granule of an SDM range (R232). -/
def State.sdmOwned (s : State) (die a n tenant : Nat) : Bool :=
  (List.range ((a + n - 1) / 2 ^ 20 - a / 2 ^ 20 + 1)).all
    (fun k => s.sdmTenant die (a + k * 2 ^ 20) == some tenant)

end Sys2Proof.Machine
end

