-- ==== Sys2Proof/Machine/Homes.lean ====
section
/-! DEFINITION. What stands at the homes of bytes (R256): the regions and banks of memory tiles (R228 to R230, R242), the power of SDM
(R232, R414), and the bytes that a load or store made at once reads or writes there. -/
namespace Sys2Proof.Machine

/-- The region of a tile that contains a byte (R239). -/
def MTile.regionAt (m : MTile) (b : Nat) : Option Nat :=
  (List.range 4).find? (fun k => m.valid k && m.base k ≤ b && b < m.base k + m.rsize k)

/-- The mode of a region against an access (R228, R229): the fault, if it meets one. DEDUCED (assumption 71). -/
def MTile.check (m : MTile) (k off n : Nat) (write : Bool) : Option FCode :=
  let sz := m.size k
  match m.mode k with
  | 0 => if off + n > sz then some .mtRange else none
  | 1 => if off ≠ 0 || n ≠ sz then some .mtRange else none
  | 2 =>
    if sz = 0 then some .mtRange
    else if write then (if off + n > sz then some .mtRange else none)
    else if off ≥ (m.depth k + 1) * sz || off % sz + n > sz then some .mtRange
    else none
  | _ => some .mtMode

/-- A list with element `i` set, and the elements before it `d` where the list is shorter. -/
def lput {α : Type} (d : α) (l : List α) (i : Nat) (v : α) : List α := (l ++ List.replicate (i + 1 - l.length) d).set i v

/-- The model's place for the line in progress of a LINE region: it is not one of the region's complete lines (R229).
DEDUCED (assumption 40). -/
def lineBase (x : Site) (k : Nat) : Nat := 2 ^ 58 + (siteKey x * 4 + k) * 65536

/-- Where an access of a region would read or write, as an address of the model, or none where it waits (R228, R229).
DEDUCED (assumption 40). -/
def State.mtSpot (s : State) (x : Site) (k off : Nat) (write : Bool) : Option Nat :=
  let m := (s.cell x).mt
  let r := m.regs.getD k {}
  let sz := m.size k
  let base := mtBase x + m.base k
  match m.mode k with
  | 0 =>
    if write then (if r.full.getD r.wp false then none else some (base + r.wp * sz + off))
    else (if r.full.getD r.rp false then some (base + r.rp * sz + off) else none)
  | 1 =>
    let n := m.rsize k / sz
    if write then (if r.cnt < n then some (base + (r.head + r.cnt) % n * sz) else none)
    else (if r.cnt = 0 then none else some (base + r.head * sz))
  | _ =>
    if write then some (lineBase x k + off)
    else
      let d := off / sz
      if d < r.cnt then some (base + (r.head + (m.depth k + 1) - d) % (m.depth k + 1) * sz + off % sz) else none

/-- The state of a region after an access of `n` bytes has performed (R228, R229). DEDUCED (assumption 71). -/
def State.mtAdvance (s : State) (x : Site) (k n : Nat) (write : Bool) : State :=
  let m := (s.cell x).mt
  let r := m.regs.getD k {}
  let sz := m.size k
  let dep := m.depth k + 1
  let put (s : State) (r : MtReg) : State := s.modCell x (fun c => { c with mt := { c.mt with regs := c.mt.regs.set k r } })
  match m.mode k with
  | 0 =>
    if write then
      let w := r.wc.getD r.wp 0 + n
      if w ≥ sz then
        put s { r with wc := lput 0 r.wc r.wp w, full := lput false r.full r.wp true, rc := lput 0 r.rc r.wp 0,
                       wp := (r.wp + 1) % dep }
      else put s { r with wc := lput 0 r.wc r.wp w }
    else
      let q := r.rc.getD r.rp 0 + n
      if q ≥ sz then
        put s { r with rc := lput 0 r.rc r.rp q, full := lput false r.full r.rp false, wc := lput 0 r.wc r.rp 0,
                       rp := (r.rp + 1) % dep }
      else put s { r with rc := lput 0 r.rc r.rp q }
  | 1 =>
    let total := m.rsize k / sz
    if write then put s { r with cnt := r.cnt + 1 } else put s { r with head := (r.head + 1) % total, cnt := r.cnt - 1 }
  | _ =>
    if !write then s
    else
      let w := r.wc.getD 0 0 + n
      if w < sz then put s { r with wc := [w] }
      else
        let h := if r.cnt = 0 then 0 else (r.head + 1) % dep
        let s1 := s.setBytes (mtBase x + m.base k + h * sz) (s.bytes (lineBase x k) sz)
        let line := lineBase x k
        let s2 := (List.range sz).foldl (fun t i =>
          if i % 32 = 0 && t.poisoned (line + i) 32 then t.setPoison (mtBase x + m.base k + h * sz + i) 32 else t) s1
        put s2 { r with wc := [0], head := h, cnt := Nat.min dep (r.cnt + 1) }

/-- The banks that a byte range of a tile touches. -/
def banksOf (a n : Nat) : List Nat := (List.range (if n = 0 then 0 else (a + n - 1) / 8192 - a / 8192 + 1)).map (fun k => a / 8192 + k)

/-- The power state of a bank (R242): 0 on, 1 retention, 2 off. -/
def MTile.power (m : MTile) (k : Nat) : Nat := fld m.pwr (2 * k) 2

/-- A bank is waking or coming up (R242). -/
def MTile.waking (m : MTile) (k : Nat) : Bool := m.pend.any (fun p => p.1 == k && p.2.1 == none)

/-- A bank begins to wake (R242). -/
def State.wake (s : State) (x : Site) (k : Nat) : State :=
  if (s.cell x).mt.waking k then s
  else s.modCell x (fun c => { c with mt := { c.mt with pend := c.mt.pend ++ [(k, none, [])] } })

/-- What the power of a tile's banks makes of an access to bytes `a` to `a + n − 1` (R242): off, or waiting, or ready. -/
inductive BankWait where
  | ready | off | wait
  deriving DecidableEq, Repr

/-- The power of the banks of a byte range, waking those in retention (R242). -/
def State.bankCheck (s : State) (x : Site) (a n : Nat) : BankWait × State :=
  let m := (s.cell x).mt
  let ks := banksOf a n
  if ks.any (fun k => m.power k = 2 && !m.waking k) then (.off, s)
  else
    let ret := ks.filter (fun k => m.power k = 1)
    if ret.isEmpty && !ks.any m.waking then (.ready, s) else (.wait, ret.foldl (fun t k => t.wake x k) s)

/-- The byte of its tile whose bank serves an address that `mtSpot` gave. The line in progress of a LINE region is served
by the bank of the line that it will overwrite (R229, R242; assumption 40). DEDUCED (assumption 40). -/
def State.bankByte (s : State) (x : Site) (a : Nat) : Nat :=
  if a < 2 ^ 58 then a - mtBase x
  else
    let k := (a - 2 ^ 58) / 65536 % 4
    let m := (s.cell x).mt
    let r := m.regs.getD k {}
    m.base k + (if r.cnt = 0 then 0 else (r.head + 1) % (m.depth k + 1)) * m.size k + (a - 2 ^ 58) % 65536

/-- The power state of an SDM byte's gibibyte: 0 on, 1 retention, 2 off (R414). -/
def State.sdmPower (s : State) (die a : Nat) : Nat :=
  if (s.die die).power.on then (tget (a / 2 ^ 30) (s.die die).power.sdm).getD 0 else 2

/-- A gibibyte of SDM in retention begins to wake, because an access waits for it (R232). -/
def State.sdmWake (s : State) (die gib : Nat) : State :=
  if (s.die die).power.wakes.contains gib then s
  else s.modDie die (fun d => { d with power := { d.power with wakes := gib :: d.power.wakes } })

/-- What the power of SDM makes of an access to a range (R232), waking what is in retention. -/
def State.sdmCheck (s : State) (die a n : Nat) : BankWait × State :=
  let gibs := (List.range (if n = 0 then 0 else (a + n - 1) / 2 ^ 30 - a / 2 ^ 30 + 1)).map (fun k => a / 2 ^ 30 + k)
  let is (v : Nat) : List Nat := gibs.filter (fun g => s.sdmPower die (g * 2 ^ 30) = v)
  if !(is 2).isEmpty then (.off, s)
  else if (is 1).isEmpty then (.ready, s)
  else (.wait, (is 1).foldl (fun t g => t.sdmWake die g) s)

/-- Word `k` of a descriptor (R297 Table 1). -/
def descW (d : Desc) (k : Nat) : Nat := (d.getD k 0).toNat

/-- SRCH (R297). -/
def descSrch (d : Desc) : Nat := fld (descW d 0) 16 16
/-- DSTH (R297). -/
def descDsth (d : Desc) : Nat := fld (descW d 0) 0 16
/-- OP is ZERO (R297). -/
def descZero (d : Desc) : Bool := fld (descW d 3) 8 2 = 1
/-- The region of its pair's tile that a handle names (R236), if it names one. -/
def State.handleRegion (s : State) (x : Site) (ctx h : Nat) : Option Nat :=
  match (s.handleEntry x ctx h).1 with
  | .ok e => if e.valid && e.space = 2 then some e.base else none
  | .error _ => none

/-- The regions of its pair's tile that a copy reads and writes (R298). -/
def State.copyRegions (s : State) (c : Copy) : List Nat :=
  (if descZero c.desc then [] else (s.handleRegion c.x c.ctx (descSrch c.desc)).toList)
    ++ (s.handleRegion c.x c.ctx (descDsth c.desc)).toList

/-- An access or sector that reached a region before place `n` in the order of sending has not performed there (R230). -/
def State.regionHeld (s : State) (x : Site) (k n : Nat) : Bool :=
  s.msys.accs.any (fun y => y.x == x && y.space == .mt && y.mtr == k && y.st == .sent && y.sseq < n)
    || (s.die x.die).eng.copies.any (fun c => c.x == x && c.flight.any (fun f => f.2 < n) && (s.copyRegions c).contains k)

/-- A physical address lies in a remote window whose module cannot be reached (R405, R406). -/
def State.cutOff (s : State) (pa : Nat) : Bool :=
  isRemote pa && s.host.unreach.contains (fld ((tget (pa / 2 ^ 40 % 256) s.host.remote).getD 0).toNat 12 19)

/-- The fault that an access to a byte of memory meets at its home, if it meets one (R406, R415); a barrier counter is no fault
there. DEDUCED (assumption 58). -/
def State.homeFault (s : State) (pa : Nat) : Option FCode :=
  let up (d : Nat) : Option FCode := if (s.die d).power.on then none else some .bankOff
  match paKind s.host.cxl pa with
  | .hbm d => up d
  | .cxl d => up d
  | .barrier => up (paDie s.host.cxl pa)
  | .remote w => if fld ((tget w s.host.remote).getD 0).toNat 31 1 = 0 then some .prot else none
  | .nowhere => none

/-- Whether another module refuses an access (R406): its export table is not this module's, so what it says is a free value
(assumption 8). DESIGN CHOICE (assumption 8). -/
def State.remoteRefuses (s : State) (pas : List Nat) : Bool × State :=
  if pas.any isRemote then (s.freeVal.1.getLsbD 0, s.freeVal.2) else (false, s)

/-- Where a byte that is read or written at once lies: its home address. A byte of a tile is given as the model's address of it, since
that of a line in progress lies outside the tile (assumption 40). DEDUCED (assumption 40). -/
inductive Spot where
  | phys (pa : Nat) | sdm (die a : Nat) | mt (x : Site) (a : Nat)
  deriving DecidableEq, Repr

/-- The model's address of a spot. -/
def Spot.addr : Spot → Nat
  | .phys pa => pa
  | .sdm d a => sdmBase d + a
  | .mt _ a => a

/-- The translation of a virtual range by an access made at once (R245, R253). -/
def State.virtRange (s : State) (x : Site) (c va n : Nat) (write : Bool) : Except Block (List Page) × State :=
  if s.missFull x.die (s.missPages x (s.ctx c).tenant va n write) then (.error .wait, s) else
  match s.lookRange x.die (s.pairOf x) (colCache (s.pos x).1) (s.ctx c).tenant write true (n / 4096 + 2) va n [] with
  | (.error (.fault f, v), s1) => (.error (.fault f v), s1)
  | (.error (.copy e at_, v), s1) => (.error (.copy e at_ v), s1)
  | (.error (.held, _), s1) => (.error .wait, s1)
  | (.error (_, v), s1) => (.error (.migr v), s1)
  | (.ok ps, s1) => (.ok ps, s1)

/-- The first byte of a range in each of its lines. -/
def lineStarts (a n : Nat) : List Nat :=
  (List.range (if n = 0 then 0 else (a + n - 1) / 128 - a / 128 + 1)).map (fun k => Nat.max a ((a / 128 + k) * 128))

/-- What an access made at once to translated bytes meets at their homes (R285, R405, R406, R415): a fault, or a module that cannot be
reached; else its lines are reached (R234, R247, R287). -/
def State.virtHome (s : State) (x : Site) (ps : List Page) (va n : Nat) (write : Bool) (policy : Nat) : Except Block Unit × State :=
  let vas := lineStarts va n
  let pas := vas.map (fun v => (paOf ps v).getD 0)
  if pas.any s.cutOff then (.error .wait, s)
  else match pas.findSome? (fun pa => if (barAt pa).isSome then some .barrierOp else s.homeFault pa) with
    | some code => (.error (.fault code va), s)
    | none =>
      let (no, s1) := s.remoteRefuses pas
      if no then (.error (.fault .prot va), s1)
      else (.ok (), vas.foldl (fun t v =>
        let pa := (paOf ps v).getD 0
        (if write then t.touchWrite pa policy else t.touch pa policy).reachVa x ps v) s1)

/-- An access of `n` bytes made at once at offset `o` of region `k` of a tile, at a place in the order of sending (R228 to R230,
R242): the addresses of its bytes and the region's state after it, or what stands in its way. A write that completes a line of a
LINE region goes to that line. DEDUCED (assumptions 40, 71). -/
def State.tileSpots (s : State) (place : Nat) (x : Site) (k o n : Nat) (write : Bool) : Except Block (List Spot) × State :=
  match (s.cell x).mt.check k o n write with
  | some code => (.error (.fault code o), s)
  | none =>
    if s.regionHeld x k place then (.error .wait, s)
    else match s.mtSpot x k o write with
      | none => (.error .wait, s)
      | some at_ =>
        match s.bankCheck x (s.bankByte x at_) n with
        | (.off, s1) => (.error (.fault .bankOff o), s1)
        | (.wait, s1) => (.error .wait, s1)
        | (.ready, s1) =>
          let s2 := s1.mtAdvance x k n write
          let m := (s2.cell x).mt
          let r := m.regs.getD k {}
          let first := if m.mode k = 2 && write && r.wc.getD 0 0 = 0 then mtBase x + m.base k + r.head * m.size k + o else at_
          (.ok ((List.range n).map (fun i => .mt x (first + i))), s2)

/-- The homes of `n` bytes at offset `o` of a handle, for a load or store that performs now (a descriptor, a query by reference,
a fault record, a spilled token, a sector), at a place in the order of sending to tiles: the check of R237, then ownership and
power (R232, R414), a region and its banks (R228 to R230, R242), or translation and what stands at the home slice. -/
def State.spotsAt (s : State) (place : Nat) (x : Site) (c h o n : Nat) (write : Bool) : Except Block (List Spot) × State :=
  match s.checkHandle x c h o n with
  | (.error b, s1) => (.error b, s1)
  | (.ok e, s1) =>
    if n = 0 then (.ok [], s1) else
    let a := e.base + o
    if e.space = 0 then
      match s1.virtRange x c a n write with
      | (.error b, s2) => (.error b, s2)
      | (.ok ps, s2) =>
        match s2.virtHome x ps a n write e.policy with
        | (.error b, s3) => (.error b, s3)
        | (.ok _, s3) => (.ok ((List.range n).map (fun k => .phys ((paOf ps (a + k)).getD 0))), s3)
    else if e.space = 1 then
      if a + n > sdmSize then (.error (.fault .handleBound o), s1)
      else if !s1.sdmOwned x.die a n (s1.ctx c).tenant then (.error (.fault .prot o), s1)
      else match s1.sdmCheck x.die a n with
        | (.off, s2) => (.error (.fault .bankOff o), s2)
        | (.wait, s2) => (.error .wait, s2)
        | (.ready, s2) => (.ok ((List.range n).map (fun k => .sdm x.die (a + k))), s2)
    else s1.tileSpots place x e.base o n write

/-- The homes of bytes that are read or written at once, behind everything sent before. -/
def State.spots (s : State) (x : Site) (c h o n : Nat) (write : Bool) : Except Block (List Spot) × State :=
  s.spotsAt s.msys.sseq x c h o n write

/-- A range-scoreboard entry of a pair stalls an access to `n` bytes at `a` of a space (R241); `off` is where a region begins. -/
def State.scoredAt (s : State) (x : Site) (space die a n : Nat) (write : Bool) : Bool :=
  (s.cell x).score.any (fun e => e.space == space && e.die == die && (e.dst || write) && a < e.addr + e.len && e.addr < a + n)

/-- The homes of bytes that a firing of a cell reads or writes at issue: as `spots`, and the pair's range scoreboard stalls it
(R241). -/
def State.cellSpots (s : State) (x : Site) (c h o n : Nat) (write : Bool) : Except Block (List Spot) × State :=
  match s.checkHandle x c h o n with
  | (.error b, s1) => (.error b, s1)
  | (.ok e, s1) =>
    let a := if e.space = 2 then (s1.cell x).mt.base e.base + o else e.base + o
    if s1.scoredAt x e.space x.die a n write then (.error .wait, s1) else s1.spots x c h o n write

/-- The regions of a tile as an earlier state had them: an access made at once that a later part of the same firing keeps from
performing has not read or written (R228). -/
def State.regsOf (s s0 : State) (x : Site) : State :=
  s.modCell x (fun c => { c with mt := { c.mt with regs := (s0.cell x).mt.regs } })

/-- The bytes at a list of spots, and whether any is poisoned. -/
def State.readSpots (s : State) (l : List Spot) : List Byte × Bool :=
  (l.map (fun p => s.byte p.addr), l.any (fun p => s.poisoned p.addr 1))

/-- A state with bytes written at a list of spots. -/
def State.writeSpots (s : State) : List Spot → List Byte → State
  | p :: ps, b :: bs => State.writeSpots (s.setByte p.addr b) ps bs
  | _, _ => s

end Sys2Proof.Machine
end

