-- ==== Sys2Proof/Machine/Trace.lean ====
section
/-! DEFINITION. Emitting trace records (R344 to R353). -/
namespace Sys2Proof.Machine

/-- POISON of a list of operands (R94). -/
def anyPoison (l : List Tok) : Bool := l.any (fun t => t.flag .poison)

/-- The latest departure time among the operands' link framings (R349). -/
def lastSent (l : List Tok) : Nat := l.foldl (fun a t => Nat.max a t.sent) 0

/-- The trace block of a tenant (R347). -/
def State.ten (s : State) (t : Nat) : TenBlk := (tget t s.tens).getD {}

/-- Word `k` of a trace block (R347 Table 4). -/
def TenBlk.word (b : TenBlk) (k : Nat) : Nat := (b.w.getD k 0).toNat
/-- EN (R347). -/
def TenBlk.en (b : TenBlk) : Bool := fld (b.word 0) 31 1 = 1
/-- LOSSLESS (R347). -/
def TenBlk.lossless (b : TenBlk) : Bool := fld (b.word 0) 30 1 = 1
/-- MODE (R347): 1 stop when full. -/
def TenBlk.stopMode (b : TenBlk) : Bool := fld (b.word 0) 29 1 = 1
/-- HOME (R347). -/
def TenBlk.home (b : TenBlk) : Nat := fld (b.word 0) 27 2
/-- XT (R347). -/
def TenBlk.xt (b : TenBlk) : Bool := fld (b.word 0) 26 1 = 1
/-- CLASS (R347). -/
def TenBlk.class_ (b : TenBlk) : Nat := fld (b.word 0) 0 6
/-- BASE (R347). -/
def TenBlk.base (b : TenBlk) : Nat := fld (b.word 1) 12 20 * 4096 + fld (b.word 2) 0 20 * 2 ^ 32
/-- SIZEL (R347). -/
def TenBlk.sizel (b : TenBlk) : Nat := fld (b.word 2) 26 6

/-- A record of an event passes the tenant's filter (R347). -/
def State.traced (s : State) (tenant event : Nat) : Bool :=
  let b := s.ten tenant
  let cls := event / 32
  b.en && (cls ≥ 6 || fld b.class_ cls 1 = 1)

/-- The units that hold trace queues (R348): cells by resident, then the engines and the die's own unit. -/
def unitStreamer (st k : Nat) : Nat := 8192 + st * 4 + k
/-- The unit number of an island. -/
def unitIsland (i : Nat) : Nat := 8300 + i
/-- The unit number of a walker. -/
def unitWalker (q w : Nat) : Nat := 8400 + q * 4 + w
/-- The unit number of the die's own units. -/
def unitDie : Nat := 8600

/-- Records a unit's queue holds (R348). -/
def unitRoom (u : Nat) : Nat := if u = unitDie then 256 else 32

/-- Records of a unit in its queue. DESIGN CHOICE (assumption 66). -/
def Loupe.held (l : Loupe) (u : Nat) : Nat := (l.queue.filter (fun e => e.1 == u)).length

/-- What a record says beside its unit and time (R344). -/
structure Event where
  code   : Nat
  tenant : Nat
  ctx    : Nat := 0
  tag    : W64 := 0
  depth  : Nat := 0
  arg    : Nat := 0
  data   : Nat := 0
  xt     : Bool := false
  psn    : Bool := false
  col    : Nat := 0
  row    : Nat := 0x7F
  cgen   : Nat := 0
  after  : Nat := 0
  ext    : Option (Nat × Nat × Nat) := none

/-- The words of a record of `time` on a die (R344 Table 2). HERD_SWAP redefines W4 to W6 (R345). -/
def Event.words (e : Event) (die time : Nat) : List W32 :=
  let b (v : Nat) : W32 := BitVec.ofNat 32 v
  let std := [b time, b (time / 2 ^ 32 % 2 ^ 16 * 2 ^ 16 + e.code * 2 ^ 8 + e.tenant),
    b (die * 2 ^ 30 + e.col * 2 ^ 23 + e.row * 2 ^ 16 + e.cgen % 256 * 2 ^ 8 + e.xt.toNat * 128 + e.psn.toNat * 64),
    b (e.tag.toNat % 2 ^ 16 * 2 ^ 16 + e.arg % 2 ^ 16)]
  if e.xt then
    std ++ (match e.ext with
      | some (w4, w5, w6) => [b w4, b w5, b w6]
      | none => [b e.tag.toNat, b (e.tag.toNat / 2 ^ 32), b (e.ctx * 2 ^ 18 + e.depth * 2 ^ 14)])
      ++ [b e.data]
  else std

/-- A record enters its unit's queue, or waits for a place in it (R352). -/
def Loupe.enter (l : Loupe) (e : Nat × TRec) : Loupe :=
  if l.waits e.1 || l.held e.1 ≥ unitRoom e.1 then { l with backlog := l.backlog ++ [e] } else { l with queue := l.queue ++ [e] }

/-- A record of a unit and tenant dropped at a full queue, counted by one of the unit's four counters, or by DROPX (R351). -/
def Loupe.drop (l : Loupe) (u t : Nat) : Loupe :=
  let mine := l.drops.filter (fun d => d.1 == u)
  if mine.any (fun d => d.2.1 == t) then
    let up (d : Nat × Nat × Nat) := (d.1, d.2.1, satAdd 16 d.2.2 1)
    { l with drops := lmap (fun d => d.1 == u && d.2.1 == t) up l.drops }
  else if mine.length < 4 then { l with drops := (u, t, 1) :: l.drops }
  else { l with dropx := satAdd 48 l.dropx 1 }

/-- A unit's record enters its queue (R348, R351): stamped as R349 says. A DROP record goes before the tenant's next record. Where the
queue has no room, the record of a lossy tenant is dropped and counted, and that of a lossless one waits and holds the unit (R352). -/
def State.trace (s : State) (die u : Nat) (e : Event) : State :=
  if !s.traced e.tenant e.code then s else
  let l := (s.die die).loupe
  let time := Nat.max (Nat.max l.time ((tget u l.last).getD 0)) (if e.after = 0 then 0 else e.after + 1)
  let mk (ws : List W32) : Nat × TRec := (u, ⟨e.tenant, time, die, 0, ws⟩)
  let mine (d : Nat × Nat × Nat) : Bool := d.1 == u && d.2.1 == e.tenant
  let drops := ((l.drops.find? mine).map (fun d => mk (Event.words
    { code := 0xE0, tenant := e.tenant, arg := d.2.2, col := e.col, row := e.row, cgen := e.cgen } die time))).toList
  let recs := drops ++ [mk (e.words die time)]
  let l1 :=
    if !(s.ten e.tenant).lossless && (l.waits u || l.held u + recs.length > unitRoom u) then l.drop u e.tenant
    else { recs.foldl Loupe.enter l with last := tput u time l.last, drops := l.drops.filter (fun d => !mine d) }
  s.modDie die (fun d => { d with loupe := l1 })

/-- Tenant `t` is blocked (R353): lossless, stop mode, and fewer than 16 MiB free between WP and RP. -/
def State.traceBlocked (s : State) (t : Nat) : Bool :=
  let b := s.ten t
  b.en && b.lossless && b.stopMode
    && 2 ^ (b.sizel - 4) - (b.word 4 + 2 ^ 32 - b.word 3) % 2 ^ 32 < 2 ^ 20

/-- A unit of a die is held because a record waits for its full queue (R352), or because work of tenant `t` that records at
`event` would find it full, or that tenant blocked (R352, R353). DESIGN CHOICE (assumption 66). -/
def State.traceHeld (s : State) (die u t event : Nat) : Bool :=
  (s.die die).loupe.waits u ||
    (s.traced t event && (s.ten t).lossless && ((s.die die).loupe.held u ≥ unitRoom u || s.traceBlocked t))

/-- A record of a cell (R344): it names the cell's position and configuration generation. -/
def State.traceCell (s : State) (x : Site) (e : Event) : State :=
  let p := s.pos x
  s.trace x.die x.res { e with col := p.1, row := p.2, cgen := (s.cell x).cgen }

/-- A record of a unit of the periphery: kind 0 streamer, 1 walker, 2 page walker, 3 die unit, whose index is its die (R344). -/
def State.tracePeri (s : State) (die u kind idx : Nat) (e : Event) : State :=
  s.trace die u { e with col := kind * 32 + (if kind = 3 then die else idx), row := 0x7F, cgen := 0 }

end Sys2Proof.Machine
end

