-- ==== Sys2Proof/Machine/Ops.lean ====
section
/-! DEFINITION. Operations that many steps share: sending packets (R182), taking a fault (R361 to R365) and the return
from one (R365, R386), spilling (R16, R368), and the retirement of instances (R23). -/
namespace Sys2Proof.Machine

/-- The router number of a position. -/
def routerOf (p : Nat × Nat) : Nat := p.2 * 128 + p.1

/-- Cycles that the further beats of a packet add (R177, R185): a vector token is three beats. -/
def Body.beats : Body → Nat
  | .tok t => if t.vec then 2 else 0
  | _ => 0

/-- Where a router's map has a resident of its die (R218): until it installs the version of the last exchanges, where that resident
stood before them. -/
def State.mapPos (s : State) (die r ddie res : Nat) : Nat × Nat :=
  let n := (s.die die).net
  match n.prev.find? (fun e => e.1 == res) with
  | some e => if ddie = die && !n.inst.contains r then e.2 else s.pos ⟨ddie, res⟩
  | none => s.pos ⟨ddie, res⟩

/-- A packet enters the mesh of a die at a position, for a resident of die `ddie` (R182, R218): it goes to the position
of that resident in its router's map, that router records the resident in its sent set, and the packet is marked FL while that
router's flush of the resident is undelivered. DESIGN CHOICE (assumption 19). -/
def State.netSend (s : State) (die : Nat) (p : Nat × Nat) (cls ddie res : Nat) (body : Body) : State :=
  let r := routerOf p
  let q := s.mapPos die r ddie res
  s.modDie die (fun d => { d with net := { d.net with
    mesh := d.net.mesh ++ [⟨cls, p.1, p.2, ddie, q.1, q.2, res, r, ddie = die && d.net.fls.contains (r, res), s.cycle + 4 + body.beats, body, none⟩]
    sent := if ddie ≠ die || d.net.sent.contains (r, res) then d.net.sent else (r, res) :: d.net.sent } })

/-- The class of mesh traffic that carries a token (R182): completion tokens are MEMRSP. DEDUCED (assumption 80). -/
def tokClass (t : Tok) : Nat := if t.flag .complete then 1 else 3

/-- The place on a die from which an answer of a home enters the mesh (R182): a slice, the link die toward another die, or the
pair itself. -/
def homePos (die : Nat) (own : Nat × Nat) (home : Nat) : Nat × Nat :=
  if home ≥ 1152 then own
  else if home / 288 = die then slicePos (home % 288)
  else (linkCol die (home / 288), own.2)

/-- A packet carries a token or an answer of a context. -/
def Packet.of (p : Packet) (ctx : Nat) : Bool :=
  match p.body with
  | .tok t => t.ctx == ctx
  | .ans _ d => d.ctx == ctx
  | _ => false

/-- The answers on their way to a cell (R272): those that have come in by its router port, then those still on the mesh. -/
def State.answersTo (s : State) (x : Site) : List Dep :=
  (s.cell x).pipe.ans ++ (s.die x.die).net.mesh.filterMap (fun p =>
    match p.body with
    | .ans y d => if y = x then some d else none
    | _ => none)

/-- A token addressed by DEST to a resident enters the mesh (R182). One that leaves its die carries its departure time
(R349). -/
def State.sendTok (s : State) (die : Nat) (p : Nat × Nat) (cls : Nat) (t : Tok) : State :=
  let t1 := if t.die = die then t else { t with sent := (s.die die).loupe.time }
  s.netSend die p cls t.die t.site (.tok t1)

/-- The fault latches of a site (R363), by unit number. -/
def siteUnit (x : Site) : Nat := siteKey x

/-- The fault latches of an engine of a die (R363): SRC 1 streamer, 2 island, 3 walker or die unit, and ENG. -/
def engUnit (die src eng : Nat) : Nat := 2 ^ 16 * (1 + src) + die * 8192 + eng

/-- Records waiting in a unit's latches. -/
def State.latched (s : State) (unit : Nat) : Nat := (s.latches.filter (fun l => l.unit == unit)).length

/-- Latches of a unit (R363). -/
def nLatches : Nat := 4

/-- A STOP of a context or of its die covers a context (R388): one that is being saved is stopped only once it has been (R390). -/
def State.stopped (s : State) (c : Nat) : Bool := (s.ctx c).pre.phase ≠ 1 && ((s.ctx c).dstop || (s.die (ctxDie c)).stop)

/-- A STOP of a site acts there (R388): one that reached a pair in an exchange once that is complete (R217). -/
def State.siteStop (s : State) (x : Site) : Bool := (s.cell x).frz.stop && !s.swapping x

/-- A STOP covers a context at a site (R388, R390). -/
def State.stopAt (s : State) (x : Site) (c : Nat) : Bool := (s.siteStop x && (s.ctx c).pre.phase ≠ 1) || s.stopped c

/-- What keeps a context from RUNNING (R365, R388): an open stopping record, a latched record, a STOP. -/
def State.stopCause (s : State) (c : Nat) : Bool :=
  (s.ctx c).trap.sopen > 0 || s.stopped c || s.latches.any (fun l => l.fr.ctx == c)

/-- What a parked firing waits for names it: a record not yet answered, in the queue, in a latch, or kept by a pre-emption. -/
def State.owesAnswer (s : State) (c id : Nat) : Bool :=
  (s.ctx c).trap.opens.any (fun o => o.what == .refire id) || s.latches.any (fun l => l.what == .refire id)
    || (s.ctx c).pre.faults.any (fun l => l.what == .refire id)

/-- The parked firings of a context that wait for nothing more (R95, R252). -/
def State.unparked (s : State) (c : Nat) : List Nat :=
  (s.parked.filter (fun p => p.f.ent.ctx == c && p.migr.isNone && !s.owesAnswer c p.id)).map (fun p => p.id)

/-- A RUNNING or STOPPED context takes the state it would otherwise hold (R365, R390); a firing that is still ready then issues
again. -/
def State.settle (s : State) (c : Nat) : State :=
  match (s.ctx c).st with
  | .running => if s.stopCause c then s.modCtx c (fun k => { k with st := .stopped }) else s
  | .stopped =>
    if s.stopCause c then s
    else { s.modCtx c (fun k => { k with st := .running }) with agenda := s.agenda ++ (s.unparked c).map (fun id => .refire id) }
  | _ => s

/-- The words of a fault record (R362 Table 2). -/
def FRec.words (r : FRec) (seq : Nat) : List W32 :=
  let b (v : Nat) : W32 := BitVec.ofNat 32 v
  [b (r.node * 2 ^ 16 + r.src * 2 ^ 10 + r.code.kind * 2 ^ 8 + r.code.code),
   b (r.die * 2 ^ 30 + r.col * 2 ^ 23 + r.row * 2 ^ 16 + r.ctx), b r.tag.toNat, b (r.tag.toNat / 2 ^ 32),
   b (r.eng * 2 ^ 16 + r.depth), b r.arg.toNat, b (r.arg.toNat / 2 ^ 32), b seq]

/-- The little-endian bytes of words (R4). -/
def wordBytes (ws : List W32) : List Byte := (ws.map (fun w => leBytes 4 w.toNat)).flatten

/-- Where the hardware itself stands when it reads or writes a context's fault queue, spill ring or save area. -/
def homeSite (c : Nat) : Site := ⟨ctxDie c, 0⟩

/-- Reads `n` bytes at an offset of a context's handle. -/
def State.ctxRead (s : State) (c h o n : Nat) : Except Block Nat × State :=
  match s.spots (homeSite c) c h o n false with
  | (.ok l, s1) => (.ok (leNat (s1.readSpots l).1), s1)
  | (.error b, s1) => (.error b, s1)

/-- The BOUND of a context's handle. -/
def State.ctxBound (s : State) (c h : Nat) : Except Block Nat × State :=
  match s.checkHandle (homeSite c) c h 0 64 with
  | (.ok e, s1) => (.ok e.bound, s1)
  | (.error b, s1) => (.error b, s1)

/-- The COW pool of a tenant and page size on a die (R249). -/
def State.pool (s : State) (die tenant size : Nat) : Pool := (tget (tenant * 8 + size) (s.die die).tab.pools).getD {}

/-- A tenant's pages drop from every TLB of every die (R248, R254): those that overlap a range. -/
def State.dropTlb (s : State) (tenant va n : Nat) : State :=
  s.modMem (fun m => { m with tlb := m.tlb.filter (fun t => !(t.tenant == tenant && t.va < va + n
    && va < t.va + pageBytes t.size)) })

/-- A frame is taken at the head of a COW pool, by an atomic at the home slice of its ring (R249): the frame, if there is one. -/
def State.takeFrame (s : State) (die tenant size : Nat) : Option Nat × State :=
  let p := s.pool die tenant size
  if p.head % 2 ^ 64 = p.tail ∨ size > 5 then (none, s)
  else
    let ring := p.base + 8 * (p.head % 2 ^ p.log2)
    (some (s.num ring 8), (s.touchWrite ring 0).modDie die (fun d => { d with tab := { d.tab with
      pools := tput (tenant * 8 + size) { p with head := p.head + 1 } d.tab.pools } }))

/-- A COW resolution begins its copy (R248): the PTE in MIGR, the page dropped from the TLBs, a frame from the pool of the page size,
the copy under way. With no frame, or one not aligned to its size, which is consumed, the PTE is restored (R249), and the answer is
false. `init` replays the write at the end; `after` is the latest departure behind it (R349). -/
def State.beginCow (s : State) (die tenant ctx va : Nat) (e : Pte) (at_ : Nat) (init : Option Act) (after : Nat) : Bool × State :=
  let size := pteSize e
  let base := va / pageBytes size * pageBytes size
  let s1 := ((s.setNum at_ 8 (e ||| 3 * 2 ^ 60)).touchWrite at_ 0).dropTlb tenant base (pageBytes size)
  match s1.takeFrame die tenant size with
  | (some f, s2) =>
    if f % pageBytes size ≠ 0 then (false, (s2.setNum at_ 8 e).touchWrite at_ 0)
    else
      let s3 := s2.modMem (fun m => { m with cows := m.cows ++ [⟨die, tenant, ctx, base, at_, e, ptePa e, f, va, init, after⟩] })
      let ev : Event := { code := 0x85, tenant := tenant, ctx := ctx, arg := size, data := ptePa e / 4096, xt := true, after := after }
      (true, s3.tracePeri die (unitPageWalker (va / 4096 % 16)) 2 (va / 4096 % 16) ev)
  | (none, s2) => (false, (s2.setNum at_ 8 e).touchWrite at_ 0)

/-- Something waits on a page under an act already: parked, or as the write whose copy is being made (R248, R250). -/
def State.waiting (s : State) (a : Act) : Bool :=
  s.msys.waits.any (fun w => w.act == a) || s.msys.cows.any (fun w => w.init == some a)

/-- Something parks on a page in migration (R250): behind what has parked before it; it stands there once. -/
def State.waitPage (s : State) (die ctx va : Nat) (a : Act) : State :=
  if s.waiting a then s
  else s.modMem (fun m => { m with waits := m.waits ++ [⟨die, ctx, (s.ctx ctx).tenant, va, a, false⟩] })

/-- The faults that leave a translation outstanding (R253). -/
def FCode.misses (c : FCode) : Bool := c == .translation || c == .pteInvalid || c == .prot || c == .nonres || c == .cow

/-- Something parks on a fault of its translation, whose miss stays outstanding (R253). -/
def State.missFault (s : State) (die ctx va : Nat) (a : Act) (c : FCode) : State :=
  if c.misses then
    s.modMem (fun m => { m with waits := m.waits.filter (fun w => w.act != a) ++ [⟨die, ctx, (s.ctx ctx).tenant, va, a, true⟩] })
  else s

/-- Nothing of a context waits on a page any more, but for its accesses that have been sent and still perform (R384). -/
def State.dropWaits (s : State) (ctx : Nat) (sent : Bool) : State :=
  let stays (w : PageWait) : Bool := w.ctx != ctx || (sent && (match w.act with | .event (.pageWalk _) => true | _ => false))
  s.modMem (fun m => { m with waits := m.waits.filter stays })

/-- What has parked under an act waits no more. -/
def State.missEnd (s : State) (a : Act) : State := s.modMem (fun m => { m with waits := m.waits.filter (fun w => w.act != a) })

/-- A write that the device itself makes into a context's memory, and that is kept from performing: a page that it finds shared is
copied first (R248), a fault is its caller's to report, and everything else is waited for. -/
def State.ownBlocked (s : State) (c : Nat) (b : Block) : Bool × State :=
  match b with
  | .fault _ _ => (false, s)
  | .copy e at_ va => s.beginCow (ctxDie c) (s.ctx c).tenant c va e at_ none 0
  | _ => (true, s)

/-- How an attempt to write a record or a spilled token ends: written; no room; a fault; or something to wait for. -/
inductive Put where
  | done (s : State) | full | fault (s : State) | wait (s : State)

/-- An attempt to write that meets what stands in its way. -/
def State.putBlocked (s : State) (c : Nat) (b : Block) : Put :=
  match s.ownBlocked c b with
  | (true, s1) => .wait s1
  | (false, s1) => .fault s1

/-- The token that tells a handler of a record (R364). -/
def faultToken (hctx prio : Nat) (r : FRec) (seq : Nat) (fport : W32) : Tok :=
  let v := r.ctx + r.code.kind * 2 ^ 16 + r.code.code * 2 ^ 24 + seq * 2 ^ 32
  (Tok.setFlag { ctx := hctx, pri := prio, fmt := .s64, data := BitVec.ofNat 512 v } .fault true).toDest fport.toNat

/-- The notice of a written record (R364): a fault token to the handler's fault port, or the host's fault interrupt.
PRESUMED (assumption 20). -/
def State.notify (s : State) (r : FRec) (seq : Nat) : State :=
  let h := (s.ctx r.ctx).hctx
  let k := s.ctx h
  let kind := fld k.trap.fport.toNat 30 2
  if (h = r.ctx ∧ r.code.kind = 0) ∨ kind ≥ 2 ∨ k.st ≠ .running then
    { s with host := { s.host with faults := s.host.faults ++ [r.words seq] } }
  else s.sendTok r.die (r.col, Nat.min r.row 71) 3 (faultToken h k.prio r seq k.trap.fport)

/-- The unit in whose trace queue a fault's own record stands (R348): the cell or engine that the fault record names, or the die's own
unit for one of a router away from a cell. DESIGN CHOICE (assumption 66). -/
def State.recUnit (s : State) (r : FRec) : Nat :=
  match r.src with
  | 0 => if cellPos r.col r.row then s.residentAt r.die (rankOf r.col r.row) else unitDie
  | 1 => unitStreamer (r.eng / 4) (r.eng % 4)
  | 2 => unitIsland r.eng
  | _ => if r.col / 32 = 1 then unitWalker (r.eng / 4) (r.eng % 4) else if r.col / 32 = 2 then unitPageWalker r.eng else unitDie

/-- A record enters the fault queue (R363): its 32 bytes, then WP; SEQ, SOPEN and LAST; the FAULT trace record; and the
notice of R364. -/
def State.putRecord (s : State) (r : FRec) (what : Resume) : Put :=
  let k := s.ctx r.ctx
  match s.ctxBound r.ctx k.fqh with
  | (.error b, _) => s.putBlocked r.ctx b
  | (.ok bound, s1) =>
    let nrec := (bound - 64) / 32
    match s1.ctxRead r.ctx k.fqh 0 8 with
    | (.error b, _) => s.putBlocked r.ctx b
    | (.ok v, s2) =>
      let wp := v % 2 ^ 32
      let rp := v / 2 ^ 32
      if nrec = 0 ∨ (wp + 2 ^ 32 - rp) % 2 ^ 32 ≥ nrec then .full
      else
        match s2.spots (homeSite r.ctx) r.ctx k.fqh (64 + 32 * (wp % nrec)) 32 true with
        | (.error b, _) => s.putBlocked r.ctx b
        | (.ok l, s3) =>
          match s3.spots (homeSite r.ctx) r.ctx k.fqh 0 4 true with
          | (.error b, _) => s.putBlocked r.ctx b
          | (.ok lw, s4) =>
            let seq := k.trap.seq
            let s5 := (s4.writeSpots l (wordBytes (r.words seq))).writeSpots lw (leBytes 4 ((wp + 1) % 2 ^ 32))
            let s6 := s5.modCtx r.ctx (fun k => { k with trap := { k.trap with
              seq := (seq + 1) % 2 ^ 32
              last := r.code.code
              opens := k.trap.opens ++ [⟨seq, r.code.kind, r.code, what⟩] } })
            let gen := if !cellPos r.col r.row then 0 else (s6.cell ⟨r.die, s6.residentAt r.die (rankOf r.col r.row)⟩).cgen
            let ev : Event :=
              { code := 0x80, tenant := k.tenant, ctx := r.ctx, tag := r.tag,
                depth := r.depth, arg := r.code.code, data := (if r.src = 0 then r.node else r.eng), xt := true,
                psn := r.psn, col := r.col, row := r.row, cgen := gen, after := r.after }
            .done ((s6.trace r.die (s6.recUnit r) ev).notify r seq)

/-- TAKING A FAULT (R361 to R365): the record is written, or waits in a latch of its unit when the queue is full, its write
faults (the host is then notified) or its page is in migration; a stopping record and a latched one stop the context. A memory
fault of a context that is being saved is kept for its restore (R305, R379, R397). What the firing or access itself leaves
undone, its own meaning says. -/
def State.takeFault (s : State) (unit : Nat) (r : FRec) (what : Resume) : State :=
  let latch (host : Bool) (t : State) : State :=
    let t1 := { t with latches := t.latches ++ [⟨unit, r, what, host⟩] }
    if host then { t1 with host := { t1.host with notices := t1.host.notices ++ [(0, r.ctx)] } } else t1
  if (s.ctx r.ctx).pre.phase = 1 && r.code.kind = 1 then
    s.modCtx r.ctx (fun k => { k with pre := { k.pre with faults := k.pre.faults ++ [⟨unit, r, what, false⟩] } })
  else
    let s1 :=
      if s.latches.any (fun l => l.fr.ctx == r.ctx) then latch false s
      else match s.putRecord r what with
        | .done t => t
        | .full => latch false s
        | .fault t => latch true t
        | .wait t => latch false t
    s1.settle r.ctx

/-- The record of a fault at a cell (R362). -/
def State.cellRec (s : State) (x : Site) (c node : Nat) (tag : W64) (depth : Nat) (code : FCode) (arg : Nat) : FRec :=
  let p := s.pos x
  { node := node, src := 0, code := code, die := x.die, col := p.1, row := p.2, ctx := c, tag := tag, depth := depth,
    arg := BitVec.ofNat 64 arg }

/-- The record of a fault at an engine (R362): SRC, its place in the grid or the periphery, and ENG. -/
def engRec (die src : Nat) (p : Nat × Nat) (eng c node : Nat) (tag : W64) (depth : Nat) (code : FCode)
    (arg : Nat) : FRec :=
  { node := node, src := src, code := code, die := die, col := p.1, row := p.2, ctx := c, tag := tag, eng := eng,
    depth := depth, arg := BitVec.ofNat 64 arg }

/-- A fault record of an event that consumed tokens (R344, R349). -/
def FRec.by (r : FRec) (used : List Tok) : FRec := { r with psn := anyPoison used, after := lastSent used }

/-- A refused firing (R95, R361): it does not perform, its operands stay, and its context stops. With every latch of its
site occupied it is passed over (R363). A replayed firing, whose operands have left their slots, stays parked. -/
def State.refuse (s : State) (f : Firing) (code : FCode) (arg eng : Nat) : State :=
  let u := siteUnit f.x
  let r := { s.cellRec f.x f.ent.ctx f.ent.node f.ent.tag f.ent.depth code arg with eng := eng }.by (f.ops.filterMap id)
  if f.taken then
    let id := s.msys.nextId
    let s1 := (s.modMem (fun m => { m with nextId := id + 1 }))
    let s2 := { s1 with parked := s1.parked ++ [Parked.mk id f (s1.ctx f.ent.ctx).tenant none none 0] }
    s2.takeFault u r (.refire id)
  else if s.latched u ≥ nLatches then
    s.modCell f.x (fun c => { c with
      ready := lmap (fun e => e.ord == f.ent.ord) (fun e => { e with pass := true }) c.ready
      -- it has not issued: the width that chose it does not count it (R167)
      ctr := { c.ctr with packw := if c.ctr.packw + 1 < 2 ^ 48 then c.ctr.packw - 1 else c.ctr.packw } })
  else
    s.takeFault u r (.fire f.x f.ent.uid)

/-- Bit `k` of a 32-bit mask set. -/
def setBit (m : W32) (k : Nat) : W32 := m ||| BitVec.ofNat 32 (2 ^ k)
/-- Bit `k` of a 32-bit mask cleared. -/
def clrBit (m : W32) (k : Nat) : W32 := m &&& ~~~ (BitVec.ofNat 32 (2 ^ k))

/-- The directory entry of a name. -/
def Cell.ent (c : Cell) (uid : Nat) : Option DirEnt := c.dir.find? (fun e => e.uid == uid)

/-- A cell with a directory entry changed. -/
def Cell.modEnt (c : Cell) (uid : Nat) (f : DirEnt → DirEnt) : Cell :=
  { c with dir := lmap (fun e => e.uid == uid) f c.dir }

/-- A cell with an entry's slots cleared, its queue entries removed and the entry freed. -/
def Cell.freeEnt (c : Cell) (uid : Nat) : Cell :=
  match c.ent uid with
  | none => c
  | some e => { c with
      slots := c.slots.filter (fun p => !(e.base ≤ p.1 && p.1 < e.base + e.size))
      ready := c.ready.filter (fun r => r.uid != some uid)
      dir := c.dir.filter (fun d => d.uid != uid) }

/-- An access has ended (R256): performed with its answer sent, or abandoned. -/
def Access.over (a : Access) : Bool := a.st == .done || a.st == .abandoned

/-- An access has been sent (R258). -/
def Access.sent (a : Access) : Bool :=
  a.st != .check && a.st != .wait && a.st != .compare && a.st != .leaving && a.st != .abandoned

/-- An access has issued and still waits in its wave buffer, or at its checks, to be sent (R258). -/
def Access.unsent (a : Access) : Bool := a.st == .wait || a.st == .check

/-- Accesses that have ended and that no waiting access of their instance needs any more are forgotten. -/
def State.forget (s : State) (x : Site) (uid : Nat) : State :=
  if (s.cell x).ent uid |>.isSome then s
  else if s.msys.accs.any (fun a => a.x == x && a.uid == some uid && a.unsent) then s
  else s.modMem (fun m => { m with accs := m.accs.filter (fun a => !(a.x == x && a.uid == some uid && a.over)) })

/-- The block of an instance at its site (R60), of the entry's context. -/
def Cell.blkAt (c : Cell) (ctx hdr : Nat) : Option Blk := c.blks.find? (fun b => b.ctx == ctx && b.hdr == hdr)

/-- An access of an instance may be waited for by another (R258): X's PRED names Y's position, or is ANY while Y's SUCC
names X. -/
def waveBefore (y x : Access) : Bool :=
  y.x == x.x && y.uid == x.uid && y.region == x.region && y.id != x.id &&
    (match x.wpred with
     | .pos p => y.pos == p
     | .any => (match y.wsucc with | .pos q => q == x.pos | .any => true | .none => false)
     | .none => false)

/-- One round of settling (R258): waiting accesses of an instance all of whose possible predecessors have not issued or
are abandoned become abandoned themselves. -/
def settleRound (x : Site) (uid : Nat) (l : List Access) : List Access :=
  l.map (fun a =>
    if a.x == x && a.uid == some uid && a.unsent && a.wpred != .none
        && l.all (fun y => !waveBefore y a || y.st == .abandoned) then { a with st := .abandoned } else a)

/-- Settling the unsent accesses of a force-retired instance (R258), in as many rounds as it has accesses. -/
def settleAll (x : Site) (uid : Nat) : Nat → List Access → List Access
  | 0, l => l
  | n + 1, l => settleAll x uid n (settleRound x uid l)

/-- A parked firing whose access has been abandoned at its checks is gone (R258). -/
def State.dropAbandoned (s : State) : State :=
  let gone (p : Parked) (a : Access) : Bool := a.id == p.id && a.st == .abandoned
  { s with parked := s.parked.filter (fun p => !s.msys.accs.any (gone p)) }

/-- A counter of a cell one higher, 48 bits (R24). -/
def Cell.count (c : Cell) (f : Counters → Counters) : Cell := { c with ctr := f c.ctr }

/-- An instance whose force-retirement waits for nothing more frees its frame (R23). -/
def State.reap (s : State) (x : Site) (uid : Nat) : State :=
  match (s.cell x).ent uid with
  | some e => if e.dying && e.spend == 0 then (s.modCell x (fun c => c.freeEnt uid)).forget x uid else s
  | none => s.forget x uid

/-- An AINS or ADEL request is a store (R338). -/
def Walk.stores (w : Walk) : Bool := match w.kind with | .walk _ => false | _ => true

/-- Force-retirement (R23): the instance's slots and READY bits clear, its unsent accesses are settled under R258, stores
that have not issued are abandoned, and DANGLE counts it. Its frame frees once its sent stores have performed. -/
def State.forceRetire (s : State) (x : Site) (uid : Nat) : State :=
  match (s.cell x).ent uid with
  | none => s
  | some e =>
    if e.dying || e.bind then s else
    let s1 := (s.modMem (fun m => { m with accs := settleAll x uid m.accs.length m.accs })).dropAbandoned
    let left := s1.msys.accs.filter (fun a => a.x == x && a.uid == some uid && a.store && !a.over)
    let walks := (s1.die x.die).eng.walks.filter (fun w => w.f.x == x && w.f.ent.uid == some uid && w.stores)
    let spend := walks.foldl (fun m w => setBit m w.f.pos) (left.foldl (fun w a => setBit w a.pos) (0 : W32))
    let s2 := s1.modCell x (fun c => { c with
      slots := c.slots.filter (fun p => !(e.base ≤ p.1 && p.1 < e.base + e.size))
      ready := c.ready.filter (fun r => r.uid != some uid)
      dir := lmap (fun d => d.uid == uid) (fun d => { d with ready := 0, spend := spend &&& d.spend, dying := true }) c.dir
      ctr := { c.ctr with dangle := satAdd 48 c.ctr.dangle 1 } })
    s2.reap x uid

/-- Tokens of a firing that makes an exit of an instance are still to leave S6 (R100). -/
def State.exitsLeft (s : State) (x : Site) (uid : Nat) : Bool :=
  ((s.cell x).pipe.deps ++ s.answersTo x).any (fun d => d.exits && d.uid == some uid)

/-- An instance retires when its exits equal its block's exit count, its masked stores have performed (R23), and the firing that
made its last exit has sent its last token (R100). -/
def State.tryRetire (s : State) (x : Site) (uid : Nat) : State :=
  let c := s.cell x
  match c.ent uid with
  | none => s.forget x uid
  | some e =>
    if e.bind || e.dying then s.reap x uid
    else match c.blkAt e.ctx e.blk with
      | none => s
      | some b =>
        if e.xfired = b.exits && (b.stores &&& ~~~ e.sdone) == 0 && !s.exitsLeft x uid then
          (s.modCell x (fun c => c.freeEnt uid)).forget x uid
        else s

/-- One exit of an instance counts (R23, R100); of an instance that is gone, against nothing. -/
def State.countExit (s : State) (x : Site) (uid : Option Nat) : State :=
  match uid with
  | none => s
  | some u => s.modCell x (fun c => c.modEnt u (fun e => if e.dying then e else { e with xfired := e.xfired + 1 }))

/-- The capacity of a spill ring (R368). -/
def spillCap (bound : Nat) : Nat := (bound - 64) / 128

/-- A token written to its context's spill ring (R368): its record and its block index, then WP. DEDUCED (assumption
76). -/
def State.putSpill (s : State) (x : Site) (hdr : Nat) (t : Tok) (held : Bool) : Put :=
  let k := s.ctx t.ctx
  match s.ctxBound t.ctx k.spillh with
  | (.error b, _) => s.putBlocked t.ctx b
  | (.ok bound, s1) =>
    if k.spill.wp - k.spill.rp ≥ spillCap bound then .full
    else
      let slot := 64 + 128 * (k.spill.wp % spillCap bound)
      match s1.spots (homeSite t.ctx) t.ctx k.spillh slot 128 true with
      | (.error b, _) => s.putBlocked t.ctx b
      | (.ok l, s2) =>
        match s2.spots (homeSite t.ctx) t.ctx k.spillh 0 4 true with
        | (.error b, _) => s.putBlocked t.ctx b
        | (.ok lw, s3) =>
          let body := t.record
          let s4 := (s3.writeSpots l (body ++ List.replicate (96 - body.length) 0 ++ leBytes 32 hdr)).writeSpots lw
            (leBytes 4 ((k.spill.wp + 1) % 2 ^ 32))
          .done (s4.modCtx t.ctx (fun k => { k with spill := { k.spill with
            wp := k.spill.wp + 1, toks := k.spill.toks ++ [⟨k.spill.wp, x, hdr, t, held⟩] } }))

/-- The SPILL record of a TRACE token that has moved to a spill area (R345): from a cell, or from the engine that `at_` names. -/
def State.traceSpill (s : State) (x : Site) (t : Tok) (at_ : Option FRec) : State :=
  if !t.flag .trace then s else
  let ev : Event :=
    { code := 0x01, tenant := (s.ctx t.ctx).tenant, ctx := t.ctx, tag := t.tag,
      depth := t.depth, arg := t.node, xt := (s.ten (s.ctx t.ctx).tenant).xt, psn := t.flag .poison,
      after := t.sent }
  match at_ with
  | none => s.traceCell x ev
  | some r => s.trace r.die (s.recUnit r) { ev with col := r.col, row := r.row }

/-- A token moves to the spill area of its context (R16), counted in SPILLS, with the SPILL trace record of a TRACE token
(R345); on failure to the escape buffer, and the context stops (R368). None: it cannot be accepted now, because the
escape buffer is full or a page of the ring is in migration. DEDUCED (assumption 76). -/
def State.spill (s : State) (x : Site) (hdr : Nat) (t : Tok) (held : Bool) : Option State :=
  let counted (s : State) : State := s.modCell x (fun c => { c with ctr := { c.ctr with spills := satAdd 48 c.ctr.spills 1 } })
  let escape (code : FCode) : Option State :=
    if (s.cell x).escape.length ≥ 8 then none
    else
      let s1 := s.modCell x (fun c => { c with escape := c.escape ++ [⟨t, hdr, held⟩] })
      if (s.ctx t.ctx).spill.open_ then some s1
      else
        let s2 := s1.modCtx t.ctx (fun k => { k with spill := { k.spill with open_ := true } })
        some (s2.takeFault (siteUnit x) ((s2.cellRec x t.ctx t.node t.tag t.depth code 0).by [t]) (.spill x hdr t.tag t.depth))
  let follows := (s.cell x).escape.any (fun e => e.tok.ctx == t.ctx && e.hdr == hdr && e.tok.tag == t.tag
    && e.tok.depth == t.depth)
  if follows then
    (if (s.cell x).escape.length ≥ 8 then none
     else some (s.modCell x (fun c => { c with escape := c.escape ++ [⟨t, hdr, held⟩] })))
  else match s.putSpill x hdr t held with
    | .done s1 => some ((counted s1).traceSpill x t none)
    | .full => escape .spillFull
    | .fault _ => escape .spillFault
    | .wait _ => none

/-- A token that cannot be spilled now: where a page of the ring is shared, its copy is begun (R248). -/
def State.spillWait (s : State) (x : Site) (t : Tok) : State :=
  match s.putSpill x 0 t false with
  | .wait s1 => s1
  | _ => s

/-- A spilled token leaves the ring (R16): RP passes every slot that holds none any more (R368). DEDUCED (assumption
76). -/
def State.unspill (s : State) (c ring : Nat) : State :=
  let s1 := s.modCtx c (fun k =>
    let rest := k.spill.toks.filter (fun p => p.ring != ring)
    { k with spill := { k.spill with toks := rest, rp := rest.foldl (fun a p => Nat.min a p.ring) k.spill.wp } })
  match s1.spots (homeSite c) c (s1.ctx c).spillh 4 4 true with
  | (.ok l, s2) => s2.writeSpots l (leBytes 4 ((s1.ctx c).spill.rp % 2 ^ 32))
  | (.error _, s2) => s2

/-- The place of a notice, drain, scale or walk request that its context's ring could not take: aside, as in an escape buffer, with no
slot of the ring. DEDUCED (assumption 62). -/
def escRing : Nat := 2 ^ 40

/-- What an engine cannot hold moves to its context's spill ring (R319, R334): its ring slot, or aside where the ring is full or
its write meets a fault: of these, the first of an episode writes a record and stops the context (R368). None: it must wait.
DEDUCED (assumption 62). -/
def State.spillEng (s : State) (unit : Nat) (r : FRec) (x : Site) (hdr : Nat) (t : Tok) : Option Nat × State :=
  let aside (code : FCode) : Option Nat × State :=
    if (s.ctx t.ctx).spill.open_ then (some escRing, s)
    else
      let s1 := s.modCtx t.ctx (fun k => { k with spill := { k.spill with open_ := true } })
      (some escRing, s1.takeFault unit { r.by [t] with code := code } (.spill x hdr t.tag t.depth))
  match s.putSpill x hdr t false with
  | .done s1 => (some (s.ctx t.ctx).spill.wp, s1.traceSpill x t (some r))
  | .full => aside .spillFull
  | .fault _ => aside .spillFault
  | .wait s1 => (none, s1)

/-- What stands aside may be written to the ring again: its context's episode is over (R368). -/
def State.mayRing (s : State) (ctx : Nat) (ring : Option Nat) : Bool := ring == some escRing && !(s.ctx ctx).spill.open_

/-- The escape tokens of a context go to the ring first at a RESUME, oldest first (R368); what does not fit stays, and
the context stops again. -/
def State.drainEscape (s : State) (c : Nat) : List (Nat × Esc) → State
  | [] => s.modCtx c (fun k => { k with spill := { k.spill with open_ := false } })
  | (xk, e) :: rest =>
    let x : Site := ⟨xk / 8192, xk % 8192⟩
    let rec_ (x : Site) (e : Esc) (code : FCode) : FRec := (s.cellRec x c e.tok.node e.tok.tag e.tok.depth code 0).by [e.tok]
    match s.putSpill x e.hdr e.tok e.held with
    | .done s1 =>
      let s2 := s1.modCell x (fun c => { c with
        escape := ldrop (fun e2 => e2 == e) c.escape
        ctr := { c.ctr with spills := satAdd 48 c.ctr.spills 1 } })
      State.drainEscape (s2.traceSpill x e.tok none) c rest
    | .full => s.takeFault (siteUnit x) (rec_ x e .spillFull) (.spill x e.hdr e.tok.tag e.tok.depth)
    | .fault t => t.takeFault (siteUnit x) (rec_ x e .spillFault) (.spill x e.hdr e.tok.tag e.tok.depth)
    | .wait t => t

/-- Every escape token of a context, with its cell. -/
def State.escapes (s : State) (c : Nat) : List (Nat × Esc) :=
  (s.cells.map (fun e => (e.2.escape.filter (fun t => t.tok.ctx == c)).map (fun t => (e.1, t)))).flatten

/-- The record of a spill failure has been answered, and its escape tokens are still to be written (R368). -/
def State.escapeDue (s : State) (c : Nat) : Bool :=
  let is (w : Resume) : Bool := match w with | .spill _ _ _ _ => true | _ => false
  (s.ctx c).spill.open_ && !(s.ctx c).trap.opens.any (fun o => is o.what) && !s.latches.any (fun l => l.fr.ctx == c && is l.what)

/-- A token that names no node of its context (R67): it goes into a fault record, and its context stops. -/
def State.destInvalid (s : State) (x : Site) (t : Tok) : State :=
  s.takeFault (siteUnit x) ((s.cellRec x t.ctx t.node t.tag t.depth .destInvalid 0).by [t]) .none

end Sys2Proof.Machine
end

