-- ==== Sys2Proof/Machine/Operands.lean ====
section
/-! DEFINITION. Operands and elements (R49, R91, R92), the tokens a firing produces (R22, R50, R55 to R57, R94, R102),
readiness (R19) and the issue of a firing (R95, R96, R100). -/
namespace Sys2Proof.Machine

/-- An engine may start new work of a context for a site (R305, R388, R389): it is RUNNING, not being saved, and no STOP covers it. -/
def State.startable (s : State) (x : Site) (ctx : Nat) : Bool :=
  (s.ctx ctx).st == .running && (s.ctx ctx).pre.phase ≠ 1 && !s.stopAt x ctx

/-- The element width of a type (R58, R68 to R70). -/
def tyWidth (t : Ty) : Nat := t.width

/-- A literal extended to 64 bits (R49): sign-extended for a signed integer type, zero-extended otherwise, bits 63:32
from EXT where one supplies them. -/
def litVal (ty : Ty) (l : Lit) : Nat :=
  match l.hi with
  | some h => h.toNat * 2 ^ 32 + l.lo.toNat
  | none => if ty.isSigned && l.lo.msb then l.lo.toNat + (2 ^ 64 - 2 ^ 32) else l.lo.toNat

/-- Element `j` of width `w` of a token (R10, R92): a scalar supplies its single element to every position. -/
def Tok.elem (t : Tok) (w j : Nat) : Nat :=
  if t.vec then fld t.data.toNat (w * j) w else t.data.toNat % 2 ^ w

/-- Element positions of a firing (R92). -/
def nElems (vec : Bool) (w : Nat) : Nat := if vec then 512 / w else 1

/-- The lane of element `j` of width `w` (R92). -/
def laneOf (w j : Nat) : Nat := if w = 64 then 2 * j else j * w / 32

/-- The operand token of port `p` of a firing. -/
def Firing.op (f : Firing) (p : Nat) : Tok := ((f.ops.getD p none).getD {})

/-- The operand tokens of the first `n` ports. -/
def Firing.first (f : Firing) (n : Nat) : List Tok := (List.range n).map f.op

/-- A vector firing (R92): some operand token it consumes has VEC. -/
def Firing.vec (f : Firing) (n : Nat) : Bool := (f.first n).any (fun t => t.vec)

/-- Element `j` of operand `k`: from its port, or from the literal when the ports end before it (R49, R91). -/
def opElem (f : Firing) (arity : Nat) (ty : Ty) (l : Lit) (w k j : Nat) : Nat :=
  if k < arity then (f.op k).elem w j else litVal ty l % 2 ^ w

/-- Element `j` of a firing is active (R92). -/
def active (f : Firing) (w j : Nat) : Bool :=
  let a := f.op 0
  if a.vec then a.lmask.getLsbD (laneOf w j) else true

/-- Operand A is a vector whose LMASK is zero (R93). -/
def passThrough (f : Firing) : Bool := (f.op 0).vec && (f.op 0).lmask == 0

/-- Elements packed from position 0 up (R10). -/
def packElems (w : Nat) : List Nat → Nat
  | [] => 0
  | e :: t => e % 2 ^ w + 2 ^ w * packElems w t

/-- The payload of a scalar element (R10): sign copies above it for a signed integer type, zeros otherwise. -/
def scalarData (ty : Ty) (w v : Nat) : Payload :=
  let e := v % 2 ^ w
  if ty.isSigned && w < 64 && 2 ^ (w - 1) ≤ e then BitVec.ofNat 512 (2 ^ 64 - 2 ^ w + e) else BitVec.ofNat 512 e

/-- The payload of a result: packed elements, or one right-aligned element (R10). -/
def resData (vec : Bool) (ty : Ty) (w : Nat) (es : List Nat) : Payload :=
  if vec then BitVec.ofNat 512 (packElems w es) else scalarData ty w (es.getD 0 0)

/-- The priority of a produced token (R22, R50). -/
def outPri (f : Firing) (h : Hdr) : Nat := Nat.min 31 (f.ent.pri + h.ofl.bump.toNat)

/-- The match action of a produced token (R50). -/
def outMa (h : Hdr) : MA := if h.ofl.sticky then .sticky else if h.ofl.purge then .purge else .norm

/-- LMASK of a produced token (R50): with lpass, a vector carries the mask of `src` where that is a vector. -/
def outMask (h : Hdr) (vec : Bool) (src : Option Tok) : BitVec 16 :=
  if !vec then 1
  else match src with
    | some a => if h.ofl.lpass && a.vec then a.lmask else 0xFFFF
    | none => 0xFFFF

/-- A produced token before its target's tag action (R94): the consumed operands give POISON, `a` is operand A. -/
def newTok (f : Firing) (h : Hdr) (used : List Tok) (a : Option Tok) (fmt : Ty) (vec : Bool) (d : Payload) : Tok :=
  Tok.setFlag
    { ctx := f.ent.ctx, depth := f.ent.depth, tag := f.ent.tag, ma := outMa h, pri := outPri f h, fmt := fmt,
      vec := vec, lmask := outMask h vec a, data := d, sent := lastSent used }
    .poison (anyPoison used)

/-- A received token sent on, formed as under R102. -/
def fwdTok (f : Firing) (h : Hdr) (used : List Tok) (a : Tok) (keepReq : Bool) : Tok :=
  Tok.setFlag
    { a with ctx := f.ent.ctx, depth := f.ent.depth, tag := f.ent.tag, ma := outMa h, cnt := 0, pri := outPri f h,
             lmask := outMask h a.vec (some a), req := (if keepReq then a.req else none), sent := lastSent used }
    .poison (a.flag .poison || anyPoison used)

/-- A token on a target (R55): its tag action applied, its DEST formed; none on TAG_OVERFLOW. -/
def onTarget (tl : BitVec 96) (x : Site) (tgt : Target) (t : Tok) : Option (List Tok) :=
  let dest (a : TagAct) (kind node port : Nat) : Option (List Tok) :=
    (tagAct tl a (t.tag, t.depth)).map (fun r =>
      [{ t with tag := r.1, depth := r.2, kind := kind, die := x.die, site := x.res, node := node, port := port }])
  match tgt with
  | .none => some []
  | .local a n p => dest a 0 n p
  | .route a r => dest a 2 (r / 4) (r % 4)
  | .special a sk => dest a 3 (sk.code.1 * 64 + sk.code.2 / 4) (sk.code.2 % 4)

/-- The change a tag action makes to DEPTH, nominally (R107). -/
def depthChange (a : TagAct) (depth : Nat) : Int :=
  match a with
  | .push _ => 1
  | .pop | .popinc => -1
  | .popto d => (d : Int) - depth
  | _ => 0

/-- The tag action of a target. -/
def tgtAct : Target → TagAct
  | .none => .none
  | .local a _ _ => a
  | .route a _ => a
  | .special a _ => a

/-- A STREAM_END marker on a target (R107): its level follows the change of DEPTH, and it is not sent when that level
would be 0. -/
def markerOn (tl : BitVec 96) (x : Site) (tgt : Target) (t : Tok) : Option (List Tok) :=
  let l : Int := (fld t.side.toNat 0 4 : Nat) + depthChange (tgtAct tgt) t.depth
  if l = 0 then some []
  else (onTarget tl x tgt t).map (fun r => r.map (fun u => { u with side := BitVec.ofInt 32 l }))

/-- What a firing produces, in order: a token for a target, or a marker for it. -/
inductive Send where
  | tok (tgt : Target) (t : Tok)
  | marker (tgt : Target) (t : Tok)

/-- Every target's tag action is evaluated before any token leaves (R57): the tokens in order, or none. -/
def sendList (tl : BitVec 96) (x : Site) : List Send → Option (List Tok)
  | [] => some []
  | .tok g t :: r =>
    match onTarget tl x g t, sendList tl x r with
    | some a, some b => some (a ++ b)
    | _, _ => none
  | .marker g t :: r =>
    match markerOn tl x g t, sendList tl x r with
    | some a, some b => some (a ++ b)
    | _, _ => none

/-- One token on both targets, T0 first (R97). -/
def both (h : Hdr) (t : Tok) : List Send := [.tok h.t0 t, .tok h.t1 t]

/-- The slot offset of port `p` of position `pos` (R61). -/
def Blk.off (b : Blk) (pos p : Nat) : Nat := b.pmap.getD (4 * pos + p) 0 % 32

/-- The record at a position. -/
def Blk.recAt (b : Blk) (pos : Nat) : Rec := b.recs.getD pos ⟨0, 0, 0⟩

/-- The EXT record that follows a position, if one does (R59). -/
def Blk.ext (b : Blk) (pos : Nat) : Option Rec :=
  match b.recs[pos + 1]? with
  | some r => if r.opc = extOpc then some r else none
  | none => none

/-- A position holds a node: neither EXT nor outside the block (R52, R67). -/
def Blk.isNode (b : Blk) (pos : Nat) : Bool :=
  match b.recs[pos]? with
  | some r => r.opc ≠ extOpc && r.opc ≠ 0
  | none => false

/-- The block of a context that encloses a node-memory index (R14, R67). -/
def Cell.blkOf (c : Cell) (ctx node : Nat) : Option Blk :=
  c.blks.find? (fun b => b.ctx == ctx && b.hdr < node && node ≤ b.hdr + b.recs.length)

/-- The binding entry of a block (R17). -/
def Cell.bindEnt (c : Cell) (ctx hdr : Nat) : Option DirEnt :=
  c.dir.find? (fun e => e.bind && e.ctx == ctx && e.blk == hdr)

/-- The live instance of a key (R14). DESIGN CHOICE (assumption 83). -/
def Cell.inst (c : Cell) (ctx hdr : Nat) (tag : W64) (depth : Nat) : Option DirEnt :=
  c.dir.find? (fun e => !e.bind && !e.dying && e.ctx == ctx && e.blk == hdr && e.tag == tag && e.depth == depth)

/-- The slot of a port in an entry's frame, if present. -/
def Cell.slotOf (c : Cell) (e : DirEnt) (b : Blk) (pos p : Nat) : Option Slot := tget (e.base + b.off pos p) c.slots

/-- The binding of a port of a block (R17). -/
def Cell.binding (c : Cell) (b : Blk) (pos p : Nat) : Option Slot :=
  match c.bindEnt b.ctx b.hdr with
  | some e => c.slotOf e b pos p
  | none => none

/-- The value a port of an instance has: its own present token, or the bound value (R17). -/
def Cell.portVal (c : Cell) (e : DirEnt) (b : Blk) (pos p : Nat) : Option Slot :=
  match (if e.bind then none else c.slotOf e b pos p) with
  | some v => some v
  | none => c.binding b pos p

/-- Whether a node of an instance is ready (R19, with the exceptions of R103, R104, R199 and R200). -/
def Cell.nodeReady (c : Cell) (e : DirEnt) (b : Blk) (pos : Nat) : Bool :=
  let r := b.recAt pos
  let present (p : Nat) : Bool := (c.portVal e b pos p).isSome
  let own (p : Nat) : Bool := (c.slotOf e b pos p).isSome
  match r.opc with
  | 0x004 | 0x045 => own 0 || own 1
  | 0x005 =>
    match c.portVal e b pos 2 with
    | some sel => own (sel.tok.w64 % 2)
    | none => false
  | 0x046 => false
  | _ => r.arity > 0 && (List.range r.arity).all present && (List.range r.arity).any own

/-- A node of an entry enters the ready queue (R20): it is there at most once at a time. -/
def State.setReady (s : State) (x : Site) (uid : Nat) (node pos : Nat) (tag : W64) (depth pri : Nat) : State :=
  s.modCell x (fun c =>
    match c.ent uid with
    | none => c
    | some e =>
      if e.ready.getLsbD pos && !e.bind then c
      else
        { (c.modEnt uid (fun e => { e with ready := setBit e.ready pos })) with
            ready := c.ready ++ [⟨some uid, node, e.ctx, pri, s.cycle, 0, c.uids, tag, depth, pri, none, false⟩]
            uids := c.uids + 1 })

/-- A node that a token fires alone enters the ready queue (R107, R200). -/
def State.setAlone (s : State) (x : Site) (ctx node : Nat) (t : Tok) : State :=
  s.modCell x (fun c =>
    { c with ready := c.ready ++ [⟨none, node, ctx, t.pri, s.cycle, 0, c.uids, t.tag, t.depth, t.pri, some t, false⟩]
             uids := c.uids + 1 })

/-- The slot of an instance's own operand at a port, with its number: none for a bound value. -/
def Cell.ownSlot (c : Cell) (uid : Option Nat) (b : Blk) (pos p : Nat) : Option (Nat × Slot) :=
  match uid.bind c.ent with
  | some e => if e.bind then none else (c.slotOf e b pos p).map (fun v => (e.base + b.off pos p, v))
  | none => none

/-- A cell after a bound operand has served a firing (R17): a COUNT binding decrements and clears at zero; a binding entry
whose last binding has cleared frees. -/
def Cell.useBinding (c : Cell) (b : Blk) (pos p : Nat) : Cell :=
  match c.bindEnt b.ctx b.hdr with
  | none => c
  | some e =>
    let k := e.base + b.off pos p
    match tget k c.slots with
    | none => c
    | some v =>
      if v.tok.ma != .count then c
      else if v.cnt > 1 then { c with slots := tput k { v with cnt := v.cnt - 1 } c.slots }
      else
        let c1 := { c with slots := tdel k c.slots }
        if c1.slots.any (fun q => e.base ≤ q.1 && q.1 < e.base + e.size) then c1 else c1.freeEnt e.uid

/-- A cell after one port of a firing has given up its operand (R19): a NORM slot clears, a binding serves. -/
def Cell.consumePort (c : Cell) (uid : Option Nat) (b : Blk) (pos p : Nat) : Cell :=
  match c.ownSlot uid b pos p with
  | some (k, _) => { c with slots := tdel k c.slots }
  | none => c.useBinding b pos p

/-- A cell after a node of an entry is ready no more. -/
def Cell.clearReady (c : Cell) (uid : Option Nat) (pos : Nat) : Cell :=
  match uid with
  | some u => c.modEnt u (fun e => { e with ready := clrBit e.ready pos })
  | none => c

/-- A cell after a firing has left the ready queue and the named ports have given up their operands (R19). -/
def Cell.consume (c : Cell) (f : Firing) (ports : List Nat) : Cell :=
  let c1 := { c with ready := c.ready.filter (fun e => e.ord != f.ent.ord) }
  let c2 := c1.clearReady f.ent.uid f.pos
  if f.ent.alone.isSome then c2 else
  match c2.blkAt f.ent.ctx f.hdr with
  | none => c2
  | some b => ports.foldl (fun c p => c.consumePort f.ent.uid b f.pos p) c2

/-- A state in which a firing has left the ready queue and the named ports have given up their operands (R19). -/
def State.consume (s : State) (f : Firing) (ports : List Nat) : State :=
  if f.taken then s else s.modCell f.x (fun c => c.consume f ports)

/-- What a firing that performs does: the sends, the cycles it occupies its stage (R96), the ports it consumes, the
arithmetic flags its elements raise, and the exits of an EXIT record. -/
structure Out where
  sends : List Send
  n     : Nat := 1
  ports : List Nat
  used  : List Tok
  flags : Nat := 0
  exits : Nat := 0

/-- Whether `n` more exits would exceed the block's EXITS (R100): only of a live instance. -/
def State.exitExcess (s : State) (f : Firing) (n : Nat) : Bool :=
  n > 0 &&
  match f.ent.uid.bind (s.cell f.x).ent with
  | none => false
  | some e => !e.bind && !e.dying &&
    (match (s.cell f.x).blkAt f.ent.ctx f.hdr with
     | some b => e.xfired + n > b.exits
     | none => false)

/-- The FIRE record of a firing that consumed a TRACE token (R345). -/
def State.traceFire (s : State) (f : Firing) (opc : Nat) (used : List Tok) (made : List Tok) : State :=
  if used.any (fun t => t.flag .trace) then
    let ten := (s.ctx f.ent.ctx).tenant
    let ev : Event :=
      { code := 0x00, tenant := ten, ctx := f.ent.ctx, tag := f.ent.tag, depth := f.ent.depth,
        arg := f.ent.node, data := opc, xt := (s.ten ten).xt, psn := anyPoison used || anyPoison made,
        after := lastSent used }
    s.traceCell f.x ev
  else s

/-- The operation code of the record a firing runs. -/
def State.opcOf (s : State) (f : Firing) : Nat :=
  match (s.cell f.x).blkAt f.ent.ctx f.hdr with
  | some b => (b.recAt f.pos).opc
  | none => 0

/-- The entry of AFLAGS that flags raise (R80). -/
def State.raise (s : State) (c flags : Nat) : State :=
  if flags = 0 then s else s.modCtx c (fun k => { k with aflags := k.aflags ||| BitVec.ofNat 32 flags })

/-- A node whose readiness does not wait for every port is looked at again after its issue (R103, R104, R199). -/
def State.again (s : State) (f : Firing) : State :=
  match f.ent.uid.bind (s.cell f.x).ent, (s.cell f.x).blkAt f.ent.ctx f.hdr with
  | some e, some b =>
    let opc := (b.recAt f.pos).opc
    if (opc = 0x004 || opc = 0x005 || opc = 0x045) && (s.cell f.x).nodeReady e b f.pos then
      let pri := (List.range 2).foldl (fun a p => match (s.cell f.x).slotOf e b f.pos p with
        | some v => v.tok.pri
        | none => a) f.ent.pri
      s.setReady f.x e.uid f.ent.node f.pos e.tag e.depth pri
    else s
  | _, _ => s

/-- The stage of an operation (R21, R96, R121, R190, R272, R356). -/
def stageOf (opc : Nat) : Nat :=
  if opc = 0x1C0 || opc = 0x1C1 || (0x1C8 ≤ opc && opc ≤ 0x1CD) then 1
  else if (0x080 ≤ opc && opc ≤ 0x083) || opc = 0x086 || opc = 0x087 || (0x0C0 ≤ opc && opc ≤ 0x0C9) || (0x200 ≤ opc && opc ≤ 0x27F) then 2
  else if opc = 0x084 || opc = 0x085 || opc = 0x088 || opc = 0x08D || opc = 0x102 || opc = 0x103 || opc = 0x1C4 then 3
  else if (0x089 ≤ opc && opc ≤ 0x08C) || (0x0D0 ≤ opc && opc ≤ 0x0D8) || opc = 0x100 || opc = 0x101 || opc = 0x104
      || opc = 0x105 || (0x108 ≤ opc && opc ≤ 0x116) || opc = 0x1C2 || opc = 0x1C3 then 4
  else if opc = 0x180 || opc = 0x181 || opc = 0x1C5 || opc = 0x1C6 then 5
  else 6

/-- The state in which a firing has issued (R19, R80, R96, R345): its operands are consumed, its flags have entered AFLAGS, its
FIRE record is emitted, unless it was when it parked, and its cell issues nothing for n − 1 cycles more, or its stage fires
nothing where the cell is SPATIAL (R170). -/
def State.issued (s : State) (f : Firing) (o : Out) (toks : List Tok) : State :=
  let s0 := (s.consume f o.ports).raise f.ent.ctx o.flags
  let s1 := if f.taken then s0 else s0.traceFire f (s.opcOf f) o.used toks
  let s2 := s1.modCell f.x (fun c => { c with
    pipe := { c.pipe with issue := Nat.max c.pipe.issue (s.cycle + o.n) }
    spat := if c.spat.on then { c.spat with busy := tput (stageOf (s.opcOf f)) (s.cycle + o.n) c.spat.busy } else c.spat })
  (s2.again f).progress f.ent.ctx

/-- A firing checked and issued (R57, R80, R95, R96, R100): a trap, a tag overflow or too many exits refuses it; otherwise
it issues. `k` is what follows, given the tokens, their tag actions applied. -/
def State.issue (s : State) (f : Firing) (o : Out) (k : State → List Tok → State) : State :=
  let cx := s.ctx f.ent.ctx
  if o.flags &&& cx.amask.toNat ≠ 0 then s.refuse f .arith o.flags 0
  else match sendList cx.tl f.x o.sends with
    | none => s.refuse f .tagOverflow 0 0
    | some toks =>
      if s.exitExcess f (o.exits + (toks.filter Tok.isExit).length) then s.refuse f .exitExcess 0 0
      else k (s.issued f o toks) toks

/-- The targets of the record at a position (R51, R106): those that decode. -/
def Blk.targets (b : Blk) (pos : Nat) : List Target :=
  let r := b.recAt pos
  let more := if r.opc = 0x007 then
      (match b.ext pos with | some e => [targetOf (fld e.w0.toNat 0 22), targetOf (fld e.w1.toNat 0 22)] | none => [])
    else []
  ([targetOf r.t0, targetOf r.t1] ++ more).filterMap (fun t => match t with | .ok g => some g | .error _ => none)

/-- The node and port that a local target names. -/
def localPort : Target → Option (Nat × Nat)
  | .local _ n p => some (n, p)
  | _ => none

/-- A port of a stage record is internal (R169, R358): a record of an earlier stage names it as a local target. -/
def Blk.internal (b : Blk) (node port : Nat) : Bool :=
  let st := stageOf (b.recAt (node - b.hdr - 1)).opc
  (List.range b.recs.length).any (fun p => b.isNode p && stageOf (b.recAt p).opc < st
    && (b.targets p).any (fun g => localPort g == some (node, port)))

/-- A token that a SPATIAL cell sends to an internal port of its own (R169). -/
def Cell.inward (c : Cell) (x : Site) (t : Tok) : Bool :=
  c.spat.on && t.kind == 0 && t.die == x.die && t.site == x.res &&
    (match c.blkOf t.ctx t.node with
     | some b => b.internal t.node t.port
     | none => false)

/-- The latch of an internal port is occupied (R358). -/
def Cell.latchedAt (c : Cell) (node port : Nat) : Bool := c.spat.inner.any (fun e => e.1 == node && e.2.1 == port)

/-- Operands enter the latches of the internal ports they name (R358). -/
def Cell.latch (c : Cell) (toks : List Tok) : Cell :=
  { c with spat := { c.spat with inner := c.spat.inner ++ toks.map (fun t => (t.node, t.port, t)) } }

/-- Tokens on their way out of S6: they may leave `n` + 5 cycles after issue (R96), four a cycle for a packed issue
(R167). Operands of internal ports of a SPATIAL cell go to their latches instead (R358). `exits`: their firing makes an exit
(R100). DESIGN CHOICE (assumption 19). -/
def State.departAs (s : State) (f : Firing) (n : Nat) (exits : Bool) (all : List Tok) : State :=
  let inner := all.filter ((s.cell f.x).inward f.x)
  let toks := all.filter (fun t => !(s.cell f.x).inward f.x t)
  let s := if inner.isEmpty then s else s.modCell f.x (fun c => c.latch inner)
  if toks.isEmpty then s else
  s.modCell f.x (fun c =>
    let extra := if c.pipe.packed > 0 then (c.pipe.packed - 1) / 4 else 0
    let packed := if c.pipe.packed > 0 then c.pipe.packed + toks.length else 0
    let held := if packed > 1 then s.cycle + n + (packed - 2) / 4 else 0
    { c with pipe := { c.pipe with
        deps := c.pipe.deps ++ [⟨f.ent.ctx, f.ent.uid, f.ent.node, s.cycle + 5 + n + extra, f.ent.ord, 0, exits, toks⟩]
        packed := packed
        issue := Nat.max c.pipe.issue held } })

/-- The tokens of a firing on their way out of S6 together. DESIGN CHOICE (assumption 19). -/
def State.depart (s : State) (f : Firing) (n : Nat) (all : List Tok) : State := s.departAs f n (all.any Tok.isExit) all

/-- A firing whose tokens need nothing but S6. -/
def State.fire (s : State) (f : Firing) (o : Out) : State := s.issue f o (fun s toks => s.depart f o.n toks)

/-- A firing that performs with a further effect `k` on the state. -/
def State.fireWith (s : State) (f : Firing) (o : Out) (k : State → State) : State :=
  s.issue f o (fun s toks => (k s).depart f o.n toks)

/-- The tokens of a firing's operands. -/
def Firing.all (f : Firing) : List Tok := f.ops.filterMap id

/-- The PARK or REPLAY record of a firing (R345). -/
def State.tracePark (s : State) (f : Firing) (code off : Nat) : State :=
  let ev : Event :=
    { code := code, tenant := (s.ctx f.ent.ctx).tenant, ctx := f.ent.ctx, tag := f.ent.tag, depth := f.ent.depth,
      arg := f.ent.node, data := off, xt := true, psn := anyPoison f.all, after := lastSent f.all }
  s.traceCell f.x ev

/-- The access that a firing put at its checks when it parked (R252, R258). -/
def State.checking (s : State) (f : Firing) : Option Access :=
  s.msys.accs.find? (fun a => a.x == f.x && a.uid == f.ent.uid && a.node == f.ent.node && a.st == .check
    && !s.parked.any (fun p => p.id == a.id))

/-- The number of a firing that parks: that of its access, where it has one, or a new one. -/
def State.parkId (s : State) (f : Firing) : Nat × State :=
  match s.checking f with
  | some a => (a.id, s)
  | none => (s.msys.nextId, s.modMem (fun m => { m with nextId := m.nextId + 1 }))

/-- A memory firing that meets a memory fault or a page in migration, or must wait, parks (R252): it has issued, its operands are
consumed, and it is replayed exactly as first issued. A page that a write finds shared is copied first (R248). -/
def State.park (s : State) (f : Firing) (ports : List Nat) (b : Block) : State :=
  let (id, s1) := s.parkId f
  let s0 := if f.taken then s1 else (s1.consume f ports).traceFire f (s.opcOf f) (ports.map f.op) []
  let tenant := (s.ctx f.ent.ctx).tenant
  let put (s : State) (m miss : Option Nat) (off : Nat) : State :=
    { s with parked := s.parked ++ [⟨id, { f with taken := true }, tenant, m, miss, off⟩] }
  let fault (s : State) (c : FCode) (a : Nat) : State :=
    ((put s none (if c.misses then some a else none) a).tracePark f 0x81 a).takeFault (siteUnit f.x)
      ((s.cellRec f.x f.ent.ctx f.ent.node f.ent.tag f.ent.depth c a).by f.all) (.refire id)
  match b with
  | .fault c a => fault s0 c a
  | .migr va => ((put s0 (some va) (some va) va).waitPage f.x.die f.ent.ctx va (.refire id)).tracePark f 0x81 va
  | .copy e at_ va =>
    (match s0.beginCow f.x.die tenant f.ent.ctx va e at_ (some (.refire id)) (lastSent f.all) with
     | (true, s1) => (put s1 (some va) (some va) va).tracePark f 0x81 va
     | (false, s1) => fault s1 .cow va)
  | .wait => put s0 none none 0

/-- The meaning of an operation of the opcode map is that of the firing under way. -/
def State.firing (s : State) (k : State → Firing → State) : Host.Outcome State Fault Refusal :=
  match s.cur with
  | none => .fault .noFiring
  | some f => .next (k { s with cur := none } f)

end Sys2Proof.Machine
end

