-- ==== Sys2Proof/Machine/Flags.lean ====
section
/-! DEFINITION. The arithmetic flags (R80) and the integer results that raise them (R68, R69). -/
namespace Sys2Proof.Machine

/-- AFLAGS bits (R80 Table 6). -/
def flagInx : Nat := 1
/-- UNF (R80). DEDUCED (assumption 25). -/
def flagUnf : Nat := 2
/-- OVF (R80). -/
def flagOvf : Nat := 4
/-- DZ (R80). -/
def flagDz : Nat := 8
/-- INV (R80). -/
def flagInv : Nat := 16
/-- IDZ (R80). -/
def flagIdz : Nat := 32
/-- SAT (R80). -/
def flagSat : Nat := 64

/-- The range of an integer type (R68 Table 1). -/
def intRange (ty : Ty) : Int × Int :=
  let w := ty.width
  if ty.isSigned then (-(2 ^ (w - 1)), 2 ^ (w - 1) - 1) else (0, 2 ^ w - 1)

/-- An element read as an integer of its type (R68). -/
def intVal (ty : Ty) (v : Nat) : Int :=
  let w := ty.width
  let u := v % 2 ^ w
  if ty.isSigned && 2 ^ (w - 1) ≤ u then (u : Int) - 2 ^ w else u

/-- An integer modulo 2^w (R69). -/
def wrapInt (w : Nat) (v : Int) : Nat := (v % 2 ^ w).toNat

/-- An integer clamped to a type (R69): the element, and SAT where it clamps. -/
def clampInt (ty : Ty) (v : Int) : Nat × Nat :=
  let r := intRange ty
  if v < r.1 then (wrapInt ty.width r.1, flagSat)
  else if v > r.2 then (wrapInt ty.width r.2, flagSat)
  else (wrapInt ty.width v, 0)

end Sys2Proof.Machine
end

