-- ==== Sys2Proof/Machine/Num.lean ====
section
/-! DEFINITION. Number formats (R68 to R76), rounding (R77 to R79), and arithmetic on exact values (R81, R122, R85). -/
namespace Sys2Proof.Machine

/-- A float format (R70, R72): whether it has a sign, exponent bits, mantissa bits, bias, and the sat policy. -/
structure FFmt where
  sign : Bool
  exp  : Nat
  man  : Nat
  bias : Int
  sat  : Bool
  deriving DecidableEq, Repr

/-- The IEEE types (R70 Table 2). -/
def fmtOf : Ty → FFmt
  | .bf16 => ⟨true, 8, 7, 127, false⟩
  | .fp16 => ⟨true, 5, 10, 15, false⟩
  | .fp64 => ⟨true, 11, 52, 1023, false⟩
  | _ => ⟨true, 8, 23, 127, false⟩

/-- BLOCK of a format register (R72 Table 3), in elements. -/
def fmtBlock (w : W32) : Nat := 8 * 2 ^ fld w.toNat 17 3

/-- The NF format of a format register (R72). -/
def nfOf (w : W32) : FFmt :=
  let b := fld w.toNat 8 8
  ⟨fld w.toNat 7 1 = 1, fld w.toNat 4 3, fld w.toNat 0 4, if b ≥ 128 then (b : Int) - 256 else b, fld w.toNat 16 1 = 1⟩

/-- Bits of a code (R73). -/
def FFmt.width (f : FFmt) : Nat := f.sign.toNat + f.exp + f.man

/-- The bits of FMTk that a write reaches (R72). -/
def fmtWord (v : Nat) : W32 := BitVec.ofNat 32 (v % 2 ^ 20)

/-- A format register is valid (R73). -/
def fmtValid (w : W32) : Bool :=
  let f := nfOf w
  2 ≤ f.width && f.width ≤ 8 && fld w.toNat 17 3 ≤ 4 && (f.sat || f.exp ≥ 1)

/-- The container of an NF code (R76). -/
def FFmt.cont (f : FFmt) : Nat := if f.width ≤ 4 then 4 else 8

/-- A float value: a NaN, signalling or quiet; an infinity; or (−1)^neg × m × 2^e. -/
inductive FVal where
  | nan (sig : Bool)
  | inf (neg : Bool)
  | fin (neg : Bool) (m : Nat) (e : Int)
  deriving DecidableEq, Repr

/-- The sign bit of a code. -/
def FFmt.signOf (f : FFmt) (v : Nat) : Bool := f.sign && fld v (f.exp + f.man) 1 = 1

/-- The value of a code (R70, R74, R75). -/
def FFmt.val (f : FFmt) (v : Nat) : FVal :=
  let e := fld v f.man f.exp
  let m := fld v 0 f.man
  let s := f.signOf v
  let top := 2 ^ f.exp - 1
  if !f.sat && e = top then
    (if m = 0 then .inf s else .nan (m / 2 ^ (f.man - 1) = 0))
  else if f.sat && (if f.sign then s && e = 0 && m = 0 else e = top && m = 2 ^ f.man - 1) then .nan false
  else if e = 0 then .fin s m (1 - f.bias - f.man)
  else .fin s (2 ^ f.man + m) ((e : Int) - f.bias - f.man)

/-- The sign bit set in a code. -/
def FFmt.signBit (f : FFmt) (neg : Bool) : Nat := if f.sign && neg then 2 ^ (f.exp + f.man) else 0

/-- The canonical NaN, with the flags its production raises (R71, R75): +infinity and INV where ieee has no NaN code. -/
def FFmt.nan (f : FFmt) : Nat × Nat :=
  if f.sat then (if f.sign then 2 ^ (f.exp + f.man) else 2 ^ f.width - 1, 0)
  else if f.man = 0 then (2 ^ f.exp - 1, 16)
  else ((2 ^ f.exp - 1) * 2 ^ f.man + 2 ^ (f.man - 1), 0)

/-- The largest finite code, without sign (R75). -/
def FFmt.maxCode (f : FFmt) : Nat :=
  if !f.sat then (2 ^ f.exp - 1) * 2 ^ f.man - 1
  else if f.sign then 2 ^ (f.exp + f.man) - 1
  else 2 ^ (f.exp + f.man) - 2

/-- Whether a truncated magnitude `k` rounds away from zero (R77): `rem` against `half`, with `sticky` something below. -/
def roundsUp (mode : RMode) (neg : Bool) (k rem half : Nat) (sticky : Bool) : Bool :=
  if rem = 0 && !sticky then false
  else match mode with
    | .rne => rem > half || (rem = half && (sticky || k % 2 = 1))
    | .rna => rem ≥ half
    | .rup => !neg
    | .rdn => neg
    | .rtz => false

/-- An out-of-range result (R79 Table 5). -/
def FFmt.over (f : FFmt) (mode : RMode) (neg : Bool) : Nat × Nat :=
  if f.sat then (f.signBit neg + f.maxCode, flagSat + flagInx)
  else
    let toInf := match mode with
      | .rne | .rna => true
      | .rtz => false
      | .rup => !neg
      | .rdn => neg
    (f.signBit neg + (if toInf then f.maxCode + 1 else f.maxCode), flagOvf + flagInx)

/-- A negative nonzero value, or a negative infinity, in a format without a sign bit (R79). -/
def FFmt.negative (f : FFmt) : Nat × Nat := if f.sat then (0, flagSat) else (f.nan.1, flagInv)

/-- Rounding (R77, R79): the magnitude lies in [n × 2^e, (n + 1) × 2^e), and is n × 2^e itself unless `sticky`. A caller
with `sticky` gives at least two bits below the last place kept. UNF is DEDUCED (assumption 25). A value is out of range
where its rounded value is, and under sat where the value itself lies beyond the largest finite (R132; R76 has 500.0
saturate in any mode), DEDUCED (assumption 87). With MAN = 0 no code has a mantissa bit to be even, and an RNE tie between
two normal values takes the larger magnitude: DESIGN CHOICE (assumption 92). DEDUCED (assumptions 25, 87); DESIGN
CHOICE (assumption 92). -/
def FFmt.round (f : FFmt) (mode : RMode) (neg : Bool) (n : Nat) (e : Int) (sticky : Bool) : Nat × Nat :=
  if n = 0 && !sticky then (if f.sat && f.sign then 0 else f.signBit neg, 0)
  else if neg && !f.sign then f.negative
  else
    let top : Int := (Nat.log2 n : Int) + e
    let emin : Int := 1 - f.bias
    let q : Int := (if f.exp = 0 || top < emin then emin else top) - f.man
    let sh := (q - e).toNat
    let k := if q ≤ e then n * 2 ^ (e - q).toNat else n / 2 ^ sh
    let rem := if q ≤ e then 0 else n % 2 ^ sh
    let half := if q ≤ e then 1 else 2 ^ (sh - 1)
    let inexact := rem ≠ 0 || sticky
    let k1 := if roundsUp mode neg k rem half sticky then k + 1 else k
    let unf := if inexact && 1 ≤ f.exp && f.maxCode ≥ 2 ^ f.man && top < emin then flagUnf else 0
    let base : Nat := ((q + f.man - emin) * 2 ^ f.man).toNat
    let code : Nat := base + k1
    if code > f.maxCode || (f.sat && base + k = f.maxCode && inexact) then f.over mode neg
    else if code = 0 && f.sat && f.sign then (0, (if inexact then flagInx else 0) + unf)
    else (f.signBit neg + code, (if inexact then flagInx else 0) + unf)

/-- A value rounded to a format, an infinity and a NaN included (R71, R79). A signalling NaN raises INV. -/
def FFmt.put (f : FFmt) (mode : RMode) (v : FVal) : Nat × Nat :=
  match v with
  | .nan sig => (f.nan.1, f.nan.2 ||| (if sig then flagInv else 0))
  | .inf neg =>
    if neg && !f.sign then f.negative
    else if f.sat then (f.signBit neg + f.maxCode, flagSat)
    else (f.signBit neg + f.maxCode + 1, 0)
  | .fin neg m e => f.round mode neg m e false

/-- A value as sign and magnitude: a signed integer multiple of 2^e. -/
def signed (neg : Bool) (m : Nat) : Int := if neg then -(m : Int) else m

/-- The sum of two finite values; the sign of an exact zero is the one both have, else plus (R70, RNE). -/
def finAdd (s1 : Bool) (m1 : Nat) (e1 : Int) (s2 : Bool) (m2 : Nat) (e2 : Int) : FVal :=
  let e := if e1 ≤ e2 then e1 else e2
  let v := signed s1 m1 * 2 ^ (e1 - e).toNat + signed s2 m2 * 2 ^ (e2 - e).toNat
  if v = 0 then .fin (s1 && s2) 0 e else .fin (v < 0) v.natAbs e

/-- INV where an operand is a signalling NaN (R71). -/
def sigFlag (l : List FVal) : Nat := if l.any (fun v => v == .nan true) then flagInv else 0

/-- Whether a value is a NaN. -/
def FVal.isNan : FVal → Bool
  | .nan _ => true
  | _ => false

/-- An exact sum (R122), with the flags it raises before rounding. -/
def exAdd (a b : FVal) : FVal × Nat :=
  match a, b with
  | .nan _, _ => (.nan false, sigFlag [a, b])
  | _, .nan _ => (.nan false, sigFlag [a, b])
  | .inf s, .inf t => if s = t then (.inf s, 0) else (.nan false, flagInv)
  | .inf s, _ => (.inf s, 0)
  | _, .inf t => (.inf t, 0)
  | .fin s m e, .fin t n g => (finAdd s m e t n g, 0)

/-- A value with the other sign. -/
def FVal.neg : FVal → FVal
  | .nan s => .nan s
  | .inf s => .inf (!s)
  | .fin s m e => .fin (!s) m e

/-- An exact product (R122). -/
def exMul (a b : FVal) : FVal × Nat :=
  match a, b with
  | .nan _, _ => (.nan false, sigFlag [a, b])
  | _, .nan _ => (.nan false, sigFlag [a, b])
  | .inf s, .inf t => (.inf (s != t), 0)
  | .inf s, .fin t m _ => if m = 0 then (.nan false, flagInv) else (.inf (s != t), 0)
  | .fin s m _, .inf t => if m = 0 then (.nan false, flagInv) else (.inf (s != t), 0)
  | .fin s m e, .fin t n g => (.fin (s != t) (m * n) (e + g), 0)

/-- An exact product and sum (R122): 0 × ∞ raises INV even beside a quiet NaN. -/
def exFma (a b c : FVal) : FVal × Nat :=
  let p := exMul a b
  let r := exAdd p.1 c
  (r.1, p.2 ||| r.2 ||| sigFlag [c])

/-- A result of a format with the flags met on the way (R122). -/
def FFmt.rnd (f : FFmt) (mode : RMode) (r : FVal × Nat) : Nat × Nat :=
  let p := f.put mode r.1
  (p.1, p.2 ||| r.2)

/-- Addition in a format, RNE. -/
def FFmt.add (f : FFmt) (a b : Nat) : Nat × Nat := f.rnd .rne (exAdd (f.val a) (f.val b))
/-- Subtraction in a format, RNE. -/
def FFmt.sub (f : FFmt) (a b : Nat) : Nat × Nat := f.rnd .rne (exAdd (f.val a) (f.val b).neg)
/-- Multiplication in a format, RNE. -/
def FFmt.mul (f : FFmt) (a b : Nat) : Nat × Nat := f.rnd .rne (exMul (f.val a) (f.val b))
/-- Multiply-add in a format, one rounding (R77). -/
def FFmt.fma (f : FFmt) (a b c : Nat) : Nat × Nat := f.rnd .rne (exFma (f.val a) (f.val b) (f.val c))

/-- The number of bits of a number. -/
def bitLen (n : Nat) : Nat := if n = 0 then 0 else Nat.log2 n + 1

/-- The square root of `n`, rounded down: bits `k − 1` to 0 of the root in turn. -/
def isqrt (n : Nat) : Nat → Nat → Nat
  | 0, acc => acc
  | k + 1, acc => isqrt n k (if (acc + 2 ^ k) * (acc + 2 ^ k) ≤ n then acc + 2 ^ k else acc)

/-- A quotient rounded once (R85, R124). -/
def FFmt.div (f : FFmt) (x y : Nat) : Nat × Nat :=
  let a := f.val x
  let b := f.val y
  match a, b with
  | .nan _, _ => f.rnd .rne (.nan false, sigFlag [a, b])
  | _, .nan _ => f.rnd .rne (.nan false, sigFlag [a, b])
  | .inf _, .inf _ => f.rnd .rne (.nan false, flagInv)
  | .inf s, .fin t _ _ => f.rnd .rne (.inf (s != t), 0)
  | .fin s _ _, .inf t => f.rnd .rne (.fin (s != t) 0 0, 0)
  | .fin s m e, .fin t n g =>
    if n = 0 then (if m = 0 then f.rnd .rne (.nan false, flagInv) else f.rnd .rne (.inf (s != t), flagDz))
    else if m = 0 then f.rnd .rne (.fin (s != t) 0 0, 0)
    else
      let k := f.man + 4 + bitLen n
      f.round .rne (s != t) (m * 2 ^ k / n) (e - g - k) (m * 2 ^ k % n ≠ 0)

/-- A square root rounded once (R85, R124). -/
def FFmt.sqrt (f : FFmt) (x : Nat) : Nat × Nat :=
  let a := f.val x
  match a with
  | .nan _ => f.rnd .rne (.nan false, sigFlag [a])
  | .inf s => if s then f.rnd .rne (.nan false, flagInv) else f.rnd .rne (.inf false, 0)
  | .fin s m e =>
    if m = 0 then f.rnd .rne (.fin s 0 0, 0)
    else if s then f.rnd .rne (.nan false, flagInv)
    else
      let m1 := if e % 2 = 0 then m else 2 * m
      let e1 := if e % 2 = 0 then e else e - 1
      let k := f.man + 4
      let n := m1 * 4 ^ k
      let r := isqrt n (bitLen n / 2 + 1) 0
      f.round .rne false r (e1 / 2 - k) (r * r ≠ n)

/-- A reciprocal rounded once (R85). -/
def FFmt.rcp (f : FFmt) (x : Nat) : Nat × Nat :=
  let a := f.val x
  match a with
  | .nan _ => f.rnd .rne (.nan false, sigFlag [a])
  | .inf s => f.rnd .rne (.fin s 0 0, 0)
  | .fin s m e =>
    if m = 0 then f.rnd .rne (.inf s, flagDz)
    else
      let k := f.man + 4 + bitLen m
      f.round .rne s (2 ^ k / m) (-e - k) (2 ^ k % m ≠ 0)

/-- A reciprocal square root rounded once (R85). -/
def FFmt.rsq (f : FFmt) (x : Nat) : Nat × Nat :=
  let a := f.val x
  match a with
  | .nan _ => f.rnd .rne (.nan false, sigFlag [a])
  | .inf s => if s then f.rnd .rne (.nan false, flagInv) else f.rnd .rne (.fin false 0 0, 0)
  | .fin s m e =>
    if m = 0 then f.rnd .rne (.inf s, flagDz)
    else if s then f.rnd .rne (.nan false, flagInv)
    else
      let m1 := if e % 2 = 0 then m else 2 * m
      let e1 := if e % 2 = 0 then e else e - 1
      let k := f.man + 4 + bitLen m1
      let r := isqrt (4 ^ k / m1) (k + 1) 0
      f.round .rne false r (-(e1 / 2) - k) (r * r * m1 ≠ 4 ^ k)

/-- The order of two values that are not NaNs: less, equal, greater as −1, 0, 1; −0 equals +0. -/
def cmpVal (a b : FVal) : Int :=
  let key : FVal → Int → Int := fun v e =>
    match v with
    | .fin s m g => signed s m * 2 ^ (g - e).toNat
    | _ => 0
  match a, b with
  | .inf s, .inf t => if s = t then 0 else if s then -1 else 1
  | .inf s, _ => if s then -1 else 1
  | _, .inf t => if t then 1 else -1
  | .fin _ _ e, .fin _ _ g =>
    let m := if e ≤ g then e else g
    (key a m - key b m).sign
  | _, _ => 0

/-- The integer nearest a finite value under a mode, and whether it differs (R77, R130). -/
def roundInt (mode : RMode) (neg : Bool) (m : Nat) (e : Int) : Int × Bool :=
  if e ≥ 0 then (signed neg (m * 2 ^ e.toNat), false)
  else
    let sh := (-e).toNat
    let k := m / 2 ^ sh
    let rem := m % 2 ^ sh
    let k1 := if roundsUp mode neg k rem (2 ^ (sh - 1)) false then k + 1 else k
    (signed neg k1, rem ≠ 0)

/-- FP32 addition without flags, as sums use it (R82). -/
def add32 (a b : Nat) : Nat := ((fmtOf .fp32).add a b).1

/-- Addition in a format with the flags of both operands carried along. -/
def FFmt.addF (f : FFmt) (a b : Nat × Nat) : Nat × Nat :=
  let r := f.add a.1 b.1
  (r.1, r.2 ||| a.2 ||| b.2)

/-- The sum of sixteen values in the order of R82. -/
def sum16 {α : Type} (add : α → α → α) (zero : α) (l : List α) : α :=
  let x (k : Nat) : α := l.getD k zero
  let p (k : Nat) : α := add (x (2 * k)) (x (2 * k + 1))
  let q (k : Nat) : α := add (p (2 * k)) (p (2 * k + 1))
  add (add (q 0) (q 1)) (add (q 2) (q 3))

/-- A sum in the order of R82, by at most `n` chunks of 16, with an optional initial value. -/
def sumR82 {α : Type} (add : α → α → α) (zero : α) : Nat → Option α → List α → α
  | 0, acc, _ => acc.getD zero
  | n + 1, acc, l =>
    if l.isEmpty then acc.getD zero
    else
      let s := sum16 add zero (l.take 16)
      sumR82 add zero n (some (match acc with | some z => add z s | none => s)) (l.drop 16)

/-- The FP32 sum of FP32 codes in the order of R82. -/
def sum32 (z : Option Nat) (l : List Nat) : Nat := sumR82 add32 0 (l.length + 1) z l

/-- A product of two elements that enters a sum (R81): exact, rounded once to FP32. -/
def prod32 (f g : FFmt) (a b : Nat) : Nat := ((fmtOf .fp32).rnd .rne (exMul (f.val a) (g.val b))).1

end Sys2Proof.Machine
end

