-- ==== Sys2Proof/Machine/Tables.lean ====
section
/-! DEFINITION. The tables of the special functions (R86 Table 7): FP32 values, each the exact function value rounded by
RNE. -/
namespace Sys2Proof.Machine

/-- Table T of R86: 2^(i/128), entries 0 to 31. -/
def tabT0 : List Nat :=
  [0x3F800000, 0x3F80B1ED, 0x3F8164D2, 0x3F8218AF, 0x3F82CD87, 0x3F838359, 0x3F843A29, 0x3F84F1F6,
   0x3F85AAC3, 0x3F866491, 0x3F871F62, 0x3F87DB35, 0x3F88980F, 0x3F8955EE, 0x3F8A14D5, 0x3F8AD4C6,
   0x3F8B95C2, 0x3F8C57CA, 0x3F8D1ADF, 0x3F8DDF04, 0x3F8EA43A, 0x3F8F6A81, 0x3F9031DC, 0x3F90FA4D,
   0x3F91C3D3, 0x3F928E72, 0x3F935A2B, 0x3F9426FF, 0x3F94F4F0, 0x3F95C3FF, 0x3F96942D, 0x3F97657D]

/-- Table T of R86: 2^(i/128), entries 32 to 63. -/
def tabT1 : List Nat :=
  [0x3F9837F0, 0x3F990B88, 0x3F99E046, 0x3F9AB62B, 0x3F9B8D3A, 0x3F9C6573, 0x3F9D3EDA, 0x3F9E196E,
   0x3F9EF532, 0x3F9FD228, 0x3FA0B051, 0x3FA18FAF, 0x3FA27043, 0x3FA3520F, 0x3FA43516, 0x3FA51958,
   0x3FA5FED7, 0x3FA6E595, 0x3FA7CD94, 0x3FA8B6D5, 0x3FA9A15B, 0x3FAA8D26, 0x3FAB7A3A, 0x3FAC6897,
   0x3FAD583F, 0x3FAE4934, 0x3FAF3B79, 0x3FB02F0E, 0x3FB123F6, 0x3FB21A32, 0x3FB311C4, 0x3FB40AAF]

/-- Table T of R86: 2^(i/128), entries 64 to 95. -/
def tabT2 : List Nat :=
  [0x3FB504F3, 0x3FB60094, 0x3FB6FD92, 0x3FB7FBF0, 0x3FB8FBAF, 0x3FB9FCD2, 0x3FBAFF5B, 0x3FBC034A,
   0x3FBD08A4, 0x3FBE0F68, 0x3FBF179A, 0x3FC0213B, 0x3FC12C4D, 0x3FC238D2, 0x3FC346CD, 0x3FC4563F,
   0x3FC5672A, 0x3FC67991, 0x3FC78D75, 0x3FC8A2D8, 0x3FC9B9BE, 0x3FCAD226, 0x3FCBEC15, 0x3FCD078C,
   0x3FCE248C, 0x3FCF4319, 0x3FD06334, 0x3FD184DF, 0x3FD2A81E, 0x3FD3CCF1, 0x3FD4F35B, 0x3FD61B5E]

/-- Table T of R86: 2^(i/128), entries 96 to 127. -/
def tabT3 : List Nat :=
  [0x3FD744FD, 0x3FD87039, 0x3FD99D16, 0x3FDACB94, 0x3FDBFBB8, 0x3FDD2D82, 0x3FDE60F5, 0x3FDF9613,
   0x3FE0CCDF, 0x3FE2055B, 0x3FE33F89, 0x3FE47B6D, 0x3FE5B907, 0x3FE6F85B, 0x3FE8396A, 0x3FE97C38,
   0x3FEAC0C7, 0x3FEC0719, 0x3FED4F30, 0x3FEE9910, 0x3FEFE4BA, 0x3FF13231, 0x3FF28177, 0x3FF3D290,
   0x3FF5257D, 0x3FF67A41, 0x3FF7D0DF, 0x3FF9295A, 0x3FFA83B3, 0x3FFBDFED, 0x3FFD3E0C, 0x3FFE9E11]

/-- Table T of R86: 2^(i/128). -/
def tabT : List Nat := tabT0 ++ (tabT1 ++ (tabT2 ++ tabT3))

/-- Table RC of R86: 1 / (1 + i/128), entries 0 to 31. -/
def tabRC0 : List Nat :=
  [0x3F800000, 0x3F7E03F8, 0x3F7C0FC1, 0x3F7A232D, 0x3F783E10, 0x3F76603E, 0x3F74898D, 0x3F72B9D6,
   0x3F70F0F1, 0x3F6F2EB7, 0x3F6D7304, 0x3F6BBDB3, 0x3F6A0EA1, 0x3F6865AC, 0x3F66C2B4, 0x3F652598,
   0x3F638E39, 0x3F61FC78, 0x3F607038, 0x3F5EE95C, 0x3F5D67C9, 0x3F5BEB62, 0x3F5A740E, 0x3F5901B2,
   0x3F579436, 0x3F562B81, 0x3F54C77B, 0x3F53680D, 0x3F520D21, 0x3F50B6A0, 0x3F4F6475, 0x3F4E168A]

/-- Table RC of R86: 1 / (1 + i/128), entries 32 to 63. -/
def tabRC1 : List Nat :=
  [0x3F4CCCCD, 0x3F4B8728, 0x3F4A4588, 0x3F4907DA, 0x3F47CE0C, 0x3F46980C, 0x3F4565C8, 0x3F443730,
   0x3F430C31, 0x3F41E4BC, 0x3F40C0C1, 0x3F3FA030, 0x3F3E82FA, 0x3F3D6910, 0x3F3C5264, 0x3F3B3EE7,
   0x3F3A2E8C, 0x3F392144, 0x3F381703, 0x3F370FBB, 0x3F360B61, 0x3F3509E7, 0x3F340B41, 0x3F330F63,
   0x3F321643, 0x3F311FD4, 0x3F302C0B, 0x3F2F3ADE, 0x3F2E4C41, 0x3F2D602B, 0x3F2C7692, 0x3F2B8F6A]

/-- Table RC of R86: 1 / (1 + i/128), entries 64 to 95. -/
def tabRC2 : List Nat :=
  [0x3F2AAAAB, 0x3F29C84A, 0x3F28E83F, 0x3F280A81, 0x3F272F05, 0x3F2655C4, 0x3F257EB5, 0x3F24A9CF,
   0x3F23D70A, 0x3F23065E, 0x3F2237C3, 0x3F216B31, 0x3F20A0A1, 0x3F1FD80A, 0x3F1F1166, 0x3F1E4CAD,
   0x3F1D89D9, 0x3F1CC8E1, 0x3F1C09C1, 0x3F1B4C70, 0x3F1A90E8, 0x3F19D723, 0x3F191F1A, 0x3F1868C8,
   0x3F17B426, 0x3F17012E, 0x3F164FDA, 0x3F15A025, 0x3F14F209, 0x3F144581, 0x3F139A86, 0x3F12F114]

/-- Table RC of R86: 1 / (1 + i/128), entries 96 to 127. -/
def tabRC3 : List Nat :=
  [0x3F124925, 0x3F11A2B4, 0x3F10FDBC, 0x3F105A38, 0x3F0FB824, 0x3F0F177A, 0x3F0E7835, 0x3F0DDA52,
   0x3F0D3DCB, 0x3F0CA29C, 0x3F0C08C1, 0x3F0B7034, 0x3F0AD8F3, 0x3F0A42F8, 0x3F09AE41, 0x3F091AC7,
   0x3F088889, 0x3F07F781, 0x3F0767AB, 0x3F06D905, 0x3F064B8A, 0x3F05BF37, 0x3F053408, 0x3F04A9FA,
   0x3F042108, 0x3F039930, 0x3F03126F, 0x3F028CC0, 0x3F020821, 0x3F01848E, 0x3F010204, 0x3F008081]

/-- Table RC of R86: 1 / (1 + i/128). -/
def tabRC : List Nat := tabRC0 ++ (tabRC1 ++ (tabRC2 ++ tabRC3))

/-- Table L of R86: −log2 of RC[i], entries 0 to 31. -/
def tabL0 : List Nat :=
  [0x00000000, 0x3C37F28B, 0x3CB73CB3, 0x3D08E68D, 0x3D35D690, 0x3D626FCC, 0x3D8759C9, 0x3D9D5182,
   0x3DB31FB7, 0x3DC8C50D, 0x3DDE420E, 0x3DF3975C, 0x3E0462C4, 0x3E0EE690, 0x3E195751, 0x3E23B551,
   0x3E2E00D1, 0x3E383A17, 0x3E42615F, 0x3E4C76EA, 0x3E567AEF, 0x3E606DB6, 0x3E6A4F70, 0x3E74205F,
   0x3E7DE0B5, 0x3E83C856, 0x3E88983F, 0x3E8D602E, 0x3E92203D, 0x3E96D887, 0x3E9B8925, 0x3EA03234]

/-- Table L of R86: −log2 of RC[i], entries 32 to 63. -/
def tabL1 : List Nat :=
  [0x3EA4D3C2, 0x3EA96DEF, 0x3EAE00D1, 0x3EB28C80, 0x3EB71110, 0x3EBB8E97, 0x3EC0052D, 0x3EC474E2,
   0x3EC8DDD3, 0x3ECD4011, 0x3ED19BAF, 0x3ED5F0C3, 0x3EDA3F60, 0x3EDE8798, 0x3EE2C97E, 0x3EE70525,
   0x3EEB3A9E, 0x3EEF69FF, 0x3EF39355, 0x3EF7B6B5, 0x3EFBD42A, 0x3EFFEBCB, 0x3F01FED4, 0x3F0404E8,
   0x3F060828, 0x3F08089D, 0x3F0A0650, 0x3F0C0146, 0x3F0DF98A, 0x3F0FEF1F, 0x3F11E20E, 0x3F13D260]

/-- Table L of R86: −log2 of RC[i], entries 64 to 95. -/
def tabL2 : List Nat :=
  [0x3F15C01A, 0x3F17AB44, 0x3F1993E4, 0x3F1B79FF, 0x3F1D5DA0, 0x3F1F3ECA, 0x3F211D84, 0x3F22F9D5,
   0x3F24D3C3, 0x3F26AB53, 0x3F28808D, 0x3F2A5375, 0x3F2C2410, 0x3F2DF268, 0x3F2FBE7F, 0x3F31885D,
   0x3F335004, 0x3F35157E, 0x3F36D8CA, 0x3F3899F4, 0x3F3A58FE, 0x3F3C15EE, 0x3F3DD0C9, 0x3F3F8991,
   0x3F41404E, 0x3F42F506, 0x3F44A7BB, 0x3F465873, 0x3F480731, 0x3F49B3FA, 0x3F4B5ED6, 0x3F4D07C5]

/-- Table L of R86: −log2 of RC[i], entries 96 to 127. -/
def tabL3 : List Nat :=
  [0x3F4EAECF, 0x3F5053F6, 0x3F51F740, 0x3F5398AF, 0x3F553847, 0x3F56D60F, 0x3F58720A, 0x3F5A0C3A,
   0x3F5BA4A5, 0x3F5D3B4E, 0x3F5ED038, 0x3F60636B, 0x3F61F4E5, 0x3F6384AF, 0x3F6512C6, 0x3F669F36,
   0x3F6829FA, 0x3F69B31C, 0x3F6B3AA0, 0x3F6CC084, 0x3F6E44CF, 0x3F6FC782, 0x3F7148A2, 0x3F72C831,
   0x3F744636, 0x3F75C2B1, 0x3F773DA2, 0x3F78B713, 0x3F7A2F03, 0x3F7BA577, 0x3F7D1A71, 0x3F7E8DF1]

/-- Table L of R86: −log2 of RC[i]. -/
def tabL : List Nat := tabL0 ++ (tabL1 ++ (tabL2 ++ tabL3))

/-- Table E of R86: erf(i/32), entries 0 to 31. -/
def tabE0 : List Nat :=
  [0x00000000, 0x3D1062B2, 0x3D903EA4, 0x3DD80409, 0x3E0FAF0D, 0x3E331506, 0x3E5622F2, 0x3E78C855,
   0x3E8D7AA7, 0x3E9E4D54, 0x3EAED4FA, 0x3EBF0ACA, 0x3ECEE869, 0x3EDE67F6, 0x3EED840E, 0x3EFC37D5,
   0x3F053F7B, 0x3F0C2AD3, 0x3F12DC54, 0x3F1952A6, 0x3F1F8CB7, 0x3F2589B9, 0x3F2B4922, 0x3F30CAAB,
   0x3F360E4C, 0x3F3B1438, 0x3F3FDCE0, 0x3F4468E7, 0x3F48B925, 0x3F4CCEA1, 0x3F50AA8D, 0x3F544E43]

/-- Table E of R86: erf(i/32), entries 32 to 63. -/
def tabE1 : List Nat :=
  [0x3F57BB3D, 0x3F5AF318, 0x3F5DF788, 0x3F60CA59, 0x3F636D69, 0x3F65E2A6, 0x3F682C06, 0x3F6A4B88,
   0x3F6C432F, 0x3F6E14FE, 0x3F6FC2F5, 0x3F714F11, 0x3F72BB46, 0x3F74097E, 0x3F753B98, 0x3F765366,
   0x3F7752AB, 0x3F783B18, 0x3F790E50, 0x3F79CDE1, 0x3F7A7B4A, 0x3F7B17F4, 0x3F7BA537, 0x3F7C2456,
   0x3F7C9684, 0x3F7CFCDD, 0x3F7D586F, 0x3F7DAA32, 0x3F7DF30F, 0x3F7E33DE, 0x3F7E6D66, 0x3F7EA05F]

/-- Table E of R86: erf(i/32), entries 64 to 95. -/
def tabE2 : List Nat :=
  [0x3F7ECD71, 0x3F7EF537, 0x3F7F1840, 0x3F7F370C, 0x3F7F5211, 0x3F7F69BA, 0x3F7F7E67, 0x3F7F9070,
   0x3F7FA024, 0x3F7FADC8, 0x3F7FB99C, 0x3F7FC3D9, 0x3F7FCCB0, 0x3F7FD450, 0x3F7FDADF, 0x3F7FE081,
   0x3F7FE554, 0x3F7FE975, 0x3F7FECFC, 0x3F7FEFFD, 0x3F7FF28A, 0x3F7FF4B5, 0x3F7FF68B, 0x3F7FF819,
   0x3F7FF968, 0x3F7FFA82, 0x3F7FFB6F, 0x3F7FFC36, 0x3F7FFCDD, 0x3F7FFD68, 0x3F7FFDDC, 0x3F7FFE3D]

/-- Table E of R86: erf(i/32), entries 96 to 127. -/
def tabE3 : List Nat :=
  [0x3F7FFE8D, 0x3F7FFED0, 0x3F7FFF07, 0x3F7FFF34, 0x3F7FFF5A, 0x3F7FFF79, 0x3F7FFF92, 0x3F7FFFA7,
   0x3F7FFFB8, 0x3F7FFFC6, 0x3F7FFFD1, 0x3F7FFFDA, 0x3F7FFFE2, 0x3F7FFFE8, 0x3F7FFFEC, 0x3F7FFFF0,
   0x3F7FFFF4, 0x3F7FFFF6, 0x3F7FFFF8, 0x3F7FFFFA, 0x3F7FFFFB, 0x3F7FFFFC, 0x3F7FFFFD, 0x3F7FFFFE,
   0x3F7FFFFE, 0x3F7FFFFF, 0x3F7FFFFF, 0x3F7FFFFF, 0x3F7FFFFF, 0x3F7FFFFF, 0x3F800000, 0x3F800000]

/-- Table E of R86: erf(i/32). -/
def tabE : List Nat := tabE0 ++ (tabE1 ++ (tabE2 ++ tabE3))

/-- Table D of R86: (2/√π) exp(−(i/32)²), entries 0 to 31. -/
def tabD0 : List Nat :=
  [0x3F906EBB, 0x3F904AA3, 0x3F8FDE94, 0x3F8F2B2E, 0x3F8E317D, 0x3F8CF2F5, 0x3F8B716C, 0x3F89AF18,
   0x3F87AE8B, 0x3F8572A8, 0x3F82FE9F, 0x3F8055E8, 0x3F7AF867, 0x3F74EAD4, 0x3F6E8B3E, 0x3F67E20F,
   0x3F60F7E5, 0x3F59D57E, 0x3F5283A7, 0x3F4B0B28, 0x3F4374B5, 0x3F3BC8DC, 0x3F340FF9, 0x3F2C5223,
   0x3F249721, 0x3F1CE661, 0x3F1546E7, 0x3F0DBF4C, 0x3F0655B1, 0x3EFE1F73, 0x3EEFE513, 0x3EE20584]

/-- Table D of R86: (2/√π) exp(−(i/32)²), entries 32 to 63. -/
def tabD1 : List Nat :=
  [0x3ED488F8, 0x3EC7769B, 0x3EBAD48D, 0x3EAEA7EA, 0x3EA2F4CE, 0x3E97BE62, 0x3E8D06E3, 0x3E82CFAD,
   0x3E723298, 0x3E5FC70E, 0x3E4E5ADF, 0x3E3DEAE4, 0x3E2E72CB, 0x3E1FED36, 0x3E1253DC, 0x3E059FA9,
   0x3DF391B9, 0x3DDD8E4C, 0x3DC92385, 0x3DB63F32, 0x3DA4CEA4, 0x3D94BEDD, 0x3D85FCBF, 0x3D70EA68,
   0x3D582A98, 0x3D4194C7, 0x3D2D0474, 0x3D1A561B, 0x3D09675A, 0x3CF42E22, 0x3CD88B05, 0x3CBFA8C4]

/-- Table D of R86: (2/√π) exp(−(i/32)²), entries 64 to 95. -/
def tabD2 : List Nat :=
  [0x3CA94DCF, 0x3C9543AE, 0x3C83570A, 0x3C66AF65, 0x3C4A3127, 0x3C30DF57, 0x3C1A6BEE, 0x3C068EB5,
   0x3BEA0A1D, 0x3BCB237A, 0x3BAFF93B, 0x3B9824CE, 0x3B8348C6, 0x3B622096, 0x3B425D18, 0x3B26BC5E,
   0x3B0EC18C, 0x3AF3F919, 0x3AD0121B, 0x3AB11AFE, 0x3A96744C, 0x3A7F20E7, 0x3A57E42F, 0x3A365507,
   0x3A19B066, 0x3A014AF8, 0x39D91D2D, 0x39B5F011, 0x399829C8, 0x397E06AB, 0x3953A034, 0x392FF56D]

/-- Table D of R86: (2/√π) exp(−(i/32)²), entries 96 to 127. -/
def tabD3 : List Nat :=
  [0x39120475, 0x38F1DE7A, 0x38C7EE0E, 0x38A4F0BC, 0x3887CF0E, 0x385F355E, 0x383711B4, 0x3815DAE6,
   0x37F4DAF4, 0x37C7A666, 0x37A2790F, 0x3783F5E9, 0x3755F04F, 0x372D1570, 0x370BC1E7, 0x36E14167,
   0x36B52CB9, 0x36916F95, 0x366909CC, 0x363A56E4, 0x3614B538, 0x35ECE39B, 0x35BC4FDC, 0x35956771,
   0x356C9B8F, 0x353AFD47, 0x35137CF0, 0x34E8356B, 0x34B670D5, 0x348F0F43, 0x345FEBAB, 0x342EE6B3]

/-- Table D of R86: (2/√π) exp(−(i/32)²). -/
def tabD : List Nat := tabD0 ++ (tabD1 ++ (tabD2 ++ tabD3))

/-- Table K of R86: (2 (i/32)² − 1) / 3, entries 0 to 31. -/
def tabK0 : List Nat :=
  [0xBEAAAAAB, 0xBEAA5555, 0xBEA95555, 0xBEA7AAAB, 0xBEA55555, 0xBEA25555, 0xBE9EAAAB, 0xBE9A5555,
   0xBE955555, 0xBE8FAAAB, 0xBE895555, 0xBE825555, 0xBE755555, 0xBE64AAAB, 0xBE52AAAB, 0xBE3F5555,
   0xBE2AAAAB, 0xBE14AAAB, 0xBDFAAAAB, 0xBDC95555, 0xBD955555, 0xBD3D5555, 0xBC955555, 0x3C355555,
   0x3D2AAAAB, 0x3D96AAAB, 0x3DDAAAAB, 0x3E10AAAB, 0x3E355555, 0x3E5B5555, 0x3E815555, 0x3E95AAAB]

/-- Table K of R86: (2 (i/32)² − 1) / 3, entries 32 to 63. -/
def tabK1 : List Nat :=
  [0x3EAAAAAB, 0x3EC05555, 0x3ED6AAAB, 0x3EEDAAAB, 0x3F02AAAB, 0x3F0ED555, 0x3F1B5555, 0x3F282AAB,
   0x3F355555, 0x3F42D555, 0x3F50AAAB, 0x3F5ED555, 0x3F6D5555, 0x3F7C2AAB, 0x3F85AAAB, 0x3F8D6AAB,
   0x3F955555, 0x3F9D6AAB, 0x3FA5AAAB, 0x3FAE1555, 0x3FB6AAAB, 0x3FBF6AAB, 0x3FC85555, 0x3FD16AAB,
   0x3FDAAAAB, 0x3FE41555, 0x3FEDAAAB, 0x3FF76AAB, 0x4000AAAB, 0x4005B555, 0x400AD555, 0x40100AAB]

/-- Table K of R86: (2 (i/32)² − 1) / 3, entries 64 to 95. -/
def tabK2 : List Nat :=
  [0x40155555, 0x401AB555, 0x40202AAB, 0x4025B555, 0x402B5555, 0x40310AAB, 0x4036D555, 0x403CB555,
   0x4042AAAB, 0x4048B555, 0x404ED555, 0x40550AAB, 0x405B5555, 0x4061B555, 0x40682AAB, 0x406EB555,
   0x40755555, 0x407C0AAB, 0x40816AAB, 0x4084DAAB, 0x40885555, 0x408BDAAB, 0x408F6AAB, 0x40930555,
   0x4096AAAB, 0x409A5AAB, 0x409E1555, 0x40A1DAAB, 0x40A5AAAB, 0x40A98555, 0x40AD6AAB, 0x40B15AAB]

/-- Table K of R86: (2 (i/32)² − 1) / 3, entries 96 to 127. -/
def tabK3 : List Nat :=
  [0x40B55555, 0x40B95AAB, 0x40BD6AAB, 0x40C18555, 0x40C5AAAB, 0x40C9DAAB, 0x40CE1555, 0x40D25AAB,
   0x40D6AAAB, 0x40DB0555, 0x40DF6AAB, 0x40E3DAAB, 0x40E85555, 0x40ECDAAB, 0x40F16AAB, 0x40F60555,
   0x40FAAAAB, 0x40FF5AAB, 0x41020AAB, 0x41046D55, 0x4106D555, 0x410942AB, 0x410BB555, 0x410E2D55,
   0x4110AAAB, 0x41132D55, 0x4115B555, 0x411842AB, 0x411AD555, 0x411D6D55, 0x41200AAB, 0x4122AD55]

/-- Table K of R86: (2 (i/32)² − 1) / 3. -/
def tabK : List Nat := tabK0 ++ (tabK1 ++ (tabK2 ++ tabK3))

end Sys2Proof.Machine
end

