-- ==== Sys2Proof/Machine/Special.lean ====
section
/-! DEFINITION. The special functions (R86 to R90), on FP32 codes. Each answers its result and its flags. -/
namespace Sys2Proof.Machine

/-- FP32. -/
def f32 : FFmt := fmtOf .fp32

/-- fma32 of R77. -/
def fma32 (a b c : Nat) : Nat := (f32.fma a b c).1
/-- An FP32 product rounded once. -/
def mul32 (a b : Nat) : Nat := (f32.mul a b).1
/-- An FP32 difference rounded once. -/
def sub32 (a b : Nat) : Nat := (f32.sub a b).1
/-- An FP32 quotient rounded once. -/
def div32 (a b : Nat) : Nat := (f32.div a b).1
/-- rne32 of an exact value m × 2^e (R77). -/
def rne32 (neg : Bool) (m : Nat) (e : Int) : Nat := (f32.round .rne neg m e false).1

/-- FP32 constants: NaN, infinities, 1.0. -/
def nan32 : Nat := 0x7FC00000
/-- +infinity. -/
def inf32 : Nat := 0x7F800000
/-- 1.0. -/
def one32 : Nat := 0x3F800000

/-- FEXP2 (R87). -/
def fexp2 (x : Nat) : Nat :=
  match f32.val x with
  | .nan _ => nan32
  | .inf s => if s then 0 else inf32
  | .fin s m e =>
    if cmpVal (.fin s m e) (.fin true 150 0) < 0 then 0
    else if cmpVal (.fin s m e) (.fin false 128 0) ≥ 0 then inf32
    else
      let n := (roundInt .rne s m (e + 7)).1
      let g := if e ≤ -7 then e else -7
      let fv := signed s m * 2 ^ (e - g).toNat - n * 2 ^ (-7 - g).toNat
      let f := rne32 (fv < 0) fv.natAbs g
      let i := (n % 128).toNat
      let ex := (n - i) / 128
      let q := fma32 0x3D635847 f 0x3E75FDF0
      let q := fma32 q f 0x3F317218
      let q := fma32 q f one32
      match f32.val (tabT.getD i 0), f32.val q with
      | .fin _ a g1, .fin s2 b g2 => rne32 s2 (a * b) (g1 + g2 + ex)
      | _, _ => nan32

/-- FLOG2 (R88), with its flags. -/
def flog2 (x : Nat) : Nat × Nat :=
  match f32.val x with
  | .nan _ => (nan32, 0)
  | .inf s => if s then (nan32, flagInv) else (inf32, 0)
  | .fin s m e =>
    if m = 0 then (0xFF800000, flagDz)
    else if s then (nan32, flagInv)
    else
      let k := Nat.log2 m
      let ex : Int := e + k
      let mant := rne32 false m (-(k : Int))
      let i := (m * 2 ^ 23 / 2 ^ k - 2 ^ 23) / 2 ^ 16
      let r := fma32 mant (tabRC.getD i 0) 0xBF800000
      let q := fma32 0x3EF6384F r 0xBF38AA3B
      let q := fma32 q r 0x3FB8AA3B
      let q := mul32 q r
      let t := add32 (tabL.getD i 0) q
      ((f32.rnd .rne (exAdd (.fin (ex < 0) ex.natAbs 0) (f32.val t))).1, 0)

/-- The sign of an FP32 code put on a magnitude. -/
def withSign (x mag : Nat) : Nat := mag % 2 ^ 31 + x / 2 ^ 31 % 2 * 2 ^ 31

/-- FTANH (R89). -/
def ftanh (x : Nat) : Nat :=
  match f32.val x with
  | .nan _ => nan32
  | .inf _ => withSign x one32
  | .fin _ m e =>
    if cmpVal (.fin false m e) (.fin false 10 0) ≥ 0 then withSign x one32
    else if cmpVal (.fin false m e) (.fin false 1 (-12)) < 0 then x % 2 ^ 32
    else
      let w := mul32 (withSign 0 x) 0x4038AA3B
      let u := fexp2 (w + 2 ^ 31)
      withSign x (div32 (sub32 one32 u) (add32 one32 u))

/-- FSIGM (R89). -/
def fsigm (x : Nat) : Nat :=
  match f32.val x with
  | .nan _ => nan32
  | _ =>
    let w := mul32 x 0x3FB8AA3B
    let u := fexp2 ((w + 2 ^ 31) % 2 ^ 32)
    div32 one32 (add32 one32 u)

/-- FERF (R90). -/
def ferf (x : Nat) : Nat :=
  match f32.val x with
  | .nan _ => nan32
  | .inf _ => withSign x one32
  | .fin _ m e =>
    if cmpVal (.fin false m e) (.fin false 4 0) ≥ 0 then withSign x one32
    else if cmpVal (.fin false m e) (.fin false 1 (-12)) < 0 then mul32 x 0x3F906EBB
    else
      let i := (roundInt .rtz false m (e + 5)).1.toNat
      let g := if e ≤ -5 then e else -5
      let hv := m * 2 ^ (e - g).toNat - i * 2 ^ (-5 - g).toNat
      let h := rne32 false hv g
      let x0 := rne32 true i (-5)
      let t := fma32 (tabK.getD i 0) h x0
      let t := fma32 t h one32
      let t := mul32 t h
      withSign x (fma32 (tabD.getD i 0) t (tabE.getD i 0))

/-- A function of FP32 codes at a BF16, FP16 or FP32 node (R86, R127): the operand is converted exactly, the result
rounded to the type by RNE without a flag; a signalling NaN raises INV. -/
def viaF32 (ty : Ty) (f : Nat → Nat × Nat) (x : Nat) : Nat × Nat :=
  let v := (fmtOf ty).val x
  match v with
  | .nan sig => ((fmtOf ty).nan.1, if sig then flagInv else 0)
  | _ =>
    let r := f (f32.put .rne v).1
    if ty == .fp32 then r else (((fmtOf ty).put .rne (f32.val r.1)).1, r.2)

end Sys2Proof.Machine
end

