-- ==== Sys2Proof/Machine/Elements.lean ====
section
/-! DEFINITION. The mould of the elementwise instructions (R91 to R96): each active element computed from the elements at
the same position, inactive elements from operand A, the flags of the active ones. -/
namespace Sys2Proof.Machine

/-- The ports a firing consumes: all it declares. -/
def portsOf (h : Hdr) : List Nat := List.range h.arity

/-- The operand tokens of a firing. -/
def usedBy (f : Firing) (h : Hdr) : List Tok := f.first h.arity

/-- The elements of a firing's result and the flags its active elements raise (R92, R95). `op` takes the elements of A, B
and C. -/
def elements (f : Firing) (h : Hdr) (l : Lit) (w : Nat) (op : Nat → Nat → Nat → Nat × Nat) : List Nat × Nat :=
  let v := f.vec h.arity
  let rs := (List.range (nElems v w)).map (fun j =>
    let a := opElem f h.arity h.fmt l w 0 j
    if active f w j then op a (opElem f h.arity h.fmt l w 1 j) (opElem f h.arity h.fmt l w 2 j) else (a, 0))
  (rs.map (fun r => r.1), rs.foldl (fun a r => a ||| r.2) 0)

/-- What an elementwise firing does: one token of type `fmt` on each target, occupying its stage for `n` cycles, or the
one-cycle pass of R93. -/
def elementwise (f : Firing) (h : Hdr) (l : Lit) (fmt : Ty) (n : Nat) (op : Nat → Nat → Nat → Nat × Nat) : Out :=
  let w := h.fmt.width
  let used := usedBy f h
  let v := f.vec h.arity
  let a := f.op 0
  let t (d : Payload) : Tok := newTok f h used (some a) fmt v d
  if passThrough f then { sends := both h (t a.data), n := 1, ports := portsOf h, used := used }
  else
    let r := elements f h l w op
    { sends := both h (t (resData v fmt w r.1)), n := n, ports := portsOf h, used := used, flags := r.2 }

/-- An elementwise firing performs. -/
def State.runElems (s : State) (h : Hdr) (l : Lit) (fmt : Ty) (n : Firing → Nat)
    (op : Nat → Nat → Nat → Nat × Nat) : Host.Outcome State Fault Refusal :=
  s.firing (fun s f => s.fire f (elementwise f h l fmt (n f) op))

/-- A literal that is absent. -/
def noLit : Lit := ⟨0, none⟩

end Sys2Proof.Machine
end

