-- ==== Sys2Proof/Machine/Convert.lean ====
section
/-! DEFINITION. Group 0x6: conversion (R128 to R133). -/
namespace Sys2Proof.Machine

/-- conv(x) of R130: source type, destination type, SATI and mode. -/
def convElem (src dst : Ty) (sati : Bool) (mode : RMode) (x : Nat) : Nat × Nat :=
  if src.isInt then
    let v := intVal src x
    if dst.isInt then
      (if dst.width < src.width && sati then clampInt dst v else (wrapInt dst.width v, 0))
    else (fmtOf dst).round mode (v < 0) v.natAbs 0 false
  else
    let v := (fmtOf src).val x
    if dst.isInt then
      match v with
      | .nan _ => (0, flagInv)
      | .inf neg => clampInt dst (if neg then -(2 ^ 80) else 2 ^ 80)
      | .fin neg m e =>
        let r := roundInt mode neg m e
        let c := clampInt dst r.1
        (c.1, if c.2 = 0 && r.2 then flagInx else c.2)
    else (fmtOf dst).put mode v

/-- Lanes of 32 bits that an element of width `w` at position `j` stands in (R10), as a mask. -/
def laneBits (w j : Nat) : Nat := if w = 64 then 3 * 2 ^ (2 * j) else 2 ^ (j * w / 32)

/-- The mapping of a vector conversion (R129): where source elements of width `ws` go among destination positions of
width `wd`, and what each position gets; the payload, the lanes that hold a converted element, and the flags.
DEDUCED (assumption 26). -/
def convVector (a : Tok) (ws wd part : Nat) (conv : Nat → Nat × Nat) : Payload × Nat × Nat :=
  let ns := 512 / ws
  let nd := 512 / wd
  let one (pos src : Nat) : Nat × Nat × Nat :=
    if a.lmask.getLsbD (laneOf ws src) then
      let r := conv (a.elem ws src)
      (r.1, laneBits wd pos, r.2)
    else (a.elem wd pos, 0, 0)
  let at_ (pos : Nat) : Nat × Nat × Nat :=
    if wd ≤ ws then
      (if part * ns ≤ pos && pos < part * ns + ns then one pos (pos - part * ns) else (0, 0, 0))
    else one pos (part * nd + pos)
  let l := (List.range nd).map at_
  (BitVec.ofNat 512 (packElems wd (l.map (fun r => r.1))), l.foldl (fun m r => m ||| r.2.1) 0,
    l.foldl (fun m r => m ||| r.2.2) 0)

/-- A conversion firing (R129): the produced token has type `dst`, elements of width `wd`; a scalar's single element is
converted and placed under R10. DEDUCED (assumption 26). -/
def convOut (f : Firing) (h : Hdr) (ws wd part : Nat) (dst : Ty) (n : Nat) (conv : Nat → Nat × Nat) : Out :=
  let used := usedBy f h
  let a := f.op 0
  let tok (v : Bool) (d : Payload) : Tok := newTok f h used (some a) dst v d
  if passThrough f then { sends := both h (tok true a.data), n := 1, ports := portsOf h, used := used }
  else if a.vec then
    let r := convVector a ws wd part conv
    let m : BitVec 16 := if !h.ofl.lpass then 0xFFFF else if ws = wd then a.lmask else BitVec.ofNat 16 r.2.1
    { sends := both h { tok true r.1 with lmask := m }, n := n, ports := portsOf h, used := used, flags := r.2.2 }
  else
    let r := conv (a.elem ws 0)
    { sends := both h (tok false (scalarData dst wd r.1)), n := n, ports := portsOf h, used := used, flags := r.2 }

/-- CVT (R128 to R130). -/
def execCvt (h : Hdr) (c : CvtCtl) (s : State) : Host.Outcome State Fault Refusal :=
  s.firing (fun s f =>
    let n := if (h.fmt.width = 64 || c.dtype.width = 64) && (f.op 0).vec then 2 else 1
    s.fire f (convOut f h h.fmt.width c.dtype.width c.part c.dtype n (convElem h.fmt c.dtype c.sati c.rmode)))

/-- A format register of a context (R72). DEDUCED (assumption 81). -/
def State.fmtReg (s : State) (c k : Nat) : W32 := (s.ctx c).fmt.getD k 0x000507C3

/-- CVTNF (R131, R132): the register is read once, at issue. DEDUCED (assumption 81). -/
def execCvtnf (h : Hdr) (c : CvtNfCtl) (s : State) : Host.Outcome State Fault Refusal :=
  s.firing (fun s f =>
    let nf := nfOf (s.fmtReg f.ent.ctx c.freg)
    let of_ := fmtOf c.other
    let ow := c.other.width
    let cw := nf.cont
    let part := c.part % (ow / cw)
    if c.enc then s.fire f (convOut f h ow cw part .nf 1 (fun x => nf.put c.rmode (of_.val x)))
    else s.fire f (convOut f h cw ow part c.other 1 (fun x =>
      match nf.val (x % 2 ^ nf.width) with
      | .nan _ => of_.nan
      | v => of_.put c.rmode v)))

end Sys2Proof.Machine
end

