-- ==== Sys2Proof/Machine/Float.lean ====
section
/-! DEFINITION. Groups 0x4 and 0x5: float arithmetic, compare and the special functions (R120 to R127). -/
namespace Sys2Proof.Machine

/-- Cycles of an instruction that takes two for an FP64 vector firing (R121 Table 1). -/
def f64Time (h : Hdr) (f : Firing) : Nat := if h.fmt == .fp64 && f.vec h.arity then 2 else 1

/-- Cycles of FDIV and FSQRT (R121 Table 1). -/
def fdivTime (ty : Ty) : Nat := if ty == .fp64 then 16 else 8

/-- FADD (R122). -/
def elFadd (ty : Ty) (a b _ : Nat) : Nat × Nat := (fmtOf ty).add a b
/-- FSUB (R122). -/
def elFsub (ty : Ty) (a b _ : Nat) : Nat × Nat := (fmtOf ty).sub a b
/-- FMUL (R122). -/
def elFmul (ty : Ty) (a b _ : Nat) : Nat × Nat := (fmtOf ty).mul a b
/-- FFMA (R122). -/
def elFfma (ty : Ty) (a b c : Nat) : Nat × Nat := (fmtOf ty).fma a b c

/-- Whether value `a` comes before `b`, −0 before +0 (R123). -/
def lesser (a b : FVal) : Bool :=
  let c := cmpVal a b
  if c ≠ 0 then c < 0
  else match a, b with
    | .fin s _ _, .fin t _ _ => s && !t
    | _, _ => false

/-- FMIN and FMAX (R123). -/
def elMinMax (max : Bool) (ty : Ty) (a b _ : Nat) : Nat × Nat :=
  let f := fmtOf ty
  let x := f.val a
  let y := f.val b
  let fl := sigFlag [x, y]
  if x.isNan && y.isNan then (f.nan.1, fl)
  else if x.isNan then (b, fl)
  else if y.isNan then (a, fl)
  else ((if max then (if lesser x y then b else a) else (if lesser y x then b else a)), fl)

/-- FDIV (R124). -/
def elFdiv (ty : Ty) (a b _ : Nat) : Nat × Nat := (fmtOf ty).div a b
/-- FSQRT (R124). -/
def elFsqrt (ty : Ty) (a _ _ : Nat) : Nat × Nat := (fmtOf ty).sqrt a
/-- FABS (R125). -/
def elFabs (ty : Ty) (a _ _ : Nat) : Nat × Nat :=
  let x := (fmtOf ty).val a
  if x.isNan then ((fmtOf ty).nan.1, sigFlag [x]) else (a % 2 ^ (ty.width - 1), 0)
/-- FNEG (R125). -/
def elFneg (ty : Ty) (a _ _ : Nat) : Nat × Nat :=
  let x := (fmtOf ty).val a
  if x.isNan then ((fmtOf ty).nan.1, sigFlag [x]) else (a ^^^ 2 ^ (ty.width - 1), 0)

/-- FCMP (R126): the relation on the sign of the comparison, what a NaN gives, and whether a quiet NaN raises INV. -/
def elFcmp (rel : Int → Bool) (nan quiet : Bool) (ty : Ty) (a b _ : Nat) : Nat × Nat :=
  let x := (fmtOf ty).val a
  let y := (fmtOf ty).val b
  if x.isNan || y.isNan then (nan.toNat, if quiet then flagInv else sigFlag [x, y])
  else ((rel (cmpVal x y)).toNat, 0)

/-- The type an FCMP produces (R126). -/
def fcmpFmt : Ty → Ty
  | .fp32 => .pred | .fp64 => .s64 | _ => .s16

/-- FRCP (R127). -/
def elFrcp (ty : Ty) (a _ _ : Nat) : Nat × Nat := (fmtOf ty).rcp a
/-- FRSQ (R127): of the rounding flags only INX is raised. -/
def elFrsq (ty : Ty) (a _ _ : Nat) : Nat × Nat :=
  let r := (fmtOf ty).rsq a
  (r.1, r.2 &&& (flagDz + flagInv + flagInx))
/-- A special function of R86. -/
def elSpecial (fn : Nat → Nat × Nat) (ty : Ty) (a _ _ : Nat) : Nat × Nat := viaF32 ty fn a

/-- FADD (R122). -/
def execFadd (h : Hdr) (l : Lit) (s : State) : Host.Outcome State Fault Refusal :=
  s.runElems h l h.fmt (fun f => f64Time h f) (elFadd h.fmt)

/-- FSUB (R122). -/
def execFsub (h : Hdr) (l : Lit) (s : State) : Host.Outcome State Fault Refusal :=
  s.runElems h l h.fmt (fun f => f64Time h f) (elFsub h.fmt)

/-- FMUL (R122). -/
def execFmul (h : Hdr) (l : Lit) (s : State) : Host.Outcome State Fault Refusal :=
  s.runElems h l h.fmt (fun f => f64Time h f) (elFmul h.fmt)

/-- FFMA (R122). -/
def execFfma (h : Hdr) (l : Lit) (s : State) : Host.Outcome State Fault Refusal :=
  s.runElems h l h.fmt (fun f => f64Time h f) (elFfma h.fmt)

/-- FMIN (R123). -/
def execFmin (h : Hdr) (l : Lit) (s : State) : Host.Outcome State Fault Refusal :=
  s.runElems h l h.fmt (fun f => f64Time h f) (elMinMax false h.fmt)

/-- FMAX (R123). -/
def execFmax (h : Hdr) (l : Lit) (s : State) : Host.Outcome State Fault Refusal :=
  s.runElems h l h.fmt (fun f => f64Time h f) (elMinMax true h.fmt)

/-- FDIV (R124). -/
def execFdiv (h : Hdr) (l : Lit) (s : State) : Host.Outcome State Fault Refusal :=
  s.runElems h l h.fmt (fun _ => fdivTime h.fmt) (elFdiv h.fmt)

/-- FSQRT (R124). -/
def execFsqrt (h : Hdr) (s : State) : Host.Outcome State Fault Refusal :=
  s.runElems h noLit h.fmt (fun _ => fdivTime h.fmt) (elFsqrt h.fmt)

/-- FABS (R125). -/
def execFabs (h : Hdr) (s : State) : Host.Outcome State Fault Refusal :=
  s.runElems h noLit h.fmt (fun f => f64Time h f) (elFabs h.fmt)

/-- FNEG (R125). -/
def execFneg (h : Hdr) (s : State) : Host.Outcome State Fault Refusal :=
  s.runElems h noLit h.fmt (fun f => f64Time h f) (elFneg h.fmt)

/-- FCMP.EQ (R126). -/
def execFcmpEq (h : Hdr) (l : Lit) (s : State) : Host.Outcome State Fault Refusal :=
  s.runElems h l (fcmpFmt h.fmt) (fun f => f64Time h f) (elFcmp (fun c => c == 0) false false h.fmt)

/-- FCMP.NE (R126). -/
def execFcmpNe (h : Hdr) (l : Lit) (s : State) : Host.Outcome State Fault Refusal :=
  s.runElems h l (fcmpFmt h.fmt) (fun f => f64Time h f) (elFcmp (fun c => c != 0) true false h.fmt)

/-- FCMP.LT (R126). -/
def execFcmpLt (h : Hdr) (l : Lit) (s : State) : Host.Outcome State Fault Refusal :=
  s.runElems h l (fcmpFmt h.fmt) (fun f => f64Time h f) (elFcmp (fun c => decide (c < 0)) false true h.fmt)

/-- FCMP.LE (R126). -/
def execFcmpLe (h : Hdr) (l : Lit) (s : State) : Host.Outcome State Fault Refusal :=
  s.runElems h l (fcmpFmt h.fmt) (fun f => f64Time h f) (elFcmp (fun c => decide (c ≤ 0)) false true h.fmt)

/-- FCMP.GT (R126). -/
def execFcmpGt (h : Hdr) (l : Lit) (s : State) : Host.Outcome State Fault Refusal :=
  s.runElems h l (fcmpFmt h.fmt) (fun f => f64Time h f) (elFcmp (fun c => decide (c > 0)) false true h.fmt)

/-- FCMP.GE (R126). -/
def execFcmpGe (h : Hdr) (l : Lit) (s : State) : Host.Outcome State Fault Refusal :=
  s.runElems h l (fcmpFmt h.fmt) (fun f => f64Time h f) (elFcmp (fun c => decide (c ≥ 0)) false true h.fmt)

/-- FCMP.UN (R126). -/
def execFcmpUn (h : Hdr) (l : Lit) (s : State) : Host.Outcome State Fault Refusal :=
  s.runElems h l (fcmpFmt h.fmt) (fun f => f64Time h f) (elFcmp (fun _ => false) true false h.fmt)

/-- FRCP (R127). -/
def execFrcp (h : Hdr) (s : State) : Host.Outcome State Fault Refusal :=
  s.runElems h noLit h.fmt (fun _ => 4) (elFrcp h.fmt)

/-- FRSQ (R127). -/
def execFrsq (h : Hdr) (s : State) : Host.Outcome State Fault Refusal :=
  s.runElems h noLit h.fmt (fun _ => 4) (elFrsq h.fmt)

/-- FEXP2 (R87, R127). -/
def execFexp2 (h : Hdr) (s : State) : Host.Outcome State Fault Refusal :=
  s.runElems h noLit h.fmt (fun _ => 2) (elSpecial (fun x => (fexp2 x, 0)) h.fmt)

/-- FLOG2 (R88, R127). -/
def execFlog2 (h : Hdr) (s : State) : Host.Outcome State Fault Refusal :=
  s.runElems h noLit h.fmt (fun _ => 2) (elSpecial flog2 h.fmt)

/-- FTANH (R89, R127). -/
def execFtanh (h : Hdr) (s : State) : Host.Outcome State Fault Refusal :=
  s.runElems h noLit h.fmt (fun _ => 4) (elSpecial (fun x => (ftanh x, 0)) h.fmt)

/-- FSIGM (R89, R127). -/
def execFsigm (h : Hdr) (s : State) : Host.Outcome State Fault Refusal :=
  s.runElems h noLit h.fmt (fun _ => 4) (elSpecial (fun x => (fsigm x, 0)) h.fmt)

/-- FERF (R90, R127). -/
def execFerf (h : Hdr) (s : State) : Host.Outcome State Fault Refusal :=
  s.runElems h noLit h.fmt (fun _ => 2) (elSpecial (fun x => (ferf x, 0)) h.fmt)

end Sys2Proof.Machine
end

