-- ==== Sys2Proof/Machine/Integer.lean ====
section
/-! DEFINITION. Group 0x2: integer arithmetic (R113, R114). -/
namespace Sys2Proof.Machine

/-- Cycles a multiplication occupies S3 (R96 Table 1). -/
def mulTime (ty : Ty) (h : Hdr) (f : Firing) : Nat :=
  if ty == .s64 then 4 else if ty.width = 4 && f.vec h.arity then 2 else 1

/-- Cycles a division occupies S2 (R96 Table 1). -/
def divTime (ty : Ty) : Nat :=
  if ty.width ≤ 8 then 8 else if ty.width = 16 then 12 else if ty.width = 32 then 20 else 36

/-- An exact integer result wrapped to the type (R69). -/
def wrapTo (ty : Ty) (v : Int) : Nat × Nat := (wrapInt ty.width v, 0)

/-- ADD (R113). -/
def elAdd (ty : Ty) (a b _ : Nat) : Nat × Nat := wrapTo ty (intVal ty a + intVal ty b)
/-- ADD.SAT (R113). -/
def elAddSat (ty : Ty) (a b _ : Nat) : Nat × Nat := clampInt ty (intVal ty a + intVal ty b)
/-- SUB (R113). -/
def elSub (ty : Ty) (a b _ : Nat) : Nat × Nat := wrapTo ty (intVal ty a - intVal ty b)
/-- SUB.SAT (R113). -/
def elSubSat (ty : Ty) (a b _ : Nat) : Nat × Nat := clampInt ty (intVal ty a - intVal ty b)
/-- MUL (R113). -/
def elMul (ty : Ty) (a b _ : Nat) : Nat × Nat := wrapTo ty (intVal ty a * intVal ty b)
/-- MULH (R113): the floor of the exact product over 2^w. -/
def elMulh (ty : Ty) (a b _ : Nat) : Nat × Nat := wrapTo ty (Int.fdiv (intVal ty a * intVal ty b) (2 ^ ty.width))
/-- DIV (R114): truncated towards zero; all ones and IDZ for a zero divisor. -/
def elDiv (ty : Ty) (a b _ : Nat) : Nat × Nat :=
  if intVal ty b = 0 then (2 ^ ty.width - 1, flagIdz) else wrapTo ty (Int.tdiv (intVal ty a) (intVal ty b))
/-- REM (R114): the sign of a nonzero result is that of a. -/
def elRem (ty : Ty) (a b _ : Nat) : Nat × Nat :=
  if intVal ty b = 0 then (2 ^ ty.width - 1, flagIdz) else wrapTo ty (Int.tmod (intVal ty a) (intVal ty b))
/-- MAD (R113). -/
def elMad (ty : Ty) (a b c : Nat) : Nat × Nat := wrapTo ty (intVal ty a * intVal ty b + intVal ty c)
/-- MAD.SAT (R113): the exact value clamped once. -/
def elMadSat (ty : Ty) (a b c : Nat) : Nat × Nat := clampInt ty (intVal ty a * intVal ty b + intVal ty c)
/-- MIN (R113). -/
def elMin (ty : Ty) (a b _ : Nat) : Nat × Nat := wrapTo ty (if intVal ty a ≤ intVal ty b then intVal ty a else intVal ty b)
/-- MAX (R113). -/
def elMax (ty : Ty) (a b _ : Nat) : Nat × Nat := wrapTo ty (if intVal ty a ≥ intVal ty b then intVal ty a else intVal ty b)
/-- ABS (R113). -/
def elAbs (ty : Ty) (a _ _ : Nat) : Nat × Nat := wrapTo ty (if intVal ty a < 0 then -(intVal ty a) else intVal ty a)
/-- NEG (R113). -/
def elNeg (ty : Ty) (a _ _ : Nat) : Nat × Nat := wrapTo ty (-(intVal ty a))

/-- ADD (R113). -/
def execAdd (h : Hdr) (l : Lit) (s : State) : Host.Outcome State Fault Refusal :=
  s.runElems h l h.fmt (fun f => 1) (elAdd h.fmt)

/-- ADD.SAT (R113). -/
def execAddSat (h : Hdr) (l : Lit) (s : State) : Host.Outcome State Fault Refusal :=
  s.runElems h l h.fmt (fun f => 1) (elAddSat h.fmt)

/-- SUB (R113). -/
def execSub (h : Hdr) (l : Lit) (s : State) : Host.Outcome State Fault Refusal :=
  s.runElems h l h.fmt (fun f => 1) (elSub h.fmt)

/-- SUB.SAT (R113). -/
def execSubSat (h : Hdr) (l : Lit) (s : State) : Host.Outcome State Fault Refusal :=
  s.runElems h l h.fmt (fun f => 1) (elSubSat h.fmt)

/-- MUL (R113). -/
def execMul (h : Hdr) (l : Lit) (s : State) : Host.Outcome State Fault Refusal :=
  s.runElems h l h.fmt (fun f => mulTime h.fmt h f) (elMul h.fmt)

/-- MULH (R113). -/
def execMulh (h : Hdr) (l : Lit) (s : State) : Host.Outcome State Fault Refusal :=
  s.runElems h l h.fmt (fun f => mulTime h.fmt h f) (elMulh h.fmt)

/-- DIV (R114). -/
def execDiv (h : Hdr) (l : Lit) (s : State) : Host.Outcome State Fault Refusal :=
  s.runElems h l h.fmt (fun f => divTime h.fmt) (elDiv h.fmt)

/-- REM (R114). -/
def execRem (h : Hdr) (l : Lit) (s : State) : Host.Outcome State Fault Refusal :=
  s.runElems h l h.fmt (fun f => divTime h.fmt) (elRem h.fmt)

/-- MAD (R113). -/
def execMad (h : Hdr) (l : Lit) (s : State) : Host.Outcome State Fault Refusal :=
  s.runElems h l h.fmt (fun f => mulTime h.fmt h f) (elMad h.fmt)

/-- MAD.SAT (R113). -/
def execMadSat (h : Hdr) (l : Lit) (s : State) : Host.Outcome State Fault Refusal :=
  s.runElems h l h.fmt (fun f => mulTime h.fmt h f) (elMadSat h.fmt)

/-- MIN (R113). -/
def execMin (h : Hdr) (l : Lit) (s : State) : Host.Outcome State Fault Refusal :=
  s.runElems h l h.fmt (fun f => 1) (elMin h.fmt)

/-- MAX (R113). -/
def execMax (h : Hdr) (l : Lit) (s : State) : Host.Outcome State Fault Refusal :=
  s.runElems h l h.fmt (fun f => 1) (elMax h.fmt)

/-- ABS (R113). -/
def execAbs (h : Hdr) (s : State) : Host.Outcome State Fault Refusal :=
  s.runElems h noLit h.fmt (fun f => 1) (elAbs h.fmt)

/-- NEG (R113). -/
def execNeg (h : Hdr) (s : State) : Host.Outcome State Fault Refusal :=
  s.runElems h noLit h.fmt (fun f => 1) (elNeg h.fmt)

end Sys2Proof.Machine
end

