-- ==== Sys2Proof/Machine/Logic.lean ====
section
/-! DEFINITION. Group 0x3: logic, shifts, counts, compare and select (R115 to R119). -/
namespace Sys2Proof.Machine

/-- The bits a logic instruction acts on (R115): bit 0 alone for PRED. -/
def logicMask (ty : Ty) : Nat := if ty == .pred then 1 else 2 ^ ty.width - 1

/-- AND (R115). -/
def elAnd (ty : Ty) (a b _ : Nat) : Nat × Nat := ((a &&& b) &&& logicMask ty, 0)
/-- OR (R115). -/
def elOr (ty : Ty) (a b _ : Nat) : Nat × Nat := ((a ||| b) &&& logicMask ty, 0)
/-- XOR (R115). -/
def elXor (ty : Ty) (a b _ : Nat) : Nat × Nat := ((a ^^^ b) &&& logicMask ty, 0)
/-- NOT (R115). -/
def elNot (ty : Ty) (a _ _ : Nat) : Nat × Nat := ((a ^^^ (2 ^ ty.width - 1)) &&& logicMask ty, 0)
/-- SHL (R116). -/
def elShl (ty : Ty) (a b _ : Nat) : Nat × Nat := (if b ≥ ty.width then 0 else a * 2 ^ b % 2 ^ ty.width, 0)
/-- SHR (R116). -/
def elShr (ty : Ty) (a b _ : Nat) : Nat × Nat := (if b ≥ ty.width then 0 else a / 2 ^ b, 0)
/-- SAR (R116): the element is read as signed whatever its type. -/
def elSar (ty : Ty) (a b _ : Nat) : Nat × Nat :=
  let w := ty.width
  let neg := 2 ^ (w - 1) ≤ a
  if b ≥ w then (if neg then 2 ^ w - 1 else 0, 0)
  else (wrapInt w (Int.fdiv (if neg then (a : Int) - 2 ^ w else a) (2 ^ b)), 0)
/-- ROT (R116), to the left. -/
def elRot (ty : Ty) (a b _ : Nat) : Nat × Nat :=
  let w := ty.width
  let k := b % w
  ((a * 2 ^ k ||| a / 2 ^ (w - k)) % 2 ^ w, 0)
/-- CLZ (R117). -/
def elClz (ty : Ty) (a _ _ : Nat) : Nat × Nat := (ty.width - bitLen a, 0)
/-- The one bits among the low `n` bits of a number. -/
def popCount : Nat → Nat → Nat
  | 0, _ => 0
  | n + 1, a => a % 2 + popCount n (a / 2)
/-- POPC (R117). -/
def elPopc (ty : Ty) (a _ _ : Nat) : Nat × Nat := (popCount ty.width a, 0)
/-- A comparison of R118 by its relation on integers; TAG compares unsigned. -/
def elCmp (rel : Int → Int → Bool) (ty : Ty) (a b _ : Nat) : Nat × Nat := ((rel (intVal ty a) (intVal ty b)).toNat, 0)
/-- SEL (R119). -/
def elSel (a b c : Nat) : Nat × Nat := (if c % 2 = 1 then a else b, 0)

/-- The type a CMP produces (R118). -/
def cmpFmt (ty : Ty) : Ty := if ty == .tag then .s64 else if ty.width = 32 then .pred else ty

/-- AND (R115). -/
def execAnd (h : Hdr) (l : Lit) (s : State) : Host.Outcome State Fault Refusal :=
  s.runElems h l h.fmt (fun _ => 1) (elAnd h.fmt)

/-- OR (R115). -/
def execOr (h : Hdr) (l : Lit) (s : State) : Host.Outcome State Fault Refusal :=
  s.runElems h l h.fmt (fun _ => 1) (elOr h.fmt)

/-- XOR (R115). -/
def execXor (h : Hdr) (l : Lit) (s : State) : Host.Outcome State Fault Refusal :=
  s.runElems h l h.fmt (fun _ => 1) (elXor h.fmt)

/-- NOT (R115). -/
def execNot (h : Hdr) (s : State) : Host.Outcome State Fault Refusal :=
  s.runElems h noLit h.fmt (fun _ => 1) (elNot h.fmt)

/-- SHL (R116). -/
def execShl (h : Hdr) (l : Lit) (s : State) : Host.Outcome State Fault Refusal :=
  s.runElems h l h.fmt (fun _ => 1) (elShl h.fmt)

/-- SHR (R116). -/
def execShr (h : Hdr) (l : Lit) (s : State) : Host.Outcome State Fault Refusal :=
  s.runElems h l h.fmt (fun _ => 1) (elShr h.fmt)

/-- SAR (R116). -/
def execSar (h : Hdr) (l : Lit) (s : State) : Host.Outcome State Fault Refusal :=
  s.runElems h l h.fmt (fun _ => 1) (elSar h.fmt)

/-- ROT (R116). -/
def execRot (h : Hdr) (l : Lit) (s : State) : Host.Outcome State Fault Refusal :=
  s.runElems h l h.fmt (fun _ => 1) (elRot h.fmt)

/-- CLZ (R117). -/
def execClz (h : Hdr) (s : State) : Host.Outcome State Fault Refusal :=
  s.runElems h noLit h.fmt (fun _ => 1) (elClz h.fmt)

/-- POPC (R117). -/
def execPopc (h : Hdr) (s : State) : Host.Outcome State Fault Refusal :=
  s.runElems h noLit h.fmt (fun _ => 1) (elPopc h.fmt)

/-- CMP.EQ (R118). -/
def execCmpEq (h : Hdr) (l : Lit) (s : State) : Host.Outcome State Fault Refusal :=
  s.runElems h l (cmpFmt h.fmt) (fun _ => 1) (elCmp (fun a b => a == b) h.fmt)

/-- CMP.NE (R118). -/
def execCmpNe (h : Hdr) (l : Lit) (s : State) : Host.Outcome State Fault Refusal :=
  s.runElems h l (cmpFmt h.fmt) (fun _ => 1) (elCmp (fun a b => a != b) h.fmt)

/-- CMP.LT (R118). -/
def execCmpLt (h : Hdr) (l : Lit) (s : State) : Host.Outcome State Fault Refusal :=
  s.runElems h l (cmpFmt h.fmt) (fun _ => 1) (elCmp (fun a b => decide (a < b)) h.fmt)

/-- CMP.LE (R118). -/
def execCmpLe (h : Hdr) (l : Lit) (s : State) : Host.Outcome State Fault Refusal :=
  s.runElems h l (cmpFmt h.fmt) (fun _ => 1) (elCmp (fun a b => decide (a ≤ b)) h.fmt)

/-- CMP.GT (R118). -/
def execCmpGt (h : Hdr) (l : Lit) (s : State) : Host.Outcome State Fault Refusal :=
  s.runElems h l (cmpFmt h.fmt) (fun _ => 1) (elCmp (fun a b => decide (a > b)) h.fmt)

/-- CMP.GE (R118). -/
def execCmpGe (h : Hdr) (l : Lit) (s : State) : Host.Outcome State Fault Refusal :=
  s.runElems h l (cmpFmt h.fmt) (fun _ => 1) (elCmp (fun a b => decide (a ≥ b)) h.fmt)

/-- SEL (R119). -/
def execSel (h : Hdr) (s : State) : Host.Outcome State Fault Refusal :=
  s.runElems h noLit h.fmt (fun _ => 1) elSel

end Sys2Proof.Machine
end

