-- ==== Sys2Proof/Machine/Lanes.lean ====
section
/-! DEFINITION. Group 0x7: lanes and vectors (R189 to R198). -/
namespace Sys2Proof.Machine

/-- A vector A with an all-zero mask passes through (R93, R189). -/
def passOut (f : Firing) (h : Hdr) : Out :=
  { sends := both h (newTok f h (usedBy f h) (some (f.op 0)) h.fmt true (f.op 0).data), ports := portsOf h,
    used := usedBy f h }

/-- A lane instruction's firing: the one token it sends. -/
def laneOut (f : Firing) (h : Hdr) (n : Nat) (flags : Nat) (t : Tok) : Out :=
  { sends := both h t, n := n, ports := portsOf h, used := usedBy f h, flags := flags }

/-- SHUF (R191): selections and zeros by lane. -/
def execShuf (h : Hdr) (pattern : Option W64) (s : State) : Host.Outcome State Fault Refusal :=
  s.firing (fun s f =>
    let a := f.op 0
    if passThrough f then s.fire f (passOut f h)
    else if !a.vec then s.fire f (laneOut f h 1 0 (newTok f h (usedBy f h) none h.fmt false a.data))
    else
      let lane (j : Nat) : Nat :=
        let sel := match pattern with
          | some p => fld p.toNat (4 * j) 4
          | none => (f.op 1).elem 32 j % 16
        let zero := match pattern with
          | some _ => false
          | none => (f.op 1).elem 32 j / 2 ^ 31 % 2 = 1
        if a.lmask.getLsbD j then (if zero then 0 else a.elem 32 sel) else a.elem 32 j
      let d := BitVec.ofNat 512 (packElems 32 ((List.range 16).map lane))
      s.fire f (laneOut f h 1 0 (newTok f h (usedBy f h) (some a) h.fmt true d)))

/-- BCAST (R192): the produced token is always a vector. -/
def execBcast (h : Hdr) (side : Bool) (idx : Nat) (s : State) : Host.Outcome State Fault Refusal :=
  s.firing (fun s f =>
    let a := f.op 0
    let w := h.fmt.width
    if passThrough f then s.fire f (passOut f h)
    else
      let v := if side then a.side.toNat else if a.vec then a.elem w idx else a.elem w 0
      let es := (List.range (512 / w)).map (fun j => if active f w j then v else a.elem w j)
      s.fire f (laneOut f h 1 0 (newTok f h (usedBy f h) (some a) h.fmt true (BitVec.ofNat 512 (packElems w es)))))

/-- The identities of R193 Table 3. -/
def redIdentity (op : RedOp) (ty : Ty) : Nat :=
  let r := intRange ty
  match op with
  | .add => 0
  | .min => if ty.isFloat then (fmtOf ty).maxCode + 1 else wrapInt ty.width r.2
  | .max => if ty.isFloat then (fmtOf ty).signBit true + (fmtOf ty).maxCode + 1 else wrapInt ty.width r.1
  | .and => 2 ^ ty.width - 1
  | .or => 0
  | .xor => 0

/-- The operations of REDUCE and SCAN other than ADD (R194). -/
def redBin (op : RedOp) (ty : Ty) (a b : Nat) : Nat × Nat :=
  match op with
  | .min => if ty.isFloat then elMinMax false ty a b 0 else elMin ty a b 0
  | .max => if ty.isFloat then elMinMax true ty a b 0 else elMax ty a b 0
  | .and => elAnd ty a b 0
  | .or => elOr ty a b 0
  | .xor => elXor ty a b 0
  | .add => elAdd ty a b 0

/-- A NaN element made canonical (R71). -/
def canon (ty : Ty) (a : Nat) : Nat × Nat :=
  if ty.isFloat && ((fmtOf ty).val a).isNan then ((fmtOf ty).nan.1, sigFlag [(fmtOf ty).val a]) else (a, 0)

/-- The accumulation type of a float type (R82). -/
def accFmt (ty : Ty) : FFmt := if ty == .fp64 then fmtOf .fp64 else f32

/-- An element converted exactly to the accumulation type. -/
def toAcc (ty : Ty) (a : Nat) : Nat × Nat := (accFmt ty).put .rne ((fmtOf ty).val a)

/-- An accumulated value rounded to the node's type by RNE. -/
def fromAcc (ty : Ty) (r : Nat × Nat) : Nat × Nat :=
  let p := (fmtOf ty).put .rne ((accFmt ty).val r.1)
  (p.1, p.2 ||| r.2)

/-- An exact integer sum wrapped, or clamped where SAT is 1 (R194). -/
def sumOut (ty : Ty) (sat : Bool) (v : Int) : Nat × Nat := if sat then clampInt ty v else (wrapInt ty.width v, 0)

/-- A fold over the active elements with the flags it raises (R194). -/
def foldRed (op : RedOp) (ty : Ty) : List Nat → Nat × Nat
  | [] => (redIdentity op ty, 0)
  | a :: t => t.foldl (fun r x => let q := redBin op ty r.1 x; (q.1, q.2 ||| r.2)) (canon ty a)

/-- REDUCE (R194). -/
def execReduce (h : Hdr) (c : RedCtl) (s : State) : Host.Outcome State Fault Refusal :=
  s.firing (fun s f =>
    let ty := h.fmt
    let w := ty.width
    let a := f.op 0
    let pos := List.range (nElems a.vec w)
    let xs := (pos.filter (active f w)).map (a.elem w)
    let r : Nat × Nat :=
      if xs.isEmpty then (redIdentity c.op ty, 0)
      else if c.op == .add then
        (if ty.isFloat then
          fromAcc ty (sumR82 (accFmt ty).addF (0, 0) (pos.length + 1) none
            (pos.map (fun j => if active f w j then toAcc ty (a.elem w j) else (0, 0))))
        else sumOut ty c.sat (xs.foldl (fun t x => t + intVal ty x) 0))
      else foldRed c.op ty xs
    let n := if passThrough f || !a.vec then 1 else if ty == .fp64 then 4 else 2
    s.fire f (laneOut f h n r.2 (newTok f h (usedBy f h) none ty false (scalarData ty w r.1))))

/-- What SCAN's running value is (R195): an exact integer sum, a float sum in the accumulation type, or an element. -/
inductive Run where
  | none | int (v : Int) | code (v : Nat)

/-- out() of R195. -/
def Run.out (c : RedCtl) (ty : Ty) : Run → Nat × Nat
  | .none => (redIdentity c.op ty, 0)
  | .int v => sumOut ty c.sat v
  | .code v => if c.op == .add then fromAcc ty (v, 0) else (v, 0)

/-- op() of R195, with its flags. -/
def Run.next (c : RedCtl) (ty : Ty) (r : Run) (x : Nat) : Run × Nat :=
  if c.op == .add then
    (if ty.isFloat then
      let y := toAcc ty x
      match r with
      | .code v => let q := (accFmt ty).add v y.1; (.code q.1, q.2 ||| y.2)
      | _ => (.code y.1, y.2)
    else match r with
      | .int v => (.int (v + intVal ty x), 0)
      | _ => (.int (intVal ty x), 0))
  else match r with
    | .code v => let q := redBin c.op ty v x; (.code q.1, q.2)
    | _ => let q := canon ty x; (.code q.1, q.2)

/-- SCAN's fold in ascending position order (R195): the elements and the flags. -/
def scanFold (c : RedCtl) (ty : Ty) (on : Nat → Bool) (x : Nat → Nat) : List Nat → Run → List Nat × Nat
  | [], _ => ([], 0)
  | j :: t, run =>
    if !on j then
      let r := scanFold c ty on x t run
      (x j :: r.1, r.2)
    else
      let q := run.next c ty (x j)
      let o := if c.excl then run.out c ty else q.1.out c ty
      let r := scanFold c ty on x t q.1
      (o.1 :: r.1, o.2 ||| q.2 ||| r.2)

/-- SCAN (R195). -/
def execScan (h : Hdr) (c : RedCtl) (s : State) : Host.Outcome State Fault Refusal :=
  s.firing (fun s f =>
    let ty := h.fmt
    let w := ty.width
    let a := f.op 0
    if passThrough f then s.fire f (passOut f h)
    else
      let r := scanFold c ty (active f w) (a.elem w) (List.range (nElems a.vec w)) .none
      let n := if !a.vec then 1 else if ty == .fp64 then 8 else 4
      s.fire f (laneOut f h n r.2 (newTok f h (usedBy f h) (some a) ty a.vec (resData a.vec ty w r.1))))

/-- The type DOT16 produces (R196). -/
def dotFmt : Ty → Ty
  | .s8 => .s32 | .s16 => .s64 | _ => .fp32

/-- DOT16 (R196). -/
def execDot16 (h : Hdr) (s : State) : Host.Outcome State Fault Refusal :=
  s.firing (fun s f =>
    let ty := h.fmt
    let w := ty.width
    let v := f.vec 2
    let pos := List.range (nElems v w)
    let on (j : Nat) : Bool := active f w j
    let x (p j : Nat) : Nat := (f.op p).elem w j
    let out := dotFmt ty
    let r : Nat × Nat :=
      if passThrough f then (0, 0)
      else if ty.isInt then
        (wrapInt out.width (pos.foldl (fun t j => if on j then t + intVal ty (x 0 j) * intVal ty (x 1 j) else t) 0), 0)
      else
        let prod (j : Nat) : Nat × Nat := f32.rnd .rne (exMul ((fmtOf ty).val (x 0 j)) ((fmtOf ty).val (x 1 j)))
        if v then sumR82 f32.addF (0, 0) (pos.length + 1) none (pos.map (fun j => if on j then prod j else (0, 0)))
        else prod 0
    let n := if !passThrough f && (ty == .bf16 || ty == .fp16) then 2 else 1
    s.fire f (laneOut f h n r.2 (newTok f h (usedBy f h) none out false (scalarData out out.width r.1))))

/-- The element width PACK and UNPACK use: the container width of the register for NF (R197). -/
def State.packWidth (s : State) (f : Firing) (h : Hdr) (freg : Nat) : Nat :=
  if h.fmt == .nf then (nfOf (s.fmtReg f.ent.ctx freg)).cont else h.fmt.width

/-- A lane token with its own LMASK and SIDE (R197). -/
def maskTok (f : Firing) (h : Hdr) (vec : Bool) (d : Payload) (m : BitVec 16) (side : Nat) : Tok :=
  { newTok f h (usedBy f h) none h.fmt vec d with lmask := m, side := BitVec.ofNat 32 side }

/-- PACK (R197). -/
def execPack (h : Hdr) (freg : Nat) (s : State) : Host.Outcome State Fault Refusal :=
  s.firing (fun s f =>
    let a := f.op 0
    let w := s.packWidth f h freg
    if !a.vec then s.fire f (laneOut f h 1 0 (maskTok f h false a.data 1 1))
    else if a.lmask == 0 then s.fire f (laneOut f h 1 0 (maskTok f h true a.data 0 0))
    else
      let xs := ((List.range (512 / w)).filter (active f w)).map (a.elem w)
      let m := (List.range xs.length).foldl (fun m j => m ||| laneBits w j) 0
      s.fire f (laneOut f h 1 0 (maskTok f h true (BitVec.ofNat 512 (packElems w xs)) (BitVec.ofNat 16 m) xs.length)))

/-- UNPACK's elements (R197): `n` low elements used so far. -/
def spread (on : Nat → Bool) (x : Nat → Nat) : List Nat → Nat → List Nat
  | [], _ => []
  | j :: t, n => if on j then x n :: spread on x t (n + 1) else 0 :: spread on x t n

/-- UNPACK (R197). -/
def execUnpack (h : Hdr) (freg : Nat) (s : State) : Host.Outcome State Fault Refusal :=
  s.firing (fun s f =>
    let a := f.op 0
    let w := s.packWidth f h freg
    if !a.vec then s.fire f (laneOut f h 1 0 (maskTok f h false a.data 1 1))
    else if a.lmask == 0 then s.fire f (laneOut f h 1 0 (maskTok f h true a.data 0 0))
    else
      let ps := List.range (512 / w)
      let es := spread (active f w) (a.elem w) ps 0
      s.fire f (laneOut f h 1 0 (maskTok f h true (BitVec.ofNat 512 (packElems w es)) a.lmask
        (ps.filter (active f w)).length)))

/-- A mask instruction (R198): A sent on with another LMASK; a scalar A unchanged. -/
def State.remask (s : State) (f : Firing) (h : Hdr) (m : BitVec 16) : State :=
  let a := f.op 0
  let t := fwdTok f h (usedBy f h) a false
  s.fire f (laneOut f h 1 0 { t with lmask := if a.vec then m else 1 })

/-- LMSET (R198). -/
def execLmset (h : Hdr) (mask : BitVec 16) (s : State) : Host.Outcome State Fault Refusal :=
  s.firing (fun s f => s.remask f h mask)

/-- LMAND (R198): B's LMASK as it stands, or the literal. -/
def execLmand (h : Hdr) (mask : BitVec 16) (s : State) : Host.Outcome State Fault Refusal :=
  s.firing (fun s f => s.remask f h ((f.op 0).lmask &&& (if h.arity > 1 then (f.op 1).lmask else mask)))

/-- LMOR (R198). -/
def execLmor (h : Hdr) (mask : BitVec 16) (s : State) : Host.Outcome State Fault Refusal :=
  s.firing (fun s f => s.remask f h ((f.op 0).lmask ||| (if h.arity > 1 then (f.op 1).lmask else mask)))

/-- LMNOT (R198). -/
def execLmnot (h : Hdr) (s : State) : Host.Outcome State Fault Refusal :=
  s.firing (fun s f => s.remask f h (~~~ (f.op 0).lmask))

/-- LMGET (R198): a new scalar Z32 token. -/
def execLmget (h : Hdr) (s : State) : Host.Outcome State Fault Refusal :=
  s.firing (fun s f =>
    let a := f.op 0
    let v := if a.vec then a.lmask.toNat else 1
    s.fire f (laneOut f h 1 0 (newTok f h (usedBy f h) none .z32 false (BitVec.ofNat 512 v))))

/-- LMPRED (R198): bit 0 of each of B's lanes. -/
def execLmpred (h : Hdr) (s : State) : Host.Outcome State Fault Refusal :=
  s.firing (fun s f =>
    let b := f.op 1
    let m := (List.range 16).foldl (fun m j => if b.elem 32 j % 2 = 1 then m ||| 2 ^ j else m) 0
    s.remask f h (BitVec.ofNat 16 m))

end Sys2Proof.Machine
end

