-- ==== Sys2Proof/WellFormed.lean ====
section
/-! DEFINITION. Which instructions are well-formed: the field widths of the layouts, and the rules the loader holds a
record to (R48 to R64 and the rules they name), said of the fields. Events are well-formed when the sites, dies and
contexts they name exist. -/
namespace Sys2Proof

/-- A tag action that a target can encode (R56 Table 5). -/
def TagAct.wf : TagAct → Bool
  | .push v => v < 16
  | .setlvl v => v < 16
  | .incn v => 0 < v && v < 16
  | .popto d => d ≤ 14
  | _ => true

/-- A target that 22 bits can encode (R51, R54). -/
def Target.wf : Target → Bool
  | .none => true
  | .local a n p => a.wf && n < 1024 && p < 4
  | .route a r => a.wf && r < 256
  | .special a .exit => a == .none
  | .special a .scale => a == .none
  | .special a .trace => a.wf
  | .special a (.hq q) => a.wf && q < 256
  | .special a (.memnode m) => a.wf && m < 16

/-- The header of an operation: its type and ARITY are among the row's, its targets legal for it, its OFL bits not
excluding each other, and zero where nothing is sent (R48 to R54, R62, R63). -/
def Hdr.wf (opc : Nat) (h : Hdr) : Bool :=
  (match opRow opc with
   | none => false
   | some row => row.types.contains h.fmt.code && (opc ≠ 0x006 || h.arity = 0 || h.fmt.code = 0)
       && row.ars.contains h.arity)
  && h.t0.wf && h.t1.wf && targetKindOk opc h.t0 h.t1 && !(h.ofl.sticky && h.ofl.purge)
  && (opc == 0x007 || !(h.t0.isNone && h.t1.isNone) || h.ofl.bits == 0)

/-- A literal operand: zero where the ports supply every operand (R49), an upper word only for a 64-bit type (R59: an EXT
record may follow such a type whether or not its literal is used) and always for an FP64 literal (R49), and no wider than
its type asks (R105, R120). DEDUCED (assumption 28). -/
def Lit.wf (opc : Nat) (h : Hdr) (l : Lit) : Bool :=
  match opRow opc with
  | none => false
  | some row =>
    (if h.arity < row.top then (h.fmt != .fp64 || l.hi.isSome) else l.lo == 0)
    && (l.hi.isNone || (row.ext matches .e64 && is64 h.fmt.code)) && litFits h.fmt l.lo

/-- A wave reference that its code can name (R270). -/
def WaveRef.wf : WaveRef → Bool
  | .pos p => p < 32
  | _ => true

/-- The control fields of layouts M, A and O (R269, R270), by layout: 0 M with VEC, 1 M without, 2 A, 3 O. -/
def MemCtl.wf (lay : Nat) (gen ld : Bool) (c : MemCtl) : Bool :=
  c.wpred.wf && c.wsucc.wf &&
  (match c.region with | some h => h < 2 ^ 16 && !gen | none => gen || lay == 3) &&
  (match lay with
   | 0 => if ld then !c.rel else !c.acq
   | 1 => !c.vec && (if ld then !c.rel else !c.acq)
   | 2 => !c.vec
   | _ => !c.acq && !c.rel && !c.vec)

/-- CVT control fields (R128). -/
def CvtCtl.wf (src : Ty) (c : CvtCtl) : Bool :=
  c.dtype.code ≤ 12 && c.part < Nat.max src.width c.dtype.width / Nat.min src.width c.dtype.width && c.part < 16
  && (!c.sati || (src.isInt && c.dtype.isInt && c.dtype.width < src.width))
  && (c.rmode == .rne || !(src.isInt && c.dtype.isInt))

/-- CVTNF control fields (R131). -/
def CvtNfCtl.wf (c : CvtNfCtl) : Bool :=
  [9, 10, 11].contains c.other.code && c.part < c.other.width / 4 && c.freg < 16

/-- REDUCE and SCAN control fields (R193). -/
def RedCtl.wf (scan : Bool) (fmt : Ty) (c : RedCtl) : Bool :=
  !(c.op.code ≥ 3 && fmt.isFloat) && !(c.sat && (fmt.isFloat || c.op != .add)) && (scan || !c.excl)

/-- KMATCH control fields (R142). -/
def KmCtl.wf (fmt : Ty) (c : KmCtl) : Bool :=
  c.k ≤ 64 && 1 ≤ c.d && c.d ≤ 256 && c.freg < 16 && (c.freg = 0 || fmt == .nf)
  && !(c.dist == .cos && fmt == .s8) && (c.qref || fmt == .nf || c.d * fmt.width ≤ 512)
  && !(c.sh && c.res == .stream)
  && (match c.ext with
      | none => c.res != .stream
      | some e => e.1 < 2 ^ 16 && (c.res == .stream || e.1 = 0) && !bf16NonFinite e.2.1)

/-- The command word of MXOP.ARM (R317). -/
def MxCmd.wf (c : MxCmd) : Bool :=
  let okT : Ty → Bool := fun t => [0, 1, 2, 3, 9, 10, 13].contains t.code
  let intT : Ty → Bool := fun t => t.code ≤ 3
  okT c.atype && okT c.btype && intT c.atype == intT c.btype
  && (c.atype == .nf || c.btype == .nf || c.atype.width == c.btype.width)
  && c.afreg < 16 && c.bfreg < 16 && c.ofreg < 16
  && (c.afreg = 0 || c.atype == .nf) && (c.bfreg = 0 || c.btype == .nf) && (c.ofreg = 0 || c.otype == .nf)
  && !(c.sca && intT c.atype) && !(c.scb && intT c.btype)
  && [2, 3, 4, 5, 6, 9, 10, 11, 13].contains c.otype.code && c.ksm1 < 2 ^ 16

/-- A rectangle (R309 Table 5). -/
def Rect.wf (r : Rect) : Bool := r.col0 ≤ r.col1 && r.row0 ≤ r.row1 && r.row1 ≤ 71 && r.col1 < 128

/-- AWALK control fields (R334). -/
def AwCtl.wf (c : AwCtl) : Bool :=
  c.handle < 2 ^ 16 && c.k ≤ 64 &&
  (match c.ext with
   | none => true
   | some e => e.1 < 256 && e.2.1 < 256 && c.k ≤ e.2.1 + 1 && !bf16NonFinite e.2.2.1)

/-- AINS control fields (R336). -/
def AinsCtl.wf (c : AinsCtl) : Bool :=
  c.handle < 2 ^ 16 && (match c.ext with | none => true | some e => e.1 < 256 && e.2 < 256)

/-- SYSRD and SYSWR control fields (R385). -/
def SysCtl.wf (c : SysCtl) : Bool := sysRegOk c.family c.index c.part

/-- A resident that exists (R158). -/
def Site.wf (x : Site) : Bool := x.die < 4 && x.res < 3840

/-- A context number. -/
def ctxOk (c : Nat) : Bool := c < 16384

/-- An operation with no field beyond its header. -/
def plainWf (opc : Nat) (h : Hdr) : Bool := h.wf opc

/-- An operation with a literal operand. -/
def litWf (opc : Nat) (h : Hdr) (l : Lit) : Bool := h.wf opc && l.wf opc h

/-- Which instructions are well-formed. -/
def WellFormed : Instr → Bool
  | .exit h => plainWf 0x001 h | .null h => plainWf 0x002 h | .steer h => plainWf 0x003 h
  | .merge h => plainWf 0x004 h | .mergeOrd h => plainWf 0x005 h | .mov h l => litWf 0x006 h l
  | .mov4 h t2 t3 => h.wf 0x007 && t2.wf && t3.wf && targetKindOk 0x007 t2 t3
      && (!(h.t0.isNone && h.t1.isNone && t2.isNone && t3.isNone) || h.ofl.bits == 0)
  | .tagpush h l => litWf 0x040 h l | .tagpop h => plainWf 0x041 h | .taginc h => plainWf 0x042 h
  | .tagset h n => h.wf 0x043 && n < 16
  | .tagget h s n => h.wf 0x044 && n < 16 && (s == .lvl || n = 0)
  | .lcarry h n => h.wf 0x045 && n < 16 | .lbound h n => h.wf 0x046 && n < 64
  | .mark h n _ => h.wf 0x047 && n < 16 | .purge h => plainWf 0x048 h
  | .add h l => litWf 0x080 h l | .addSat h l => litWf 0x081 h l | .sub h l => litWf 0x082 h l
  | .subSat h l => litWf 0x083 h l | .mul h l => litWf 0x084 h l | .mulh h l => litWf 0x085 h l
  | .div h l => litWf 0x086 h l | .rem h l => litWf 0x087 h l | .mad h l => litWf 0x088 h l
  | .min h l => litWf 0x089 h l | .max h l => litWf 0x08A h l | .abs h => plainWf 0x08B h
  | .neg h => plainWf 0x08C h | .madSat h l => litWf 0x08D h l
  | .and h l => litWf 0x0C0 h l | .or h l => litWf 0x0C1 h l | .xor h l => litWf 0x0C2 h l
  | .not h => plainWf 0x0C3 h | .shl h l => litWf 0x0C4 h l | .shr h l => litWf 0x0C5 h l
  | .sar h l => litWf 0x0C6 h l | .rot h l => litWf 0x0C7 h l | .clz h => plainWf 0x0C8 h
  | .popc h => plainWf 0x0C9 h | .cmpEq h l => litWf 0x0D0 h l | .cmpNe h l => litWf 0x0D1 h l
  | .cmpLt h l => litWf 0x0D2 h l | .cmpLe h l => litWf 0x0D3 h l | .cmpGt h l => litWf 0x0D4 h l
  | .cmpGe h l => litWf 0x0D5 h l | .sel h => plainWf 0x0D8 h
  | .fadd h l => litWf 0x100 h l | .fsub h l => litWf 0x101 h l | .fmul h l => litWf 0x102 h l
  | .ffma h l => litWf 0x103 h l | .fmin h l => litWf 0x104 h l | .fmax h l => litWf 0x105 h l
  | .fdiv h l => litWf 0x106 h l | .fsqrt h => plainWf 0x107 h | .fabs h => plainWf 0x108 h
  | .fneg h => plainWf 0x109 h | .fcmpEq h l => litWf 0x110 h l | .fcmpNe h l => litWf 0x111 h l
  | .fcmpLt h l => litWf 0x112 h l | .fcmpLe h l => litWf 0x113 h l | .fcmpGt h l => litWf 0x114 h l
  | .fcmpGe h l => litWf 0x115 h l | .fcmpUn h l => litWf 0x116 h l
  | .frcp h => plainWf 0x140 h | .frsq h => plainWf 0x141 h | .fexp2 h => plainWf 0x142 h
  | .flog2 h => plainWf 0x143 h | .ftanh h => plainWf 0x144 h | .fsigm h => plainWf 0x145 h
  | .ferf h => plainWf 0x146 h
  | .cvt h c => h.wf 0x180 && c.wf h.fmt | .cvtnf h c => h.wf 0x181 && c.wf
  | .shuf h p => h.wf 0x1C0 && (h.arity == 1) == p.isSome
  | .bcast h side idx => h.wf 0x1C1 && idx < 256
      && (if side then idx == 0 && [6, 7, 11, 14].contains h.fmt.code else idx < 512 / h.fmt.width)
  | .reduce h c => h.wf 0x1C2 && c.wf false h.fmt | .scan h c => h.wf 0x1C3 && c.wf true h.fmt
  | .dot16 h => plainWf 0x1C4 h
  | .pack h f => h.wf 0x1C5 && f < 16 && (f = 0 || h.fmt == .nf)
  | .unpack h f => h.wf 0x1C6 && f < 16 && (f = 0 || h.fmt == .nf)
  | .lmset h _ => h.wf 0x1C8
  | .lmand h m => h.wf 0x1C9 && (h.arity == 1 || m == 0) | .lmor h m => h.wf 0x1CA && (h.arity == 1 || m == 0)
  | .lmnot h => plainWf 0x1CB h | .lmget h => plainWf 0x1CC h | .lmpred h => plainWf 0x1CD h
  | .ld h c => h.wf 0x200 && c.wf 0 false true | .st h c => h.wf 0x201 && c.wf 1 false false
  | .ldG h c => h.wf 0x202 && c.wf 0 true true | .stG h c => h.wf 0x203 && c.wf 1 true false
  | .ldm h c => h.wf 0x204 && c.wf 0 false true | .stm h c => h.wf 0x205 && c.wf 1 false false
  | .pref h hd n => h.wf 0x206 && hd < 2 ^ 16 && n < 256 | .prefG h n => h.wf 0x207 && n < 256
  | .gtoh h hd => h.wf 0x208 && hd < 2 ^ 16 | .htog h hd => h.wf 0x209 && hd < 2 ^ 16
  | .aptest h t => h.wf 0x20A && t ≤ 4
  | .aadd h c => h.wf 0x240 && c.wf 2 false true | .afadd h c => h.wf 0x241 && c.wf 2 false true
  | .amin h c => h.wf 0x242 && c.wf 2 false true | .amax h c => h.wf 0x243 && c.wf 2 false true
  | .aand h c => h.wf 0x244 && c.wf 2 false true | .aor h c => h.wf 0x245 && c.wf 2 false true
  | .axor h c => h.wf 0x246 && c.wf 2 false true | .axchg h c => h.wf 0x247 && c.wf 2 false true
  | .acas h c => h.wf 0x248 && c.wf 2 false true | .ldr h c => h.wf 0x249 && c.wf 1 false true
  | .cmls h c => h.wf 0x24A && c.wf 2 false true && !c.acq | .ordtok h c => h.wf 0x24B && c.wf 3 false true
  | .fence h c => h.wf 0x24C && c.wf 3 false true
  | .kins h c => h.wf 0x280 && c.expg < 32 && c.life < 2 ^ 16 && c.store < 1024
  | .kdel h _ st => h.wf 0x281 && st < 1024 | .kmatch h c => h.wf 0x282 && c.wf h.fmt
  | .kpurge h st => h.wf 0x283 && st < 1024 | .kgenRead h st => h.wf 0x284 && st < 1024
  | .kgenAdv h st => h.wf 0x284 && st < 1024 | .kgenSet h st => h.wf 0x284 && st < 1024
  | .strm h hd st _ => h.wf 0x2C0 && hd < 2 ^ 16 && st < 8
  | .arm h hd st ts q => h.wf 0x2C1 && hd < 2 ^ 16 && st < 8 && ts < 64
      && (match q with | some n => n < 256 | none => true)
  | .qpostPost h q => h.wf 0x2C2 && q < 256 | .qpostUnbind h q => h.wf 0x2C2 && q < 256
  | .qpostStat h q => h.wf 0x2C2 && q < 256
  | .planeLoad h hd n => h.wf 0x2C3 && hd < 2 ^ 16 && n < 64
  | .planeEvict h hd n => h.wf 0x2C3 && hd < 2 ^ 16 && n < 64
  | .planeQuery h hd n => h.wf 0x2C3 && hd < 2 ^ 16 && n < 64
  | .recfgBlocks h p r => h.wf 0x2C4 && p < 64 && (match r with | some q => q.wf | none => true)
  | .recfgSite h p r => h.wf 0x2C4 && p < 64 && (match r with | some q => q.wf | none => true)
  | .mxopArm h i c cmd => h.wf 0x300 && i ≤ 23 && c < 16 && cmd.wf
  | .mxopTileA h i c r => h.wf 0x300 && i ≤ 23 && c < 16 && r < 4
  | .mxopTileB h i c r => h.wf 0x300 && i ≤ 23 && c < 16 && r < 4
  | .mxtab h c => h.wf 0x301 && c.isl ≤ 23 && c.cslot < 16 && c.tbl < 3 && c.handle < 2 ^ 16
      && (match c.bank with | some b => b < 2 | none => true)
  | .mxdrain h i c _ hd => h.wf 0x302 && i ≤ 23 && c < 16 && hd < 2 ^ 16
  | .scl h l => litWf 0x303 h l
  | .awalk h c => h.wf 0x340 && c.wf | .ains h c => h.wf 0x341 && c.wf
  | .adel h hd _ => h.wf 0x342 && hd < 2 ^ 16
  | .trev h c => h.wf 0x380 && c.imm < 2 ^ 16 && c.asrc < 3 && c.code < 31
  | .rdtime h => plainWf 0x381 h | .hpin h => plainWf 0x382 h | .hunpin h => plainWf 0x383 h
  | .trap h c _ => h.wf 0x3C0 && c < 256 | .sys h n => h.wf 0x3C1 && n < 4096
  | .launch h hd d => h.wf 0x3C2 && hd < 2 ^ 16 && (match d with | some n => n < 4 | none => true)
  | .halt h => plainWf 0x3C3 h | .brkpt h c _ => h.wf 0x3C4 && c < 256
  | .sysrd h c => h.wf 0x3C5 && c.wf | .syswr h c => h.wf 0x3C6 && c.wf
  | .faultretResume h => plainWf 0x3C7 h | .faultretSkip h => plainWf 0x3C7 h | .faultretEnd h => plainWf 0x3C7 h
  | .tokenMatch x | .bindingArrival x | .purgeArrival x | .nullArrival x | .streamEndArrival x | .readyAging x
  | .firingTokensLeave x | .shardPerform x | .shardCommit x | .markerArrival x | .clockGate x => x.wf
  | .spillRefill x c => x.wf && ctxOk c
  | .blockFetch x c n => x.wf && ctxOk c && n < 1024
  | .memoryAnswer x _ | .spatialStageFire x _ | .memnodeRequest x _ | .verticalBusFallback x _ => x.wf
  | .bankPowerEffect x b | .bankWake x b => x.wf && b < 8
  | .cellMtpwrWrite x _ _ => x.wf
  | .trackRouteEntry d c r => d < 4 && c < 128 && r % 128 < 72 && r / 128 < 98
  | .mapVersionAdvance k => k < 4 * 9217
  | .meshPacketHop d _ | .storeOpSequence d _ | .lensMerge d _ | .swapInstant d _
  | .tokenForward d _ | .flushArrival d _ | .traceWatermark d | .dualCompare d _ | .dualReplay d _
  | .chamoisWindowEnd d | .planeRejClear d _ _ | .trapDualWrite d _ _ _ _ | .diePowerDown d | .diePowerUp d
  | .thermalThrottle d _ | .thermalShutdown d _ | .dieReset d => d < 4
  | .sdmWake d g => d < 4 && g < 12
  | .sdmPowerWrite d g st => d < 4 && g < 12 && st < 3
  | .hqToken d q | .hqStreamEnd d q | .portalForward d q => d < 4 && q < 256
  | .copyStart d st _ => d < 4 && st < 8
  | .mxNotice d i | .scaleArrival d i | .pairFire d i => d < 4 && i ≤ 23
  | .islandDrain d i c => d < 4 && i ≤ 23 && c < 16
  | .walkRequest d q => d < 4 && q < 4
  | .walkResult d q w => d < 4 && q < 4 && w < 4
  | .dropComplete c | .tokenInjection c | .contextRelease c | .hostTerminate c | .watchdogExpiry c
  | .ctxPrePreempt c _ | .ctxPreRestore c _ | .ctxHinv c _ | .ctxTlbinv c _ _ => ctxOk c
  | .fmtWrite c k _ _ => ctxOk c && k < 16
  | .registerWrite x c r _ _ => x.wf && ctxOk c && r.wf
  | .loupeTenWrite t w _ _ => t < 256 && w < 8
  | .traceWrite t => t < 256
  | .routeEntryFetch d c r x _ _ => d < 4 && c < 128 && r < 72 && ctxOk x
  | .hostLaunch _ | .waveSend _ _ | .accessPerform _ _ _ | .pageWalk _ | .cowCopyDone _ | .faultLatchDrain _
  | .sectorIssue _ | .sectorPerform _ _ | .recfgArrival _ | .siteReload _ | .ptpMessage _ _ _ | .ptpMasterLoss
  | .softError _ | .debugStop _ | .debugStopDrain _ | .drained _ | .debugResume _ | .debugRead _ | .debugWrite _
  | .chamois _ | .bar0TableWrite _ | .sysAnswer _ _ | .portalArrival _ | .powerUp _ | .planeKeyInstall _
  | .attestationQuote _ | .bringUp | .lifetimeFlush _ | .hostMemoryAccess _ _ _ | .unreachableDestination _ _
  | .linkTraining _ _ | .abruptPowerLoss => true

/-- An operation of the opcode map: it runs only as a firing. The rest are events. -/
def Instr.isOp (i : Instr) : Bool :=
  (parts i).isSome || (match i with | .faultretSkip _ | .faultretEnd _ => true | _ => false)

end Sys2Proof
end

