-- ==== Sys2Proof/Machine/Fetch.lean ====
section
/-! DEFINITION. Choosing the next firing of a cell (R151, R164 to R167), reading its record, and taking its operands. -/
namespace Sys2Proof.Machine

/-- The store whose firings a record's take turns with (R151, R200): the key store that it names (R146 to R150), its own node for
KMATCH and LIT [9:0] otherwise; the windows of its own node for LBOUND. -/
def storeOf (r : Rec) (node : Nat) : Option Nat :=
  match r.opc with
  | 0x280 | 0x281 | 0x283 | 0x284 => some (fld r.w0.toNat 0 10)
  | 0x282 | 0x046 => some node
  | _ => none

/-- The record at a node-memory index of a context. -/
def Cell.recOf (c : Cell) (ctx node : Nat) : Option Rec := (c.blkOf ctx node).map (fun b => b.recAt (node - b.hdr - 1))

/-- The store an entry's firing names. -/
def Cell.entStore (c : Cell) (e : RdyEnt) : Option Nat := (c.recOf e.ctx e.node).bind (fun r => storeOf r e.node)

/-- A KMATCH record is a shard of a logical store (R203). -/
def Cell.isShard (c : Cell) (ctx node : Nat) : Bool :=
  match c.recOf ctx node with
  | some r => r.opc == 0x282 && fld r.w0.toNat 27 1 == 1
  | none => false

/-- An entry is held behind an earlier-ready firing of the same key store or LBOUND record (R151, R200), or because a shard of the
site awaits a commit (R208). -/
def Cell.heldByStore (c : Cell) (e : RdyEnt) : Bool :=
  match c.entStore e with
  | none => false
  | some k =>
    ((c.recOf e.ctx e.node).map Rec.opc != some 0x046 && !c.isShard e.ctx k && c.stores.any (fun t => t.hold.isSome))
      || c.ready.any (fun g => g.ord < e.ord && g.ctx == e.ctx && c.entStore g == some k)

/-- An earlier-ready firing of the same key store has parked on a memory fault or on a page in migration, and has not performed
(R151, R152, R252). -/
def State.storeParked (s : State) (x : Site) (e : RdyEnt) : Bool :=
  match (s.cell x).entStore e with
  | none => false
  | some k => s.parked.any (fun p => p.f.x == x && p.f.ent.ctx == e.ctx && p.f.ent.ord < e.ord && (s.cell x).entStore p.f.ent == some k)

/-- The queue order of R165: level, entry time, node index, context. -/
def queueBefore (a b : RdyEnt) : Bool :=
  if a.level ≠ b.level then a.level > b.level
  else if a.time ≠ b.time then a.time < b.time
  else if a.node ≠ b.node then a.node < b.node
  else if a.ctx ≠ b.ctx then a.ctx < b.ctx
  else a.ord < b.ord

/-- The first entry of a list in queue order. -/
def firstEnt : List RdyEnt → Option RdyEnt
  | [] => none
  | e :: t => match firstEnt t with
    | none => some e
    | some f => if queueBefore f e then some f else some e

/-- A list in queue order. -/
def insEnt (e : RdyEnt) : List RdyEnt → List RdyEnt
  | [] => [e]
  | f :: t => if queueBefore e f then e :: f :: t else f :: insEnt e t

/-- The firing of a ready entry with the operand tokens of its ports: those its frame holds, the bound ones, or the token
that fires it alone. -/
def State.firingOf (s : State) (x : Site) (e : RdyEnt) : Option Firing :=
  let c := s.cell x
  match c.blkOf e.ctx e.node with
  | none => none
  | some b =>
    let pos := e.node - b.hdr - 1
    match e.alone with
    | some t => some ⟨x, e, b.hdr, pos, (List.range 4).map (fun p => if p = t.port then some t else none), false⟩
    | none =>
      match e.uid.bind c.ent with
      | none => none
      | some d =>
        some ⟨x, e, b.hdr, pos, (List.range 4).map (fun p =>
          if p < (b.recAt pos).arity ∨ (b.recAt pos).opc = 0x005 then (c.portVal d b pos p).map (fun v => v.tok)
          else none), false⟩

/-- Whether the operands of a firing are there: a bound operand may have been used up since its node became ready
(R17). -/
def State.complete (s : State) (f : Firing) : Bool :=
  let c := s.cell f.x
  f.taken || f.ent.alone.isSome ||
    (match f.ent.uid.bind c.ent, c.blkAt f.ent.ctx f.hdr with
     | some d, some b =>
       if d.bind then (List.range (b.recAt f.pos).arity).all (fun p => (f.ops.getD p none).isSome)
       else (b.recAt f.pos).arity = 0 || c.nodeReady d b f.pos
     | _, _ => false)

/-- The events of the records that an operation emits at its issue, or by a token that it sends to the trace sink (R345, R346):
FIRE where an operand carries TRACE, TREV always. -/
def Blk.events (b : Blk) (pos : Nat) (traced : Bool) : List Nat :=
  let r := b.recAt pos
  (if traced then [0] else []) ++ (if r.opc = 0x380 then [0x20 + fld r.w0.toNat 0 5] else [])
    ++ (if (b.targets pos).any (fun t => match t with | .special _ sk => sk.code.1 == 2 | _ => false) then [0x3F] else [])

/-- The events of the records that an entry's firing would emit (R345). -/
def State.eventsOf (s : State) (x : Site) (e : RdyEnt) : List Nat :=
  match s.firingOf x e, (s.cell x).blkOf e.ctx e.node with
  | some f, some b => b.events f.pos (f.all.any (fun t => t.flag .trace))
  | _, _ => []

/-- Some event of a list is recorded for a tenant that loses no record. -/
def State.losesNone (s : State) (ten : Nat) (evs : List Nat) : Bool := (s.ten ten).lossless && evs.any (fun ev => s.traced ten ev)

/-- An entry is passed over because its record would be one of a blocked tenant (R353). -/
def State.traceBars (s : State) (x : Site) (e : RdyEnt) : Bool :=
  s.traceBlocked (s.ctx e.ctx).tenant && s.losesNone (s.ctx e.ctx).tenant (s.eventsOf x e)

/-- An entry may issue, but for tracing (R161, R165, R363, R371, R374, R388): its context is RUNNING, no STOP covers it, it is
not held or passed over, its site has not frozen the context, its block stands in node memory, and its comparator, if it has
one, is not full. -/
def State.mayIssue (s : State) (x : Site) (e : RdyEnt) : Bool :=
  let c := s.cell x
  (s.ctx e.ctx).st == .running && !s.stopAt x e.ctx && !e.pass && !c.heldByStore e && !s.storeParked x e && !c.frz.units.contains e.ctx &&
    !((s.die x.die).duals.any (fun d => d.ctx == e.ctx && (d.prim == x.res || d.shad == x.res)
      && (d.outP.length ≥ 32 || d.outS.length ≥ 32))) &&
    (match c.blkOf e.ctx e.node with | some b => b.present | none => false)

/-- An entry may issue (R165), and tracing does not pass it over (R353). -/
def State.eligible (s : State) (x : Site) (e : RdyEnt) : Bool := s.mayIssue x e && !s.traceBars x e

/-- The action FAULTRET's operand names (R386). -/
def retAction (f : Firing) : Nat := fld (f.op 0).data.toNat 14 2

/-- The instruction a firing runs: its record decoded, FAULTRET by the action its operand names. -/
def State.instrOf (s : State) (f : Firing) : Option Instr :=
  match (s.cell f.x).blkAt f.ent.ctx f.hdr with
  | none => none
  | some b =>
    match decodeRec (b.recAt f.pos) (b.ext f.pos) with
    | .error _ => none
    | .ok (.faultretResume h) =>
      some (if retAction f = 1 then .faultretSkip h else if retAction f = 2 then .faultretEnd h else .faultretResume h)
    | .ok i => some i

/-- Packable: groups 0x2 to 0x6 (R167). -/
def packable (opc : Nat) : Bool := 2 ≤ opc / 64 && opc / 64 ≤ 6

/-- The other entries of a packed issue (R167): scalar firings of the same context, node and level that are in the queue,
in queue order, up to the width. -/
def State.packWith (s : State) (x : Site) (f : Firing) : List RdyEnt :=
  let c := s.cell x
  match c.blkAt f.ent.ctx f.hdr with
  | none => []
  | some b =>
    let r := b.recAt f.pos
    if !packable r.opc || f.vec 3 || f.ent.uid.isNone then []
    else
      let same := c.ready.filter (fun e => e.ord != f.ent.ord && e.ctx == f.ent.ctx && e.node == f.ent.node
        && e.level == f.ent.level && e.uid.isSome && !e.pass && !s.traceBars x e
        && (match s.firingOf x e with | some g => !g.vec 3 && s.complete g | none => false))
      (same.foldr insEnt []).take (if is64 r.fmt then 7 else 15)

/-- The records of the entry that comes next would find the cell's queue full, and its tenant loses none (R352). -/
def State.stalled (s : State) (x : Site) (e : RdyEnt) : Bool :=
  (s.die x.die).loupe.held x.res ≥ unitRoom x.res && s.losesNone (s.ctx e.ctx).tenant (s.eventsOf x e)

/-- A ready entry leaves the queue without firing: an operand it counted on is gone. DESIGN CHOICE (assumption 83). -/
def State.unready (s : State) (f : Firing) : State := s.consume f []

/-- A pair retired after a vote issues nothing any more (R372); one whose vertical bus has failed keeps what it holds (R310).
DEDUCED (assumption 52). -/
def State.deadPair (s : State) (x : Site) : Bool :=
  let k := s.pairOf x
  (s.die x.die).tab.retired.contains k && (s.cell ⟨x.die, k⟩).frz.wires ≥ 32

/-- An issue of a cell that is not of a retired pair (R165, R167, R372): the instruction of the chosen entry, under way, with
the packed firings next; none when the cell issues nothing. In a cycle a cell issues before it matches (R19). -/
def State.startIssue (s : State) (x : Site) : Option Instr × State :=
  let c := s.cell x
  if s.cycle < c.pipe.issue || s.cycle < c.pipe.matchAt || c.spat.on || s.swapping x || s.deadPair x
      || (s.die x.die).loupe.waits x.res then (none, s)
  else match firstEnt (c.ready.filter (fun e => s.eligible x e)) with
    | none => (none, s)
    | some e =>
      if s.stalled x e then (none, s) else
      match s.firingOf x e with
      | none => (none, s)
      | some f =>
        if !s.complete f then (none, s.unready f)
        else match s.instrOf f with
          | none => (none, s.unready f)
          | some i =>
            let more := s.packWith x f
            let isPack := !more.isEmpty
            let s1 := s.modCell x (fun c => { c with
              pipe := { c.pipe with packed := isPack.toNat, issue := s.cycle + 1 }
              ctr := { c.ctr with packw := satAdd 48 c.ctr.packw (1 + more.length) } })
            (some i, { s1 with cur := some f
                               agenda := more.map (fun g => .packed x g.node (g.uid.getD 0)) ++ s1.agenda })

/-- A packed firing of the issue before it (R167). -/
def State.startPacked (s : State) (x : Site) (node uid : Nat) : Option Instr × State :=
  match (s.cell x).ready.find? (fun e => e.node == node && e.uid == some uid) with
  | none => (none, s)
  | some e =>
    match s.firingOf x e with
    | none => (none, s)
    | some f => if !s.complete f then (none, s.unready f)
      else match s.instrOf f with
        | none => (none, s.unready f)
        | some i => (some i, { s with cur := some f })

/-- A context's unit at a site is frozen or saved (R374, R375). -/
def State.frozen (s : State) (x : Site) (c : Nat) : Bool := (s.cell x).frz.units.contains c || (s.ctx c).st == .saved

/-- A parked firing replayed exactly as first issued (R252), unless it waits on a page or for the answer of a record; one whose
unit has frozen, or that a STOP covers, stays parked (R375, R389). -/
def State.startRefire (s : State) (id : Nat) : Option Instr × State :=
  match s.parked.find? (fun p => p.id == id) with
  | none => (none, s)
  | some p =>
    if s.frozen p.f.x p.f.ent.ctx || s.stopAt p.f.x p.f.ent.ctx || p.migr.isSome || s.owesAnswer p.f.ent.ctx id then (none, s) else
    let s1 := { s with parked := s.parked.filter (fun q => q.id != id) }
    match s1.instrOf p.f with
    | none => (none, s1)
    | some i => (some i, { s1 with cur := some p.f })

/-- A cached handle entry is evicted (R238). DESIGN CHOICE (assumption 1). -/
def State.dropHandle (s : State) (k : Nat) : State :=
  s.modMem (fun m => { m with hcache := m.hcache.take k ++ m.hcache.drop (k + 1) })

/-- A cached translation is evicted (R253). DESIGN CHOICE (assumption 1). -/
def State.dropEntry (s : State) (k : Nat) : State :=
  s.modMem (fun m => { m with tlb := m.tlb.take k ++ m.tlb.drop (k + 1) })

/-- What happens next: the front of the agenda, or what the free choice says (assumption 1). DESIGN CHOICE
(assumptions 1, 17). -/
def State.nextAct (s : State) : Act × State :=
  match s.agenda with
  | a :: t => (a, { s with steps := s.steps + 1, agenda := t })
  | [] => (Config.nextAct s.steps, { s with steps := s.steps + 1 })

/-- The site, and the record at its node 1, that an instruction placed from outside occupies. DESIGN CHOICE
(assumption 18). -/
def placeSite : Site := ⟨0, 0⟩

/-- The state with an instruction's words placed at node 1 of a block of the first pair, in a running context, with an
instance of tag 0 whose operands are present as zero tokens, and that pair's issue next. DESIGN CHOICE (assumption
18). -/
def State.placeWord (s : State) (nbits w : Nat) : State :=
  let bs := bytesOfNat 24 (w % 2 ^ nbits)
  let word (k : Nat) : W32 := BitVec.ofNat 32 (leNat ((bs.drop k).take 4))
  let r : Rec := ⟨word 8, word 4, word 0⟩
  let e : Rec := ⟨word 20, word 16, word 12⟩
  let b : Blk := { ctx := 0, plane := 0, slot := 0, hdr := 0, exits := 63, fsize := 4, pmbase := 0, prio := 0, stores := 0,
                   recs := if e.opc = extOpc then [r, e] else [r], pmap := [0, 1, 2, 3, 0, 1, 2, 3], present := true,
                   spatial := false }
  let d : DirEnt := { uid := 0, bind := false, ctx := 0, blk := 0, tag := 0, depth := 0, base := 0, size := 4, xfired := 0,
                      sdone := 0, spend := 0, ready := 1, dying := false }
  let q : RdyEnt := { uid := some 0, node := 1, ctx := 0, level := 0, time := 0, wait := 0, ord := 1, tag := 0, depth := 0,
                      pri := 0, alone := none, pass := false }
  let c : Cell := { slots := (List.range 4).map (fun p => (p, ⟨({} : Tok), 0, p⟩)), dir := [d], ready := [q], blks := [b],
                    uids := 4 }
  let s1 := (s.setCell placeSite c).modCtx 0 (fun k => { k with st := .running })
  { s1 with agenda := [.issue placeSite] }

end Sys2Proof.Machine
end

