-- ==== Sys2Proof/Machine/Matching.lean ====
section
/-! DEFINITION. Tokens arriving at a cell: matching, binding, purging, spilling and refilling (R15 to R18, R23, R98, R107,
R200), the miss buffer (R311), and aging (R164). -/
namespace Sys2Proof.Machine

/-- The class of an arriving token, by what the cell does with it. -/
inductive Arrival where
  | match_ | binding | purge | null | streamEnd | marker
  deriving DecidableEq, Repr

/-- Ports at which a STICKY or COUNT token is matched as NORM (R103, R104, R143, R199, R200, R335). -/
def asNorm (opc port : Nat) : Bool :=
  opc = 0x004 || opc = 0x045 || opc = 0x046 || (opc = 0x005 && port < 2) || ((opc = 0x282 || opc = 0x340) && port = 0)

/-- Ports at which a STREAM_END fires the node alone (R107, R199, R200). -/
def streamAware (opc port : Nat) : Bool :=
  match opc with
  | 0x006 | 0x007 | 0x003 | 0x045 | 0x046 => port = 0
  | 0x004 | 0x005 => port < 2
  | _ => false

/-- Where the next token to be matched stands: 0 to 3 the ports of the input buffer, 4 the cell's own tokens, 5 the miss
buffer. -/
abbrev Source := Nat

/-- A parked token whose block has been fetched (R311). DEDUCED (assumption 82). -/
def Cell.unmissed (c : Cell) : Option Tok :=
  c.miss.find? (fun t => match c.blkOf t.ctx t.node with | some b => b.present | none => true)

/-- The next token of the input buffer among the heads that `ok` admits (R184): CTRL, MEMRSP, then TOKEN and track deliveries in
turn. -/
def Pipe.nextPort (p : Pipe) (ok : Tok → Bool) : Option (Source × Tok) :=
  let head (i : Nat) (l : List Tok) : Option (Source × Tok) := (l.head?.filter ok).map (fun t => (i, t))
  let two := if p.rr then (head 3 p.p3).or (head 2 p.p2) else (head 2 p.p2).or (head 3 p.p3)
  (head 0 p.p0).or ((head 1 p.p1).or two)

/-- The next token of a cell (R153, R184, R311): parked tokens of a fetched block; then the cell's own tokens, which only a token
that came in no later than the first of them does not wait for; then the input buffer. DEDUCED (assumption 80). -/
def Cell.nextTok (c : Cell) : Option (Source × Tok) :=
  match c.unmissed, c.pipe.selfq with
  | some t, _ => some (5, t)
  | none, [] => c.pipe.nextPort (fun _ => true)
  | none, t :: _ => (c.pipe.nextPort (fun u => u.came ≤ t.came)).or (some (4, t))

/-- A token as it is matched: when it came is forgotten. -/
def Tok.matched (t : Tok) : Tok := { t with came := 0 }

/-- A cell after the next token of a source has left it. -/
def Cell.takeTok (c : Cell) (src : Source) : Cell :=
  let p := c.pipe
  match src with
  | 0 => { c with pipe := { p with p0 := p.p0.drop 1 } }
  | 1 => { c with pipe := { p with p1 := p.p1.drop 1 } }
  | 2 => { c with pipe := { p with p2 := p.p2.drop 1, rr := true } }
  | 3 => { c with pipe := { p with p3 := p.p3.drop 1, rr := false } }
  | 4 => { c with pipe := { p with selfq := p.selfq.drop 1 } }
  | _ => match c.unmissed with
    | some t => { c with miss := ldrop (fun u => u == t) c.miss }
    | none => c

/-- The class of a token at a node's operation. -/
def arrivalOf (opc : Nat) (t : Tok) : Arrival :=
  if t.flag .marker then .marker
  else if t.ma == .purge then .purge
  else if t.flag .null then .null
  else if t.flag .streamEnd then .streamEnd
  else if (t.ma == .sticky || t.ma == .count) && !asNorm opc t.port then .binding
  else .match_

/-- The operation code at a token's destination. -/
def Cell.opcAt (c : Cell) (t : Tok) : Nat :=
  match c.recOf t.ctx t.node with
  | some r => r.opc
  | none => 0

/-- Start tokens of a prefix wait in the spill area for a window of their record (R163, R200). -/
def State.startsSpilled (s : State) (x : Site) (ctx node lvl_ : Nat) (pfx : W64) : Bool :=
  let is (t : Tok) : Bool := t.ctx == ctx && t.node == node && t.port == 0 && !t.flag .streamEnd && t.depth == lvl_
    && tagUpTo (s.ctx ctx).tl t.tag (lvl_ - 1) == pfx
  (s.ctx ctx).spill.toks.any (fun p => p.x == x && !p.held && is p.tok) || (s.cell x).escape.any (fun e => !e.held && is e.tok)

/-- Spilled tokens of a context stand before an arrival of the same key (R16). -/
def State.spilledKey (s : State) (x : Site) (hdr : Nat) (t : Tok) : Bool :=
  (s.ctx t.ctx).spill.toks.any (fun p => p.x == x && p.hdr == hdr && p.tok.tag == t.tag && p.tok.depth == t.depth)
    || (s.cell x).escape.any (fun e => e.tok.ctx == t.ctx && e.hdr == hdr && e.tok.tag == t.tag
        && e.tok.depth == t.depth)

/-- The runs of slots in use (R14, R135): frames, and entries of FRAME key stores. -/
def Cell.runs (c : Cell) : List (Nat × Nat) :=
  c.dir.map (fun e => (e.base, e.size))
    ++ (c.stores.map (fun k => if k.width = 0 then [] else k.ents.map (fun e => (e.slot, k.width)))).flatten

/-- The lowest slot where `n` slots in a row are free (R14), looking from slot `k` on. -/
def findRun (used : List (Nat × Nat)) (n : Nat) : Nat → Nat → Option Nat
  | 0, _ => none
  | fuel + 1, k =>
    if k + n > 384 then none
    else if used.all (fun e => k + n ≤ e.1 || e.1 + e.2 ≤ k) then some k
    else findRun used n fuel (k + 1)

/-- Entries of a frame directory (R8). -/
def nDir : Nat := 64

/-- Whether a directory entry and a run of slots are free for a block (R15). -/
def Cell.room (c : Cell) (b : Blk) : Option Nat :=
  if c.dir.length ≥ nDir then none else findRun c.runs b.fsize 384 0

/-- The nodes of ARITY 0 of a block, by position (R15). -/
def Blk.zeros (b : Blk) : List Nat :=
  (List.range b.recs.length).filter (fun p => b.isNode p && (b.recAt p).arity = 0)

/-- A new instance of a block (R15): its entry and frame, and its nodes of ARITY 0 ready at the block's priority. -/
def State.newInst (s : State) (x : Site) (b : Blk) (base : Nat) (tag : W64) (depth : Nat) : State :=
  let uid := (s.cell x).uids
  let e : DirEnt := { uid := uid, bind := false, ctx := b.ctx, blk := b.hdr, tag := tag, depth := depth, base := base,
                      size := b.fsize, xfired := 0, sdone := 0, spend := 0, ready := 0, dying := false }
  let s1 := s.modCell x (fun c => { c with dir := c.dir ++ [e], uids := c.uids + 1 })
  b.zeros.foldl (fun t p => t.setReady x uid (b.hdr + 1 + p) p tag depth b.prio) s1

/-- A node of an instance is ready after its port has been filled (R15, R19). -/
def State.readyCheck (s : State) (x : Site) (b : Blk) (uid pos node pri : Nat) : State :=
  match (s.cell x).ent uid with
  | none => s
  | some e => if (s.cell x).nodeReady e b pos then s.setReady x uid node pos e.tag e.depth pri else s

/-- A token written to a slot of an entry's frame. -/
def State.fillSlot (s : State) (x : Site) (e : DirEnt) (b : Blk) (pos : Nat) (t : Tok) (cnt : Nat) : State :=
  s.modCell x (fun c => { c with slots := tput (e.base + b.off pos t.port) ⟨t, cnt, c.uids⟩ c.slots, uids := c.uids + 1 })

/-- MATCHING (R15 to R17): a token fills its port's slot in its instance, created if need be; a bound port, a present slot
or the lack of room sends it to the spill area; at an LBOUND port each arrival is one firing, whatever of its key has spilled (R200).
None: it cannot be accepted now. DESIGN CHOICE (assumption 22). -/
def State.matchTok (s : State) (x : Site) (b : Blk) (pos : Nat) (t : Tok) (refill : Bool) : Option State :=
  let c := s.cell x
  if (b.recAt pos).opc = 0x046 then some (s.setAlone x t.ctx t.node t)
  else if !refill && s.spilledKey x b.hdr t then s.spill x b.hdr t false
  else if (c.binding b pos t.port).isSome then s.spill x b.hdr t false
  else
    let put (s : State) (e : DirEnt) : State :=
      (s.fillSlot x e b pos t 0).readyCheck x b e.uid pos t.node t.pri
    match c.inst t.ctx b.hdr t.tag t.depth with
    | some e => if (c.slotOf e b pos t.port).isSome then s.spill x b.hdr t false else some (put s e)
    | none =>
      match c.room b with
      | none => s.spill x b.hdr t false
      | some base =>
        let s1 := s.newInst x b base t.tag t.depth
        match (s1.cell x).ent c.uids with
        | some e => some (put s1 e)
        | none => none

/-- Instances whose node a new binding makes ready: those with a token of their own at another port (R17). -/
def State.bindReady (s : State) (x : Site) (b : Blk) (pos : Nat) (t : Tok) : State :=
  let es := (s.cell x).dir.filter (fun e => !e.bind && !e.dying && e.ctx == b.ctx && e.blk == b.hdr)
  es.foldl (fun u e => u.readyCheck x b e.uid pos t.node t.pri) s

/-- BINDING (R17, R19): a STICKY or COUNT token binds its port for every tag; at a bound port, or without room for the
binding entry, it spills. A node whose every port is bound is ready once, with the arriving token's tag. -/
def State.bindTok (s : State) (x : Site) (b : Blk) (pos : Nat) (t : Tok) (refill : Bool) : Option State :=
  let c := s.cell x
  let cnt := if t.ma == .count then (if t.cnt = 0 then 256 else t.cnt) else 0
  if (!refill && s.spilledKey x b.hdr t) || (c.binding b pos t.port).isSome then s.spill x b.hdr t false
  else
    let put (s : State) (e : DirEnt) : State :=
      let s1 := (s.fillSlot x e b pos t cnt).bindReady x b pos t
      let c1 := s1.cell x
      if (List.range (b.recAt pos).arity).all (fun p => (c1.binding b pos p).isSome) then
        s1.setReady x e.uid t.node pos t.tag t.depth t.pri
      else s1
    match c.bindEnt b.ctx b.hdr with
    | some e => some (put s e)
    | none =>
      match c.room b with
      | none => s.spill x b.hdr t false
      | some base =>
        let e : DirEnt := { uid := c.uids, bind := true, ctx := b.ctx, blk := b.hdr, tag := 0, depth := 0, base := base,
                            size := b.fsize, xfired := 0, sdone := 0, spend := 0, ready := 0, dying := false }
        some (put (s.modCell x (fun c => { c with dir := c.dir ++ [e], uids := c.uids + 1 })) e)

/-- The binding of a port cleared (R17, R18); the binding entry frees with its last binding, and with it goes an all-bound node's
place in the ready queue. DESIGN CHOICE (assumption 83). -/
def Cell.unbind (c : Cell) (b : Blk) (pos p : Nat) : Cell :=
  match c.bindEnt b.ctx b.hdr with
  | none => c
  | some e =>
    let c1 := { c with slots := tdel (e.base + b.off pos p) c.slots }
    if c1.slots.any (fun q => e.base ≤ q.1 && q.1 < e.base + e.size) then c1 else c1.freeEnt e.uid

/-- A token that found nothing counts in NULLMISS (R18, R23). -/
def State.nullMiss (s : State) (x : Site) : State :=
  s.modCell x (fun c => { c with ctr := { c.ctr with nullmiss := satAdd 48 c.ctr.nullmiss 1 } })

/-- A NULL token, or a PURGE at an unbound port (R18, R23). DEDUCED (assumption 23). -/
def State.nullTok (s : State) (x : Site) (b : Blk) (t : Tok) : State :=
  match (s.cell x).inst t.ctx b.hdr t.tag t.depth with
  | some e => s.forceRetire x e.uid
  | none => s.nullMiss x

/-- PURGE (R18): it clears a binding, else force-retires its instance, else counts. DEDUCED (assumption 23). -/
def State.purgeTok (s : State) (x : Site) (b : Blk) (pos : Nat) (t : Tok) : State :=
  if ((s.cell x).binding b pos t.port).isSome then s.modCell x (fun c => c.unbind b pos t.port) else s.nullTok x b t

/-- The instances that a STREAM_END closing level `lv` reaches (R23). -/
def Cell.closed (c : Cell) (tl : BitVec 96) (b : Blk) (t : Tok) : List DirEnt :=
  let lv := fld t.side.toNat 0 4
  c.dir.filter (fun e => !e.bind && !e.dying && e.ctx == t.ctx && e.blk == b.hdr && 1 ≤ lv && lv ≤ e.depth
    && tagUpTo tl e.tag (lv - 1) == tagUpTo tl t.tag (lv - 1))

/-- STREAM_END (R23, R98, R107): behind spilled tokens of its key it spills; it force-retires the instances it closes; at a
port that is aware of streams, or port 0 of a TILE form (R318), it then fires the node alone. -/
def State.streamTok (s : State) (x : Site) (b : Blk) (pos : Nat) (t : Tok) (refill : Bool) : Option State :=
  let opc := (b.recAt pos).opc
  if !refill && s.spilledKey x b.hdr t then s.spill x b.hdr t false
  else
    let es := (s.cell x).closed (s.ctx t.ctx).tl b t
    let s1 := es.foldl (fun u e => u.forceRetire x e.uid) s
    let tile := opc = 0x300 && t.port = 0 && fld (b.recAt pos).w0.toNat 21 2 ≠ 0
    some (if (streamAware opc t.port || tile) && (b.recAt pos).arity > 0 then s1.setAlone x t.ctx t.node t else s1)

/-- An accepted token acts by its class. DEDUCED (assumption 23). -/
def State.accept (s : State) (x : Site) (b : Blk) (pos : Nat) (t : Tok) (refill : Bool) : Option State :=
  match arrivalOf (b.recAt pos).opc t with
  | .purge => some (s.purgeTok x b pos t)
  | .null => some (s.nullTok x b t)
  | .streamEnd => s.streamTok x b pos t refill
  | .binding => s.bindTok x b pos t refill
  | .match_ => s.matchTok x b pos t refill
  | .marker => none

/-- A context whose tokens the device discards (R384): it no longer exists or has ended. -/
def State.gone (s : State) (c : Nat) : Bool := (s.ctx c).st == .free || (s.ctx c).st == .ended

/-- A STOP covers a context at a site (R388), or its pair is in an exchange (R217): no channel of it accepts a token. -/
def State.halted (s : State) (x : Site) (ctx : Nat) : Bool :=
  s.stopAt x ctx || s.swapping x

/-- The channels of a site have drained for a reload that is still to come (R188, R312): arrivals stay in their producers' slots. -/
def State.sealedAt (s : State) (x : Site) : Bool := (s.die x.die).recfgs.any (fun r => r.shut.contains x.res)

/-- Port `i` of the input buffer. -/
def Pipe.port (p : Pipe) (i : Nat) : List Tok := match i with | 0 => p.p0 | 1 => p.p1 | 2 => p.p2 | _ => p.p3

/-- A pipeline with port `i` of the input buffer replaced. -/
def Pipe.setPort (p : Pipe) (i : Nat) (l : List Tok) : Pipe :=
  match i with
  | 0 => { p with p0 := l } | 1 => { p with p1 := l } | 2 => { p with p2 := l } | _ => { p with p3 := l }

/-- The head of port `i` leaves a cell. -/
def Cell.popPort (c : Cell) (i : Nat) : Cell := { c with pipe := c.pipe.setPort i ((c.pipe.port i).drop 1) }

/-- The binding of an external port of a SPATIAL cell (R170). -/
def Cell.spatBind (c : Cell) (node port : Nat) : Option (Tok × Nat) :=
  (c.spat.binds.find? (fun b => b.1 == node && b.2.1 == port)).map (fun b => (b.2.2.1, b.2.2.2))

/-- A STICKY or COUNT head binds its port in a SPATIAL cell, and a PURGE head clears the binding (R170). A head at a bound
port waits. The heads of a context that is gone are discarded (R384), and those of a frozen one recorded (R374). -/
def State.spatArrive (s : State) (x : Site) (k : Arrival) : State :=
  let c := s.cell x
  let head (i : Nat) : Option (Nat × Tok) := (c.pipe.port i).head?.map (fun t => (i, t))
  let out (e : Nat × Tok) : Bool := !s.halted x e.2.ctx && !e.2.flag .marker && (s.gone e.2.ctx || c.frz.units.contains e.2.ctx)
  let fit (e : Nat × Tok) : Bool :=
    !s.halted x e.2.ctx && !s.sealedAt x && arrivalOf (c.opcAt e.2) e.2 == k && (k == .purge || (k == .binding && (c.spatBind e.2.node e.2.port).isNone))
  let hs := (List.range 4).filterMap head
  match hs.find? out with
  | some (i, t) =>
    s.modCell x (fun c => { c.popPort i with frz := { c.frz with
      chan := if s.gone t.ctx then c.frz.chan else c.frz.chan ++ [(t.ctx, i, t.matched)] } })
  | none =>
  match hs.find? fit with
  | none => s
  | some (i, t) =>
    let without := c.spat.binds.filter (fun b => !(b.1 == t.node && b.2.1 == t.port))
    let cnt := if t.ma == .count then (if t.cnt = 0 then 256 else t.cnt) else 0
    s.modCell x (fun c => { c.popPort i with spat := { c.spat with
      binds := if k == .purge then without else c.spat.binds ++ [(t.node, t.port, t.matched, cnt)] } })

/-- The comparator of which a resident is a member for a context (R370), and its part: 0 primary, 1 shadow, 2 spare. -/
def State.dualOf (s : State) (x : Site) (ctx : Nat) : Option (Dual × Nat) :=
  match (s.die x.die).duals.find? (fun d => d.ctx == ctx && (d.prim == x.res || d.shad == x.res || d.spare == some x.res)) with
  | some d => some (d, if d.prim = x.res then 0 else if d.shad = x.res then 1 else 2)
  | none => none

/-- A state with the comparator of a register changed. -/
def State.modDual (s : State) (die k : Nat) (f : Dual → Dual) : State :=
  s.modDie die (fun d => { d with duals := lmap (fun u => u.k == k) f d.duals })

/-- A token that a primary accepts from elsewhere is copied to its shadow, and retained (R371). -/
def State.mirror (s : State) (x : Site) (src : Source) (t : Tok) : State :=
  match s.dualOf x t.ctx with
  | some (d, 0) =>
    if src = 4 then s
    else
      let y : Site := ⟨x.die, d.shad⟩
      (s.modCell y (fun c => { c with pipe := { c.pipe with selfq := c.pipe.selfq ++ [{ t with site := d.shad, came := s.cycle }] } })).modDual
        x.die d.k (fun d => { d with kept := d.kept ++ [t] })
  | _ => s

/-- The next token of a cell arrives, if it is of the class `k` (R8, R67, R153, R184, R311, R384): discarded if its context is
gone; recorded as channel state where its context has frozen (R374); parked if its block is absent; in a fault record if
it names no node; else accepted. A site whose channels have drained for a reload accepts nothing from them (R188). -/
def State.arrive (s : State) (x : Site) (k : Arrival) : State :=
  let c := s.cell x
  if c.spat.on then s.spatArrive x k
  else if s.cycle < c.pipe.matchAt then s
  else match c.nextTok with
    | none => s
    | some (src, u) =>
      let t := u.matched
      let took (s : State) : State :=
        s.modCell x (fun c => { c.takeTok src with pipe := { (c.takeTok src).pipe with matchAt := s.cycle + 1 } })
      if arrivalOf (c.opcAt t) t ≠ k || s.halted x t.ctx || (s.sealedAt x && src < 4) then s
      else if s.gone t.ctx then took s
      else if c.frz.units.contains t.ctx then
        (took s).modCell x (fun c => { c with frz := { c.frz with chan := c.frz.chan ++ [(t.ctx, src, t)] } })
      else
        let invalid : State := if s.latched (siteUnit x) ≥ nLatches then s else (took s).destInvalid x t
        match c.blkOf t.ctx t.node with
        | none => invalid
        | some b =>
          if !b.present then
            (if c.miss.length ≥ 16 then s
             else (took s).modCell x (fun c => { c with miss := c.miss ++ [t]
                                                        ctr := { c.ctr with cmiss := satAdd 48 c.ctr.cmiss 1 } }))
          else
            let pos := t.node - b.hdr - 1
            if !b.isNode pos || t.port ≥ (b.recAt pos).arity then invalid
            else match (took s).accept x b pos t false with
              | some s1 => s1.mirror x src t
              | none => s.spillWait x t

/-- TOKEN_MATCH (R15). -/
def execTokenMatch (x : Site) (s : State) : Host.Outcome State Fault Refusal := .next (s.arrive x .match_)

/-- BINDING_ARRIVAL (R17). -/
def execBindingArrival (x : Site) (s : State) : Host.Outcome State Fault Refusal := .next (s.arrive x .binding)

/-- PURGE_ARRIVAL (R18). -/
def execPurgeArrival (x : Site) (s : State) : Host.Outcome State Fault Refusal := .next (s.arrive x .purge)

/-- NULL_ARRIVAL (R23). -/
def execNullArrival (x : Site) (s : State) : Host.Outcome State Fault Refusal := .next (s.arrive x .null)

/-- STREAM_END_ARRIVAL (R98, R107). -/
def execStreamEndArrival (x : Site) (s : State) : Host.Outcome State Fault Refusal := .next (s.arrive x .streamEnd)

/-- The bound k of an LBOUND record (R200). -/
def boundOf (r : Rec) : Nat := fld r.w0.toNat 0 6 + 1

/-- Iteration, level and prefix of a start token (R200). -/
def startKey (tl : BitVec 96) (t : Tok) : Nat × Nat × W64 :=
  (lvl tl t.tag t.depth, t.depth, tagUpTo tl t.tag (t.depth - 1))

/-- The window a start token would join. -/
def Cell.startWin (c : Cell) (tl : BitVec 96) (t : Tok) : Option LbWin :=
  let k := startKey tl t
  (c.lbs.filter (fun w => w.ctx == t.ctx && w.node == t.node && w.lvl == k.2.1 && w.pfx == k.2.2 && !w.closed)).getLast?

/-- Whether a spilled token can now proceed (R16): its port is free of a binding, its slot is free or there is room for it;
a held start token is admissible and none of its window comes before it (R200). -/
def State.canRefill (s : State) (p : Spill) (all : List Spill) : Bool :=
  let c := s.cell p.x
  let t := p.tok
  match c.blkOf t.ctx t.node with
  | none => true
  | some b =>
    let pos := t.node - b.hdr - 1
    let opc := (b.recAt pos).opc
    let tl := (s.ctx t.ctx).tl
    if opc = 0x046 && t.port = 0 && t.flag .streamEnd then
      -- a marker comes behind the start tokens of its prefix (R163)
      p.held == false || all.all (fun q => !(q.x == p.x && q.tok.node == t.node && q.tok.port == 0 && !q.tok.flag .streamEnd && q.ring < p.ring
        && q.tok.depth == fld t.side.toNat 0 4 && tagUpTo tl q.tok.tag (q.tok.depth - 1) == t.tag))
    else if opc = 0x046 && t.port = 0 then
      match c.startWin tl t with
      | none => p.held || (c.lbs.filter (fun w => w.ctx == t.ctx && w.node == t.node)).length < 8
      | some w =>
        let k := startKey tl t
        !p.held || (k.1 < w.base + boundOf (b.recAt pos) &&
          all.all (fun q => !(q.held && q.x == p.x && q.tok.node == t.node && (startKey tl q.tok).2 == k.2
            && (startKey tl q.tok).1 < k.1)))
    else match arrivalOf opc t with
      | .binding => (c.binding b pos t.port).isNone && ((c.bindEnt b.ctx b.hdr).isSome || (c.room b).isSome)
      | .match_ =>
        opc = 0x046 || ((c.binding b pos t.port).isNone &&
          (match c.inst t.ctx b.hdr t.tag t.depth with
           | some e => (c.slotOf e b pos t.port).isNone
           | none => (c.room b).isSome))
      | _ => true

/-- The oldest spilled token of a context at a cell whose key can now proceed (R16): none of its key stands before it. -/
def State.refillable (s : State) (x : Site) (all : List Spill) : List Spill → List Spill → Option Spill
  | _, [] => none
  | before, p :: t =>
    if p.x == x && before.all (fun q => !(q.x == x && q.hdr == p.hdr && q.tok.tag == p.tok.tag
        && q.tok.depth == p.tok.depth)) && s.canRefill p all then some p
    else State.refillable s x all (before ++ [p]) t

/-- A held start token leaves its window's count (R200). -/
def State.unheld (s : State) (p : Spill) : State :=
  if !p.held || p.tok.flag .streamEnd then s else
  let k := startKey (s.ctx p.tok.ctx).tl p.tok
  let is (w : LbWin) : Bool := w.ctx == p.tok.ctx && w.node == p.tok.node && w.lvl == k.2.1 && w.pfx == k.2.2 && !w.closed
  s.modCell p.x (fun c => { c with lbs := lmap is (fun w => { w with held := w.held - 1 }) c.lbs })

/-- SPILL_REFILL (R16, R200, R368): one token of a context's spill area is matched again, as an arrival; escape tokens whose write to
the ring had to wait go there first. DEDUCED (assumption 76). -/
def execSpillRefill (x : Site) (ctx : Nat) (s : State) : Host.Outcome State Fault Refusal :=
  let c := s.cell x
  let st := (s.ctx ctx).st
  let l := (s.ctx ctx).spill.toks.filter (fun p => p.hdr < 1024)
  if s.cycle < c.pipe.matchAt || !(st == .running || st == .stopped) || c.frz.units.contains ctx || s.halted x ctx then .next s
  else if s.escapeDue ctx then .next (s.drainEscape ctx (s.escapes ctx))
  else match s.refillable x l [] l with
    | none => .next s
    | some p =>
      let s1 := ((s.unspill ctx p.ring).unheld p).modCell x (fun c => { c with
        ctr := { c.ctr with refills := satAdd 48 c.ctr.refills 1 }
        pipe := { c.pipe with matchAt := s.cycle + 1 } })
      match (s1.cell x).blkOf ctx p.tok.node with
      | none => .next (s1.destInvalid x p.tok)
      | some b =>
        let pos := p.tok.node - b.hdr - 1
        if !b.isNode pos || p.tok.port ≥ (b.recAt pos).arity then .next (s1.destInvalid x p.tok)
        else if p.held && p.tok.flag .streamEnd then .next (s1.setAlone x ctx p.tok.node p.tok)
        else match s1.accept x b pos p.tok true with
          | some s2 => .next s2
          | none => .next (s.spillWait x p.tok)

/-- A block is pinned in (R311): it has a live instance, a binding, a key store, an LBOUND window or a spilled token.
DEDUCED (assumption 82). -/
def State.pinnedIn (s : State) (x : Site) (b : Blk) : Bool :=
  let c := s.cell x
  let within (n : Nat) : Bool := b.hdr < n && n ≤ b.hdr + b.recs.length
  c.dir.any (fun e => e.ctx == b.ctx && e.blk == b.hdr)
    || c.stores.any (fun k => k.ctx == b.ctx && within k.node)
    || c.lbs.any (fun w => w.ctx == b.ctx && within w.node)
    || (s.ctx b.ctx).spill.toks.any (fun p => p.x == x && p.hdr == b.hdr)
    || c.escape.any (fun e => e.tok.ctx == b.ctx && e.hdr == b.hdr)
    || c.ready.any (fun e => e.ctx == b.ctx && within e.node)

/-- Two blocks share a node-memory index. DEDUCED (assumption 82). -/
def Blk.overlaps (a b : Blk) : Bool := a.hdr ≤ b.hdr + b.recs.length && b.hdr ≤ a.hdr + a.recs.length

/-- Port-map entries written into a cell's store from index `o`, and what the blocks in node memory now read of it (R61). -/
def Cell.putMap (c : Cell) (o : Nat) (l : List Nat) : Cell :=
  let pm := l.zipIdx.foldl (fun t e => if e.1 = 0 then tdel (o + e.2) t else tput (o + e.2) e.1 t) c.pmap
  let view (b : Blk) : Blk := { b with pmap := (List.range (4 * b.recs.length)).map (fun k => (tget (4 * b.pmbase + k) pm).getD 0) }
  { c with pmap := pm, blks := lmap (fun b => b.present) view c.blks }

/-- BLOCK_FETCH (R311): an absent block comes over the vertical bus once its range holds no pinned-in block; blocks of other
pairs in its range leave node memory. DEDUCED (assumption 82). -/
def execBlockFetch (x : Site) (ctx node : Nat) (s : State) : Host.Outcome State Fault Refusal :=
  let c := s.cell x
  match c.blkOf ctx node with
  | none => .next s
  | some b =>
    let others := c.blks.filter (fun a => a.present && !(a.ctx == b.ctx && a.hdr == b.hdr) && a.overlaps b)
    if b.present || others.any (fun a => s.pinnedIn x a) then .next s
    else .next (s.modCell x (fun c => ({ c with blks := c.blks.map (fun a =>
      if a.ctx == b.ctx && a.hdr == b.hdr then { a with present := true }
      else if a.overlaps b then { a with present := false } else a) } : Cell).putMap (4 * b.pmbase) b.pmap))

/-- READY_AGING (R20, R164): an entry that has waited 4,096 cycles rises one level and waits again; its entry time stays. -/
def execReadyAging (x : Site) (s : State) : Host.Outcome State Fault Refusal :=
  .next (s.modCell x (fun c => { c with ready := c.ready.map (fun e =>
    if e.wait ≥ 4096 && e.level < 31 then { e with level := e.level + 1, wait := 0 } else e) }))

end Sys2Proof.Machine
end

