-- ==== Sys2Proof/Machine/Flow.lean ====
section
/-! DEFINITION. Group 0x0: block and flow (R99 to R107), and the tag instructions (R108 to R112). -/
namespace Sys2Proof.Machine

/-- A STREAM_END that fires a stream-aware node alone, sent on every target with its level adjusted (R107). -/
def streamOut (f : Firing) (h : Hdr) (ts : List Target) : Out :=
  let t := f.ent.alone.getD {}
  { sends := ts.map (fun g => .marker g (fwdTok f h [t] t false)), ports := [], used := [t] }

/-- A received token sent on to targets (R102): the ports that give up their operands, and the token. -/
def forwardOut (f : Firing) (h : Hdr) (ports : List Nat) (t : Tok) (keepReq : Bool) (ts : List Target) : Out :=
  let used := ports.map f.op
  { sends := ts.map (fun g => .tok g (fwdTok f h used t keepReq)), ports := ports, used := used }

/-- PSNDROP counts poisoned tokens that a sink consumes (R100). -/
def State.psnDrop (s : State) (x : Site) (l : List Tok) : State :=
  let n := (l.filter (fun t => t.flag .poison)).length
  if n = 0 then s
  else s.modCell x (fun c => { c with ctr := { c.ctr with psndrop := satAdd 48 c.ctr.psndrop n } })

/-- An instance retires if nothing of it is left to come (R23). -/
def State.retire (s : State) (x : Site) (uid : Option Nat) : State :=
  match uid with
  | none => s
  | some u => s.tryRetire x u

/-- A site is a member of a comparator for a context (R370). -/
def State.dualSite (s : State) (x : Site) (ctx : Nat) : Bool :=
  (s.die x.die).duals.any (fun d => d.ctx == ctx && (d.prim == x.res || d.shad == x.res || d.spare == some x.res))

/-- EXIT (R100). At a site that is compared, the exit goes through the comparator, as a token for the exit sink (R371). -/
def execExit (h : Hdr) (s : State) : Host.Outcome State Fault Refusal :=
  s.firing (fun s f =>
    if s.dualSite f.x f.ent.ctx then
      -- the exit sink counts the poison of the token itself, so one operand fewer counts here
      s.issue f { sends := [.tok (.special .none .exit) (newTok f h (usedBy f h) none .s4 false 0)], ports := portsOf h, used := usedBy f h }
        (fun s toks => (s.psnDrop f.x (((usedBy f h).filter (fun t => t.flag .poison)).drop 1)).depart f 1 toks)
    else s.issue f { sends := [], ports := portsOf h, used := usedBy f h, exits := 1 }
      (fun s _ => ((s.psnDrop f.x (usedBy f h)).countExit f.x f.ent.uid).retire f.x f.ent.uid))

/-- NULL (R101). -/
def execNull (h : Hdr) (s : State) : Host.Outcome State Fault Refusal :=
  s.firing (fun s f =>
    let t := (newTok f h (usedBy f h) none .s4 false 0).setFlag .null true
    s.fire f { sends := both h t, ports := portsOf h, used := usedBy f h })

/-- STEER (R102, R107). -/
def execSteer (h : Hdr) (s : State) : Host.Outcome State Fault Refusal :=
  s.firing (fun s f =>
    if f.ent.alone.isSome then s.fire f (streamOut f h [h.t0, h.t1])
    else s.fire f (forwardOut f h [0, 1] (f.op 0) false [if (f.op 1).w64 % 2 = 1 then h.t0 else h.t1]))

/-- The place in the order of arrivals of the token at a port of a firing's instance (R103). -/
def State.arrival (s : State) (f : Firing) (p : Nat) : Option Nat :=
  match f.ent.uid.bind (s.cell f.x).ent, (s.cell f.x).blkAt f.ent.ctx f.hdr with
  | some e, some b => ((s.cell f.x).slotOf e b f.pos p).map (fun v => v.arr)
  | _, _ => none

/-- The port whose token arrived first (R103). -/
def State.firstPort (s : State) (f : Firing) : Nat :=
  match s.arrival f 0, s.arrival f 1 with
  | some a, some b => if b < a then 1 else 0
  | none, some _ => 1
  | _, none => 0

/-- MERGE (R103, R107). -/
def execMerge (h : Hdr) (s : State) : Host.Outcome State Fault Refusal :=
  s.firing (fun s f =>
    if f.ent.alone.isSome then s.fire f (streamOut f h [h.t0, h.t1])
    else
      let p := s.firstPort f
      s.fire f (forwardOut f h [p] (f.op p) false [h.t0, h.t1]))

/-- MERGE.ORD (R104, R107): operand C selects A or B. -/
def execMergeOrd (h : Hdr) (s : State) : Host.Outcome State Fault Refusal :=
  s.firing (fun s f =>
    if f.ent.alone.isSome then s.fire f (streamOut f h [h.t0, h.t1])
    else
      let p := (f.op 2).w64 % 2
      s.fire f (forwardOut f h [p, 2] (f.op p) false [h.t0, h.t1]))

/-- MOV (R105, R107): a copy, or a literal where it has no port. -/
def execMov (h : Hdr) (l : Lit) (s : State) : Host.Outcome State Fault Refusal :=
  s.firing (fun s f =>
    if f.ent.alone.isSome then s.fire f (streamOut f h [h.t0, h.t1])
    else if h.arity = 0 then
      let t := newTok f h [] none h.fmt false (scalarData h.fmt h.fmt.width (litVal h.fmt l))
      s.fire f { sends := both h t, ports := [], used := [] }
    else s.fire f (forwardOut f h [0] (f.op 0) true [h.t0, h.t1]))

/-- MOV4 (R106, R107). -/
def execMov4 (h : Hdr) (t2 t3 : Target) (s : State) : Host.Outcome State Fault Refusal :=
  s.firing (fun s f =>
    if f.ent.alone.isSome then s.fire f (streamOut f h [h.t0, h.t1, t2, t3])
    else s.fire f (forwardOut f h [0] (f.op 0) true [h.t0, h.t1, t2, t3]))

/-- Operand B of a tag instruction, as Z32: from its port, or the literal (R108, R110). -/
def tagOperand (f : Firing) (h : Hdr) (l : Lit) : Nat := if h.arity > 1 then (f.op 1).w32 else l.lo.toNat

/-- A tag instruction (R108 to R110): its own change of the tag comes first, then A goes to its targets. -/
def State.retag (s : State) (f : Firing) (h : Hdr) (r : Option (W64 × Nat)) : State :=
  match r with
  | none => s.refuse f .tagOverflow 0 0
  | some (tag, depth) =>
    let t := { fwdTok f h (usedBy f h) (f.op 0) false with tag := tag, depth := depth }
    s.fire f { sends := both h t, ports := portsOf h, used := usedBy f h }

/-- TAGPUSH (R108). -/
def execTagpush (h : Hdr) (l : Lit) (s : State) : Host.Outcome State Fault Refusal :=
  s.firing (fun s f => s.retag f h (tagPush (s.ctx f.ent.ctx).tl (f.ent.tag, f.ent.depth) (tagOperand f h l)))

/-- TAGPOP (R109). -/
def execTagpop (h : Hdr) (s : State) : Host.Outcome State Fault Refusal :=
  s.firing (fun s f => s.retag f h (tagPop (s.ctx f.ent.ctx).tl (f.ent.tag, f.ent.depth)))

/-- TAGINC (R109). -/
def execTaginc (h : Hdr) (s : State) : Host.Outcome State Fault Refusal :=
  s.firing (fun s f => s.retag f h (tagIncBy (s.ctx f.ent.ctx).tl (f.ent.tag, f.ent.depth) 1))

/-- TAGSET (R110): LEVEL 0 names level DEPTH. -/
def execTagset (h : Hdr) (level : Nat) (s : State) : Host.Outcome State Fault Refusal :=
  s.firing (fun s f =>
    let tl := (s.ctx f.ent.ctx).tl
    let k := if level = 0 then f.ent.depth else level
    let v := (f.op 1).w32
    s.retag f h (if k = 0 || k > f.ent.depth || v ≥ 2 ^ lvlWidth tl k then none
                 else some (setLvl tl f.ent.tag k v, f.ent.depth)))

/-- TAGGET (R111): the tag, a level of it, or DEPTH, in a new scalar token. LEVEL 0 names level DEPTH; at DEPTH 0, where
there is no such level, it reads 0: DESIGN CHOICE (assumption 88). -/
def execTagget (h : Hdr) (sel : TagSel) (level : Nat) (s : State) : Host.Outcome State Fault Refusal :=
  s.firing (fun s f =>
    let tl := (s.ctx f.ent.ctx).tl
    let k := if level = 0 then f.ent.depth else level
    let r : Ty × Nat := match sel with
      | .tagv => (.tag, f.ent.tag.toNat)
      | .lvl => (.z32, if k = 0 || k > f.ent.depth then 0 else lvl tl f.ent.tag k)
      | .dep => (.z32, f.ent.depth)
    let t := newTok f h (usedBy f h) none r.1 false (BitVec.ofNat 512 r.2)
    s.fire f { sends := both h t, ports := portsOf h, used := usedBy f h })

/-- PURGE (R112): a token with MA = PURGE and no data, whatever its OFL says. -/
def execPurge (h : Hdr) (s : State) : Host.Outcome State Fault Refusal :=
  s.firing (fun s f =>
    let t := { newTok f h (usedBy f h) none .s4 false 0 with ma := .purge }
    s.fire f { sends := both h t, ports := portsOf h, used := usedBy f h })

end Sys2Proof.Machine
end

