-- ==== Sys2Proof/Machine/Memory.lean ====
section
/-! DEFINITION. Groups 0x8 and 0x9 at issue: memory, atomics and ordering (R268 to R294). An access is checked, takes its
place in its wave buffer, and answers later; the steps of "MemorySystem" send and perform it. -/
namespace Sys2Proof.Machine

/-- Bytes of a scalar access (R273 Table 3). -/
def scalarBytes : Ty → Nat
  | .s4 | .z4 | .s8 | .z8 | .nf => 1
  | .s16 | .z16 | .bf16 | .fp16 => 2
  | .s32 | .z32 | .fp32 | .pred => 4
  | .s64 | .fp64 | .tag => 8

/-- Where an access goes, its policy and format register, and what its fault records name (R362 Table 3). -/
structure Loc where
  space  : Space
  die    : Nat
  mtr    : Nat
  addr   : Nat
  policy : Nat
  fmti   : Nat
  name   : Nat
  deriving DecidableEq, Repr

/-- The place of `n` bytes at offset `o` of a handle (R237). -/
def State.locHandle (s : State) (x : Site) (c h o n : Nat) : Except Block Loc × State :=
  match s.checkHandle x c h o n with
  | (.error b, s1) => (.error b, s1)
  | (.ok e, s1) =>
    (.ok (if e.space = 0 then ⟨.virt, x.die, 0, e.base + o, e.policy, e.fmti, e.base + o⟩
          else if e.space = 1 then ⟨.sdm, x.die, 0, e.base + o, e.policy, e.fmti, o⟩
          else ⟨.mt, x.die, e.base, o, e.policy, e.fmti, o⟩), s1)

/-- The place that a generic address names (R239). -/
def State.locGeneric (s : State) (x : Site) (g : Nat) : Except Block Loc :=
  match genericOf x.die g with
  | none => .error (.fault .aperture g)
  | some (.mt, d, b) =>
    (match (s.cell x).mt.regionAt b with
     | none => .error (.fault .mtMode g)
     | some k => .ok ⟨.mt, d, k, b - (s.cell x).mt.base k, 0, 0, g⟩)
  | some (sp, d, a) => .ok ⟨sp, d, 0, a, 0, 0, g⟩

/-- What an access asks for, beyond what its firing says. -/
structure Ask where
  h     : Hdr
  c     : MemCtl
  kind  : AccKind
  store : Bool
  vec   : Bool
  size  : Nat
  align : Nat

/-- An access's checks at issue (R274): the offset's poison stops its context; every other failure is a memory fault.
DEDUCED (assumption 71). -/
def State.place (s : State) (f : Firing) (q : Ask) (o : Nat) : Except Block Loc × State :=
  let x := f.x
  let c := f.ent.ctx
  let first : Except Block Loc × State :=
    match q.c.region with
    | some hd => s.locHandle x c hd o q.size
    | none => (s.locGeneric x o, s)
  match first with
  | (.error b, s1) => (.error b, s1)
  | (.ok l, s1) =>
    let bad (code : FCode) : Except Block Loc × State := (.error (.fault code l.name), s1)
    let isMem := match q.kind with | .mem _ => true | _ => false
    let isRmw := match q.kind with | .rmw _ => true | _ => false
    if isMem && l.space != .sdm then bad .handleInvalid
    else if (q.kind == .ldr || q.kind == .cmls) && l.space != .virt then bad .handleInvalid
    else if isRmw && l.space == .mt then bad .mtMode
    else if l.space == .sdm && !s1.sdmOwned l.die l.addr q.size (s1.ctx c).tenant then bad .prot
    else if l.addr % q.align ≠ 0 then bad .align
    else if l.space == .mt then
      (match (s1.cell x).mt.check l.mtr l.addr q.size q.store with
       | some code => bad code
       | none => (.ok l, s1))
    else (.ok l, s1)

/-- Bits of a scalar element of an access (R273): an NF code's container comes from the handle's format register. -/
def State.elemBits (s : State) (c : Nat) (t : Ty) (l : Loc) : Nat :=
  if t == .nf then (nfOf (s.fmtReg c l.fmti)).cont else t.width

/-- Bytes of the elements in which a vector access performs (R273): those of its type, where its address is aligned to
them. -/
def elemBytes (t : Ty) (addr : Nat) : Nat :=
  let n := scalarBytes t
  if n = 8 then (if addr % 8 = 0 then 8 else 4) else n

/-- Every access of an instance that has been sent. -/
def State.sentOf (s : State) (x : Site) (uid : Option Nat) : List Nat :=
  (s.msys.accs.filter (fun a => a.x == x && a.uid == uid && a.sent)).map (fun a => a.id)

/-- The access of a firing (R256), as it enters its wave buffer or waits at its checks. -/
def State.accessOf (s : State) (f : Firing) (q : Ask) (l : Loc) (outs : List Tok) (b c id : Nat) : Access :=
  { id := id, x := f.x, ctx := f.ent.ctx, uid := f.ent.uid, hdr := f.hdr, node := f.ent.node, pos := f.pos,
    opc := s.opcOf f, tag := f.ent.tag, depth := f.ent.depth, kind := q.kind, region := q.c.region,
    wpred := q.c.wpred, wsucc := q.c.wsucc, scope := q.c.scope, acq := q.c.acq, rel := q.c.rel, vec := q.vec,
    fmt := q.h.fmt, store := q.store, space := l.space, die := l.die, mtr := l.mtr, addr := l.addr, size := q.size,
    ew := (if q.vec then elemBytes q.h.fmt l.addr else q.size), elw := s.elemBits f.ent.ctx q.h.fmt l,
    policy := l.policy, arg := l.name, desc := f.op 0, b := f.op b, c := f.op c,
    prior := s.sentOf f.x f.ent.uid,
    poison := q.store && ((f.op b).flag .poison || (f.op c).flag .poison), outs := outs }

/-- A store has issued (R276): its position enters SPEND. -/
def State.spendStore (s : State) (f : Firing) (q : Ask) : State :=
  match f.ent.uid with
  | some u => if q.store then s.modCell f.x (fun c => c.modEnt u (fun e => { e with spend := setBit e.spend f.pos })) else s
  | none => s

/-- An access enters the wave buffer of its instance and region (R258), marked in SPEND if it is a store (R276). A replayed one takes
the place that it has kept since it issued. -/
def State.enterWave (s : State) (f : Firing) (q : Ask) (l : Loc) (outs : List Tok) (b c : Nat) : State :=
  let s1 := match s.checking f with
    | some o =>
      s.modMem (fun m => { m with accs := lmap (fun a => a.id == o.id) (fun _ => { s.accessOf f q l outs b c o.id with prior := o.prior }) m.accs })
    | none =>
      s.modMem (fun m => { m with nextId := m.nextId + 1, accs := m.accs ++ [s.accessOf f q l outs b c m.nextId] })
  s1.spendStore f q

/-- The number of the access that a firing has just put in its wave buffer. -/
def State.waveId (s : State) (f : Firing) : Nat := match s.checking f with | some o => o.id | none => s.msys.nextId

/-- A memory firing parks at its checks (R252): it has issued, so it keeps its place in its wave (R258), and a store its bit of SPEND
(R276). -/
def State.parkAsk (s : State) (f : Firing) (q : Ask) (b : Block) : State :=
  let s1 := match s.checking f with
    | some _ => s
    | none =>
      (s.modMem (fun m => { m with nextId := m.nextId + 1, accs := m.accs ++
        [{ s.accessOf f q ⟨.virt, f.x.die, 0, 0, 0, 0, 0⟩ [] 0 0 m.nextId with st := .check }] })).spendStore f q
  s1.park f (portsOf q.h) b

/-- An answer on its way back to its cell (R272): from its home it goes over the mesh as MEMRSP (R182); `ord` is the number of its
access, and `exits` says that its firing makes an exit. -/
def State.answerAs (s : State) (x : Site) (ctx : Nat) (uid : Option Nat) (node ord home : Nat) (exits : Bool) (toks : List Tok) : State :=
  if toks.isEmpty then s else
  s.netSend x.die (homePos x.die (s.pos x) home) 1 x.die x.res (.ans x ⟨ctx, uid, node, s.cycle + 1, ord, home, exits, toks⟩)

/-- The answer of an access, all of whose tokens come together (R272). -/
def State.answer (s : State) (x : Site) (ctx : Nat) (uid : Option Nat) (node ord home : Nat) (toks : List Tok) : State :=
  s.answerAs x ctx uid node ord home (toks.any Tok.isExit) toks

/-- A directory entry that a pre-emption has saved changed (R375). -/
def State.modSaved (s : State) (x : Site) (uid : Nat) (f : DirEnt → DirEnt) : State :=
  let unit (v : SavedUnit) : SavedUnit := if v.x == x then { v with cell := v.cell.modEnt uid f } else v
  { s with ctxs := s.ctxs.map (fun (e : Nat × Ctx) =>
      if e.2.pre.units.isEmpty then e else (e.1, { e.2 with pre := { e.2.pre with units := e.2.pre.units.map unit } })) }

/-- A store has performed at its scope (R276): it leaves SPEND, enters SDONE, and its instance may retire. The instance may stand
saved (R286, R375). -/
def State.storeDone (s : State) (x : Site) (uid : Option Nat) (pos : Nat) : State :=
  match uid with
  | none => s
  | some u =>
    let more := s.msys.accs.any (fun a => a.x == x && a.uid == some u && a.pos == pos && a.store && !a.ans && !a.over)
    let note (e : DirEnt) : DirEnt := { e with sdone := setBit e.sdone pos, spend := if more then e.spend else clrBit e.spend pos }
    if ((s.cell x).ent u).isSome then (s.modCell x (fun c => c.modEnt u note)).retire x (some u)
    else (s.modSaved x u note).retire x (some u)

/-- A memory firing (R274): checked, issued, and put in its wave buffer. `t` is its result token before its targets' tag
actions; `b` and `c` are the ports of its data. -/
def State.memory (s : State) (f : Firing) (q : Ask) (o : Nat) (sends : List Send) (b c : Nat) : State :=
  if (f.op 0).flag .poison then s.refuse f .poisonAddr o 0
  else match s.place f q o with
    | (.error blk, s1) => s1.parkAsk f q blk
    | (.ok l, s1) =>
      s1.issue f { sends := sends, ports := portsOf q.h, used := usedBy f q.h }
        (fun s toks => s.enterWave f q l toks b c)

/-- The token of a load response before it is filled (R275). -/
def respTok (f : Firing) (h : Hdr) (fmt : Ty) (vec : Bool) : Tok := newTok f h (usedBy f h) (some (f.op 0)) fmt vec 0

/-- A completion token (R275). -/
def doneTok (f : Firing) (h : Hdr) : Tok := (newTok f h (usedBy f h) none .s4 false 0).setFlag .complete true

/-- A load (R277). -/
def State.load (s : State) (f : Firing) (h : Hdr) (c : MemCtl) : State :=
  let n := if c.vec then 64 else scalarBytes h.fmt
  s.memory f ⟨h, c, .load, false, c.vec, n, if c.vec then 4 else n⟩ (f.op 0).w64 (both h (respTok f h h.fmt c.vec)) 1 3

/-- A store (R277). A vector whose LMASK is zero writes nothing and performs at once. -/
def State.store (s : State) (f : Firing) (h : Hdr) (c : MemCtl) : State :=
  let v := (f.op 1).vec
  let n := if v then 64 else scalarBytes h.fmt
  let q : Ask := ⟨h, c, .store, true, v, n, if v then 4 else n⟩
  if v && (f.op 1).lmask == 0 then
    (if (f.op 0).flag .poison then s.refuse f .poisonAddr (f.op 0).w64 0
     else match s.place f q (f.op 0).w64 with
       | (.error blk, s1) => s1.parkAsk f q blk
       | (.ok l, s1) =>
         s1.issue f { sends := both h (doneTok f h), ports := portsOf h, used := usedBy f h } (fun s toks =>
           let id := s.waveId f
           let s2 := (s.enterWave f q l [] 1 3).modMem (fun m =>
             { m with accs := lmap (fun a => a.id == id) (fun a => { a with st := .done, ans := true }) m.accs })
           (s2.answer f.x f.ent.ctx f.ent.uid f.ent.node id (600000 + siteKey f.x) toks).storeDone f.x f.ent.uid f.pos))
  else s.memory f q (f.op 0).w64 (both h (doneTok f h)) 1 3

/-- An atomic (R284): its old value comes back. -/
def State.atomic (s : State) (f : Firing) (h : Hdr) (c : MemCtl) (op : Nat) : State :=
  let n := scalarBytes h.fmt
  s.memory f ⟨h, c, .rmw op, true, false, n, n⟩ (f.op 0).w64 (both h (respTok f h h.fmt false)) 1 (if op = 8 then 2 else 3)

/-- LD (R277). -/
def execLd (h : Hdr) (c : MemCtl) (s : State) : Host.Outcome State Fault Refusal := s.firing (fun s f => s.load f h c)

/-- LD.G (R277). -/
def execLdG (h : Hdr) (c : MemCtl) (s : State) : Host.Outcome State Fault Refusal := s.firing (fun s f => s.load f h c)

/-- ST (R277). -/
def execSt (h : Hdr) (c : MemCtl) (s : State) : Host.Outcome State Fault Refusal := s.firing (fun s f => s.store f h c)

/-- ST.G (R277). -/
def execStG (h : Hdr) (c : MemCtl) (s : State) : Host.Outcome State Fault Refusal := s.firing (fun s f => s.store f h c)

/-- log2 of an access size (R278). -/
def log2Size (n : Nat) : Nat := Nat.log2 n

/-- A request extension (R278 Table 4). -/
def reqExt (op scope lsz addr rdest : Nat) (rsp ann : Bool) : BitVec 128 :=
  BitVec.ofNat 128 (addr % 2 ^ 32
    + (op * 2 ^ 30 + scope * 2 ^ 27 + lsz * 2 ^ 24 + rsp.toNat * 2 ^ 23 + ann.toNat * 2 ^ 22 + addr / 2 ^ 32 % 4) * 2 ^ 32
    + rdest * 2 ^ 64)

/-- The response destination that T1 names (R279); with no T1, the issuing site, to which the port reports. DEDUCED
(assumption 73). -/
def respDest (x : Site) (t1 : Target) : Nat :=
  match t1 with
  | .local _ n p => destWord 0 x.die x.res n p
  | _ => destWord 0 x.die x.res 0 0

/-- LDM and STM (R279): the request token that goes out on T0 in its turn. DEDUCED (assumption 73). -/
def State.memReq (s : State) (f : Firing) (h : Hdr) (c : MemCtl) (st : Bool) : State :=
  let b := f.op 1
  let v := if st then b.vec else c.vec
  let n := if v then 64 else scalarBytes h.fmt
  let q : Ask := ⟨h, c, .mem st.toNat, st, v, n, if v then 4 else n⟩
  if (f.op 0).flag .poison then s.refuse f .poisonAddr (f.op 0).w64 0
  else match s.place f q (f.op 0).w64 with
    | (.error blk, s1) => s1.parkAsk f q blk
    | (.ok l, s1) =>
      let rsp := !st || !h.t1.isNone
      let t := newTok f h (usedBy f h) none h.fmt (st && v) (if st then b.data else 0)
      let t1 := { t with lmask := if st && v then b.lmask else 1
                         req := some (reqExt st.toNat c.scope.code (log2Size n) l.addr (respDest f.x h.t1) rsp
                           (if st then c.rel else c.acq)) }
      s1.issue f { sends := [.tok h.t0 t1], ports := portsOf h, used := usedBy f h }
        (fun s toks => s.enterWave f q l toks 1 3)

/-- LDM (R279). -/
def execLdm (h : Hdr) (c : MemCtl) (s : State) : Host.Outcome State Fault Refusal :=
  s.firing (fun s f => s.memReq f h c false)

/-- STM (R279). DEDUCED (assumption 73). -/
def execStm (h : Hdr) (c : MemCtl) (s : State) : Host.Outcome State Fault Refusal :=
  s.firing (fun s f => s.memReq f h c true)

/-- One line asked for by PREF (R283): a line whose translation faults or waits is skipped. -/
def State.prefLine (s : State) (x : Site) (c va policy : Nat) : State :=
  let p := s.pos x
  match s.lookRange x.die (s.pairOf x) (colCache p.1) (s.ctx c).tenant false true 1 va 1 [] with
  | (.ok ps, s1) =>
    (match paOf ps va with
     | some pa => if (barAt pa).isSome then s1 else (s1.touch pa policy).reachVa x ps va
     | none => s1)
  | (.error _, s1) => s1

/-- The lines of a PREF in ascending order, those below `limit`. -/
def State.prefLines (s : State) (x : Site) (c policy limit : Nat) : Nat → Nat → State
  | 0, _ => s
  | n + 1, line => State.prefLines (if line * 128 < limit then s.prefLine x c (line * 128) policy else s) x c policy limit n (line + 1)

/-- A sent A (R283). DEDUCED (assumption 77). -/
def State.prefOut (s : State) (f : Firing) (h : Hdr) (k : State → State) : State :=
  s.fireWith f { sends := both h (fwdTok f h (usedBy f h) (f.op 0) false), ports := portsOf h, used := usedBy f h } k

/-- PREF (R283): it raises no fault of any kind. DEDUCED (assumption 77). -/
def execPref (h : Hdr) (handle nlm1 : Nat) (s : State) : Host.Outcome State Fault Refusal :=
  s.firing (fun s f => s.prefOut f h (fun s =>
    if (f.op 0).flag .poison then s
    else match s.checkHandle f.x f.ent.ctx handle (f.op 0).w64 1 with
      | (.error _, s1) => s1
      | (.ok e, s1) =>
        if e.space ≠ 0 || e.policy = 2 then s1
        else s1.prefLines f.x f.ent.ctx e.policy (e.base + e.bound) (nlm1 + 1) ((e.base + (f.op 0).w64) / 128)))

/-- PREF.G (R283). -/
def execPrefG (h : Hdr) (nlm1 : Nat) (s : State) : Host.Outcome State Fault Refusal :=
  s.firing (fun s f => s.prefOut f h (fun s =>
    if (f.op 0).flag .poison then s
    else match genericOf f.x.die (f.op 0).w64 with
      | some (.virt, _, va) => s.prefLines f.x f.ent.ctx 0 (2 ^ 57) (nlm1 + 1) (va / 128)
      | _ => s))

/-- A new scalar token on both targets. -/
def scalarOut (f : Firing) (h : Hdr) (fmt : Ty) (v : Nat) : Out :=
  { sends := both h (newTok f h (usedBy f h) none fmt false (BitVec.ofNat 512 v)), ports := portsOf h, used := usedBy f h }

/-- The address space codes of a handle's base: where its bytes start, for GTOH and HTOG (R291, R292). -/
def State.baseOf (s : State) (x : Site) (e : Handle) : Nat := if e.space = 2 then (s.cell x).mt.base e.base else e.base

/-- GTOH (R291). -/
def execGtoh (h : Hdr) (handle : Nat) (s : State) : Host.Outcome State Fault Refusal :=
  s.firing (fun s f =>
    match s.checkHandle f.x f.ent.ctx handle 0 0 with
    | (.error b, s1) => s1.park f (portsOf h) b
    | (.ok e, s1) =>
      let base := s1.baseOf f.x e
      let v := match genericOf f.x.die (f.op 0).w64 with
        | some (sp, d, a) =>
          if sp == (if e.space = 0 then Space.virt else if e.space = 1 then .sdm else .mt)
              && (sp != .sdm || d == f.x.die) && base ≤ a && a < base + e.bound then a - base else 2 ^ 64 - 1
        | none => 2 ^ 64 - 1
      s1.fire f (scalarOut f h .s64 v))

/-- HTOG (R292). -/
def execHtog (h : Hdr) (handle : Nat) (s : State) : Host.Outcome State Fault Refusal :=
  s.firing (fun s f =>
    let o := (f.op 0).w64
    match s.checkHandle f.x f.ent.ctx handle o 1 with
    | (.error b, s1) => s1.park f (portsOf h) b
    | (.ok e, s1) =>
      let a := s1.baseOf f.x e + o
      let v := if e.space = 0 then a
        else if e.space = 1 then 0xFC00000000000000 + f.x.die * 2 ^ 34 + a
        else 0xFE00000000000000 + a
      s1.fire f (scalarOut f h .s64 v))

/-- The code of a generic address (R293). -/
def apCode (die g : Nat) : Nat :=
  match genericOf die g with
  | none => 0
  | some (.virt, _, _) => 1
  | some (.mt, _, _) => 2
  | some (.sdm, _, _) => if fld g 56 8 = 0xFD then 3 else 4

/-- APTEST (R293). -/
def execAptest (h : Hdr) (test : Nat) (s : State) : Host.Outcome State Fault Refusal :=
  s.firing (fun s f =>
    let c := apCode f.x.die (f.op 0).w64
    s.fire f (if test = 0 then scalarOut f h .z32 c else scalarOut f h .pred (if c = test then 1 else 0)))

/-- AADD (R284). -/
def execAadd (h : Hdr) (c : MemCtl) (s : State) : Host.Outcome State Fault Refusal := s.firing (fun s f => s.atomic f h c 0)

/-- AFADD (R284). -/
def execAfadd (h : Hdr) (c : MemCtl) (s : State) : Host.Outcome State Fault Refusal := s.firing (fun s f => s.atomic f h c 1)

/-- AMIN (R284). -/
def execAmin (h : Hdr) (c : MemCtl) (s : State) : Host.Outcome State Fault Refusal := s.firing (fun s f => s.atomic f h c 2)

/-- AMAX (R284). -/
def execAmax (h : Hdr) (c : MemCtl) (s : State) : Host.Outcome State Fault Refusal := s.firing (fun s f => s.atomic f h c 3)

/-- AAND (R284). -/
def execAand (h : Hdr) (c : MemCtl) (s : State) : Host.Outcome State Fault Refusal := s.firing (fun s f => s.atomic f h c 4)

/-- AOR (R284). -/
def execAor (h : Hdr) (c : MemCtl) (s : State) : Host.Outcome State Fault Refusal := s.firing (fun s f => s.atomic f h c 5)

/-- AXOR (R284). -/
def execAxor (h : Hdr) (c : MemCtl) (s : State) : Host.Outcome State Fault Refusal := s.firing (fun s f => s.atomic f h c 6)

/-- AXCHG (R284). -/
def execAxchg (h : Hdr) (c : MemCtl) (s : State) : Host.Outcome State Fault Refusal := s.firing (fun s f => s.atomic f h c 7)

/-- ACAS (R284): B is the compare value, C the new one. -/
def execAcas (h : Hdr) (c : MemCtl) (s : State) : Host.Outcome State Fault Refusal := s.firing (fun s f => s.atomic f h c 8)

/-- LDR (R288). -/
def execLdr (h : Hdr) (c : MemCtl) (s : State) : Host.Outcome State Fault Refusal :=
  s.firing (fun s f =>
    s.memory f ⟨h, c, .ldr, false, true, 64, 64⟩ (f.op 0).w64 (both h (respTok f h .z32 true)) 3 3)

/-- Every used line checked under R274, from line `l` on. -/
def State.cmlsCheck (s : State) (f : Firing) (q : Ask) : List (Nat × Nat) → Except Block (Option Loc) × State
  | [] => (.ok none, s)
  | (_, o) :: t =>
    match s.place f q o with
    | (.error b, s1) => (.error b, s1)
    | (.ok l, s1) =>
      match State.cmlsCheck s1 f q t with
      | (.error b, s2) => (.error b, s2)
      | (.ok _, s2) => (.ok (some { l with addr := l.addr - o, name := l.name }), s2)

/-- CMLS (R289, R290). DEDUCED (assumption 77). -/
def execCmls (h : Hdr) (c : MemCtl) (s : State) : Host.Outcome State Fault Refusal :=
  s.firing (fun s f =>
    let d := f.op 0
    let q : Ask := ⟨h, c, .cmls, true, false, 128, 128⟩
    let t := newTok f h (usedBy f h) none .z32 false 0
    if d.flag .poison then s.refuse f .poisonAddr d.w64 0
    else if !d.vec then s.refuse f .cmlsSpan 0 0
    else
      let ls := cmlsLines d
      match s.cmlsCheck f q ls with
      | (.error b, s1) => s1.parkAsk f q b
      | (.ok none, s1) =>
        s1.issue f { sends := both h t, ports := portsOf h, used := usedBy f h } (fun s toks =>
          let id := s.waveId f
          let s2 := (s.enterWave f q ⟨.virt, f.x.die, 0, 0, 0, 0, 0⟩ [] 1 2).modMem (fun m =>
            { m with accs := lmap (fun a => a.id == id) (fun a => { a with st := .done, ans := true }) m.accs })
          (s2.answer f.x f.ent.ctx f.ent.uid f.ent.node id (600000 + siteKey f.x) toks).storeDone f.x f.ent.uid f.pos)
      | (.ok (some l), s1) =>
        if (ls.map (fun p => p.2)).eraseDups.length ≠ ls.length then s1.refuse f .cmlsSpan 0 0
        else s1.issue f { sends := both h t, ports := portsOf h, used := usedBy f h }
          (fun s toks => s.enterWave f q l toks 1 2))

/-- ORDTOK (R281): the port form sends a request, the join form a completion, each in its turn. -/
def execOrdtok (h : Hdr) (c : MemCtl) (s : State) : Host.Outcome State Fault Refusal :=
  s.firing (fun s f =>
    let l : Loc := ⟨.virt, f.x.die, 0, 0, 0, 0, 0⟩
    let port := match h.t0 with | .special _ (.memnode _) => true | _ => false
    let q : Ask := ⟨h, c, .ord, false, false, 0, 1⟩
    let sends := if port then
        [.tok h.t0 { newTok f h (usedBy f h) none .s4 false 0 with
          req := some (reqExt 2 c.scope.code 0 0 (respDest f.x h.t1) true false) }]
      else both h (doneTok f h)
    s.issue f { sends := sends, ports := portsOf h, used := usedBy f h } (fun s toks => s.enterWave f q l toks 3 3))

/-- FENCE (R263, R282). -/
def execFence (h : Hdr) (c : MemCtl) (s : State) : Host.Outcome State Fault Refusal :=
  s.firing (fun s f =>
    s.issue f { sends := both h (doneTok f h), ports := portsOf h, used := usedBy f h }
      (fun s toks => s.enterWave f ⟨h, c, .fence, false, false, 0, 1⟩ ⟨.virt, f.x.die, 0, 0, 0, 0, 0⟩ toks 3 3))

end Sys2Proof.Machine
end

