-- ==== Sys2Proof/Machine/MemorySystem.lean ====
section
/-! DEFINITION. The steps of the memory system: sending an access from its wave buffer (R258 to R263, R241), translating it
(R243 to R253), performing it at its home (R228 to R235, R256, R257, R275 to R290, R406), and what a write at a home sets
free (R250, R286). -/
namespace Sys2Proof.Machine

/-- The access of a number. -/
def State.acc (s : State) (id : Nat) : Option Access := s.msys.accs.find? (fun a => a.id == id)

/-- A state with one access changed. -/
def State.accSet (s : State) (id : Nat) (g : Access → Access) : State :=
  s.modMem (fun m => { m with accs := lmap (fun a => a.id == id) g m.accs })

/-- An access has performed at its home (R256). -/
def Access.atHome (a : Access) : Bool := a.st == .home || a.st == .done

/-- An access has performed at a scope (R256 Table 2): a store at SITE once its path, or a memory-node port, has accepted it. DEDUCED
(assumption 72). -/
def Access.doneAt (a : Access) (sc : Scope) : Bool :=
  match a.st with
  | .done | .abandoned => true
  | .home => sc != .system
  | .sent => a.kind == .store && sc == .site
  | .port => a.store && sc == .site
  | _ => false

/-- Two accesses have overlapping bytes (R258). -/
def Access.overlaps (a b : Access) : Bool :=
  a.space == b.space && a.die == b.die && (a.space != .mt || a.mtr == b.mtr) &&
    a.ranges.any (fun r => b.ranges.any (fun q => r.1 < q.1 + q.2 && q.1 < r.1 + r.2))

/-- The sent accesses that an access follows in its chain (R258). -/
def State.predsOf (s : State) (a : Access) : List Access := s.msys.accs.filter (fun y => y.sent && waveBefore y a)

/-- The accesses of a list of numbers. -/
def State.accsOf (s : State) (l : List Nat) : List Access := s.msys.accs.filter (fun y => l.contains y.id)

/-- A scoreboard entry stalls an access of its pair (R241). -/
def State.scored (s : State) (a : Access) : Bool :=
  let sp : Nat := match a.space with | .virt => 0 | .sdm => 1 | .mt => 2
  let off := if a.space == .mt then (s.cell a.x).mt.base a.mtr else 0
  a.ranges.any (fun r => s.scoredAt a.x sp a.die (r.1 + off) r.2 a.store)

/-- Whether the wave buffer may send an access now (R258, R261, R263), given the accesses earlier in its chain.
DEDUCED (assumption 72). -/
def State.sendable (s : State) (a : Access) (preds before : List Access) : Bool :=
  (a.wpred == .none || !preds.isEmpty)
    && before.all (fun y => !y.overlaps a || y.atHome || y.st == .abandoned)
    && before.all (fun y => !y.acq || y.atHome)
    && (!a.acq || before.all (fun y => !y.rel || y.doneAt y.scope))
    && (!(a.rel || a.kind == .fence) || (before ++ s.accsOf a.prior).all (fun y => y.doneAt a.scope))
    && !s.scored a

/-- The answer of a store that performs at SITE scope when its path accepts it (R256 Table 2). -/
def State.accepted (s : State) (a : Access) : State :=
  if a.kind == .store && a.scope == .site && !a.ans then
    ((s.accSet a.id (fun a => { a with ans := true })).answer a.x a.ctx a.uid a.node a.id (500000 + siteKey a.x) a.outs).storeDone
      a.x a.uid a.pos
  else s

/-- The operand tokens that an access carries. -/
def Access.ops (a : Access) : List Tok := [a.desc, a.b, a.c]

/-- The PARK or REPLAY record of an access (R345). -/
def State.traceAcc (s : State) (a : Access) (code : Nat) : State :=
  let ev : Event :=
    { code := code, tenant := (s.ctx a.ctx).tenant, ctx := a.ctx, tag := a.tag, depth := a.depth, arg := a.node,
      data := a.arg, xt := true, psn := a.poison || anyPoison a.ops, after := lastSent (a.ops ++ a.outs) }
  s.traceCell a.x ev

/-- The fault record of an access (R362). -/
def Access.record (a : Access) (s : State) (code : FCode) (arg : Nat) : FRec :=
  { s.cellRec a.x a.ctx a.node a.tag a.depth code arg with
    psn := a.poison || anyPoison a.ops, after := lastSent (a.ops ++ a.outs) }

/-- A sent access meets a memory fault: it parks, and its record goes to the fault queue (R252, R361). -/
def State.accFault (s : State) (a : Access) (code : FCode) : State :=
  let s1 := (s.accSet a.id (fun a => { a with st := .parked, els := [], got := [] })).traceAcc a 0x81
  s1.takeFault (siteUnit a.x) (a.record s1 code a.arg) (.access a.id)

/-- A sent access is held and its context stops (R419). -/
def State.accHeld (s : State) (a : Access) (code : FCode) : State :=
  let s1 := s.accSet a.id (fun a => { a with st := .held, els := [], got := [] })
  s1.takeFault (siteUnit a.x) (a.record s1 code 0) (.access a.id)

/-- The pages of every range of an access looked up in turn (R246). -/
def State.lookAll (s : State) (a : Access) (useTlb : Bool) :
    List (Nat × Nat) → List Page → Except (Look × Nat) (List Page) × State
  | [], acc => (.ok acc, s)
  | (va, n) :: t, acc =>
    let col := colCache (s.pos a.x).1
    match s.lookRange a.x.die (s.pairOf a.x) col (s.ctx a.ctx).tenant a.writes useTlb (n / 4096 + 2) va n [] with
    | (.error e, s1) => (.error e, s1)
    | (.ok ps, s1) => State.lookAll s1 a useTlb t (acc ++ ps)

/-- Whether every byte of an access is served by translations its pair and column hold (R253). -/
def State.tlbServes (s : State) (a : Access) : Bool :=
  let col := colCache (s.pos a.x).1
  let hit (va : Nat) : Bool := (s.tlbHit a.x.die (s.pairOf a.x) col (s.ctx a.ctx).tenant va a.writes).isSome
  a.ranges.all (fun r => hit r.1 && (r.2 = 0 || hit (r.1 + r.2 - 1)))

/-- The wave buffer sends an access (R258): an ordering token or fence performs nothing; a memory-node request leaves; an
`mt` or `sdm` access goes to its tile or port; a `virt` access goes on with its translation, if its misses can be tracked (R253).
DEDUCED (assumption 72). -/
def State.send (s : State) (a : Access) (before : List Nat) (useTlb : Bool) : State :=
  let n := s.msys.sseq
  let go (s : State) (st : AccSt) : State :=
    (s.modMem (fun m => { m with sseq := n + 1 })).accSet a.id (fun a => { a with st := st, sseq := n, before := before })
  let leave (s : State) : State :=
    if a.outs.isEmpty then s else
    s.modCell a.x (fun c => { c with
      pipe := { c.pipe with deps := c.pipe.deps ++ [⟨a.ctx, a.uid, a.node, s.cycle + 6, c.uids, 0, a.outs.any Tok.isExit, a.outs⟩] }
      uids := c.uids + 1 })
  match a.kind with
  | .ord => leave ((go s .done).accSet a.id (fun a => { a with ans := true }))
  | .fence =>
    ((go s .done).accSet a.id (fun a => { a with ans := true })).answer a.x a.ctx a.uid a.node a.id (600000 + siteKey a.x) a.outs
  | .mem _ => leave (go s .leaving)
  | _ =>
    match a.space with
    | .mt => (go s .sent).accepted a
    | .sdm =>
      if ((s.cell a.x).nodeq.getD 0 []).length ≥ 8 then s
      else ((go s .sent).modCell a.x (fun c => { c with nodeq := c.nodeq.set 0 (c.nodeq.getD 0 [] ++ [a.id]) })).accepted a
    | .virt =>
      if useTlb && s.tlbServes a then
        match s.lookAll a true a.ranges [] with
        | (.ok ps, s1) => ((go s1 .sent).accSet a.id (fun a => { a with pages := ps })).accepted a
        | (.error _, _) => go s .walk
      else if s.missFull a.x.die (s.accMisses a) then s
      else go s .walk

/-- The accesses an access follows in its chain, and the numbers of all that come earlier in it (R258). -/
def State.chainOf (s : State) (a : Access) : List Access × List Nat :=
  let preds := s.predsOf a
  (preds, (preds.map (fun y => y.id) ++ (preds.map (fun y => y.before)).flatten).eraseDups)

/-- A sent access waits on a page in migration or copy (R246, R250). -/
def State.accMigr (s : State) (a : Access) : State := (s.accSet a.id (fun a => { a with st := .migr })).traceAcc a 0x81

/-- PAGE_WALK (R245, R246, R248): the translation of a sent access. -/
def execPageWalk (id : Nat) (s : State) : Host.Outcome State Fault Refusal :=
  match s.acc id with
  | none => .next s
  | some a =>
    let tenant := (s.ctx a.ctx).tenant
    let again : Act := .event (.pageWalk id)
    if a.st != .walk || (s.ctx a.ctx).st == .saved then .next s
    else match s.lookAll a false a.ranges [] with
      | (.ok ps, s1) => .next ((s1.accSet id (fun a => { a with st := .sent, pages := ps })).accepted a)
      | (.error (.fault c, _), s1) => .next (s1.accFault a c)
      | (.error (.copy e at_, va), s1) =>
        (match s1.beginCow a.x.die tenant a.ctx va e at_ (some again) (lastSent (a.ops ++ a.outs)) with
         | (true, s2) => .next (s2.accMigr a)
         | (false, s2) => .next (s2.accFault a .cow))
      | (.error (.held, _), s1) => .next s1
      | (.error (_, va), s1) => .next ((s1.waitPage a.x.die a.ctx va again).accMigr a)

/-- Accesses in the order in which they came to a barrier counter. -/
def byPark : List Access → List Access
  | [] => []
  | a :: t =>
    let rec ins (a : Access) : List Access → List Access
      | [] => [a]
      | b :: r => if a.park ≤ b.park then a :: b :: r else b :: ins a r
    ins a (byPark t)

/-- What waited on a page is released: it is replayed next (R250, R252). -/
def State.releaseAct (s : State) (a : Act) : State :=
  let next (s : State) : State := { s with agenda := s.agenda ++ [a] }
  match a with
  | .refire id =>
    (match s.parked.find? (fun p => p.id == id) with
     | some p =>
       next ({ s with parked := lmap (fun p => p.id == id) (fun p => { p with migr := none, miss := none }) s.parked }.tracePark p.f 0x82 p.off)
     | none => s)
  | .event (.pageWalk id) =>
    (match s.acc id with
     | some a => if a.st == .migr then next ((s.accSet id (fun a => { a with st := .walk })).traceAcc a 0x82) else s
     | none => s)
  | _ => next s

/-- The site whose work an act would replay. -/
def State.actSite (s : State) (a : Act) : Option Site :=
  match a with
  | .refire id => (s.parked.find? (fun p => p.id == id)).map (fun p => p.f.x)
  | .event (.pageWalk id) => (s.acc id).map (fun a => a.x)
  | .event (.sectorIssue n) => ((s.die (n % 4)).eng.copies.find? (fun c => c.id == n / 4)).map (fun c => c.x)
  | .event (.walkResult die q k) => ((s.die die).eng.walks.find? (fun w => w.quad == q && w.walker == some k)).map (fun w => w.f.x)
  | .event (.islandDrain die isl k) => (((tget isl (s.die die).eng.islands).getD {}).drains.find? (fun d => d.cslot == k)).map (fun d => d.x)
  | _ => none

/-- Work of a context that has parked stays parked while a STOP covers it (R389). DEDUCED (assumption 41). -/
def State.staysParked (s : State) (ctx : Nat) (x : Option Site) : Bool :=
  match x with
  | some x => s.stopAt x ctx
  | none => s.stopped ctx

/-- What waits on a page is released, in the order in which it parked (R250), and then the write that began a copy (R248); what a STOP
keeps parked goes on waiting (R389). -/
def State.releasePage (s : State) (hit : PageWait → Bool) (last : Option PageWait) : State :=
  let mine (w : PageWait) : Bool := !w.fault && !s.staysParked w.ctx (s.actSite w.act)
  let l := s.msys.waits ++ last.toList
  let go := s.msys.waits.filter (fun w => mine w && hit w) ++ last.toList.filter mine
  (go.map (fun w => w.act)).foldl State.releaseAct (s.modMem (fun m => { m with waits := l.filter (fun w => !go.contains w) }))

/-- The place of the leaf a walk reads, and whether the leaf is still in migration. -/
def State.leafAt (s : State) (die tenant va : Nat) : Option (Nat × Bool) :=
  match walkFrom s (va % 2 ^ 57) 5 ((tget tenant (s.die die).tab.ptroot).getD 0) [] with
  | (.ok (e, a), _) => some (a, pteState e = 3)
  | (.error _, rd) => rd.getLast?.map (fun a => (a, false))

/-- A write of `n` bytes at a home (R250): a PTE written out of MIGR releases what waits on its page. -/
def State.pteWritten (s : State) (pa n : Nat) : State :=
  if !s.msys.waits.any (fun w => !w.fault) then s else
  s.releasePage (fun w =>
    (List.range 4).any (fun d => match s.leafAt d w.tenant w.va with
      | some (a, m) => !m && a < pa + n && pa < a + 8
      | none => false)) none

/-- What waits on pages that have left MIGR is released: what a STOP had kept parked (R389, R390). DEDUCED (assumption 41). -/
def State.releaseLeft (s : State) : State :=
  if !s.msys.waits.any (fun w => !w.fault) then s
  else s.releasePage (fun w => match s.leafAt w.die w.tenant w.va with | some (_, m) => !m | none => false) none

/-- COW_COPY_DONE (R248): the page is copied, the new PTE written, the old count decreased, and what waits on the page released.
The copy of a context that is being pre-empted, or is saved, waits (R252), but for one that a write of the device itself began
(R376). -/
def execCowCopyDone (k : Nat) (s : State) : Host.Outcome State Fault Refusal :=
  match s.msys.cows[k]? with
  | none => .next s
  | some w =>
    if w.init.isSome && ((s.ctx w.ctx).st == .saved || (s.ctx w.ctx).pre.phase = 1) then .next s else
    let n := pageBytes (pteSize w.pte)
    let bytes := s.bytes w.old n
    let marks := (List.range (n / 32)).filter (fun g => s.poison.contains (w.old / 32 + g))
    let s1 := (List.range (n / 128)).foldl (fun t j => t.touchWrite (w.new + 128 * j) 0) ((s.setBytes w.new bytes).clearPoison w.new n)
    let s2 := marks.foldl (fun t g => t.setPoison (w.new + 32 * g) 32) s1
    let s3 := s2.setRefcnt w.new 1
    let tier : Nat := match paKind s.host.cxl w.new with | .cxl _ => 1 | _ => 0
    let pte := 2 ^ 63 + tier * 2 ^ 60 + pteSize w.pte * 2 ^ 56 + w.new / 4096 * 4096 + w.pte % 4096 / 16 * 16 + 0xF
    let s4 := (s3.setNum w.ptePa 8 pte).touchWrite w.ptePa 0
    let c := (s4.refcnt w.old + 2 ^ 32 - 1) % 2 ^ 32
    let s5 := (s4.setRefcnt w.old c).modMem (fun m => { m with cows := m.cows.take k ++ m.cows.drop (k + 1) })
    let pw := w.by_ / 4096 % 16
    let s6 := if c = 0 then
        s5.takeFault (engUnit w.die 3 pw) (engRec w.die 3 (2 * 32 + pw, 0x7F) pw w.ctx 0x3FF 0 0 .cowFree w.old) .none
      else s5
    let ev : Event := { code := 0x86, tenant := w.tenant, ctx := w.ctx, arg := pteSize w.pte, data := w.new / 4096, xt := true, after := w.after }
    .next ((s6.tracePeri w.die (unitPageWalker pw) 2 pw ev).releasePage
      (fun p => p.tenant == w.tenant && w.va ≤ p.va && p.va < w.va + n) (w.init.map (fun a => ⟨w.die, w.ctx, w.tenant, w.by_, a, false⟩)))

/-- The ordered path to a home (R261, note 1): its slice, or the module a remote window names (R406). -/
def State.pathKey (s : State) (pa : Nat) : Nat :=
  if isRemote pa then 100000 + fld ((tget (pa / 2 ^ 40 % 256) s.host.remote).getD 0).toNat 12 19 else s.slice pa

/-- The elements of an access (R273): a `virt` vector performs element by element; every other access in one step. -/
def Access.nEls (a : Access) : Nat := if a.space == .virt && a.vec && (a.kind == .load || a.kind == .store) then 64 / a.ew else 1

/-- Bytes of one element of an access. -/
def Access.elSize (a : Access) : Nat := if a.nEls = 1 then a.size else a.ew

/-- The paths of an element of a `virt` access. -/
def State.elPaths (s : State) (a : Access) (el : Nat) : List Nat :=
  match a.kind with
  | .cmls => a.lines.map (fun p => s.pathKey ((paOf a.pages p.2).getD 0))
  | _ => [s.pathKey ((paOf a.pages (a.addr + el * a.elSize)).getD 0)]

/-- An earlier access keeps an element of a `virt` access from performing: one of its chain that has no home yet, or has an
element left on the same path (R252, R261 note 1); or a store of its site that its path has accepted at SITE scope, with an
element left on the same path (R256, R259). DEDUCED (assumption 71). -/
def State.elBlocked (s : State) (a : Access) (el : Nat) : Bool :=
  let left (y : Access) : Bool := (List.range y.nEls).any (fun e => !y.els.contains e &&
    (s.elPaths y e).any (fun p => (s.elPaths a el).contains p))
  s.msys.accs.any (fun y => y.space == .virt && !y.ranges.isEmpty &&
    ((a.before.contains y.id &&
      (y.st == .walk || y.st == .parked || y.st == .migr || y.st == .held || (y.st == .sent && left y))) ||
     (y.x == a.x && y.scope == .site && y.kind == .store && y.ans && y.sseq < a.sseq
      && (y.st == .sent || y.st == .parked || y.st == .held) && left y)))

/-- The bytes a store writes, by offset (R277): a scalar element zero-extended to its size, or the lanes of LMASK. -/
def Access.puts (a : Access) : List (Option Byte) :=
  if a.b.vec then
    (List.range 64).map (fun k => if a.b.lmask.getLsbD (k / 4) then some (BitVec.ofNat 8 (fld a.b.data.toNat (8 * k) 8)) else none)
  else (leBytes a.size (a.b.elem a.elw 0)).map some

/-- A state with some bytes from an address written. -/
def State.putBytes (s : State) (a : Nat) : List (Option Byte) → State
  | [] => s
  | none :: t => State.putBytes s (a + 1) t
  | some b :: t => State.putBytes (s.setByte a b) (a + 1) t

/-- Bytes read put in their place among the bytes of an access. -/
def splice (got : List Byte) (size off : Nat) (bs : List Byte) : List Byte :=
  (List.range size).map (fun k => if off ≤ k && k < off + bs.length then bs.getD (k - off) 0 else got.getD k 0)

/-- The poison marks of a write (R275). -/
def State.mark (s : State) (poison : Bool) (a n : Nat) (l : List (Option Byte)) : State :=
  if poison then
    (List.range n).foldl (fun t k => if (l.getD k none).isSome then t.setPoison (a + k) 1 else t) s
  else
    let full (g : Nat) : Bool := (List.range 32).all (fun k => a ≤ g * 32 + k && g * 32 + k < a + n && (l.getD (g * 32 + k - a) none).isSome)
    { s with poison := s.poison.filter (fun g => !full g) }

/-- A primary retains the memory responses that it takes itself (R371). DEDUCED (assumption 52). -/
def State.keepAnswer (s : State) (a : Access) (toks : List Tok) : State :=
  match s.dualOf a.x a.ctx with
  | some (d, 0) =>
    s.modDual a.x.die d.k (fun d => { d with kept := d.kept ++ toks.filter (fun t => t.kind == 0 && t.die == a.x.die && t.site == a.x.res) })
  | _ => s

/-- An access performs at SYSTEM scope only later than at its home (R256 Table 2): a store to another module, or one whose line a host
holds under CXL.cache. What the host holds is a free value. DESIGN CHOICE (assumption 91). -/
def State.farOff (s : State) (a : Access) : Bool × State :=
  let far := a.store && a.space == .virt && a.pages.any (fun p => isRemote p.pa)
  if far || !(a.store && a.space == .virt && a.scope == .system) then (far, s) else (s.freeVal.1.getLsbD 0, s.freeVal.2)

/-- An access has performed at its home: its answer leaves once it has performed at its scope (R256, R272). DEDUCED
(assumption 72). -/
def State.performed (s0 : State) (a : Access) (home : Nat) (outs : List Tok) : State :=
  let (far, s) := (s0.progress a.ctx).farOff a
  let now := !(far && a.scope == .system)
  -- an answer that crosses from the die of its home carries its departure time (R349)
  let die := if a.space != .virt then a.die else if home < 1152 then home / 288 else a.x.die
  let t := (s.die die).loupe.time
  let outs1 := outs.map (fun u => if die = a.x.die then u else { u with sent := Nat.max u.sent t })
  let s1 := s.accSet a.id (fun _ => { a with st := if far then .home else .done, outs := outs1, ans := a.ans || now })
  if a.ans || !now then s1
  else
    let s2 := (s1.keepAnswer a outs1).answer a.x a.ctx a.uid a.node a.id home outs1
    let s3 := match a.twin.bind s1.acc, outs1 with
      | some b, o :: _ =>
        let fill (t : Tok) : Tok := { t with data := o.data, side := o.side, flags := o.flags, sent := o.sent }
        let s4 := s2.answer b.x b.ctx b.uid b.node b.id home (b.outs.map fill)
        if b.store then s4.storeDone b.x b.uid b.pos else s4.retire b.x b.uid
      | some b, [] => if b.store then s2.storeDone b.x b.uid b.pos else s2.retire b.x b.uid
      | none, _ => s2
    if a.store then s3.storeDone a.x a.uid a.pos else s3.retire a.x a.uid

/-- The result tokens of a load with the bytes it read (R275). -/
def Access.filled (a : Access) (poison : Bool) : List Tok :=
  let v := leNat a.got
  a.outs.map (fun t =>
    let d : Payload := if a.vec then BitVec.ofNat 512 v else scalarData a.fmt a.elw v
    let u := { t with data := d, side := a.side }
    if poison then u.setFlag .poison true else u)

/-- The new value of an atomic (R284 Table 5). -/
def atomicNew (op : Nat) (t : Ty) (old b c : Nat) : Nat :=
  let w := t.width
  match op with
  | 0 => (old + b) % 2 ^ w
  | 1 => ((fmtOf t).add old b).1
  | 2 => if intVal t old ≤ intVal t b then old else b
  | 3 => if intVal t old ≤ intVal t b then b else old
  | 4 => old &&& b
  | 5 => old ||| b
  | 6 => old ^^^ b
  | 7 => b
  | _ => if old = b then c else old

/-- Held results of a slice (R286). -/
def State.heldAt (s : State) (sl : Nat) : Nat :=
  (s.msys.accs.filter (fun a => a.st == .barrier && s.slice ((paOf a.pages a.addr).getD 0) == sl)).length

/-- A barrier counter's held results are released in arrival order once COUNT has reached TARGET (R286). DEDUCED
(assumption 74). -/
def State.barRelease (s : State) (k : Nat) : State :=
  let (count, target) := (tget k s.msys.bars).getD (0, 0)
  if target = 0 ∨ count < target then s
  else
    let mine := byPark (s.msys.accs.filter (fun a => a.st == .barrier && (match barAt ((paOf a.pages a.addr).getD 0) with
      | some (d, sl, c) => (d * 288 + sl) * 64 + c == k
      | none => false)))
    let s1 := s.modMem (fun m => { m with bars := tput k (0, target) m.bars })
    mine.foldl (fun t a => t.performed a (k / 64) a.outs) s1

/-- An access performs at a barrier counter (R285, R286, R419). DEDUCED (assumption 74). -/
def State.barAccess (s : State) (a : Access) (pa d sl c : Nat) : State :=
  let k := (d * 288 + sl) * 64 + c
  let (count, target) := (tget k s.msys.bars).getD (0, 0)
  let word := pa % 16 / 4
  let put (s : State) (v : Nat × Nat) : State := s.modMem (fun m => { m with bars := tput k v m.bars })
  if a.fmt != .z32 || a.size ≠ 4 then s.accHeld a .barrierOp
  else if a.opc = 0x200 then
    let v := if word = 0 then count else if word = 1 then target else 0
    let a1 := { a with got := leBytes 4 v }
    s.performed a1 (k / 64) (a1.filled false)
  else if a.opc = 0x201 then
    let v := a.b.elem 32 0
    let s1 := put s (if word = 0 then (v, target) else if word = 1 then (count, v) else (count, target))
    (s1.performed a (k / 64) a.outs).barRelease k
  else if a.opc = 0x240 then
    let sum := (count + a.b.elem 32 0) % 2 ^ 32
    let a1 := { a with outs := a.outs.map (fun t => { t with data := scalarData .z32 32 count }) }
    if target = 0 then (put s (sum, target)).performed a1 (k / 64) a1.outs
    else if sum < target && s.heldAt (d * 288 + sl) ≥ 1024 then s.accHeld a .barrierFull
    else
      let n := s.msys.nextId
      let s1 := (put s (sum, target)).modMem (fun m => { m with nextId := n + 1 })
      (s1.accSet a.id (fun _ => { a1 with st := .barrier, park := n })).barRelease k
  else s.accHeld a .barrierOp

/-- The words that a CMLS writes: their addresses and values, the higher placement last (R290). -/
def Access.cmlsWords (a : Access) (ls : List (Nat × Nat)) : List (Nat × Nat) :=
  (List.range 32).filterMap (fun j =>
    let byte := fld (a.desc.lane (8 + j / 4)) (8 * (j % 4)) 8
    let src := if j < 16 then a.b else a.c
    let w := if src.vec then src.lane (j % 16) else if j % 16 = 0 then src.w32 else 0
    if fld byte 7 1 = 0 then none
    else (ls.find? (fun p => p.1 == fld byte 5 2)).map (fun p => (p.2 + 4 * fld byte 0 5, w)))

/-- The poison marks of a write of words (R275): the granules they touch are marked, or those they cover whole become clean. -/
def State.markWords (s : State) (poison : Bool) (l : List (Nat × Nat)) : State :=
  if poison then l.foldl (fun t p => t.setPoison p.1 4) s
  else
    let full (g : Nat) : Bool := (List.range 8).all (fun k => l.any (fun p => p.1 == g * 32 + 4 * k))
    { s with poison := s.poison.filter (fun g => !full g) }

/-- CMLS at its home slice, in one step (R287, R290). -/
def State.cmlsAt (s : State) (a : Access) : State :=
  let ls := a.lines.map (fun p => (p.1, (paOf a.pages p.2).getD 0))
  let home := match ls with | p :: _ => s.slice p.2 | [] => 0
  let s0 := a.lines.foldl (fun t p => (t.touch ((paOf a.pages p.2).getD 0) 0).reachVa a.x a.pages p.2) s
  let out (v side : Nat) : List Tok :=
    a.outs.map (fun t => { t with data := BitVec.ofNat 512 v, side := BitVec.ofNat 32 side })
  match ls.find? (fun p => s0.version p.2 ≠ a.desc.lane (4 + p.1)) with
  | some p => s0.performed a home (out (p.1 + 1) (s0.version p.2))
  | none =>
    let ws := a.cmlsWords ls
    let s1 := (ws.foldl (fun (t : State) p => t.setNum p.1 4 p.2) s0).markWords a.poison ws
    let s2 := ls.foldl (fun t p => (t.touchWrite p.2 0).pteWritten p.2 128) s1
    s2.performed a home (out 0 0)

/-- Whether byte `k` of a store has been written, once the elements of `els` have performed (R273, R277). -/
def Access.wrote (a : Access) (k : Nat) : Bool := (a.puts.getD k none).isSome && a.els.contains (k / a.elSize)

/-- The elements of an access that stand in the line of one of them. -/
def Access.lineMates (a : Access) (el : Nat) : List Nat :=
  (List.range a.nEls).filter (fun e => (a.addr + e * a.elSize) / 128 = (a.addr + el * a.elSize) / 128)

/-- An element of a `virt` store is written at its home (R273, R275, R277): its bytes and their marks, where a granule that the
access has now written whole becomes clean; a line's version advances once (R287), with the last of the access's elements on it.
`a` counts the element as performed. -/
def State.putEl (s : State) (a : Access) (pa off policy : Nat) : State :=
  let n := a.elSize
  let l := (a.puts.drop off).take n
  let s1 := s.putBytes pa l
  let clean (g : Nat) : Bool := (List.range 32).all (fun i => pa ≤ g * 32 + i + off && a.wrote (g * 32 + i + off - pa))
  let near (g : Nat) : Bool := g * 32 < pa + n && pa < g * 32 + 32
  let s2 := if a.poison then s1.mark true pa n l else { s1 with poison := s1.poison.filter (fun g => !(near g && clean g)) }
  let mates := a.lineMates (off / n)
  let written := mates.any (fun e => ((a.puts.drop (e * n)).take n).any Option.isSome)
  let s3 := if written && mates.all (fun e => a.els.contains e) then s2.touchWrite pa policy else s2.touch pa policy
  if l.any Option.isSome then s3.pteWritten pa n else s3

/-- One element of a `virt` access performs at its home (R256, R257, R273); one bound for a module that cannot be reached waits
(R405). -/
def State.virtEl (s : State) (a : Access) (el : Nat) : State :=
  let off := el * a.elSize
  let va := a.addr + off
  let pa := (paOf a.pages va).getD 0
  let pas := if a.kind == .cmls then a.lines.map (fun p => (paOf a.pages p.2).getD 0) else [pa]
  if pas.any s.cutOff then s else
  let home := s.pathKey pa
  match pas.findSome? s.homeFault with
  | some code => s.accFault a code
  | none =>
  let refused := s.remoteRefuses pas
  if refused.1 || (pas.any isRemote && (a.kind == .ldr || a.kind == .cmls)) then refused.2.accFault a .prot
  else if a.kind == .cmls then
    (if pas.any (fun p => (barAt p).isSome) then s.accHeld a .barrierOp
     else if (s.elPaths a 0).eraseDups.length > 1 then s.accHeld a .cmlsSpan
     else s.cmlsAt a)
  else match barAt pa with
    | some (d, sl, c) => s.barAccess a pa d sl c
    | none =>
      -- an access counts once in each line that it reaches
      let s0 := if (a.lineMates el).any (fun e => a.els.contains e) then refused.2 else refused.2.reachVa a.x a.pages va
      let n := a.elSize
      let policy := match a.kind with | .load | .store => a.policy | _ => 0
      let last := (List.range a.nEls).all (fun e => e == el || a.els.contains e)
      match a.kind with
      | .store =>
        let a1 := { a with els := el :: a.els }
        let s1 := s0.putEl a1 pa off policy
        if last then s1.performed a1 home a.outs else s1.accSet a.id (fun _ => a1)
      | .rmw op =>
        let old := s0.num pa n % 2 ^ a.fmt.width
        let new := atomicNew op a.fmt old (a.b.elem a.fmt.width 0) (a.c.elem a.fmt.width 0)
        let psn := s0.poisoned pa n
        let l := (leBytes n new).map some
        let s1 := (((s0.putBytes pa l).mark a.poison pa n l).touchWrite pa 0).pteWritten pa n
        s1.performed a home (a.outs.map (fun t =>
          let u := { t with data := scalarData a.fmt a.fmt.width old }
          if psn then u.setFlag .poison true else u))
      | _ =>
        let s1 := s0.touch pa policy
        let a1 := { a with els := el :: a.els, got := splice a.got a.size off (s1.bytes pa n)
                           poison := a.poison || s1.poisoned pa n
                           side := if a.kind == .ldr then BitVec.ofNat 32 (s1.version pa) else 0 }
        if last then s1.performed a1 home (a1.filled a1.poison) else s1.accSet a.id (fun _ => a1)

/-- An earlier access keeps one of a memory tile from performing: what has reached the same region before it (R230), or one of
its chain at the same tile that has not performed (R252, R261 note 1). -/
def State.mtBehind (s : State) (a : Access) : Bool :=
  s.regionHeld a.x a.mtr a.sseq
    || (s.accsOf a.before).any (fun y => y.space == .mt && !y.ranges.isEmpty && !y.atHome && y.st != .abandoned)

/-- An access of a memory tile performs, in arrival order of its region, or waits (R228 to R230, R242). -/
def State.mtAccess (s : State) (a : Access) : State :=
  if s.mtBehind a then s else
  match s.mtSpot a.x a.mtr a.addr a.store with
  | none => s
  | some at_ =>
    match s.bankCheck a.x (s.bankByte a.x at_) a.size with
    | (.off, s1) => s1.accFault a .bankOff
    | (.wait, s1) => s1
    | (.ready, s1) =>
      let home := 200000 + siteKey a.x * 4 + a.mtr
      if a.store then
        let l := a.puts
        (((s1.putBytes at_ l).mark a.poison at_ a.size l).mtAdvance a.x a.mtr a.size true).performed a home a.outs
      else
        let psn := s1.poisoned at_ a.size
        let a1 := { a with got := s1.bytes at_ a.size }
        (s1.mtAdvance a.x a.mtr a.size false).performed a1 home (a1.filled psn)

/-- An earlier access of a chain keeps one at port 0 of its site from performing (R252, R261 note 1): one that has faulted there and
waits outside the port's queue. -/
def State.portBehind (s : State) (a : Access) : Bool :=
  (s.accsOf a.before).any (fun y => y.x == a.x && y.space == .sdm &&
    (match y.kind with
     | .mem _ => s.msys.reqs.any (fun r => r.st == .parked && r.m == 0 && r.x == a.x && y.outs.any (fun u => u.req == r.tok.req))
     | _ => y.st == .parked))

/-- An `sdm` access performs at the head of its port (R231, R232). -/
def State.sdmAccess (s : State) (a : Access) : State :=
  if ((s.cell a.x).nodeq.getD 0 []).head? != some a.id || s.portBehind a then s
  else
    let pop (s : State) : State := s.modCell a.x (fun c => { c with nodeq := c.nodeq.set 0 ((c.nodeq.getD 0 []).drop 1) })
    let at_ := sdmBase a.die + a.addr
    let home := 300000 + siteKey a.x
    match s.sdmCheck a.die a.addr a.size with
    | (.off, s0) => (pop s0).accFault a .bankOff
    | (.wait, s0) => s0
    | (.ready, s0) =>
      let s1 := pop s0
      match a.kind with
      | .store =>
        ((s1.putBytes at_ a.puts).mark a.poison at_ a.size a.puts).performed a home a.outs
      | .rmw op =>
        let old := s1.num at_ a.size % 2 ^ a.fmt.width
        let new := atomicNew op a.fmt old (a.b.elem a.fmt.width 0) (a.c.elem a.fmt.width 0)
        let psn := s1.poisoned at_ a.size
        let l := (leBytes a.size new).map some
        ((s1.putBytes at_ l).mark a.poison at_ a.size l).performed a home (a.outs.map (fun t =>
          let u := { t with data := scalarData a.fmt a.fmt.width old }
          if psn then u.setFlag .poison true else u))
      | _ =>
        let psn := s1.poisoned at_ a.size
        let a1 := { a with got := s1.bytes at_ a.size }
        s1.performed a1 home (a1.filled psn)

/-- An access, or one element of it, performs at its home; or a store to another module is acknowledged. -/
def State.accessAt (s : State) (a : Access) (el : Nat) : State :=
  match a.st with
  | .home =>
    let s1 := s.accSet a.id (fun a => { a with st := .done, ans := true })
    if a.ans then s1
    else (s1.answer a.x a.ctx a.uid a.node a.id (s.pathKey ((paOf a.pages a.addr).getD 0)) a.outs).storeDone a.x a.uid a.pos
  | .sent =>
    (match a.kind with
     | .mem _ => s
     | _ => match a.space with
       | .virt => if el ≥ a.nEls || a.els.contains el || s.elBlocked a el then s else s.virtEl a el
       | .mt => s.mtAccess a
       | .sdm => s.sdmAccess a)
  | _ => s

/-- ACCESS_PERFORM (R256): element `el` of access `id`, after the slices have lost the lines `evict` (R233); no PERSIST line is lost
but to another (R234). -/
def execAccessPerform (id el : Nat) (evict : List Nat) (s : State) : Host.Outcome State Fault Refusal :=
  let s1 := s.modMem (fun m => { m with lines := m.lines.filter (fun l => !evict.contains l.1 || l.2.policy == 3) })
  match s1.acc id with
  | none => .next s1
  | some a => .next (s1.accessAt a el)

/-- The fields of a request extension (R278 Table 4). -/
def reqField (r : BitVec 128) (word lo w : Nat) : Nat := fld r.toNat (32 * word + lo) w

/-- A request is valid at a port (R280). -/
def reqOk (r : BitVec 128) : Bool :=
  let op := reqField r 1 30 2
  let lsz := reqField r 1 24 3
  let addr := reqField r 0 0 32 + reqField r 1 0 2 * 2 ^ 32
  op ≠ 3 && lsz ≤ 6 && !(op = 0 && reqField r 1 23 1 = 0) && addr < sdmSize
    && addr % (if lsz = 6 then 4 else 2 ^ lsz) = 0 && reqField r 1 2 20 = 0 && reqField r 3 0 32 = 0
    && reqField r 1 27 3 ≤ 4

/-- The access of the wave buffer that a request's RDEST names (R279). DEDUCED (assumption 73). -/
def State.accOfTok (s : State) (t : Tok) : Option Access :=
  match t.req with
  | none => none
  | some r =>
    let x : Site := ⟨reqField r 2 28 2, reqField r 2 15 13⟩
    s.msys.accs.find? (fun a => a.x == x && a.ctx == t.ctx && (a.st == .sent || a.st == .port) &&
      (match a.kind with | .mem _ => a.outs.any (fun u => u.req == some r) | _ => false))

/-- The port reports a performed request to the wave buffer of the site that RDEST names (R279). DEDUCED (assumption
73). -/
def State.report (s : State) (t : Tok) : State :=
  match s.accOfTok t with
  | none => s
  | some a =>
    let s1 := s.accSet a.id (fun a => { a with st := .done, ans := true })
    if a.store then s1.storeDone a.x a.uid a.pos else s1.retire a.x a.uid

/-- The PARK or REPLAY record of a memory-node request (R345). -/
def State.traceReq (s : State) (q : NodeReq) (code addr : Nat) : State :=
  s.traceCell q.x { code := code, tenant := (s.ctx q.tok.ctx).tenant, ctx := q.tok.ctx, tag := q.tok.tag, depth := q.tok.depth
                    arg := q.tok.node, data := addr, xt := true, psn := q.tok.flag .poison, after := q.tok.sent }

/-- The address of a request (R278). -/
def reqAddr (r : BitVec 128) : Nat := reqField r 0 0 32 + reqField r 1 0 2 * 2 ^ 32

/-- A request's fault at its port: it waits outside the queue until its record is answered (R232, R252). -/
def State.reqFault (s : State) (q : NodeReq) (code : FCode) (addr : Nat) : State :=
  let s1 := (s.modMem (fun m => { m with reqs := lmap (fun r => r.id == q.id) (fun r => { r with st := .parked }) m.reqs })).traceReq q 0x81 addr
  s1.takeFault (siteUnit q.x) ((s1.cellRec q.x q.tok.ctx q.tok.node q.tok.tag q.tok.depth code addr).by [q.tok]) (.access q.id)

/-- The completion of a request (R275, R280). -/
def NodeReq.done (q : NodeReq) : Tok := Tok.setFlag
  { ctx := q.tok.ctx, tag := q.tok.tag, depth := q.tok.depth, pri := q.tok.pri, sent := q.tok.sent } .complete true

/-- A response of a port goes to RDEST (R280). -/
def State.respond (s : State) (q : NodeReq) (r : BitVec 128) (t : Tok) : State :=
  s.sendTok q.x.die (s.pos q.x) 1 ((t.toDest (reqField r 2 0 32)).setFlag .poison (t.flag .poison || q.tok.flag .poison))

/-- A port has accepted a request (R231): a store of SITE scope has performed there (R256 Table 2), so its completion goes and it is
reported. -/
def State.portTakes (s : State) (q : NodeReq) : State :=
  match q.tok.req with
  | some r =>
    if reqOk r && reqField r 1 30 2 = 1 && reqField r 1 27 3 = 0 then
      let s1 := s.modMem (fun m => { m with reqs := lmap (fun u => u.id == q.id) (fun u => { u with ans := true }) m.reqs })
      (if reqField r 1 23 1 = 1 then s1.respond q r q.done else s1).report q.tok
    else match s.accOfTok q.tok with
      | some a => s.accSet a.id (fun a => { a with st := .port })
      | none => s
  | none => s

/-- A request or an access that reached a port before the one at its head has faulted and waits outside its queue (R280). -/
def State.portOwes (s : State) (q : NodeReq) : Bool :=
  s.msys.reqs.any (fun r => r.x == q.x && r.m == q.m && r.id != q.id && r.st == .parked)
    || (q.m = 0 && s.msys.accs.any (fun a => a.x == q.x && a.space == .sdm && a.st == .parked
      && (match a.kind with | .mem _ => false | _ => true)))

/-- An earlier access of the chain of a request's firing has faulted at the same port (R252, R261 note 1). -/
def State.reqBehind (s : State) (q : NodeReq) : Bool :=
  match s.accOfTok q.tok with
  | some a => q.m = 0 && s.portBehind { a with x := q.x }
  | none => false

/-- The bits of a request's scalar element (R273): those of the access that formed it, where its wave buffer still holds that,
else its type's, within its bytes. -/
def State.reqWidth (s : State) (q : NodeReq) (n : Nat) : Nat :=
  match s.accOfTok q.tok with
  | some a => a.elw
  | none => Nat.min q.tok.fmt.width (8 * n)

/-- A memory-node request performs (R280). -/
def State.nodePerform (s : State) (q : NodeReq) : State :=
  let pop (s : State) : State := s.modCell q.x (fun c => { c with nodeq := c.nodeq.set q.m ((c.nodeq.getD q.m []).drop 1) })
  let fin (s : State) : State := s.modMem (fun m => { m with reqs := m.reqs.filter (fun r => r.id != q.id) })
  match q.tok.req with
  | none => (fin (pop s)).destInvalid q.x q.tok
  | some r =>
    if !reqOk r then (fin (pop s)).destInvalid q.x q.tok
    else
      let op := reqField r 1 30 2
      let lsz := reqField r 1 24 3
      let n := 2 ^ lsz
      let addr := reqAddr r
      let at_ := sdmBase q.x.die + addr
      let rsp := reqField r 1 23 1 = 1
      if op = 2 then
        (if reqField r 1 27 3 ≠ 0 && s.portOwes q then s
         else if rsp then (fin (pop s)).respond q r q.done else fin (pop s))
      else if s.reqBehind q then s
      else if !s.sdmOwned q.x.die addr n (s.ctx q.tok.ctx).tenant then (pop s).reqFault q .prot addr
      else match s.sdmCheck q.x.die addr n with
      | (.off, s0) => (pop s0).reqFault q .bankOff addr
      | (.wait, s0) => s0
      | (.ready, s00) =>
      let s0 := s00.progress q.tok.ctx
      if op = 0 then
        let v := leNat (s.bytes at_ n)
        let t : Tok := { ctx := q.tok.ctx, tag := q.tok.tag, depth := q.tok.depth, pri := q.tok.pri, fmt := q.tok.fmt,
                         vec := lsz = 6, lmask := if lsz = 6 then 0xFFFF else 1, sent := q.tok.sent
                         data := if lsz = 6 then BitVec.ofNat 512 v else scalarData q.tok.fmt (s.reqWidth q n) v }
        ((fin (pop s0)).respond q r (t.setFlag .poison (s.poisoned at_ n))).report q.tok
      else
        let v := q.tok.data.toNat
        let l : List (Option Byte) := if lsz = 6 then
            (List.range 64).map (fun k => if q.tok.lmask.getLsbD (k / 4) || !q.tok.vec then some (BitVec.ofNat 8 (fld v (8 * k) 8)) else none)
          else (leBytes n (q.tok.elem (s.reqWidth q n) 0)).map some
        let s1 := ((fin (pop s0)).putBytes at_ l).mark (q.tok.flag .poison) at_ n l
        if q.ans then s1 else (if rsp then s1.respond q r q.done else s1).report q.tok

/-- MEMNODE_REQUEST (R231, R280): the request at the head of a port performs. -/
def execMemnodeRequest (x : Site) (port : Nat) (s : State) : Host.Outcome State Fault Refusal :=
  match ((s.cell x).nodeq.getD port []).head? with
  | none => .next s
  | some id =>
    match s.msys.reqs.find? (fun r => r.id == id) with
    | some q => .next (s.nodePerform q)
    | none => match s.acc id with
      | some a => .next (s.accessAt a 0)
      | none => .next s

/-- The answer that a cell takes next (R272): the first that has come in; a SPATIAL cell looks at each, and takes them in issue
order (R358). -/
def memAnswerTok (c : Cell) (k : Nat) : Option Dep := if !c.spat.on && k ≠ 0 then none else c.pipe.ans[k]?

/-- FAULT_LATCH_DRAIN (R363): the oldest latched record of a context goes to its queue if it can. -/
def execFaultLatchDrain (k : Nat) (s : State) : Host.Outcome State Fault Refusal :=
  match s.latches[k]? with
  | none => .next s
  | some l =>
    if (s.latches.take k).any (fun m => m.fr.ctx == l.fr.ctx) then .next s
    else match s.putRecord l.fr l.what with
      | .done s1 =>
        let s2 := { s1 with latches := s1.latches.take k ++ s1.latches.drop (k + 1) }
        -- a passed-over firing of the site is looked at again
        let look (p : Nat × Cell) : Nat × Cell :=
          if p.1 = l.unit then (p.1, { p.2 with ready := p.2.ready.map (fun e => { e with pass := false }) }) else p
        let s3 := { s2 with cells := s2.cells.map look }
        .next (s3.settle l.fr.ctx)
      | .wait s1 => .next s1
      | _ => .next s

/-- What was sent at a place in the order of sending to a tile has not performed there. -/
def State.tileBusy (s : State) (x : Site) (n : Nat) : Bool :=
  s.msys.accs.any (fun a => a.x == x && a.space == .mt && a.st == .sent && a.sseq = n)
    || (s.die x.die).eng.copies.any (fun c => c.x == x && c.flight.any (fun f => f.2 = n))

/-- BANK_POWER_EFFECT (R242): a power change of a bank takes effect once the accesses and sectors that it waits for have
performed; one to RET or OFF ends a wake-up under way. DEDUCED (assumption 33). -/
def execBankPowerEffect (x : Site) (bank : Nat) (s : State) : Host.Outcome State Fault Refusal :=
  match (s.cell x).mt.pend.find? (fun p => p.1 == bank && p.2.1.isSome) with
  | none => .next s
  | some p =>
    let busy := p.2.2.any (s.tileBusy x)
    if busy then .next s
    else
      let v := p.2.1.getD 0
      let old := (s.cell x).mt.power bank
      let s1 := s.modCell x (fun c => { c with mt := { c.mt with
        pend := (ldrop (fun q => q == p) c.mt.pend).filter (fun q => v = 0 || !(q.1 == bank && q.2.1 == none))
          ++ (if v = 0 then (if old = 0 then [] else [(bank, none, [])]) else [])
        pwr := if v = 0 then c.mt.pwr else c.mt.pwr - old * 4 ^ bank + v * 4 ^ bank } })
      .next (if v = 2 && old ≠ 2 then s1.lose (mtBase x + bank * 8192) 8192 else s1)

/-- BANK_WAKE (R242): a waking bank is on. -/
def execBankWake (x : Site) (bank : Nat) (s : State) : Host.Outcome State Fault Refusal :=
  if !(s.cell x).mt.waking bank then .next s
  else .next (s.modCell x (fun c => { c with mt := { c.mt with
    pend := c.mt.pend.filter (fun p => !(p.1 == bank && p.2.1 == none))
    pwr := c.mt.pwr - c.mt.power bank * 4 ^ bank } }))

/-- SDM_WAKE (R232, R414): a gibibyte of SDM in retention that an access waits for wakes. -/
def execSdmWake (die gib : Nat) (s : State) : Host.Outcome State Fault Refusal :=
  if !(s.die die).power.wakes.contains gib then .next s
  else .next (s.modDie die (fun d => { d with power := { d.power with
    sdm := tdel gib d.power.sdm, wakes := d.power.wakes.filter (fun g => g != gib) } }))

end Sys2Proof.Machine
end

