-- ==== Sys2Proof/Machine/Depart.lean ====
section
/-! DEFINITION. Tokens leaving S6 (R54, R55, R96, R97, R167, R272), what each sink does with one, traffic counting (R211),
and the comparator of a dual configuration (R371, R372). -/
namespace Sys2Proof.Machine

/-- One traffic event of a pair (R211). -/
def trafficUp (l : List (Option (Nat × Nat))) (peer : Nat) : List (Option (Nat × Nat)) :=
  if l.any (fun e => match e with | some (p, _) => p == peer | none => false) then
    l.map (fun e => match e with | some (p, n) => if p = peer then some (p, satAdd 24 n 1) else some (p, n) | none => none)
  else match l.findIdx? (fun e => e.isNone) with
    | some i => l.set i (some (peer, 1))
    | none =>
      let cnt (e : Option (Nat × Nat)) : Nat := match e with | some (_, n) => n | none => 0
      let least := l.foldl (fun a e => Nat.min a (cnt e)) (2 ^ 24)
      match l.findIdx? (fun e => cnt e == least) with
      | some i => (match l.getD i none with
        | some (p, n) => l.set i (if n ≤ 1 then none else some (p, n - 1))
        | none => l)
      | none => l

/-- A traffic event of a resident with another of its die (R211). DESIGN CHOICE (assumption 79). -/
def State.traffic (s : State) (x : Site) (peer : Nat) : State :=
  if peer = x.res then s
  else s.modCell x (fun c => { c with herd := { c.herd with traf := trafficUp c.herd.traf peer } })

/-- Entries of a port of the input buffer (R186). DESIGN CHOICE (assumption 19). -/
def portRoom : Nat := 8

/-- Entries in use of a port of the input buffer: answers that have not taken S6 stand beside the MEMRSP tokens (R8, R272). -/
def Pipe.used (p : Pipe) (i : Nat) : Nat := (p.port i).length + (if i = 1 then p.ans.length else 0)

/-- A token written to a port of a cell's input buffer, if it has room (R186); a clock-gated pair wakes in a cycle (R414). In a
SPATIAL cell the port is the one that its node's port map names (R169), and a token for an internal port names no valid port
(R67). -/
def State.deliver (s : State) (x : Site) (port : Nat) (t : Tok) : Option State :=
  let c := s.cell x
  let put (i : Nat) : Option State :=
    if c.pipe.used i ≥ portRoom || s.swapping x then none
    else some (s.modCell x (fun c =>
      let p := c.pipe.setPort i (c.pipe.port i ++ [{ t with came := s.cycle }])
      { c with
      pipe := if c.frz.gated then { p with matchAt := Nat.max p.matchAt (s.cycle + 1) } else p
      frz := { c.frz with lastTok := s.cycle, gated := false } }))
  if c.spat.on && !t.flag .marker then
    match c.blkOf t.ctx t.node with
    | none => some (s.destInvalid x t)
    | some b =>
      let pos := t.node - b.hdr - 1
      if !b.isNode pos || t.port ≥ (b.recAt pos).arity || b.internal t.node t.port || b.off pos t.port > 3 then some (s.destInvalid x t)
      else put (b.off pos t.port)
  else put port

/-- The portal of a hardware queue (R403): none where its entry is not VALID or has a reserved bit set. -/
def State.portal (s : State) (die q : Nat) : Option Rec :=
  match tget q (s.die die).tab.portals with
  | some r =>
    if fld r.w0.toNat 31 1 = 1 && fld r.w0.toNat 29 2 = 0 && fld r.w0.toNat 0 8 = 0 && fld r.w1.toNat 0 7 = 0
        && fld r.w2.toNat 0 4 = 0 then some r else none
  | none => none

/-- A hardware queue (R299). -/
def State.queue (s : State) (die q : Nat) : HQueue := (tget q (s.die die).eng.queues).getD {}

/-- A state with a hardware queue replaced. -/
def State.setQueue (s : State) (die q : Nat) (v : HQueue) : State :=
  s.modDie die (fun d => { d with eng := { d.eng with queues := tput q v d.eng.queues } })

/-- A context may put tokens on a queue (R299, R403). -/
def State.queueTakes (s : State) (die q ctx : Nat) : Bool :=
  match s.portal die q with
  | some r => fld r.w2.toNat 4 14 = ctx
  | none => match (s.queue die q).bind with
    | some b => b.1 == ctx
    | none => false

/-- A token reaches a hardware queue (R299): it waits there, or it is consumed and its context stops with HQ_UNBOUND; none
where the queue is full. -/
def State.toQueue (s : State) (x : Site) (node q : Nat) (t : Tok) : Option State :=
  if !s.queueTakes x.die q t.ctx then
    some (s.takeFault (siteUnit x) ((s.cellRec x t.ctx node t.tag t.depth .hqUnbound 0).by [t]) .none)
  else if (s.queue x.die q).toks.length ≥ 32 then none
  else some (s.setQueue x.die q { s.queue x.die q with toks := (s.queue x.die q).toks ++ [t] })

/-- A token reaches a memory-node port (R231): none where the port is full. -/
def State.toPort (s : State) (x : Site) (m : Nat) (t : Tok) : Option State :=
  let l := (s.cell x).nodeq.getD m []
  if l.length ≥ 8 then none
  else
    let id := s.msys.nextId
    let q : NodeReq := ⟨id, x, m, t, .sent, false⟩
    let s1 := s.modMem (fun y => { y with nextId := id + 1, reqs := y.reqs ++ [q] })
    some ((s1.modCell x (fun c => { c with nodeq := c.nodeq.set m (l ++ [id]) })).portTakes q)

/-- A token reaches the trace sink (R345, R367). -/
def State.toTrace (s : State) (x : Site) (node : Nat) (t : Tok) : State :=
  let ten := (s.ctx t.ctx).tenant
  let ev : Event :=
    { code := 0x3F, tenant := ten, ctx := t.ctx, tag := t.tag, depth := t.depth, arg := t.side.toNat % 2 ^ 16,
      data := t.w32, xt := true, psn := t.flag .poison, after := t.sent }
  s.traceCell x ev

/-- A packet for a fixed position of a die enters the mesh (R181, R182). -/
def State.sendAt (s : State) (die : Nat) (p q : Nat × Nat) (cls res : Nat) (body : Body) : State :=
  s.modDie die (fun d => { d with net := { d.net with
    mesh := d.net.mesh ++ [⟨cls, p.1, p.2, die, q.1, q.2, res, routerOf p, false, s.cycle + 4 + body.beats, body, none⟩] } })

/-- A token of a site's own class that its router port still holds: its eight entries are the channel from the cell (R186). DESIGN
CHOICE (assumption 19). -/
def State.portSends (s : State) (x : Site) (cls : Nat) : Bool :=
  let p := s.pos x
  ((s.die x.die).net.mesh.filter (fun e => e.cls == cls && e.col == p.1 && e.row == p.2 && e.src == routerOf p)).length < portRoom

/-- Route tokens of a resident are on the mesh, on their way to where its trees were laid (R181). -/
def State.routesAway (s : State) (x : Site) : Bool :=
  (s.die x.die).net.mesh.any (fun p => match p.body with | .tok t => t.kind == 2 && t.site == x.res | _ => false)

/-- A token enters a switch box from its own pair (`trk` 96) or from the mesh (97), if one of the eight entries is free (R178,
R186). DESIGN CHOICE (assumption 19). -/
def State.toTracks (s : State) (die : Nat) (p : Nat × Nat) (trk : Nat) (t : Tok) : Option State :=
  if ((s.die die).net.tracks.filter (fun e => e.trk == trk && e.col == p.1 && e.row == p.2)).length ≥ portRoom then none
  else some (s.modDie die (fun d => { d with net := { d.net with
    tracks := d.net.tracks ++ [⟨trk, p.1, p.2, s.cycle + 2 + (Body.tok t).beats, t⟩] } }))

/-- A route token starts out (R180): onto the tracks at the position where its tree was laid, to which a moved resident
sends it over the mesh (R181), and so does one that has come back while earlier ones are on the mesh (R183). None: no room. DEDUCED
(assumption 80). -/
def State.toRoute (s : State) (x : Site) (t : Tok) : Option State :=
  if s.pairOf x = x.res && !s.routesAway x then s.toTracks x.die (posOf x.res) 96 t
  else if !s.portSends x 3 then none
  else some (s.sendAt x.die (s.pos x) (posOf x.res) 3 x.res (.tok t))

/-- A request of LDM or STM leaves S6, and counts as sent in its wave chain (R279). -/
def State.reqLeft (s : State) (x : Site) (t : Tok) : State :=
  if t.req.isNone then s
  else match s.msys.accs.find? (fun a => a.x == x && a.ctx == t.ctx && a.st == .leaving && a.outs.any (fun u => u.req == t.req)) with
    | some a => (s.modMem (fun m => { m with sseq := m.sseq + 1 })).accSet a.id (fun a => { a with st := .sent, sseq := s.msys.sseq })
    | none => s

/-- One produced token goes to its destination (R54, R55): none where that is full. -/
def State.sendTo (s : State) (x : Site) (node : Nat) (uid : Option Nat) (t : Tok) : Option State :=
  match t.kind with
  | 2 => s.toRoute x t
  | 3 =>
    (match t.sink with
     | (0, _) => some ((s.psnDrop x [t]).countExit x uid)
     | (1, _) => some (s.modDie x.die (fun d => { d with eng := { d.eng with
         islands := tput (t.site % 32) { ((tget (t.site % 32) d.eng.islands).getD {}) with
           scaleq := ((tget (t.site % 32) d.eng.islands).getD {}).scaleq ++ [t] } d.eng.islands } }))
     | (2, _) => some (s.toTrace x node t)
     | (3, q) => s.toQueue x node q t
     | (_, m) => s.toPort x (m % 16) t)
  | _ =>
    if t.die = x.die && t.site = x.res && t.kind = 0 then
      (if (s.cell x).inward x t then
         (if (s.cell x).latchedAt t.node t.port then none else some (s.modCell x (fun c => c.latch [t])))
       else if (s.cell x).spat.on then s.deliver x 0 t
       else some (s.modCell x (fun c => { c with pipe := { c.pipe with selfq := c.pipe.selfq ++ [{ t with came := s.cycle }] } })))
    else if !s.portSends x (tokClass t) then none
    else
      let s1 := if t.kind = 0 && t.die = x.die && t.site < nResidents then s.traffic x t.site else s
      some (s1.sendTok x.die (s.pos x) (tokClass t) t)

/-- One produced token leaves a site for its destination: none where what it goes to is full. -/
def State.sendOne (s : State) (x : Site) (node : Nat) (uid : Option Nat) (t : Tok) : Option State :=
  (s.reqLeft x t).sendTo x node uid t

/-- A token that stays at its own site (R371). -/
def Tok.stays (t : Tok) (x : Site) : Bool := t.kind == 0 && t.die == x.die && t.site == x.res

/-- A token leaves a site, through its comparator where its context is configured twice (R371): none where it must wait. -/
def State.leaveOne (s : State) (x : Site) (node idx : Nat) (uid : Option Nat) (t : Tok) : Option State :=
  match s.dualOf x t.ctx with
  | none => s.sendOne x node uid t
  | some (d, role) =>
    if t.stays x then s.sendOne x node uid t
    else
      let o : DOut := ⟨node, idx, t, none⟩
      if role = 0 then (if d.outP.length ≥ 32 then none else some (s.modDual x.die d.k (fun d => { d with outP := d.outP ++ [o] })))
      else if role = 1 then
        (if d.outS.length ≥ 32 then none else some (s.modDual x.die d.k (fun d => { d with outS := d.outS ++ [o] })))
      else some (s.modDual x.die d.k (fun d => { d with outX := d.outX ++ [o] }))

/-- Tokens leave in target order (R97); those behind one that must wait stay. -/
def State.leaveAll (s : State) (x : Site) (node : Nat) (uid : Option Nat) : Nat → List Tok → State × List Tok
  | _, [] => (s, [])
  | i, t :: r =>
    match s.leaveOne x node i uid t with
    | none => (s, t :: r)
    | some s1 => State.leaveAll s1 x node uid (i + 1) r

/-- The departure that leaves next (R96): the one that has been due for longest. DESIGN CHOICE (assumption 19). -/
def firstDue (now : Nat) : List Dep → Option Dep
  | [] => none
  | d :: t =>
    match firstDue now t with
    | none => if d.due ≤ now then some d else none
    | some e => if d.due ≤ now && d.due ≤ e.due then some d else some e

/-- S6 is free for a departure (R96, R167): its cycle is not taken, or this cycle's tokens are of the same packed issue and
it sends at most four with them. DEDUCED (assumption 80). -/
def Pipe.s6free (p : Pipe) (now : Nat) (d : Dep) : Bool :=
  p.s6 ≤ now || (p.s6 = now + 1 && p.s6grp = d.due && p.s6n + d.toks.length ≤ 4)

/-- A cell after a departure has taken S6 for this cycle. DEDUCED (assumption 80). -/
def Pipe.took (p : Pipe) (now : Nat) (d : Dep) : Pipe :=
  if p.s6 ≤ now then { p with s6 := now + 1, s6grp := d.due, s6n := d.toks.length }
  else { p with s6n := p.s6n + d.toks.length }

/-- The pin that a firing set counts once the firing has left S6 (R219). -/
def State.pinsCount (s : State) (x : Site) (ctx grp : Nat) : State :=
  let is (p : Pin) : Bool := p.ctx == ctx && p.grp == grp && !p.left
  if !(s.cell x).herd.pins.any is then s
  else s.modCell x (fun c => { c with herd := { c.herd with pins := lmap is (fun p => { p with left := true }) c.herd.pins } })

/-- The tokens of a departure leave, and its instance may retire once the last of them has. One none of whose tokens can leave
takes no cycle of S6. DEDUCED (assumption 80). -/
def State.leaveDep (s : State) (x : Site) (d : Dep) (start : Nat) (drop : State → State) (keep : State → List Tok → State) :
    State :=
  let (s1, rest) := (s.modCell x (fun c => { c with pipe := c.pipe.took s.cycle d })).leaveAll x d.node d.uid start d.toks
  if rest.isEmpty then ((drop s1).pinsCount x d.ctx d.grp).retire x d.uid
  else if rest.length = d.toks.length then s
  else keep s1 rest

/-- The tokens of an RDTIME carry LOUPE.TIME of the cycle in which it occupies S6, and STATE (R356). -/
def timeTok (l : Loupe) (t : Tok) : Tok :=
  { t with data := BitVec.ofNat 512 (l.time % 2 ^ 64), side := BitVec.ofNat 32 l.state }

/-- A departure as it takes S6: that of an RDTIME is marked by `home`. DESIGN CHOICE (assumption 66). -/
def Dep.stamped (d : Dep) (l : Loupe) : Dep := if d.home = 1 then { d with toks := d.toks.map (timeTok l) } else d

/-- FIRING_TOKENS_LEAVE (R96, R97): the tokens of the firing that has been due for longest leave S6, if it is free. -/
def execFiringTokensLeave (x : Site) (s : State) : Host.Outcome State Fault Refusal :=
  let c := s.cell x
  match firstDue s.cycle c.pipe.deps with
  | none => .next s
  | some d =>
    if !c.pipe.s6free s.cycle d then .next s
    else
      .next (s.leaveDep x (d.stamped (s.die x.die).loupe) 0
        (fun s => s.modCell x (fun c => { c with pipe := { c.pipe with deps := ldrop (fun e => e == d) c.pipe.deps } }))
        (fun s rest => s.modCell x (fun c => { c with pipe := { c.pipe with
          deps := c.pipe.deps.map (fun e => if e == d then { d with toks := rest, home := 0 } else e) } })))

/-- MEMORY_ANSWER (R272, R296): an answer that has come in by the router port takes S6 for one cycle, ahead of the cell's firings. -/
def execMemoryAnswer (x : Site) (k : Nat) (s : State) : Host.Outcome State Fault Refusal :=
  let c := s.cell x
  match memAnswerTok c k with
  | none => .next s
  | some d =>
    -- the answers of a SPATIAL cell come in issue order (R358)
    let turn := !c.spat.on || s.msys.accs.all (fun a => !(a.x == x && a.id < d.grp && !a.ans && !a.over))
      && c.pipe.ans.all (fun e => d.grp ≤ e.grp)
    if d.due > s.cycle || c.pipe.s6 > s.cycle || !turn || s.swapping x then .next s
    else if s.gone d.ctx then .next (s.modCell x (fun c => { c with pipe := { c.pipe with ans := c.pipe.ans.take k ++ c.pipe.ans.drop (k + 1) } }))
    else if c.frz.units.contains d.ctx then
      -- the state of the response channel of a frozen unit (R374)
      .next (s.modCell x (fun c => { c with
        pipe := { c.pipe with ans := c.pipe.ans.take k ++ c.pipe.ans.drop (k + 1) }
        frz := { c.frz with resp := c.frz.resp ++ [d] } }))
    else
      .next (s.leaveDep x d 0
        (fun s => s.modCell x (fun c => { c with pipe := { c.pipe with ans := c.pipe.ans.take k ++ c.pipe.ans.drop (k + 1) } }))
        (fun s rest => s.modCell x (fun c => { c with pipe := { c.pipe with ans := c.pipe.ans.set k { d with toks := rest } } })))

/-- Two outputs have the same key (R371). -/
def DOut.twin (a b : DOut) : Bool :=
  a.node == b.node && a.idx == b.idx && a.tok.tag == b.tok.tag && a.tok.depth == b.tok.depth && a.acc.isSome == b.acc.isSome

/-- The resident that an output's header names, where that is not its producer (R55, R371). -/
def Tok.named (t : Tok) : Nat := if t.kind = 2 || (t.kind = 3 && t.sink.1 ≠ 1) then 0 else t.site

/-- Two outputs agree bit for bit; a producer's own number in a header counts as its primary's (R371). -/
def DOut.agrees (a b : DOut) : Bool :=
  { a.tok with site := a.tok.named, sent := 0, came := 0 } == { b.tok with site := b.tok.named, sent := 0, came := 0 }

/-- What a comparator entry says of an access (R371): its request. -/
def Access.asTok (a : Access) : Tok :=
  let kindNo : Nat := match a.kind with
    | .load => 0 | .store => 1 | .rmw op => 16 + op | .ldr => 2 | .cmls => 3 | .ord => 4 | .fence => 5 | .mem m => 6 + m
  { kind := 2, ctx := a.ctx, tag := a.tag, depth := a.depth, pri := kindNo, fmt := a.fmt, vec := a.vec, lmask := a.b.lmask
    side := BitVec.ofNat 32 a.size, flags := a.b.flags, data := a.b.data
    req := some (BitVec.ofNat 128 (a.addr + a.mtr * 2 ^ 60 + a.c.w64 * 2 ^ 64)) }

/-- An access that its wave buffer would send waits in the comparator (R371). -/
def State.toCompare (s : State) (a : Access) (d : Dual) (role : Nat) : State :=
  let o : DOut := ⟨a.node, 8, a.asTok, some a.id⟩
  let full := if role = 0 then d.outP.length ≥ 32 else if role = 1 then d.outS.length ≥ 32 else false
  if full then s
  else (s.accSet a.id (fun a => { a with st := .compare })).modDual a.x.die d.k (fun d =>
    if role = 0 then { d with outP := d.outP ++ [o] }
    else if role = 1 then { d with outS := d.outS ++ [o] }
    else { d with outX := d.outX ++ [o] })

/-- An access of a pair waits behind an earlier one of it whose miss finds no slot (R253). -/
def State.missHeld (s : State) (a : Access) : Bool :=
  let held (y : Access) : Bool := y.x == a.x && y.id < a.id && y.st == .wait && y.space == .virt
    && s.missFull a.x.die (s.accMisses y) && s.sendable y (s.chainOf y).1 (s.accsOf (s.chainOf y).2)
  (s.misses a.x.die).length ≥ 512 && s.msys.accs.any held

/-- WAVE_SEND (R258): access `id` leaves its wave buffer, served by a TLB if the choice says so and one can serve it; at a
site configured twice it goes through the comparator (R371). -/
def execWaveSend (id : Nat) (useTlb : Bool) (s : State) : Host.Outcome State Fault Refusal :=
  match s.acc id with
  | none => .next s
  | some a =>
    let (preds, before) := s.chainOf a
    if a.st == .wait && (s.ctx a.ctx).st != .saved && s.sendable a preds (s.accsOf before) && !s.missHeld a then
      (match s.dualOf a.x a.ctx with
       | some (d, role) => .next (s.toCompare a d role)
       | none => .next (s.send a before useTlb))
    else .next s

/-- An entry of the primary's comparator commits (R371): the token goes to its destination, the access is sent; its
shadow's is discarded. None where the destination is full. -/
def State.commit (s : State) (x y : Site) (p q : DOut) : Option State :=
  match p.acc, q.acc with
  | some i, some j =>
    (match s.acc i with
     | none => some s
     | some a =>
       let s1 := (s.accSet i (fun a => { a with st := .wait, twin := some j })).accSet j (fun b => { b with st := .done })
       some (s1.send { a with st := .wait, twin := some j } (s.chainOf a).2 false))
  | _, _ =>
    let uidAt (z : Site) : Option Nat :=
      ((s.cell z).dir.find? (fun e => e.ctx == p.tok.ctx && !e.bind && e.tag == p.tok.tag && e.depth == p.tok.depth)).map (fun e => e.uid)
    if p.tok.isExit then
      some ((((s.psnDrop x [p.tok]).countExit x (uidAt x)).retire x (uidAt x)).countExit y (uidAt y) |>.retire y (uidAt y))
    else s.sendOne x p.node none p.tok

/-- Retained inputs whose instance is gone, or whose binding has cleared, are dropped once nothing of the primary waits to commit
(R371). -/
def State.unkeep (s : State) (die k : Nat) : State :=
  s.modDual die k (fun d =>
    let c := s.cell ⟨die, d.prim⟩
    let needed (t : Tok) : Bool :=
      if t.ma == .sticky || t.ma == .count then
        (match c.blkOf d.ctx t.node with | some b => (c.binding b (t.node - b.hdr - 1) t.port).isSome | none => false)
      else c.dir.any (fun e => e.ctx == d.ctx && !e.bind && e.tag == t.tag && e.depth == t.depth)
    if !d.outP.isEmpty || c.pipe.deps.any (fun e => e.ctx == d.ctx) then d else { d with kept := d.kept.filter needed })

/-- DUAL_COMPARE (R371): the oldest output of the primary whose twin has arrived commits if they agree; a mismatch holds
both. -/
def execDualCompare (die k : Nat) (s : State) : Host.Outcome State Fault Refusal :=
  match (s.die die).duals.find? (fun d => d.k == k) with
  | none => .next s
  | some d =>
    if d.held then .next s else
    match d.outP.find? (fun p => d.outS.any (fun q => q.twin p)) with
    | none => .next s
    | some p =>
      match d.outS.find? (fun q => q.twin p) with
      | none => .next s
      | some q =>
        if !p.agrees q then .next (s.modDual die k (fun d => { d with held := true }))
        else match s.commit ⟨die, d.prim⟩ ⟨die, d.shad⟩ p q with
          | none => .next s
          | some s1 =>
            let s2 := s1.modDual die k (fun d => { d with
              outP := ldrop (fun o => o == p) d.outP, outS := ldrop (fun o => o == q) d.outS
              outX := ldrop (fun o => o.twin p) d.outX })
            .next (s2.unkeep die k)

end Sys2Proof.Machine
end

