-- ==== Sys2Proof/Machine/Spatial.lean ====
section
/-! DEFINITION. Firing a stage of a SPATIAL cell (R168 to R171, R358, R359). -/
namespace Sys2Proof.Machine

/-- The operand at a port of a stage record: a bound token, a head of an input-buffer port, or a latched operand. -/
inductive Head where
  | bound (t : Tok) | ext (i : Nat) (t : Tok) | inner (t : Tok)
  deriving DecidableEq, Repr

/-- The token of a head. -/
def Head.tok : Head → Tok
  | .bound t => t
  | .ext _ t => t
  | .inner t => t

/-- A head that is matched (R170): not a binding's. -/
def Head.free : Head → Bool
  | .bound _ => false
  | _ => true

/-- The operand at port `p` of a stage record, if present: a marker is no operand, and a token that binds or purges is none; a
NULL or a STREAM_END is one whatever its match action (R170). DEDUCED (assumption 78). -/
def Cell.stageHead (c : Cell) (b : Blk) (pos p : Nat) : Option Head :=
  let node := b.hdr + 1 + pos
  if b.internal node p then (c.spat.inner.find? (fun e => e.1 == node && e.2.1 == p)).map (fun e => .inner e.2.2)
  else match c.spatBind node p with
    | some (t, _) => some (.bound t)
    | none =>
      let i := b.off pos p
      match (c.pipe.port i).head? with
      | some t => if [.marker, .purge, .binding].contains (arrivalOf (b.recAt pos).opc t) then none else some (.ext i t.matched)
      | none => none

/-- A cell after a firing has consumed one operand of a port (R170): a COUNT binding counts down. -/
def Cell.useHead (c : Cell) (node p : Nat) : Head → Cell
  | .ext i _ => c.popPort i
  | .inner _ => { c with spat := { c.spat with inner := ldrop (fun e => e.1 == node && e.2.1 == p) c.spat.inner } }
  | .bound t =>
    if t.ma != .count then c
    else
      let down (e : Nat × Nat × Tok × Nat) : Option (Nat × Nat × Tok × Nat) :=
        if e.1 = node ∧ e.2.1 = p then (if e.2.2.2 ≤ 1 then none else some (e.1, e.2.1, e.2.2.1, e.2.2.2 - 1)) else some e
      { c with spat := { c.spat with binds := c.spat.binds.filterMap down } }

/-- The ready entry that a stage's firing stands for. -/
def stageEnt (node : Nat) (now : Nat) (t : Tok) : RdyEnt :=
  { uid := none, node := node, ctx := t.ctx, level := t.pri, time := now, wait := 0, ord := 0, tag := t.tag, depth := t.depth,
    pri := t.pri, alone := none, pass := false }

/-- Access records of S2 (R358). -/
def isAccess (opc : Nat) : Bool := 0x200 ≤ opc && opc ≤ 0x27F

/-- Answers of a SPATIAL cell's accesses that are outstanding or waiting (R358). -/
def State.owedAnswers (s : State) (x : Site) : Nat :=
  (s.msys.accs.filter (fun a => a.x == x && !a.ans && !a.over)).length + (s.answersTo x).length

/-- A stage record whose operands are present and agree consumes them (R170): data fires its instruction next; NULL sends
NULL on every target; a STREAM_END goes on as one marker. -/
def State.stageFire (s : State) (x : Site) (b : Blk) (pos : Nat) (hs : List Head) (lead : Tok) : State :=
  let node := b.hdr + 1 + pos
  let ops := (List.range 4).map (fun p => (hs[p]?).map Head.tok)
  let f : Firing := ⟨x, stageEnt node s.cycle lead, b.hdr, pos, ops, true⟩
  let st := stageOf (b.recAt pos).opc
  let toks := hs.map Head.tok
  let s1 := (s.traceFire f (b.recAt pos).opc toks []).modCell x (fun c =>
    let c1 := hs.zipIdx.foldl (fun c q => c.useHead node q.2 q.1) c
    { c1 with spat := { c1.spat with busy := tput st (s.cycle + 1) c1.spat.busy } })
  let plain : Hdr := { fmt := .s4, arity := hs.length, ofl := oflOf (fld (b.recAt pos).w2.toNat 12 4), t0 := .none, t1 := .none }
  if (hs.filter Head.free).any (fun q => q.tok.flag .streamEnd) then
    s1.fire f { sends := (b.targets pos).map (fun g => .marker g (fwdTok f plain [lead] lead false)), ports := [], used := [lead] }
  else if toks.any (fun t => t.flag .null) then
    let t := (newTok f plain toks none .s4 false 0).setFlag .null true
    s1.fire f { sends := (b.targets pos).map (fun g => .tok g t), ports := [], used := toks }
  else
    let id := s1.msys.nextId
    let s2 := s1.modMem (fun m => { m with nextId := id + 1 })
    { s2 with parked := s2.parked ++ [Parked.mk id f (s2.ctx lead.ctx).tenant none none 0], agenda := .refire id :: s2.agenda }

/-- Heads that differ stop the context, and stay (R171). DEDUCED (assumption 78). -/
def State.streamSkew (s : State) (x : Site) (node stage : Nat) (a b : Tok) : State :=
  if (s.ctx a.ctx).trap.opens.any (fun o => o.code == .streamSkew) || s.latches.any (fun l => l.fr.code == .streamSkew && l.fr.ctx == a.ctx)
      || s.latched (siteUnit x) ≥ nLatches then s
  else
    let r := s.cellRec x a.ctx node a.tag a.depth .streamSkew (a.tag.toNat % 2 ^ 32 + b.tag.toNat % 2 ^ 32 * 2 ^ 32)
    s.takeFault (siteUnit x) ({ r with eng := stage }.by [a, b]) .none

/-- What a stage record does with operands that are all present (R170, R171). DEDUCED (assumption 78). -/
def State.stageTry (s : State) (x : Site) (b : Blk) (pos stage : Nat) (hs : List Head) : State :=
  let fr := (hs.filter Head.free).map Head.tok
  match fr with
  | [] => s
  | t :: _ =>
    match fr.find? (fun u => u.tag != t.tag || u.depth != t.depth || u.flag .streamEnd != t.flag .streamEnd) with
    | some u => s.streamSkew x (b.hdr + 1 + pos) stage t u
    | none =>
      if t.flag .streamEnd && fr.any (fun u => fld u.side.toNat 0 4 != fld t.side.toNat 0 4) then s
      else s.stageFire x b pos hs t

/-- SPATIAL_STAGE_FIRE (R170, R171, R358): a stage fires at most once a cycle, while its context runs, the latches it would
fill are free, and at most eight of its answers are outstanding. -/
def execSpatialStageFire (x : Site) (stage : Nat) (s : State) : Host.Outcome State Fault Refusal :=
  let c := s.cell x
  match c.blks.find? (fun b => b.spatial) with
  | none => .next s
  | some b =>
    match (List.range b.recs.length).find? (fun p => b.isNode p && stageOf (b.recAt p).opc = stage) with
    | none => .next s
    | some pos =>
      let r := b.recAt pos
      let ready := c.spat.on && b.present && (s.ctx b.ctx).st == .running && !s.halted x b.ctx && !s.sealedAt x
        && !c.frz.units.contains b.ctx && ((tget stage c.spat.busy).getD 0 ≤ s.cycle)
      let latches := (b.targets pos).all (fun g => match localPort g with
        | some (n, p) => !(b.internal n p && stage < stageOf (b.recAt (n - b.hdr - 1)).opc && c.latchedAt n p)
        | none => true)
      let room := !isAccess r.opc || s.owedAnswers x < 8
      let hs := (List.range r.arity).filterMap (c.stageHead b pos)
      -- a record that waits, or one of a blocked owner, freezes the pipeline (R352, R353), and so does one that would find no room
      let ten := (s.ctx b.ctx).tenant
      let held := (s.die x.die).loupe.waits x.res || s.traceBlocked ten
        || ((s.die x.die).loupe.held x.res ≥ unitRoom x.res && s.losesNone ten (b.events pos (hs.any (fun q => q.tok.flag .trace))))
      if !ready || !latches || !room || hs.length < r.arity || held then .next s
      else .next (s.stageTry x b pos stage hs)

end Sys2Proof.Machine
end

