-- ==== Sys2Proof/Machine/Networks.lean ====
section
/-! DEFINITION. The networks of a die (R177 to R188): route tokens at their trees' entries, packets on the mesh, and the
forwarding and flushing of moved residents (R218). -/
namespace Sys2Proof.Machine

/-- The pair of a position, as a rank; none where the position belongs to no pair. -/
def rankAt (p : Nat × Nat) : Option Nat :=
  let r := 2 * (p.2 / 2)
  if cellPos p.1 r then some (rankOf p.1 r) else if cellPos p.1 (r + 1) then some (rankOf p.1 (r + 1)) else none

/-- A route entry is VALID and has the key of a token (R179). -/
def RouteEnt.fits (e : RouteEnt) (t : Tok) : Bool :=
  fld e.w.w2.toNat 31 1 = 1 && fld e.w.w2.toNat 17 14 = t.ctx && fld e.w.w2.toNat 9 8 = (t.node * 4 + t.port) % 256
    && fld e.w.w1.toNat 19 13 = t.site

/-- OUT of a route entry (R179). -/
def RouteEnt.out (e : RouteEnt) : Nat := fld e.w.w1.toNat 7 12
/-- DLV of a route entry. -/
def RouteEnt.dlv (e : RouteEnt) : Bool := fld e.w.w1.toNat 6 1 = 1
/-- XD of a route entry. -/
def RouteEnt.xd (e : RouteEnt) : Bool := fld e.w.w1.toNat 5 1 = 1
/-- HNODE of a route entry. -/
def RouteEnt.hnode (e : RouteEnt) : Nat := fld e.w.w0.toNat 22 10
/-- HPORT of a route entry. -/
def RouteEnt.hport (e : RouteEnt) : Nat := fld e.w.w0.toNat 20 2
/-- XDIE of a route entry. -/
def RouteEnt.xdie (e : RouteEnt) : Nat := fld e.w.w0.toNat 18 2
/-- XSITE of a route entry. -/
def RouteEnt.xsite (e : RouteEnt) : Nat := fld e.w.w0.toNat 5 13

/-- Where a track of OUT's bit `k` ends, from a position (R175, R177): L1, L4 and L16 by fours of bits, in each W, S, E, N from
bit 0; a distance north or south is one of pair rows, each two rows of positions. None at the grid's edge. DEDUCED (assumption
80). -/
def trackEnd (p : Nat × Nat) (k : Nat) : Option (Nat × Nat) :=
  let len := if k < 4 then 1 else if k < 8 then 4 else 16
  match k % 4 with
  | 0 => if len ≤ p.1 then some (p.1 - len, p.2) else none
  | 1 => if p.2 + 2 * len < 72 then some (p.1, p.2 + 2 * len) else none
  | 2 => if p.1 + len < 128 then some (p.1 + len, p.2) else none
  | _ => if 2 * len ≤ p.2 then some (p.1, p.2 - 2 * len) else none

/-- Tracks of a class in each direction (R177), by OUT's bit. -/
def nTracks (k : Nat) : Nat := if k < 4 then 8 else if k < 8 then 4 else 2

/-- The number of a track of a switch box: OUT's bit and its number among the tracks of that class and direction. -/
def trackKey (p : Nat × Nat) (k i : Nat) : Nat := routerOf p * 128 + k * 8 + i

/-- A track from a position of OUT's bit `k` that can take a token now (R177, R178): it moves one beat a cycle, and the switch box
at its end buffers two beats of it. Which of several is taken shows nowhere. DESIGN CHOICE (assumption 19). -/
def Net.track (n : Net) (p q : Nat × Nat) (k now beats : Nat) : Option Nat :=
  (List.range (nTracks k)).find? (fun i =>
    let held := (n.tracks.filter (fun t => t.trk == k * 8 + i && t.col == q.1 && t.row == q.2)).map (fun t => (Body.tok t.tok).beats + 1)
    (tget (trackKey p k i) n.tfree).getD 0 ≤ now && (held.isEmpty || held.foldl (· + ·) beats ≤ 2))

/-- The copies of a route token on the tracks that its entry sets (R180), one track of each class and direction: none where one of
them cannot take it. A bit toward the grid's edge names no track. -/
def trackCopies (n : Net) (e : RouteEnt) (p : Nat × Nat) (now : Nat) (t : Tok) : Option (List (Nat × TrackTok)) :=
  let one (k : Nat) : Option (List (Nat × TrackTok)) :=
    match trackEnd p k with
    | none => some []
    | some q => (n.track p q k now ((Body.tok t).beats + 1)).map (fun i => [(trackKey p k i, ⟨k * 8 + i, q.1, q.2, now + 2, t⟩)])
  let l := ((List.range 12).filter (fun k => fld e.out k 1 = 1)).map one
  if l.any Option.isNone then none else some (l.filterMap id).flatten

/-- A switch box with copies of a token on its way on their tracks. -/
def Net.send (n : Net) (now beats : Nat) (l : List (Nat × TrackTok)) : Net :=
  { n with tracks := n.tracks ++ l.map (fun e => e.2), tfree := l.foldl (fun m e => tput e.1 (now + beats) m) n.tfree }

/-- The unit number of a switch box's fault latches (R363). -/
def routerUnit (die : Nat) (p : Nat × Nat) : Nat := 2 ^ 20 + die * 16384 + routerOf p

/-- The partner of a resident's last swap (R218). -/
def HerdSt.partner (h : HerdSt) : Option Nat := h.swaps.head?.map (fun p => p.2)

/-- A token for a resident stands at a pair that does not hold it (R218): the exchange link of the pair's last exchange takes
it if it leads there, else the mesh; `col`, `row` are the cell position. -/
def State.forward (s : State) (die : Nat) (p : Nat × Nat) (cls res : Nat) (t : Tok) : State :=
  let here := (rankAt p).map (s.residentAt die)
  let link := match here with | some r => (s.cell ⟨die, r⟩).herd.partner == some res | none => false
  if link then
    let q := s.pos ⟨die, res⟩
    s.modDie die (fun d => { d with net := { d.net with
      mesh := d.net.mesh ++ [⟨cls, q.1, q.2, die, q.1, q.2, res, routerOf p, false, s.cycle + 1, .tok t, none⟩] } })
  else s.netSend die p cls die res (.tok t)

/-- The next router of a packet (R182, R399): along the row, then along the column; none at its destination. DESIGN
CHOICE (assumption 19). -/
def Packet.hop (p : Packet) (die : Nat) : Option (Nat × Nat × Nat) :=
  let tc := if p.ddie = die then p.dcol else linkCol die p.ddie
  let toward (a b : Nat) : Nat := if a < b then a + 1 else a - 1
  if p.col ≠ tc then some (die, toward p.col tc, p.row)
  else if p.ddie ≠ die then some (p.ddie, tc, p.drow)
  else if p.row ≠ p.drow then some (die, p.col, toward p.row p.drow)
  else none

/-- The packet is marked FL and the flush of its source has not arrived on both classes (R218). DESIGN CHOICE
(assumption 79). -/
def State.flHeld (s : State) (p : Packet) : Bool :=
  p.fl && (s.cell ⟨p.ddie, p.res⟩).herd.fl.any (fun b => b.1 == p.src && b.2 != 0)

/-- An earlier packet of the same class at the same router, on the way to the same place, goes first (R183). -/
def State.packetBlocked (s : State) (die : Nat) (p : Packet) (before : List Packet) : Bool :=
  before.any (fun e => e.cls == p.cls && e.col == p.col && e.row == p.row && e.hop die == p.hop die
    && !((e.hop die).isNone && s.flHeld e))

/-- The port of the input buffer that takes a class (R184). -/
def classPort (cls : Nat) : Nat := if cls = 0 then 0 else if cls = 1 then 1 else 2

/-- What a packet brings can be written into its cell's input buffer (R186). -/
def State.fits (s : State) (x : Site) (cls : Nat) (body : Body) : Bool :=
  match body with
  | .tok t => (s.deliver x (classPort cls) t).isSome
  | .ans _ _ => (s.cell x).pipe.used 1 < portRoom && !s.swapping x
  | _ => false

/-- A packet of a class stands at a pair's router, and its cell could take it (R184). -/
def State.portOffers (s : State) (x : Site) (cls : Nat) : Bool :=
  let at_ := s.pos x
  let l := (s.die x.die).net.mesh
  l.zipIdx.any (fun e =>
    let p := e.1
    p.cls == cls && p.res == x.res && p.ddie == x.die && p.due ≤ s.cycle && (p.hop x.die).isNone && (p.col, p.row) == at_
      && !s.flHeld p && s.fits x cls p.body && !s.packetBlocked x.die p (l.take e.2))

/-- The token that a track brings to a switch box next: none of its own route stands there before it (R183). -/
def Net.head (n : Net) (p : Nat × Nat) (trk : Nat) : Option TrackTok :=
  let here := n.tracks.filter (fun t => (t.col, t.row) == p)
  match here.find? (fun t => t.trk == trk) with
  | none => none
  | some t =>
    match here.find? (fun u => u.tok.ctx == t.tok.ctx && u.tok.site == t.tok.site && u.tok.node == t.tok.node && u.tok.port == t.tok.port) with
    | some u => if u = t then some t else none
    | none => none

/-- A track delivery stands at a pair's switch box, and its cell could take it (R184). -/
def State.trackOffers (s : State) (x : Site) : Bool :=
  let n := (s.die x.die).net
  let takes (k : TrackTok) (e : RouteEnt) : Bool :=
    (e.col, e.row) == (k.col, k.row) && e.fits k.tok && e.dlv && !e.bad && (trackCopies n e (k.col, k.row) s.cycle k.tok).isSome
      && (s.deliver x 3 { k.tok with kind := 0, die := x.die, site := x.res, node := e.hnode, port := e.hport }).isSome
  n.tracks.any (fun k => k.due ≤ s.cycle && rankAt (k.col, k.row) == some (s.pairOf x) && n.head (k.col, k.row) k.trk == some k
    && n.routes.any (takes k))

/-- The router port of a pair may write a token of a class now (R8, R184): it writes one a cycle, CTRL before MEMRSP before TOKEN and
track deliveries (4), these two in turn. -/
def State.portTurn (s : State) (x : Site) (cls : Nat) : Bool :=
  let p := (s.cell x).pipe
  p.rport ≤ s.cycle && (cls = 0 || !s.portOffers x 0) && (cls ≤ 1 || !s.portOffers x 1)
    && (cls ≠ 3 || !p.rturn || !s.trackOffers x) && (cls ≠ 4 || p.rturn || !s.portOffers x 3)

/-- The router port of a pair has written a token of a class in this cycle. -/
def State.portUsed (s : State) (x : Site) (cls : Nat) : State :=
  s.modCell x (fun c => { c with pipe := { c.pipe with
    rport := s.cycle + 1, rturn := if cls = 3 then true else if cls = 4 then false else c.pipe.rturn } })

/-- A route delivery (R180, R211, R218): a copy for the resident whose number is the rank of the position. None: it has no
room, or not the turn. -/
def State.routeDeliver (s : State) (die : Nat) (p : Nat × Nat) (e : RouteEnt) (t : Tok) : Option State :=
  match rankAt p with
  | none => some s
  | some k =>
    let x : Site := ⟨die, k⟩
    let u := { t with kind := 0, die := die, site := k, node := e.hnode, port := e.hport }
    if s.pairOf x = k then
      (if !s.portTurn x 4 then none else (s.deliver x 3 u).map (fun s1 => (s1.portUsed x 4).traffic x t.site))
    else some ((s.forward die (posOf k) 3 k u).traffic x t.site)

/-- A route token meets its entry (R180): its copies go on, one is delivered, one goes to another die; none before all of them
can. DESIGN CHOICE (assumption 19). -/
def State.routeStep (s : State) (die : Nat) (p : Nat × Nat) (e : RouteEnt) (t : Tok) : Option State :=
  match trackCopies (s.die die).net e p s.cycle t with
  | none => none
  | some l =>
    let s1 := s.modDie die (fun d => { d with net := d.net.send s.cycle ((Body.tok t).beats + 1) l })
    let s2 := if e.xd then
        s1.sendTok die p 3 { t with kind := 1, die := e.xdie, site := e.xsite, node := e.hnode, port := e.hport }
      else s1
    if e.dlv then s2.routeDeliver die p e t else some s2

/-- A route token that finds no entry is placed in a fault record (R181). -/
def State.routeMiss (s : State) (die : Nat) (p : Nat × Nat) (t : Tok) : Option State :=
  let u := routerUnit die p
  if s.latched u ≥ nLatches then none
  else
    let r : FRec := { node := 0x3FF, src := 0, code := .routeMiss, die := die, col := p.1, row := p.2, ctx := t.ctx, tag := t.tag,
                      depth := t.depth, psn := t.flag .poison, after := t.sent }
    some (s.takeFault u r .none)

/-- A route token at the end of a segment: discarded where its context is gone, held at an entry an error has invalidated. -/
def State.routeAt (s : State) (die : Nat) (p : Nat × Nat) (t : Tok) : Option State :=
  if s.gone t.ctx then some s
  else match (s.die die).net.routes.find? (fun e => (e.col, e.row) == p && e.fits t) with
    | none => s.routeMiss die p t
    | some e => if e.bad then none else s.routeStep die p e t

/-- TRACK_ROUTE_ENTRY (R178, R180, R181): the token that a track brings goes on, if all it needs is free. Which incoming track has
the grant is a free choice, so every round-robin order is among those allowed. `row` is the row + 128 × the track (an OUT bit × 8 + a
number, 96 the pair's own tokens, 97 those from the mesh). DESIGN CHOICE (assumption 19). -/
def execTrackRouteEntry (die col row : Nat) (s : State) : Host.Outcome State Fault Refusal :=
  let p := (col, row % 128)
  match (s.die die).net.head p (row / 128) with
  | none => .next s
  | some t =>
    if t.due > s.cycle then .next s
    else match (s.modDie die (fun d => { d with net := { d.net with tracks := ldrop (fun u => u == t) d.net.tracks } })).routeAt die p t.tok with
      | some s1 => .next s1
      | none => .next s

/-- An earlier route token of the same resident is still on the mesh (R181, R183). -/
def routeBehind (before : List Packet) (t : Tok) : Bool :=
  t.kind == 2 && before.any (fun e => match e.body with | .tok u => u.kind == 2 && u.site == t.site && u.ctx == t.ctx | _ => false)

/-- The block number under which a packet held beyond the hold buffer stands in its context's spill ring (R218). -/
def heldHdr : Nat := 4096

/-- The 65th packet held at a pair, and each after it, moves to its context's spill area (R218); one that cannot be written there
stays at the router, since holding never back-pressures the mesh. DESIGN CHOICE (assumption 79). -/
def State.holdBeyond (s : State) (die k : Nat) (p : Packet) : State :=
  let here := (s.die die).net.mesh.filter (fun e => e.res == p.res && (e.hop die).isNone && s.flHeld e && e.spilt.isNone)
  match p.body with
  | .tok t =>
    if here.length ≤ 64 then s
    else match s.putSpill ⟨die, p.res⟩ heldHdr t false with
      | .done s1 =>
        (s1.modDie die (fun d => { d with net := { d.net with
          mesh := d.net.mesh.set k { p with spilt := (s1.ctx t.ctx).spill.toks.getLast?.map (fun e => e.ring) } } })).modCell ⟨die, p.res⟩
          (fun c => c.count (fun n => { n with spills := satAdd 48 n.spills 1 }))
      | .wait s1 => s1
      | _ => s
  | _ => s

/-- A packet that has left a pair's router leaves the spill area too, if it stood there (R218). -/
def State.unheldPacket (s : State) (die : Nat) (p : Packet) : State :=
  match p.spilt, p.body with
  | some ring, .tok t =>
    (s.unspill t.ctx ring).modCell ⟨die, p.res⟩ (fun c => c.count (fun n => { n with refills := satAdd 48 n.refills 1 }))
  | _, _ => s

/-- A packet moves to the next router; from die to die it enters the other die's mesh. -/
def State.movePacket (s : State) (die k : Nat) (p : Packet) (q : Nat × Nat × Nat) : State :=
  let without (l : List Packet) : List Packet := l.take k ++ l.drop (k + 1)
  if q.1 = die then
    let p1 := { p with col := q.2.1, row := q.2.2, due := s.cycle + 1 }
    let s1 := s.modDie die (fun d => { d with net := { d.net with mesh := d.net.mesh.set k p1 } })
    if (p1.hop die).isNone && s.flHeld p1 then s1.holdBeyond die k p1 else s1
  else
    let s1 := s.modDie die (fun d => { d with net := { d.net with mesh := without d.net.mesh } })
    s1.modDie q.1 (fun d => { d with net := { d.net with
      mesh := d.net.mesh ++ [{ p with col := q.2.1, row := q.2.2, due := s.cycle + 30 }] } })

/-- A token or an answer that has reached its resident's pair enters the cell's input buffer by the router port (R8, R184, R186); a
route token enters the switch box. None: no room, or not the turn. -/
def State.packetIn (s : State) (die : Nat) (p : Packet) : Option State :=
  let x : Site := ⟨die, p.res⟩
  match p.body with
  | .tok t =>
    if t.kind = 2 then s.toTracks die (p.col, p.row) 97 t
    else if !s.portTurn x p.cls then none
    else (s.deliver x (classPort p.cls) t).map (fun s1 => s1.portUsed x p.cls)
  | .ans _ d =>
    if !s.portTurn x 1 || !s.fits x 1 p.body then none
    else some ((s.modCell x (fun c => { c with pipe := { c.pipe with ans := c.pipe.ans ++ [{ d with due := s.cycle }] } })).portUsed x 1)
  | _ => none

/-- A token whose SITE names no resident of the die (R67). -/
def Packet.lost (p : Packet) : Bool := p.res ≥ nResidents

/-- MESH_PACKET_HOP (R182): packet `k` of a die's mesh moves one router on, or enters the cell it is for. -/
def execMeshPacketHop (die k : Nat) (s : State) : Host.Outcome State Fault Refusal :=
  let l := (s.die die).net.mesh
  match l[k]? with
  | none => .next s
  | some p =>
    if p.due > s.cycle || s.packetBlocked die p (l.take k) then .next s
    else
      let gone (s : State) : State := s.modDie die (fun d => { d with net := { d.net with mesh := d.net.mesh.take k ++ d.net.mesh.drop (k + 1) } })
      match p.body, p.lost with
      | .tok t, true =>
        let u := routerUnit die (p.col, p.row)
        if s.latched u ≥ nLatches then .next s
        else
          let r : FRec := { node := t.node, src := 0, code := .destInvalid, die := die, col := p.col, row := p.row, ctx := t.ctx,
                            tag := t.tag, depth := t.depth, psn := t.flag .poison, after := t.sent }
          .next ((gone s).takeFault u r .none)
      | body, _ =>
        match p.hop die with
        | some q => .next (s.movePacket die k p q)
        | none =>
          let route : Bool := match body with | .tok t => t.kind == 2 | _ => false
          let behind : Bool := match body with | .tok t => routeBehind (l.take k) t | _ => false
          if behind || (!route && (s.pos ⟨die, p.res⟩ != (p.col, p.row) || s.flHeld p)) then .next s
          else match (gone s).packetIn die p with
            | some s1 => .next (s1.unheldPacket die p)
            | none => .next s

/-- TOKEN_FORWARD (R218): packet `k` has reached a pair that no longer holds its resident. -/
def execTokenForward (die k : Nat) (s : State) : Host.Outcome State Fault Refusal :=
  let l := (s.die die).net.mesh
  match l[k]? with
  | none => .next s
  | some p =>
    let moves : Bool := match p.body with | .tok t => t.kind ≠ 2 | .ans _ _ => true | _ => false
    if !moves then .next s
    else
      if p.due > s.cycle || p.lost || (p.hop die).isSome || s.pos ⟨die, p.res⟩ = (p.col, p.row)
          || s.packetBlocked die p (l.take k)
          || (match rankAt (p.col, p.row) with | some r => s.swapping ⟨die, s.residentAt die r⟩ | none => false) then .next s
      else
        let s1 := s.modDie die (fun d => { d with net := { d.net with mesh := d.net.mesh.take k ++ d.net.mesh.drop (k + 1) } })
        let here := (rankAt (p.col, p.row)).map (s.residentAt die)
        let link := match here with | some r => (s.cell ⟨die, r⟩).herd.partner == some p.res | none => false
        if link then
          let q := s.pos ⟨die, p.res⟩
          .next (s1.modDie die (fun d => { d with net := { d.net with
            mesh := d.net.mesh ++ [{ p with col := q.1, row := q.2, dcol := q.1, drow := q.2, due := s.cycle + 1 }] } }))
        else .next (s1.netSend die (p.col, p.row) p.cls die p.res p.body)

/-- A flush beat of a source has arrived at a moved resident on one class (R218); with the last, its router marks FL no
more. -/
def State.flushed (s : State) (die src res cls : Nat) : State :=
  let x : Site := ⟨die, res⟩
  let s1 := s.modCell x (fun c => { c with herd := { c.herd with fl := ldrop (fun b => b == (src, cls)) c.herd.fl } })
  if (s1.cell x).herd.fl.any (fun b => b.1 == src) then s1
  else s1.modDie die (fun d => { d with net := { d.net with fls := d.net.fls.filter (fun b => b != (src, res)) } })

/-- FLUSH_ARRIVAL (R218): packet `k`, a flush beat, goes from the old pair over the exchange link, behind what that pair has
forwarded from its source, and at the new pair releases what was held. -/
def execFlushArrival (die k : Nat) (s : State) : Host.Outcome State Fault Refusal :=
  let l := (s.die die).net.mesh
  match l[k]? with
  | none => .next s
  | some p =>
    match p.body with
    | .flush src res =>
      if p.due > s.cycle || (p.hop die).isSome
          || (l.take k).any (fun e => e.cls == p.cls && e.res == res && e.src == src && (e.hop die).isNone && !e.fl
                && e.col == p.col && e.row == p.row) then .next s
      else
        let s1 := s.modDie die (fun d => { d with net := { d.net with mesh := d.net.mesh.take k ++ d.net.mesh.drop (k + 1) } })
        let q := s.pos ⟨die, res⟩
        if q = (p.col, p.row) then .next (s1.flushed die src res p.cls)
        else .next (s1.modDie die (fun d => { d with net := { d.net with
          mesh := d.net.mesh ++ [{ p with col := q.1, row := q.2, dcol := q.1, drow := q.2, due := s.cycle + 1 }] } }))
    | _ => .next s

/-- A token on its way to a port of a resident's input buffer (R187): on the mesh in the port's class, or on a track whose entry at
the pair delivers it. -/
def State.inFlight (s : State) (x : Site) (i : Nat) : Bool :=
  let n := (s.die x.die).net
  if i < 3 then n.mesh.any (fun p => p.ddie == x.die && p.res == x.res && classPort p.cls == i)
  else n.tracks.any (fun t => rankAt (t.col, t.row) == some (s.pairOf x)
    && n.routes.any (fun e => (e.col, e.row) == (t.col, t.row) && e.fits t.tok && e.dlv))

end Sys2Proof.Machine
end

