-- ==== Sys2Proof/Machine/Herd.lean ====
section
/-! DEFINITION. Herd placement (R211 to R222): swap instants, the advance of the map version, and pins. -/
namespace Sys2Proof.Machine

/-- The rank of the pair at column `c` of pair row `h`, by its cell position (R174). -/
def pairRank (c h : Nat) : Option Nat := rankAt (c, 2 * h + (c + h) % 2)

/-- The pairs of pair row `h`, west to east, as ranks: they skip slice columns and island holes (R214). -/
def rowPairs (h : Nat) : List Nat := (List.range 128).filterMap (fun c => pairRank c h)

/-- The pairs of a column, north to south, as ranks (R214). -/
def colPairs (c : Nat) : List Nat := (List.range 36).filterMap (pairRank c)

/-- A list taken two by two. -/
def couplesOf : List Nat → List (Nat × Nat)
  | a :: b :: t => (a, b) :: couplesOf t
  | _ => []

/-- The candidate couples of a phase, as ranks (R214 Table 2). -/
def candidates (phase : Nat) : List (Nat × Nat) :=
  let lines := if phase < 2 then (List.range 36).map rowPairs else (List.range 128).map colPairs
  (lines.map (fun l => couplesOf (l.drop (phase % 2)))).flatten

/-- The pair position of a resident's counterpart, for the distance of R175. -/
def State.costOne (s : State) (die : Nat) (from_ to_ : Nat × Nat) (skip : Nat) (l : List (Option (Nat × Nat))) : Int :=
  l.foldl (fun a e => match e with
    | some (peer, n) =>
      if peer = skip then a
      else
        let q := s.pos ⟨die, peer⟩
        a + (n : Int) * ((pairDist to_ q : Int) - (pairDist from_ q : Int))
    | none => a) 0

/-- The cost change of exchanging two residents (R213). -/
def State.costChange (s : State) (die a b : Nat) : Int :=
  let p := s.pos ⟨die, a⟩
  let q := s.pos ⟨die, b⟩
  s.costOne die p q b (s.cell ⟨die, a⟩).herd.traf + s.costOne die q p a (s.cell ⟨die, b⟩).herd.traf

/-- The residents that are units of a context (R374): those that hold its blocks. -/
def State.unitsOf (s : State) (ctx : Nat) : List Nat :=
  (s.cells.filter (fun e => e.1 / 8192 == ctxDie ctx && e.2.blks.any (fun b => b.ctx == ctx))).map (fun e => e.1 % 8192)

/-- The site of a unit. -/
def unitSite (ctx res : Nat) : Site := ⟨ctxDie ctx, res⟩

/-- The channel of a mesh class from a site (R374). -/
def chanMesh (res cls : Nat) : Nat := res * 8 + cls
/-- The channel of a route class whose tree starts at a site. -/
def chanRoute (res route : Nat) : Nat := 2 ^ 18 + res * 256 + route
/-- Noted of a unit that has sent its markers. -/
def chanSent : Nat := 2 ^ 21

/-- The channel of the launch engine at a unit (R374). -/
def chanLaunch : Nat := 2 ^ 17

/-- The position of a source word (R158). -/
def sourcePos (w : W32) : Nat × Nat := (fld w.toNat 23 7, fld w.toNat 16 7)

/-- The routes of a context: source resident and index, of entries that satisfy `p`. -/
def State.routesOf (s : State) (ctx : Nat) (p : RouteEnt → Bool) : List (Nat × Nat) :=
  (((s.die (ctxDie ctx)).net.routes.filter (fun e => fld e.w.w2.toNat 17 14 = ctx && p e)).map
    (fun e => (fld e.w.w1.toNat 19 13, fld e.w.w2.toNat 9 8))).eraseDups

/-- The input channels of a unit that carry markers (R374): each mesh class from every other site, each route class that delivers
there, and the launch engine where a source names it. -/
def State.channels (s : State) (ctx res : Nat) : List Nat :=
  let others := (s.unitsOf ctx).filter (fun r => r != res)
  let mesh := (others.map (fun r => [chanMesh r 0, chanMesh r 1, chanMesh r 3])).flatten
  let here := s.routesOf ctx (fun e => e.dlv && rankAt (e.col, e.row) == some res)
  let named := (s.ctx ctx).srcs.any (fun w => let p := sourcePos w; s.residentAt (ctxDie ctx) (rankOf p.1 p.2) == res)
  mesh ++ here.map (fun r => chanRoute r.1 r.2) ++ (if named then [chanLaunch] else [])

/-- Contexts with blocks at a site. -/
def Cell.ctxs (c : Cell) : List Nat := (c.blks.map (fun b => b.ctx)).eraseDups

/-- A resident that may be exchanged at this instant, by itself (R215, R219). DESIGN CHOICE (assumption 79). -/
def State.movable (s : State) (die r inst : Nat) : Bool :=
  let x : Site := ⟨die, r⟩
  let c := s.cell x
  let h := (s.die die).herd
  !c.blks.isEmpty && !c.spat.on && c.herd.since + h.minage ≤ inst
    && !c.herd.pins.any (fun p => p.count > 0 && p.left)
    && !(s.die die).tab.retired.contains (s.pairOf x)
    && !s.latches.any (fun l => l.unit == siteUnit x) && !s.parked.any (fun p => p.f.x == x && s.owesAnswer p.f.ent.ctx p.id)
    && !s.msys.accs.any (fun a => a.x == x && a.st == .parked) && !s.msys.reqs.any (fun q => q.x == x && q.st == .parked)
    && !c.frz.stop && !c.ctxs.any (fun k => (s.ctx k).st == .stopped)
    && c.frz.units.all (fun k => (s.ctx k).st == .saved || (s.channels k r).all (fun m => c.frz.marked.contains (k, m)))
    && !(s.die die).duals.any (fun d => d.prim == r || d.shad == r || d.spare == some r)
    && c.score.isEmpty && !(s.die die).recfgs.any (fun g => g.todo.any (fun t => t.1 == r))
    && (match c.herd.swaps.head? with | some (t, _) => t + h.cool ≤ inst | none => true)

/-- The threshold of a resident (R216). -/
def State.threshold (s : State) (die r inst : Nat) : Nat :=
  let m := ((s.cell ⟨die, r⟩).herd.swaps.filter (fun p => p.1 < inst && inst ≤ p.1 + 16)).length
  (s.die die).herd.gain * 2 ^ Nat.min 8 m

/-- A couple that swaps at this instant (R215, R216), with its cost change. -/
def State.swapping? (s : State) (die inst : Nat) (ranks : Nat × Nat) : Option Couple :=
  let a := s.residentAt die ranks.1
  let b := s.residentAt die ranks.2
  let again := (s.cell ⟨die, a⟩).herd.swaps.any (fun p => p.2 == b && inst < p.1 + 4 * (s.die die).herd.cool)
  if !s.movable die a inst || !s.movable die b inst || again then none
  else
    let d := s.costChange die a b
    if d ≤ -((Nat.max (s.threshold die a inst) (s.threshold die b inst) : Nat) : Int) then
      some ⟨a, b, d, posOf ranks.1, posOf ranks.2⟩
    else none

/-- Every traffic count of a die halved (R212). -/
def halve (l : List (Option (Nat × Nat))) : List (Option (Nat × Nat)) :=
  l.map (fun e => match e with
    | some (p, n) => if n / 2 = 0 then none else some (p, n / 2)
    | none => none)

/-- The resident map with a resident at a pair. -/
def State.setPair (s : State) (x : Site) (k : Nat) : State :=
  s.modDie x.die (fun d => { d with moved := if k = x.res then tdel x.res d.moved else tput x.res k d.moved })

/-- The parts of a cell's state that belong to the pair and not to its resident: what R217's list leaves out, which is the counters
(R24), the memory-node ports (R231), the channel counters (R393) and the clock gate (R414). -/
def Cell.ofPair (c own : Cell) : Cell :=
  { c with ctr := own.ctr, nodeq := own.nodeq, frz := { c.frz with gated := own.frz.gated, lastTok := own.frz.lastTok } }

/-- Two residents exchange their pairs (R217). The state of a resident is held under its number, so the map changes, and what
belongs to the pairs stays with them: requests at a port are those of the pair's new resident. DESIGN CHOICE (assumption 79). -/
def State.exchange (s : State) (die a b : Nat) : State :=
  let xa : Site := ⟨die, a⟩
  let xb : Site := ⟨die, b⟩
  let pa := s.pairOf xa
  let pb := s.pairOf xb
  let ca := s.cell xa
  let cb := s.cell xb
  let chan (e : Nat × (Nat × Nat × Nat)) : Nat × (Nat × Nat × Nat) :=
    if e.1 / 8 = a then (b * 8 + e.1 % 8, e.2) else if e.1 / 8 = b then (a * 8 + e.1 % 8, e.2) else e
  let s0 := s.modDie die (fun d => { d with chans := d.chans.foldl (fun t e => tput (chan e).1 (chan e).2 t) [] })
  let s1 := ((s0.setPair xa pb).setPair xb pa).setCell xa (ca.ofPair cb)
  (s1.setCell xb (cb.ofPair ca)).modMem (fun m => { m with reqs := m.reqs.map (fun q =>
    if q.st = .parked then q else if q.x = xa then { q with x := xb } else if q.x = xb then { q with x := xa } else q) })

/-- An exchange of a couple begins (R217), and the residents remember it. -/
def State.beginSwap (s : State) (die inst : Nat) (c : Couple) : State :=
  let note (s : State) (r other : Nat) : State :=
    s.modCell ⟨die, r⟩ (fun e => { e with herd := { e.herd with since := inst, swaps := (inst, other) :: e.herd.swaps } })
  note (note (s.exchange die c.a c.b) c.a c.b) c.b c.a

/-- A flush of the current map version is under way on a die, or one of its routers has still to send one (R218). -/
def Die.flushing (d : Die) : Bool :=
  !d.net.fls.isEmpty || d.net.sent.any (fun e => !d.net.inst.contains e.1 && d.net.prev.any (fun q => q.1 == e.2))

/-- The routers' maps are of the version before an exchange, until they install the next one (R218). -/
def Net.moves (n : Net) (cs : List Couple) : Net :=
  { n with prev := (cs.map (fun c => [(c.a, c.posA), (c.b, c.posB)])).flatten, inst := [] }

/-- SWAP_INSTANT (R212 to R218): each HERD.PERIOD of Loupe microseconds, every couple of the phase that passes is exchanged,
in `exLen` cycles of at most 900; then every count is halved. While a flush of this version is undelivered, while EN is 0,
and while the die unit's trace queue holds it (R352), none is. From the exchange on, the routers' maps are of the version before. -/
def execSwapInstant (die exLen : Nat) (s : State) : Host.Outcome State Fault Refusal :=
  let d := s.die die
  let h := d.herd
  if d.loupe.time < h.nextAt || !h.busy.isEmpty || !d.power.on then .next s
  else
    let inst := h.inst
    let skip := d.flushing
    -- the records of the swaps would find the die unit's queue full, and a tenant loses none
    let held := d.loupe.waits unitDie || (d.loupe.held unitDie ≥ unitRoom unitDie && s.tens.any (fun t => (s.ten t.1).lossless && s.traced t.1 0x60))
    let cs := if skip || held || !h.en then [] else (candidates (inst % 4)).filterMap (s.swapping? die inst)
    let s1 := cs.foldl (fun t c => t.beginSwap die inst c) s
    let halved (p : Nat × Cell) : Nat × Cell :=
      if p.1 / 8192 = die then (p.1, { p.2 with herd := { p.2.herd with traf := halve p.2.herd.traf } }) else p
    let s2 := { s1 with cells := s1.cells.map halved }
    .next (s2.modDie die (fun d => { d with net := if cs.isEmpty then d.net else d.net.moves cs, herd := { d.herd with
      inst := inst + 1, nextAt := h.nextAt + 4000 * h.period, busy := cs, done := s.cycle + Nat.min 900 exLen
      len := Nat.min 900 exLen, phase := inst % 4, skips := if skip then satAdd 48 h.skips 1 else h.skips } }))

/-- The HERD_SWAP records of a couple (R222): one for every tenant with blocks on either resident. -/
def State.traceSwap (s : State) (die : Nat) (ver : Nat) (c : Couple) : State :=
  let h := (s.die die).herd
  let cell := s.cell ⟨die, c.a⟩
  let tenants := ((cell.ctxs ++ (s.cell ⟨die, c.b⟩).ctxs).map (fun k => (s.ctx k).tenant)).eraseDups
  let ev (t : Nat) : Event :=
    { code := 0x60, tenant := t, arg := Nat.min 0xFFFF h.len, data := (BitVec.ofInt 32 c.cost).toNat, xt := true,
      col := c.posA.1, row := c.posA.2, cgen := cell.cgen
      ext := some (c.a + c.b * 2 ^ 13 + h.phase * 2 ^ 26, ver, c.posB.1 * 2 ^ 25 + c.posB.2 * 2 ^ 18) }
  tenants.foldl (fun u t => u.trace die unitDie (ev t)) s

/-- A router that has sent to a moved resident sends its flush (R218): a CTRL packet and a beat on MEMRSP and on TOKEN, to the
resident's old position. -/
def State.sendFlush (s : State) (die r res : Nat) (old : Nat × Nat) : State :=
  let p := (r % 128, r / 128)
  let pk (cls : Nat) : Packet := ⟨cls, p.1, p.2, die, old.1, old.2, res, r, false, s.cycle + 4, .flush r res, none⟩
  let s1 := s.modDie die (fun d => { d with net := { d.net with
    mesh := d.net.mesh ++ [pk 0, pk 1, pk 3], fls := (r, res) :: d.net.fls } })
  s1.modCell ⟨die, res⟩ (fun c => { c with herd := { c.herd with fl := c.herd.fl ++ [(r, 0), (r, 1), (r, 3)] } })

/-- A router installs the new map version (R218): it flushes every moved resident that it has sent to since it last installed
one, and its sent set is empty. -/
def State.installMap (s : State) (die r : Nat) : State :=
  let n := (s.die die).net
  let moved := n.prev.filter (fun e => n.sent.contains (r, e.1))
  let s1 := moved.foldl (fun t e => t.sendFlush die r e.1 e.2) s
  s1.modDie die (fun d => { d with net := { d.net with inst := r :: d.net.inst, sent := d.net.sent.filter (fun e => e.1 != r) } })

/-- MAP_VERSION_ADVANCE (R218, R222): once every exchange of the instant is complete, the version advances; then each router, when the
new entries reach it on the CTRL class, installs it. `k` is the die, + 4 × (the router's number + 1) where a router installs. DESIGN
CHOICE (assumption 79). -/
def execMapVersionAdvance (k : Nat) (s : State) : Host.Outcome State Fault Refusal :=
  let die := k % 4
  let h := (s.die die).herd
  if k ≥ 4 then
    (if !h.busy.isEmpty || (s.die die).net.prev.isEmpty || (s.die die).net.inst.contains (k / 4 - 1) then .next s
     else .next (s.installMap die (k / 4 - 1)))
  else if h.busy.isEmpty || s.cycle < h.done then .next s
  else
    let ver := (h.mapver + 1) % 2 ^ 32
    let s1 := h.busy.foldl (fun t c => t.traceSwap die ver c) s
    .next (s1.modDie die (fun d => { d with
      herd := { d.herd with mapver := ver, swaps := satAdd 48 d.herd.swaps h.busy.length, busy := [] } }))

/-- A pin instruction sends A on (R220). -/
def pinOut (f : Firing) (h : Hdr) : Out :=
  { sends := both h (fwdTok f h (usedBy f h) (f.op 0) false), ports := portsOf h, used := usedBy f h }

/-- The pins of a resident. -/
def Cell.setPins (c : Cell) (l : List Pin) : Cell := { c with herd := { c.herd with pins := l } }

/-- A pin's firing on its way out of S6, with or without tokens: the pin counts once it has left (R219). -/
def State.departPin (s : State) (f : Firing) (toks : List Tok) : State :=
  if !toks.isEmpty then s.depart f 1 toks
  else s.modCell f.x (fun c => { c with pipe := { c.pipe with
    deps := c.pipe.deps ++ [⟨f.ent.ctx, f.ent.uid, f.ent.node, s.cycle + 6, f.ent.ord, 0, false, []⟩] } })

/-- HPIN (R220): the pin counts once its firing has left S6 (R219). -/
def execHpin (h : Hdr) (s : State) : Host.Outcome State Fault Refusal :=
  s.firing (fun s f =>
    let pins := (s.cell f.x).herd.pins
    match pins.find? (fun p => p.ctx == f.ent.ctx) with
    | some p =>
      if p.count = 65535 then s.refuse f .herdPin 0 0
      else s.fireWith f (pinOut f h) (fun s => s.modCell f.x (fun c =>
        c.setPins (lmap (fun q => q.ctx == f.ent.ctx) (fun q => { q with count := q.count + 1 }) c.herd.pins)))
    | none =>
      if pins.length ≥ 8 then s.refuse f .herdPin 0 0
      else s.issue f (pinOut f h) (fun s toks =>
        (s.modCell f.x (fun c => c.setPins (c.herd.pins ++ [⟨f.ent.ctx, 1, f.ent.ord, false⟩]))).departPin f toks))

/-- HUNPIN (R220). -/
def execHunpin (h : Hdr) (s : State) : Host.Outcome State Fault Refusal :=
  s.firing (fun s f =>
    if !(s.cell f.x).herd.pins.any (fun p => p.ctx == f.ent.ctx) then s.refuse f .herdPin 0 0
    else s.fireWith f (pinOut f h) (fun s => s.modCell f.x (fun c =>
      let less := c.herd.pins.map (fun p => if p.ctx = f.ent.ctx then { p with count := p.count - 1 } else p)
      c.setPins (less.filter (fun p => p.count > 0)))))

end Sys2Proof.Machine
end

