-- ==== Sys2Proof/Machine/Scoring.lean ====
section
/-! DEFINITION. Key stores: entries and their layout (R137), scores (R138, R139), winners (R140) and weights (R141). -/
namespace Sys2Proof.Machine

/-- The element width of a key type; for NF the container of a format register (R137). DEDUCED (assumption 81). -/
def keyWidth (fmt : Ty) (reg : W32) : Nat := if fmt == .nf then (nfOf reg).cont else fmt.width

/-- Bytes of an entry (R137). -/
def entrySize (vvec : Bool) (d kw : Nat) : Nat := 32 + (if vvec then 64 else 8) + 8 * ((d * kw + 63) / 64)

/-- The format in which a float key's codes are read (R139). -/
def keyFmt (fmt : Ty) (reg : W32) : FFmt := if fmt == .nf then nfOf reg else fmtOf fmt

/-- The FP32 reciprocal norm of a float key from its sum of squares (R138): +0 for a zero key. -/
def normOf (ss : Nat) : Nat := if ss % 2 ^ 31 = 0 then 0 else (f32.rsq ss).1

/-- NORM of a key (R138). -/
def keyNorm (fmt : Ty) (reg : W32) (k : List Nat) : Nat :=
  if fmt == .s8 then
    let ss := k.foldl (fun a v => a + (intVal .s8 v * intVal .s8 v).toNat) 0
    normOf (rne32 false ss 0)
  else
    let g := keyFmt fmt reg
    normOf (sum32 none (k.map (fun v => prod32 g g v v)))

/-- The pairs of elements of a query and a key. -/
def pairs (q k : List Nat) : List (Nat × Nat) := q.zip k

/-- The inner product of float elements (R139). -/
def ipFloat (g : FFmt) (l : List (Nat × Nat)) : Nat := sum32 none (l.map (fun p => prod32 g g p.1 p.2))

/-- A float difference rounded to FP32 (R139). -/
def diff32 (g : FFmt) (a b : Nat) : Nat := (f32.rnd .rne (exAdd (g.val a) (g.val b).neg)).1

/-- A score (R139): an INT32 for S8 keys, an FP32 code otherwise, in 32 bits. -/
def scoreOf (fmt : Ty) (reg : W32) (dist : Dist) (q k : List Nat) (norm : Nat) : Nat :=
  let l := pairs q k
  if fmt == .s8 then
    let sum (g : Int → Int → Int) : Int := l.foldl (fun a p => a + g (intVal .s8 p.1) (intVal .s8 p.2)) 0
    (BitVec.ofInt 32 (match dist with
      | .l2 => -(sum (fun a b => (a - b) * (a - b)))
      | _ => sum (fun a b => a * b))).toNat
  else
    let g := keyFmt fmt reg
    match dist with
    | .ip => ipFloat g l
    | .cos => mul32 (mul32 (ipFloat g l) (keyNorm fmt reg q)) norm
    | .l2 =>
      let s := sum32 none (l.map (fun p => let d := diff32 g p.1 p.2; mul32 d d))
      s ^^^ 2 ^ 31

/-- A score is a NaN (R140). -/
def scoreNan (fmt : Ty) (s : Nat) : Bool := fmt != .s8 && (f32.val s).isNan

/-- One score is above another (R140), as numbers. -/
def scoreAbove (fmt : Ty) (a b : Nat) : Bool :=
  if fmt == .s8 then intVal .s32 a > intVal .s32 b else cmpVal (f32.val a) (f32.val b) == 1

/-- A candidate: its score and its entry. -/
abbrev Cand := Nat × KEnt

/-- The order of R140: score descending, then SEQ ascending. -/
def candBefore (fmt : Ty) (a b : Cand) : Bool :=
  if scoreAbove fmt a.1 b.1 then true else if scoreAbove fmt b.1 a.1 then false else a.2.seq < b.2.seq

/-- A candidate put in its place. -/
def insCand (fmt : Ty) (c : Cand) : List Cand → List Cand
  | [] => [c]
  | d :: t => if candBefore fmt c d then c :: d :: t else d :: insCand fmt c t

/-- Candidates in the order of R140. -/
def rankCands (fmt : Ty) (l : List Cand) : List Cand := l.foldr (insCand fmt) []

/-- The candidates at or above FLOOR (R140, R142). -/
def floorCands (fmt : Ty) (c : KmCtl) (l : List Cand) : List Cand :=
  match c.ext with
  | none => l
  | some (_, _, fl) => l.filter (fun e => !scoreAbove fmt fl.toNat e.1)

/-- An entry is live at a generation (R138). -/
def KEnt.live (e : KEnt) (g : Nat) : Bool := e.gout == 0xFFFFFFFF || g < e.gout

/-- The live entries with their scores. -/
def scoreAll (fmt : Ty) (reg : W32) (c : KmCtl) (q : List Nat) (g : Nat) (l : List KEnt) : List Cand :=
  (l.filter (fun e => e.live g)).map (fun e => (scoreOf fmt reg c.dist q e.key e.norm.toNat, e))

/-- The winners of a list of scored entries (R140). -/
def winners (fmt : Ty) (c : KmCtl) (l : List Cand) : List Cand :=
  floorCands fmt c ((rankCands fmt (l.filter (fun e => !scoreNan fmt e.1))).take c.k)

/-- BETA as an FP32 code (R141); 1.0 without an EXT record. -/
def betaOf (c : KmCtl) : Nat := match c.ext with | some (_, b, _) => b.toNat * 2 ^ 16 | none => one32

/-- e_r of a score (R141). -/
def expWeight (fmt : Ty) (beta smax s : Nat) : Nat :=
  let t :=
    if fmt != .s8 && smax = inf32 then (if s = inf32 then 0 else inf32 + 2 ^ 31)
    else
      let d := if fmt == .s8 then
          (let v := intVal .s32 s - intVal .s32 smax
           rne32 (v < 0) v.natAbs 0)
        else sub32 s smax
      mul32 d beta
  fexp2 t

/-- The weights of winners in rank order (R141). -/
def weightsOf (mode : WMode) (fmt : Ty) (beta : Nat) (scores : List Nat) : List Nat :=
  let es := scores.map (expWeight fmt beta (scores.headD 0))
  match mode with
  | .one => scores.map (fun _ => one32)
  | .raw => scores
  | .exp => es
  | .softmax =>
    let s := match es with
      | [] => one32
      | e :: t => t.foldl add32 e
    es.map (fun e => div32 e s)

/-- The bytes of an entry (R137). -/
def KEnt.bytes (e : KEnt) (vvec : Bool) (kw : Nat) : List Byte :=
  let kbits := packElems kw e.key
  let kbytes := 8 * ((e.key.length * kw + 63) / 64)
  leBytes 4 e.seq ++ leBytes 4 (e.life * 2 ^ 16 + e.seq / 2 ^ 32) ++ leBytes 4 e.gin ++ leBytes 4 e.gout
    ++ leBytes 4 e.norm.toNat ++ leBytes 4 (e.poison.toNat * 64 + e.vfmt.code * 4 + e.vec.toNat * 2 + 1) ++ leBytes 8 0
    ++ leBytes (if vvec then 64 else 8) e.value.toNat ++ leBytes kbytes kbits

/-- The entry of bytes, at index `i` of its region; none where it is not VALID. -/
def entryOf (vvec : Bool) (d kw i : Nat) (bs : List Byte) : Option KEnt :=
  let w (k : Nat) : Nat := leNat ((bs.drop (4 * k)).take 4)
  let vb := if vvec then 64 else 8
  let key := leNat ((bs.drop (32 + vb)).take (8 * ((d * kw + 63) / 64)))
  if fld (w 5) 0 1 = 0 then none
  else some
    { seq := w 0 + fld (w 1) 0 8 * 2 ^ 32, life := fld (w 1) 16 16, gin := w 2, gout := w 3, norm := BitVec.ofNat 32 (w 4),
      poison := fld (w 5) 6 1 = 1, vfmt := tyOf (fld (w 5) 2 4), vec := fld (w 5) 1 1 = 1,
      value := BitVec.ofNat 512 (leNat ((bs.drop 32).take vb)),
      key := (List.range d).map (fun j => fld key (kw * j) kw), slot := i }

end Sys2Proof.Machine
end

