-- ==== Sys2Proof/Machine/KeyStore.lean ====
section
/-! DEFINITION. Group 0xA: KINS, KDEL, KMATCH, KPURGE and KGEN on the store of one cell (R134 to R152), and the operation an
entry shard sends for a logical store (R205). -/
namespace Sys2Proof.Machine

/-- The key store of a KMATCH record. -/
def Cell.store (c : Cell) (ctx node : Nat) : Option KStore := c.stores.find? (fun k => k.ctx == ctx && k.node == node)

/-- A cell with a key store changed. -/
def Cell.modStore (c : Cell) (ctx node : Nat) (f : KStore → KStore) : Cell :=
  { c with stores := lmap (fun k => k.ctx == ctx && k.node == node) f c.stores }

/-- The KMATCH record at a node: its header and control fields. -/
def Cell.kmatchAt (c : Cell) (ctx node : Nat) : Option (Hdr × KmCtl) :=
  match c.blkOf ctx node with
  | none => none
  | some b =>
    let pos := node - b.hdr - 1
    match decodeRec (b.recAt pos) (b.ext pos) with
    | .ok (.kmatch h k) => some (h, k)
    | _ => none

/-- A store as an operation sees it: its record, its format register, and its entries; for a store whose entries stand in a region of
memory (R135), how many the region holds, those that stand there, and the regions of the tile before they were read. -/
structure View where
  h    : Hdr
  c    : KmCtl
  k    : KStore
  reg  : W32
  cap  : Nat
  raw  : List KEnt
  ents : List KEnt
  regs : List MtReg

/-- Bytes of an entry of a store (R137). -/
def View.size (v : View) : Nat := entrySize v.c.vvec v.c.d v.k.kw

/-- HNDL of a STREAM store (R142). -/
def View.hndl (v : View) : Nat := match v.c.ext with | some (h, _, _) => h | none => 0

/-- Entry `i` of bytes of a region that stand at a list of addresses: poisoned where a byte of it is. -/
def State.entryAt (s : State) (v : View) (bs : List Byte) (at_ : List Nat) (i : Nat) : Option KEnt :=
  let bad := ((at_.drop (i * v.size)).take v.size).any (fun a => s.poisoned a 1)
  (entryOf v.c.vvec v.c.d v.k.kw i ((bs.drop (i * v.size)).take v.size)).map (fun e => { e with poison := e.poison || bad })

/-- A store with the entries of its region (R135, R137). A store starts empty (R134), so what stood in its region before it first
changed is no entry of it. DESIGN CHOICE (assumption 89). -/
def State.readEnts (s : State) (v : View) (n : Nat) (at_ : List Nat) : View :=
  let bs := at_.map s.byte
  let l := (List.range n).filterMap (s.entryAt v bs at_)
  { v with cap := n, raw := l, ents := if v.k.fresh then [] else l }

/-- What `n` bytes at the start of the tile that holds an MTILE store meet in its banks (R242). -/
def State.tileReady (s : State) (x : Site) (o n : Nat) : Except Block (List Spot) × State :=
  match s.bankCheck x o n with
  | (.off, s1) => (.error (.fault .bankOff o), s1)
  | (.wait, s1) => (.error .wait, s1)
  | (.ready, s1) => (.ok ((List.range n).map (fun i => .mt x (mtBase x + o + i))), s1)

/-- A store with its entries read from where they stand (R135): FRAME in the cell, MTILE in the partner memory tile, STREAM in the
memory of its handle. DEDUCED (assumption 70). -/
def State.region (s : State) (x : Site) (ctx : Nat) (v : View) : Except Block View × State :=
  match v.c.res with
  | .frame => (.ok v, s)
  | .mtile =>
    (match s.tileReady x 0 65536 with
     | (.error b, s1) => (.error b, s1)
     | (.ok l, s1) => (.ok (s1.readEnts v (65536 / v.size) (l.map Spot.addr)), s1))
  | .stream =>
    match s.checkHandle x ctx v.hndl 0 0 with
    | (.error b, s1) => (.error b, s1)
    | (.ok e, s1) =>
      let n := e.bound / v.size
      match s1.cellSpots x ctx v.hndl 0 (n * v.size) false with
      | (.error b, s2) => (.error b, s2)
      | (.ok l, s2) => (.ok (s2.readEnts v n (l.map Spot.addr)), s2)

/-- The store of a node, before a region is read. None: its record is no KMATCH, which a loaded store instruction never meets
(R146). -/
def State.viewOf (s : State) (x : Site) (ctx node : Nat) : Option View :=
  let c := s.cell x
  match c.store ctx node, c.kmatchAt ctx node with
  | some k, some (h, km) => some ⟨h, km, k, s.fmtReg ctx km.freg, 0, [], k.ents, c.mt.regs⟩
  | _, _ => none

/-- The store that a firing names, as it stands (R152); of a shard, only its record, since the shards perform later (R205). -/
def State.view (s : State) (x : Site) (ctx node : Nat) : Except Block (Option View) × State :=
  match s.viewOf x ctx node with
  | none => (.ok none, s)
  | some v =>
    if v.c.sh then (.ok (some v), s)
    else match s.region x ctx v with
      | (.error b, s1) => (.error b, s1)
      | (.ok v1, s1) => (.ok (some v1), s1)

/-- The entries of a store that stand at its cell, in its slots or in its tile. -/
def State.keyEnts (s : State) (x : Site) (k : KStore) : List KEnt :=
  match s.viewOf x k.ctx k.node with
  | some v => if v.c.res = .mtile then (s.readEnts v (65536 / v.size) ((List.range 65536).map (fun i => mtBase x + i))).ents else k.ents
  | none => k.ents

/-- A store operation that does not perform has read no region of its tile (R228). -/
def State.back (s : State) (x : Site) (v : View) : State :=
  s.modCell x (fun c => { c with mt := { c.mt with regs := v.regs } })

/-- Where the entries that a change of a store in a region touches stand, for the writes of `new` (R137). -/
def State.storeSpots (s : State) (x : Site) (ctx : Nat) (v : View) :
    List (Nat × List Byte) → Except Block (List (List Spot × List Byte)) × State
  | [] => (.ok [], s)
  | (o, bs) :: t =>
    match (if v.c.res = .mtile then s.tileReady x o bs.length else s.cellSpots x ctx v.hndl o bs.length true) with
    | (.error b, s1) => (.error b, s1)
    | (.ok l, s1) =>
      match State.storeSpots s1 x ctx v t with
      | (.error b, s2) => (.error b, s2)
      | (.ok r, s2) => (.ok ((l, bs) :: r), s2)

/-- The bytes that change when the entries of a store in a region become `new`: an entry written whole, or, where one is
removed, VALID cleared and the rest of its bytes kept: the spec does not say what a removal writes. A store that stays as it is
writes nothing. DESIGN CHOICE (assumption 89). -/
def View.writes (v : View) (new : List KEnt) : List (Nat × List Byte) :=
  let gone := v.raw.filter (fun e => !new.any (fun n => n.slot == e.slot))
  let changed := new.filter (fun n => !v.raw.contains n)
  let clear (e : KEnt) : List Byte :=
    let bs := e.bytes v.c.vvec v.k.kw
    bs.take 20 ++ leBytes 4 (e.poison.toNat * 64 + e.vfmt.code * 4 + e.vec.toNat * 2) ++ bs.drop 24
  if new == v.ents then []
  else gone.map (fun e => (e.slot * v.size, clear e)) ++ changed.map (fun e => (e.slot * v.size, e.bytes v.c.vvec v.k.kw))

/-- A change of a store that is ready to be made: the places of the writes of a store in a region. -/
def State.plan (s : State) (x : Site) (ctx : Nat) (v : View) (new : List KEnt) :
    Except Block (List (List Spot × List Byte)) × State :=
  if v.c.res = .frame then (.ok [], s) else s.storeSpots x ctx v (v.writes new)

/-- A planned change made (R151). -/
def State.commitStore (s : State) (x : Site) (v : View) (new : List KEnt) (w : List (List Spot × List Byte)) (f : KStore → KStore) :
    State :=
  let s1 := w.foldl (fun t p => t.writeSpots p.1 p.2) s
  let keep := if v.c.res = .frame then new else []
  s1.modCell x (fun c => c.modStore v.k.ctx v.k.node (fun k => f { k with ents := keep, fresh := k.fresh && new == v.ents }))

/-- The elements of a query or key, and whether reading them poisons it: from the payload, a position beyond it reading as
zero, or from memory (R143). -/
def State.readKey (s : State) (f : Firing) (a : Tok) (ref : Bool) (d kw : Nat) : Except Block (List Nat × Bool) × State :=
  let elems (v limit : Nat) : List Nat := (List.range d).map (fun j => if kw * j + kw ≤ limit then fld v (kw * j) kw else 0)
  if !ref then (.ok (elems a.data.toNat (if a.vec then 512 else 64), false), s)
  else
    match s.cellSpots f.x f.ent.ctx (fld a.data.toNat 48 16) (fld a.data.toNat 0 48) ((d * kw + 7) / 8) false with
    | (.error b, s1) => (.error b, s1)
    | (.ok l, s1) =>
      let r := s1.readSpots l
      (.ok (elems (leNat r.1) (8 * ((d * kw + 7) / 8)), r.2), s1)

/-- The place of a new entry (R135, R148), none when there is no room: in the cell the lowest free run of slots; in a region the
lowest free index, which the spec does not choose. DESIGN CHOICE (assumption 89). -/
def State.entryPlace (s : State) (x : Site) (v : View) : Option Nat :=
  match v.c.res with
  | .frame =>
    let c := s.cell x
    let held := c.stores.foldl (fun a k => a + k.width * k.ents.length) 0
    if held + v.k.width > 256 then none else findRun c.runs v.k.width 384 0
  | _ => (List.range v.cap).find? (fun i => v.ents.all (fun k => k.slot != i))

/-- The token of a result: the payload of a new scalar. -/
def numTok (f : Firing) (h : Hdr) (fmt : Ty) (v : Nat) : Tok := newTok f h (usedBy f h) none fmt false (BitVec.ofNat 512 v)

/-- The output of a store instruction with a numeric result. -/
def numOut (f : Firing) (h : Hdr) (t : Tok) : Out := { sends := both h t, ports := portsOf h, used := usedBy f h }

/-- The logical store that the record of a node at a resident is a shard of (R203): those of one context and node are told apart by
their planes, and a resident holds one of them. -/
def LStore.of (l : LStore) (ctx node res : Nat) : Bool := l.ctx == ctx && l.node == node && l.shards.contains res

/-- The logical store of a shard's record (R203). -/
def State.lstore (s : State) (x : Site) (ctx node : Nat) : Option LStore :=
  (s.die x.die).eng.lstores.find? (fun l => l.of ctx node x.res)

/-- An entry shard's operation goes to the home slice (R205); its result token waits there. -/
def State.sendOp (s : State) (f : Firing) (node : Nat) (kind : LKind) (toks : List Tok) : State :=
  s.modDie f.x.die (fun d =>
    let o : LOp := { id := d.eng.nextId, ctx := f.ent.ctx, node := node, x := f.x, f := f, kind := kind, on := none, todo := [],
                     count := 0, cands := [], merged := false, commit := []
                     dep := ⟨f.ent.ctx, f.ent.uid, f.ent.node, 0, f.ent.ord, 0, toks.any Tok.isExit, toks⟩ }
    { d with eng := { d.eng with nextId := d.eng.nextId + 1, lops := d.eng.lops ++ [o] } })

/-- A store operation of a firing: on its cell's store with `k`, or sent to a logical store's home with `kind`. -/
def State.storeOp (s : State) (f : Firing) (h : Hdr) (node : Nat) (fmt : Ty) (kind : LKind) (k : State → View → State) : State :=
  match s.view f.x f.ent.ctx node with
  | (.error b, s1) => s1.park f (portsOf h) b
  | (.ok none, s1) => s1.refuse f .destInvalid 0 0
  | (.ok (some v), s1) =>
    if v.c.sh then
      s1.issue f (numOut f h (numTok f h fmt 0)) (fun s toks => s.sendOp f node kind toks)
    else k s1 v

/-- Entries that a KGEN at generation `g` reclaims go (R138, R150). -/
def reclaim (g : Nat) (l : List KEnt) : List KEnt := l.filter (fun e => e.live g)

/-- A change of a cell's store with a numeric result (R149, R150). -/
def State.storeChange (s : State) (f : Firing) (h : Hdr) (v : View) (new : List KEnt) (t : Tok) (g : KStore → KStore) : State :=
  match s.plan f.x f.ent.ctx v new with
  | (.error b, s1) => (s1.back f.x v).park f (portsOf h) b
  | (.ok w, s1) => s1.fireWith f (numOut f h t) (fun s => s.commitStore f.x v new w g)

/-- KGEN on a cell's store (R150): ADV and SET that cannot be stop the context. -/
def State.kgen (s : State) (f : Firing) (h : Hdr) (v : View) (new : Option Nat) : State :=
  match new with
  | none => (s.back f.x v).refuse f .keyGen 0 0
  | some g => s.storeChange f h v (reclaim g v.ents) (numTok f h .z32 g) (fun k => { k with g := g })

/-- G after ADV (R150). -/
def genAdv (g : Nat) : Option Nat := if g = 0xFFFFFFFF then none else some (g + 1)
/-- G after SET (R150). -/
def genSet (g v : Nat) : Option Nat := if v < g then none else some v

/-- KGEN.READ (R150). -/
def execKgenRead (h : Hdr) (store : Nat) (s : State) : Host.Outcome State Fault Refusal :=
  s.firing (fun s f => s.storeOp f h store .z32 (.gen 0 0) (fun s v => s.kgen f h v (some v.k.g)))

/-- KGEN.ADV (R150). -/
def execKgenAdv (h : Hdr) (store : Nat) (s : State) : Host.Outcome State Fault Refusal :=
  s.firing (fun s f => s.storeOp f h store .z32 (.gen 1 0) (fun s v => s.kgen f h v (genAdv v.k.g)))

/-- KGEN.SET (R150). -/
def execKgenSet (h : Hdr) (store : Nat) (s : State) : Host.Outcome State Fault Refusal :=
  s.firing (fun s f =>
    s.storeOp f h store .z32 (.gen 2 (f.op 0).w32) (fun s v => s.kgen f h v (genSet v.k.g (f.op 0).w32)))

/-- The entries that KDEL leaves (R149). -/
def kdelLeaves (byVal : Bool) (a : Nat) (l : List KEnt) : List KEnt :=
  l.filter (fun e => if byVal then e.value.toNat % 2 ^ 64 != a else e.seq != a % 2 ^ 40)

/-- KDEL (R149). -/
def execKdel (h : Hdr) (byVal : Bool) (store : Nat) (s : State) : Host.Outcome State Fault Refusal :=
  s.firing (fun s f =>
    let a := (f.op 0).w64
    s.storeOp f h store .z32 (.del byVal a) (fun s v =>
      let new := kdelLeaves byVal a v.ents
      s.storeChange f h v new (numTok f h .z32 (v.ents.length - new.length)) id))

/-- KPURGE (R149). -/
def execKpurge (h : Hdr) (store : Nat) (s : State) : Host.Outcome State Fault Refusal :=
  s.firing (fun s f => s.storeOp f h store .z32 .purge (fun s v =>
    s.storeChange f h v [] (numTok f h .z32 v.ents.length) id))

/-- The entry of a KINS, before its place in the store is known (R147). -/
def insEntry (c : KinsCtl) (v : View) (key : List Nat) (b : Tok) (poison : Bool) : KEnt :=
  { seq := v.k.seq, life := c.life, gin := v.k.g, gout := if c.expg = 0 then 0xFFFFFFFF else v.k.g + c.expg,
    norm := BitVec.ofNat 32 (keyNorm v.h.fmt v.reg key), poison := poison, vfmt := b.fmt, vec := b.vec, value := b.data,
    key := key, slot := 0 }

/-- KINS on a cell's store, once its key has been read (R147). -/
def State.insert (s : State) (f : Firing) (h : Hdr) (c : KinsCtl) (v : View) (e : KEnt) : State :=
  match s.entryPlace f.x v with
  | none => (s.back f.x v).refuse f .keyFull 0 0
  | some i =>
    if v.k.seq ≥ 2 ^ 40 then (s.back f.x v).refuse f .keyFull 0 0
    else if c.expg ≠ 0 && v.k.g + c.expg ≥ 2 ^ 32 - 1 then (s.back f.x v).refuse f .keyGen 0 0
    else s.storeChange f h v (v.ents ++ [{ e with slot := i }]) ((numTok f h .s64 v.k.seq).setFlag .complete true)
      (fun k => { k with seq := k.seq + 1 })

/-- KINS (R147, R205). DEDUCED (assumption 77). Where KEY_FMT and a fault of the key's read stand among KEY_OP, KEY_FULL and KEY_GEN
the spec does not say. DEDUCED (assumption 77); DESIGN CHOICE (assumption 86). -/
def execKins (h : Hdr) (c : KinsCtl) (s : State) : Host.Outcome State Fault Refusal :=
  s.firing (fun s f =>
    match s.view f.x f.ent.ctx c.store with
    | (.error b, s1) => s1.park f (portsOf h) b
    | (.ok none, s1) => s1.refuse f .destInvalid 0 0
    | (.ok (some v), s1) =>
      let a := f.op 0
      let b := f.op 1
      let no (code : FCode) (info : Nat) : State := (s1.back f.x v).refuse f code info 0
      if c.kref && a.flag .poison then no .poisonAddr a.w64
      else if b.vec != v.c.vvec then no .keyOp 0
      else if keyWidth v.h.fmt v.reg ≠ v.k.kw then no .keyFmt 0
      else match s1.readKey f a c.kref v.c.d v.k.kw with
        | (.error blk, s2) => (s2.back f.x v).park f (portsOf h) blk
        | (.ok (key, bad), s2) =>
          let e := insEntry c v key b (a.flag .poison || b.flag .poison || bad)
          if v.c.sh then
            s2.issue f (numOut f h ((numTok f h .s64 0).setFlag .complete true))
              (fun s toks => s.sendOp f c.store (.ins c e) toks)
          else s2.insert f h c v e)

/-- A rank pushed on the tag of a query (R144). -/
def rankTag (tl : BitVec 96) (f : Firing) (r : Nat) : Option (W64 × Nat) := tagPush tl (f.ent.tag, f.ent.depth) r

/-- What a query sends (R144), given its winners with their weights: none on TAG_OVERFLOW of a rank. -/
def matchSends (tl : BitVec 96) (f : Firing) (h : Hdr) (poison : Bool) (ws : List (KEnt × Nat)) : Option (List Send) :=
  let base := (newTok f h (usedBy f h) none .z32 false 0).setFlag .poison poison
  let one (p : (KEnt × Nat) × Nat) : Option Send :=
    (rankTag tl f p.2).map (fun r =>
      .tok h.t0 { base.setFlag .poison (poison || p.1.1.poison) with
        fmt := p.1.1.vfmt, vec := p.1.1.vec, lmask := if p.1.1.vec then 0xFFFF else 1, data := p.1.1.value
        side := BitVec.ofNat 32 p.1.2, tag := r.1, depth := r.2 })
  if ws.isEmpty then some [.tok h.t1 (base.setFlag .miss true)]
  else
    let l := ws.zipIdx.map one
    if l.any (fun o => o.isNone) then none
    else some (l.filterMap id ++
      [.tok h.t1 { base with side := BitVec.ofNat 32 ws.length },
       .marker h.t1 ({ base with side := BitVec.ofNat 32 (f.ent.depth + 1) }.setFlag .streamEnd true)])

/-- Tokens that leave one per cycle (R145); `exits` says that one of the firing's tokens is an exit (R100). -/
def State.departEach (s : State) (f : Firing) (exits : Bool) : Nat → List Tok → State
  | _, [] => s
  | n, t :: r => State.departEach (s.departAs f n exits [t]) f exits (n + 1) r

/-- LIFE after a delivery of the named entries (R144): an entry whose LIFE reaches 0 goes. -/
def deliverLife (won : List Nat) (l : List KEnt) : List KEnt :=
  l.filterMap (fun e =>
    if won.contains e.seq && e.life > 0 then (if e.life = 1 then none else some { e with life := e.life - 1 }) else some e)

/-- The cycles in which a query is scored (R145). -/
def scoreTime (v : View) : Nat :=
  let rate :=
    if v.c.res = .frame then (if v.h.fmt == .s8 then 64 else if v.h.fmt == .fp32 then 16 else 32)
    else (if v.h.fmt == .s8 then 128 else if v.h.fmt == .fp32 then 8 else 32)
  Nat.max 1 (((v.ents.filter (fun e => e.live v.k.g)).length * v.c.d + rate - 1) / rate)

/-- The cycles that a query occupies S3 (R145). -/
def matchTime (v : View) : Nat := if v.c.res = .frame then scoreTime v else 1

/-- The first cycle after issue in which a token of a query leaves (R145). -/
def matchLeaves (v : View) : Nat := if v.c.res = .frame then scoreTime v + 4 else 1 + scoreTime v

/-- A copy slot of a die that no copy and no scan occupies (R135, R306): of the first streamer that has one. DESIGN CHOICE
(assumption 89). -/
def State.freeScan (s : State) (die : Nat) : Option (Nat × Nat) :=
  let e := (s.die die).eng
  let slots := ((List.range 7).map (fun st => (List.range 4).map (fun k => (st, k)))).flatten
  slots.find? (fun p => !e.copies.any (fun c => c.st == p.1 && c.k == p.2)
    && !e.scans.any (fun c => c.1 == p.1 && c.2.1 == p.2 && s.cycle < c.2.2))

/-- The scan of a STREAM store takes a copy slot until it ends (R306). DEDUCED (assumption 70). -/
def State.takeScan (s : State) (die : Nat) (p : Nat × Nat) (n : Nat) : State :=
  s.modDie die (fun d => { d with eng := { d.eng with
    scans := (d.eng.scans.filter (fun c => s.cycle < c.2.2)) ++ [(p.1, p.2, s.cycle + n)] } })

/-- A query on a cell's store (R139 to R145). DEDUCED (assumption 70). -/
def State.query (s : State) (f : Firing) (h : Hdr) (v : View) (q : List Nat) (poison : Bool) : State :=
  let all := scoreAll h.fmt v.reg v.c q v.k.g v.ents
  let win := winners h.fmt v.c all
  let ws := (win.map (fun w => w.2)).zip (weightsOf v.c.wmode h.fmt (betaOf v.c) (win.map (fun w => w.1)))
  let nan := (all.filter (fun e => scoreNan h.fmt e.1)).length
  let new := deliverLife (win.map (fun w => w.2.seq)) v.ents
  match matchSends (s.ctx f.ent.ctx).tl f h poison ws, (if v.c.res = .stream then s.freeScan f.x.die else some (0, 0)) with
  | none, _ => (s.back f.x v).refuse f .tagOverflow 0 0
  | some _, none => (s.back f.x v).park f (portsOf h) .wait
  | some sends, some slot =>
    match s.plan f.x f.ent.ctx v new with
    | (.error b, s1) => (s1.back f.x v).park f (portsOf h) b
    | (.ok w, s1) =>
      s1.issue f { sends := sends, n := matchTime v, ports := portsOf h, used := usedBy f h } (fun s toks =>
        let s2 := s.commitStore f.x v new w id
        let s3 := s2.modCell f.x (fun c => c.count (fun k => { k with knan := satAdd 48 k.knan nan }))
        let s4 := if v.c.res = .stream then s3.takeScan f.x.die slot (matchLeaves v) else s3
        s4.departEach f (toks.any Tok.isExit) (matchLeaves v) toks)

/-- The tag check of a query on a logical store (R205): ranks 0 to K − 1 and the tag actions of both targets. -/
def matchCheck (tl : BitVec 96) (f : Firing) (h : Hdr) (k : Nat) : Option (List Send) :=
  let e : KEnt := { seq := 0, life := 0, gin := 0, gout := 0, norm := 0, poison := false, vfmt := .z32, vec := false, value := 0,
                    key := [], slot := 0 }
  match matchSends tl f h false ((List.range k).map (fun _ => (e, 0))) with
  | none => none
  | some l => some (l ++ [.tok h.t1 (newTok f h (usedBy f h) none .z32 false 0)])

/-- KMATCH (R142 to R145, R205). DEDUCED (assumption 77). -/
def execKmatch (h : Hdr) (c : KmCtl) (s : State) : Host.Outcome State Fault Refusal :=
  s.firing (fun s f =>
    match s.view f.x f.ent.ctx f.ent.node with
    | (.error b, s1) => s1.park f (portsOf h) b
    | (.ok none, s1) => s1.refuse f .destInvalid 0 0
    | (.ok (some v), s1) =>
      let a := f.op 0
      let no (code : FCode) (info : Nat) : State := (s1.back f.x v).refuse f code info 0
      if c.qref && a.flag .poison then no .poisonAddr a.w64
      else if keyWidth h.fmt v.reg ≠ v.k.kw then no .keyFmt 0
      else match s1.readKey f a c.qref c.d v.k.kw with
        | (.error blk, s2) => (s2.back f.x v).park f (portsOf h) blk
        | (.ok (q, bad), s2) =>
          let poison := a.flag .poison || bad
          if !c.sh then s2.query f h v q poison
          else match (matchCheck (s2.ctx f.ent.ctx).tl f h c.k).bind (sendList (s2.ctx f.ent.ctx).tl f.x) with
            | none => s2.refuse f .tagOverflow 0 0
            | some _ =>
              s2.issue f { sends := [], ports := portsOf h, used := usedBy f h }
                (fun s _ => s.sendOp f f.ent.node (.query c h.fmt v.reg q poison) []))

end Sys2Proof.Machine
end

