-- ==== Sys2Proof/Machine/LogicalStore.lean ====
section
/-! DEFINITION. Logical stores (R203 to R210): the sequencer, the shards, the Lens merger and its commits. -/
namespace Sys2Proof.Machine

/-- A state with an operation on a logical store of a die changed. -/
def State.modLop (s : State) (die id : Nat) (f : LOp → LOp) : State :=
  s.modDie die (fun d => { d with eng := { d.eng with lops := lmap (fun o => o.id == id) f d.eng.lops } })

/-- An operation on a logical store has ended. -/
def State.dropLop (s : State) (die id : Nat) : State :=
  s.modDie die (fun d => { d with eng := { d.eng with lops := d.eng.lops.filter (fun o => o.id != id) } })

/-- A state with a logical store changed. -/
def State.modLstore (s : State) (x : Site) (ctx node : Nat) (f : LStore → LStore) : State :=
  s.modDie x.die (fun d => { d with eng := { d.eng with lstores := lmap (fun l => l.of ctx node x.res) f d.eng.lstores } })

/-- A context's units may still perform what has issued (R210, R365): it runs, or it is being saved. -/
def State.worksOn (s : State) (ctx : Nat) : Bool := (s.ctx ctx).st == .running || (s.ctx ctx).pre.phase == 1

/-- A fault that an operation on a logical store meets after its firing has issued (R206): the operation ends without a
result, and the context stops. -/
def State.lopFault (s : State) (o : LOp) (code : FCode) : State :=
  (s.dropLop o.x.die o.id).takeFault (siteUnit o.x) ((s.cellRec o.x o.ctx o.f.ent.node o.f.ent.tag o.f.ent.depth code 0).by o.f.all) .none

/-- What the sequencer does with an operation (R206): the store's state after it, the operation with its numbers, or a
fault. -/
def sequence (l : LStore) (o : LOp) : Except FCode (LStore × LKind) :=
  match o.kind with
  | .ins c e =>
    if l.seq ≥ 2 ^ 40 then .error .keyFull
    else if c.expg ≠ 0 && l.g + c.expg ≥ 2 ^ 32 - 1 then .error .keyGen
    else .ok ({ l with seq := l.seq + 1 },
      .ins c { e with seq := l.seq, gin := l.g, gout := if c.expg = 0 then 0xFFFFFFFF else l.g + c.expg })
  | .gen op v =>
    match (if op = 0 then some l.g else if op = 1 then genAdv l.g else genSet l.g v) with
    | none => .error .keyGen
    | some g => .ok ({ l with g := g }, .gen 3 g)
  | k => .ok (l, k)

/-- STORE_OP_SEQUENCE (R206): the operation `k` of a die's list gets its order number and goes to the shards that perform it;
operations of one entry shard reach the home slice in the order it sent them. -/
def execStoreOpSequence (die k : Nat) (s : State) : Host.Outcome State Fault Refusal :=
  let ops := (s.die die).eng.lops
  match ops[k]? with
  | none => .next s
  | some o =>
    match s.lstore o.x o.ctx o.node with
    | none => .next s
    | some l =>
      let early := (ops.take k).any (fun p => p.on.isNone && p.x == o.x && p.ctx == o.ctx && p.node == o.node)
      if o.on.isSome || early then .next s
      else match sequence l o with
        | .error code => if s.latched (siteUnit o.x) ≥ nLatches then .next s else .next (s.lopFault o code)
        | .ok (l1, kind) =>
          let todo := match kind with | .ins _ _ => [o.x.res] | _ => l.shards
          let s1 := (s.modLstore o.x o.ctx o.node (fun _ => { l1 with on := (l.on + 1) % 2 ^ 32 })).modLop die o.id
            (fun o => { o with on := some l.on, kind := kind, todo := todo })
          .next (todo.foldl (fun t r => t.modCell ⟨die, r⟩ (fun c => c.modStore o.ctx o.node (fun k =>
            { k with queue := k.queue ++ [⟨o.id, l.on⟩] }))) s1)

/-- An operation whose every shard has performed sends its result from the entry shard (R206). -/
def State.lopResult (s : State) (o : LOp) (v : Nat) : State :=
  let toks := o.dep.toks.map (fun t => { t with data := BitVec.ofNat 512 v })
  (s.dropLop o.x.die o.id).depart o.f 0 toks

/-- A shard has performed its part: with the last, the result goes. -/
def State.shardDone (s : State) (die : Nat) (x : Site) (id : Nat) (cnt : Nat) (value : LOp → Nat) : State :=
  let s1 := s.modLop die id (fun o => { o with todo := o.todo.filter (fun r => r != x.res), count := o.count + cnt })
  match (s1.die die).eng.lops.find? (fun o => o.id == id) with
  | some o => if o.todo.isEmpty then s1.lopResult o (value o) else s1
  | none => s1

/-- FLIVE changes by the entries with LIFE that came and went (R204). -/
def State.flive (s : State) (x : Site) (ctx node : Nat) (old new : List KEnt) : State :=
  let n (l : List KEnt) : Nat := (l.filter (fun e => e.life > 0)).length
  s.modLstore x ctx node (fun l => { l with flive := l.flive + n new - n old })

/-- A shard's store with its entries changed, and what goes on after it; nothing where its region does not yet let it. DEDUCED
(assumption 70). -/
def State.setEnts (s : State) (x : Site) (v : View) (new : List KEnt) (f : KStore → KStore) (k : State → State) : State :=
  match s.plan x v.k.ctx v new with
  | (.error _, s1) => s1
  | (.ok w, s1) => k ((s1.commitStore x v new w f).flive x v.k.ctx v.k.node v.ents new)

/-- What a shard does with a query (R207, R208): its winners go to the merger; one with LIFE makes the shard hold. -/
def State.shardQuery (s : State) (x : Site) (v : View) (o : LOp) (c : KmCtl) (fmt : Ty) (reg : W32) (q : List Nat) : State :=
  let all := scoreAll fmt reg c q v.k.g v.ents
  let loc := (rankCands fmt (all.filter (fun e => !scoreNan fmt e.1))).take c.k
  let nan := (all.filter (fun e => scoreNan fmt e.1)).length
  let holds := loc.any (fun e => e.2.life > 0)
  let s1 := s.modCell x (fun c => (c.modStore v.k.ctx v.k.node (fun k => { k with hold := if holds then some o.id else none })).count
    (fun n => { n with knan := satAdd 48 n.knan nan }))
  s1.modLop x.die o.id (fun o => { o with
    todo := o.todo.filter (fun r => r != x.res), cands := o.cands ++ loc.map (fun e => (x.res, e.1, e.2))
    commit := if holds then o.commit ++ [x.res] else o.commit })

/-- A shard takes an operation from its queue. -/
def State.shardTakes (s : State) (x : Site) (v : View) : State :=
  s.modCell x (fun c => c.modStore v.k.ctx v.k.node (fun k => { k with queue := k.queue.drop 1 }))

/-- What a shard does with an operation in its turn (R206), its entries read. -/
def State.shardStep (s : State) (x : Site) (v : View) (o : LOp) : State :=
  let did (cnt : Nat) (value : LOp → Nat) (t : State) : State := (t.shardTakes x v).shardDone x.die x o.id cnt value
  match o.kind with
  | .query c fmt reg q _ => (s.shardTakes x v).shardQuery x v o c fmt reg q
  | .ins _ e =>
    (match s.entryPlace x v with
     | none => if s.latched (siteUnit x) ≥ nLatches then s else (s.shardTakes x v).lopFault o .keyFull
     | some i => s.setEnts x v (v.ents ++ [{ e with slot := i }]) id (did 0 (fun _ => e.seq)))
  | .del byVal a =>
    let new := kdelLeaves byVal a v.ents
    s.setEnts x v new id (did (v.ents.length - new.length) (fun o => o.count))
  | .purge => s.setEnts x v [] id (did v.ents.length (fun o => o.count))
  | .gen _ g => s.setEnts x v (reclaim g v.ents) (fun k => { k with g := g }) (did 0 (fun _ => g))

/-- The region of a shard's store and what goes on with it (R242): an operation waits for a waking bank; one that meets a bank that is
off ends with BANK_OFF, as with KEY_FULL. DESIGN CHOICE (assumption 89). -/
def State.shardRegion (s : State) (x : Site) (v : View) (o : LOp) : State :=
  match s.region x v.k.ctx v with
  | (.ok v1, s1) => s1.shardStep x v1 o
  | (.error (.fault code _), s1) => if s1.latched (siteUnit x) ≥ nLatches then s1 else (s1.shardTakes x v).lopFault o code
  | (.error _, s1) => s1

/-- SHARD_PERFORM (R206 to R208): the shard at a site performs the next of its operations, unless it awaits a commit. -/
def execShardPerform (x : Site) (s : State) : Host.Outcome State Fault Refusal :=
  let c := s.cell x
  let can (k : KStore) : Bool := !k.queue.isEmpty && s.worksOn k.ctx
  if c.stores.any (fun k => k.hold.isSome) || s.swapping x then .next s
  else match c.stores.find? can with
    | none => .next s
    | some k =>
      match k.queue with
      | [] => .next s
      | q :: _ =>
        match (s.die x.die).eng.lops.find? (fun o => o.id == q.op) with
        | none => .next (s.modCell x (fun c => c.modStore k.ctx k.node (fun k => { k with queue := k.queue.drop 1 })))
        | some o => .next (match s.viewOf x k.ctx k.node with | some v => s.shardRegion x v o | none => s)

/-- The tokens of a merged query leave the entry shard (R207); its operation stays until every commit has been made. An exit
too many stops the context, and no LIFE changes (R144). -/
def State.merged (s : State) (die : Nat) (o : LOp) (c : KmCtl) (fmt : Ty) (poison : Bool) : State :=
  let finish (s : State) (won : List (Nat × Nat × KEnt)) : State :=
    let s1 := s.modLop die o.id (fun o => { o with merged := true, cands := won })
    if o.commit.isEmpty then s1.dropLop die o.id else s1
  let all := o.cands.map (fun e => ((e.2.1, e.2.2) : Cand))
  let win := winners fmt c all
  let ws := (win.map (fun w => w.2)).zip (weightsOf c.wmode fmt (betaOf c) (win.map (fun w => w.1)))
  let h : Hdr := match (s.cell o.x).kmatchAt o.ctx o.node with
    | some (h, _) => h
    | none => { fmt := fmt, arity := 1, ofl := ⟨false, false, false, false⟩, t0 := .none, t1 := .none }
  match (matchSends (s.ctx o.ctx).tl o.f h poison ws).bind (sendList (s.ctx o.ctx).tl o.x) with
  | none => finish s []
  | some toks =>
    if s.exitExcess o.f (toks.filter Tok.isExit).length then
      (finish s []).takeFault (siteUnit o.x) ((s.cellRec o.x o.ctx o.f.ent.node o.f.ent.tag o.f.ent.depth .exitExcess 0).by o.f.all) .none
    else
      let won := o.cands.filter (fun e => win.any (fun w => w.2.seq == e.2.2.seq) && e.2.2.life > 0)
      finish (s.departEach o.f (toks.any Tok.isExit) 0 toks) won

/-- LENS_MERGE (R207): every shard has answered query `k`. -/
def execLensMerge (die k : Nat) (s : State) : Host.Outcome State Fault Refusal :=
  match (s.die die).eng.lops[k]? with
  | none => .next s
  | some o =>
    match o.kind with
    | .query c fmt _ _ poison =>
      if o.on.isNone || !o.todo.isEmpty || o.merged || s.latched (siteUnit o.x) ≥ nLatches then .next s
      else .next (s.merged die o c fmt poison)
    | _ => .next s

/-- SHARD_COMMIT (R208): the merger's commit reaches a shard that holds; the winners it names lose one LIFE. Entries of a bank that
has gone off are lost, so that commit changes nothing (R242). DESIGN CHOICE (assumption 89). -/
def execShardCommit (x : Site) (s : State) : Host.Outcome State Fault Refusal :=
  match (s.cell x).stores.find? (fun k => k.hold.isSome) with
  | none => .next s
  | some k =>
    let free (s : State) : State := s.modCell x (fun c => c.modStore k.ctx k.node (fun k => { k with hold := none }))
    match (s.die x.die).eng.lops.find? (fun o => k.hold == some o.id) with
    | none => .next (free s)
    | some o =>
      if !o.merged then .next s
      else
        let mine := (o.cands.filter (fun e => e.1 == x.res)).map (fun e => e.2.2.seq)
        let did (t : State) : State :=
          let s1 := (free t).modLop x.die o.id (fun o => { o with commit := o.commit.filter (fun r => r != x.res) })
          if o.commit.all (fun r => r == x.res) then s1.dropLop x.die o.id else s1
        match s.viewOf x k.ctx k.node with
        | none => .next (did s)
        | some v =>
          match s.region x k.ctx v with
          | (.ok v1, s1) => .next (s1.setEnts x v1 (deliverLife mine v1.ents) id did)
          | (.error (.fault _ _), s1) => .next (did s1)
          | (.error _, s1) => .next s1

end Sys2Proof.Machine
end

