-- ==== Sys2Proof/Machine/Loader.lean ====
section
/-! DEFINITION. The configuration loader: plane images (R309), what a load holds for each site, validation (R60, R61, R64 to
R66 and the rules they name), and the writing of a site's blocks (R65, R134, R203, R310). -/
namespace Sys2Proof.Machine

/-- The word at byte `o` of a list of bytes (R4). -/
def wordAt (bs : List Byte) (o : Nat) : Nat := leNat ((bs.drop o).take 4)

/-- The record at byte `o`: W0 lowest, as node memory holds it (R48). -/
def recAt (bs : List Byte) (o : Nat) : Rec :=
  ⟨BitVec.ofNat 32 (wordAt bs (o + 8)), BitVec.ofNat 32 (wordAt bs (o + 4)), BitVec.ofNat 32 (wordAt bs o)⟩

/-- Bytes of a pattern record before its padding (R309 Table 5). -/
def patBytes (nrect count nroute : Nat) : Nat := 28 + 4 * nrect + 16 * count + 16 * nroute

/-- A rectangle word (R309 Table 5). -/
def rectWord (w : Nat) : Option Rect := rectOf (BitVec.ofNat 32 w)

/-- The pattern record at byte `o`, and the byte after its padding; none where Table 5 is violated (R309). DEDUCED
(assumption 67). -/
def patternAt (bs : List Byte) (nslot o : Nat) : Option (Pattern × Nat) :=
  let w := wordAt bs o
  let f := wordAt bs (o + 20)
  let first := fld f 0 10
  let count := fld f 10 11
  let nrect := fld w 8 16
  let nroute := wordAt bs (o + 24)
  let size := patBytes nrect count nroute
  let rs := (List.range nrect).map (fun k => rectWord (wordAt bs (o + 28 + 4 * k)))
  let r0 := o + 28 + 4 * nrect
  let p0 := r0 + 12 * count
  let t0 := p0 + 4 * count
  if o + size > bs.length || fld w 25 7 ≠ 0 || fld f 21 11 ≠ 0 || count = 0 || count > 1024 || first + count > 1024
      || fld w 0 8 ≥ nslot || !rs.all Option.isSome then none
  else
    let route (k : Nat) : Nat × Nat × Rec :=
      (fld (wordAt bs (t0 + 16 * k)) 0 7, fld (wordAt bs (t0 + 16 * k)) 7 7, recAt bs (t0 + 16 * k + 4))
    some ({ slot := fld w 0 8, spatial := fld w 24 1 = 1
            mtr := (List.range 4).map (fun k => BitVec.ofNat 32 (wordAt bs (o + 4 + 4 * k)))
            first := first, rects := rs.filterMap id
            recs := (List.range count).map (fun k => recAt bs (r0 + 12 * k))
            pmap := ((bs.drop p0).take (4 * count)).map (fun b => b.toNat % 64)
            routes := (List.range nroute).map route },
          o + (size + 7) / 8 * 8)

/-- `n` pattern records from byte `o`, and where they end. -/
def patternsAt (bs : List Byte) (nslot : Nat) : Nat → Nat → Option (List Pattern × Nat)
  | 0, o => some ([], o)
  | n + 1, o =>
    match patternAt bs nslot o with
    | none => none
    | some (p, o1) => (patternsAt bs nslot n o1).map (fun r => (p :: r.1, r.2))

/-- Bytes of an SLH-DSA-SHAKE-256s signature (R309). -/
def sigBytes : Nat := 29792

/-- A plane image's head (R309 Table 4) is in form: its INDEX, its reserved words, NSLOT, and its size (R39).
DEDUCED (assumption 60). -/
def headOk (idx : Nat) (hd : List Byte) : Bool :=
  wordAt hd 0 == idx && 1 ≤ wordAt hd 12 && wordAt hd 12 ≤ 256 && ((hd.drop 16).take 48).all (fun b => b == 0)
    && 64 ≤ wordAt hd 8 && wordAt hd 8 + sigBytes ≤ 2 ^ 26

/-- A position lies in a rectangle (R309). -/
def rectHas (r : Rect) (p : Nat × Nat) : Bool := r.col0 ≤ p.1 && p.1 ≤ r.col1 && r.row0 ≤ p.2 && p.2 ≤ r.row1

/-- The cell positions of a rectangle, by row and then column. -/
def rectCells (r : Rect) : List (Nat × Nat) :=
  ((List.range (r.row1 + 1 - r.row0)).map (fun j =>
    ((List.range (r.col1 + 1 - r.col0)).map (fun i => (r.col0 + i, r.row0 + j))).filter (fun p => cellPos p.1 p.2))).flatten

/-- A plane holds at most 16 KiB for each site (R309): twelve bytes of a record and four of its port map, over the patterns that
cover the site. DEDUCED (assumption 85). -/
def planeFits (pats : List Pattern) : Bool :=
  ((pats.map (fun p => (p.rects.map rectCells).flatten)).flatten).eraseDups.all (fun q =>
    (pats.filter (fun p => p.rects.any (fun r => rectHas r q))).foldl (fun a p => a + 16 * p.recs.length) 0 ≤ 16384)

/-- The plane of an image (R309), given its bytes before the signature. -/
def planeOf (idx : Nat) (bs : List Byte) : Option Plane :=
  match patternsAt bs (wordAt bs 12) (wordAt bs 4) 64 with
  | none => none
  | some r => if r.2 > bs.length || !planeFits r.1 then none else some ⟨idx, wordAt bs 12, r.1, [], bs⟩

/-- A block as it stands in a run of records: its index, its header, and what follows it (R60). A run of records that no
header precedes counts as one. -/
structure RawBlk where
  hdr  : Nat
  head : Rec
  recs : List Rec
  full : Bool
  deriving DecidableEq, Repr

/-- NREC of a header (R60). -/
def recNrec (r : Rec) : Nat := fld r.w2.toNat 0 1 * 16 + fld r.w1.toNat 28 4

/-- The blocks of a run of records from index `i` (R60). -/
def rawBlocks : Nat → Nat → List Rec → List RawBlk
  | 0, _, _ => []
  | _, _, [] => []
  | n + 1, i, r :: t =>
    if r.opc = 0 then
      let k := recNrec r + 1
      ⟨i, r, t.take k, t.length ≥ k⟩ :: rawBlocks n (i + 1 + k) (t.drop k)
    else
      let k := (t.takeWhile (fun q => q.opc ≠ 0)).length
      ⟨i, r, t.take k, true⟩ :: rawBlocks n (i + 1 + k) (t.drop k)

/-- What a load holds for one site: the resident there, its position, its site word, its blocks and its port map; and the port-map
store of the cell, which it is written over. -/
structure SiteImg where
  x       : Site
  p       : Nat × Nat
  spatial : Bool
  mtr     : List W32
  blks    : List RawBlk
  pmap    : List (Nat × List Nat)
  base    : Table Nat
  deriving DecidableEq, Repr

/-- A port-map entry that a load leaves (R61): its own, or what stands in the store already. -/
def SiteImg.entry (i : SiteImg) (e : Nat) : Nat :=
  match i.pmap.find? (fun m => m.1 ≤ e && e < m.1 + m.2.length) with
  | some m => m.2.getD (e - m.1) 0
  | none => (tget e i.base).getD 0

/-- The parts of a plane that a slot's patterns give the sites of a die, by row and then column (R66, R310). DESIGN
CHOICE (assumption 69). -/
def State.siteImgs (s : State) (die : Nat) (pats : List Pattern) : List SiteImg :=
  let ps := ((pats.map (fun p => (p.rects.map rectCells).flatten)).flatten).eraseDups
  let order := ((List.range 72).map (fun row => (List.range 128).filterMap (fun col =>
    if ps.contains (col, row) then some (col, row) else none))).flatten
  order.map (fun p =>
    let mine := pats.filter (fun q => q.rects.any (fun r => rectHas r p))
    let one := mine.head?
    let x : Site := ⟨die, s.residentAt die (rankOf p.1 p.2)⟩
    { x := x, p := p, base := (s.cell x).pmap
      spatial := match one with | some q => q.spatial | none => false
      mtr := match one with | some q => q.mtr | none => [0, 0, 0, 0]
      blks := (mine.map (fun q => rawBlocks q.recs.length q.first q.recs)).flatten
      pmap := mine.map (fun q => (4 * q.first, q.pmap)) })

/-- What validation of a site's blocks needs beside them: the context and its formats, its blocks that stay at the site, the
route indices loaded for the site, how many LBOUND records and MTILE stores the site has already (R135, R200), and the
logical stores that may not be (R203, R235). -/
structure LoadEnv where
  img    : SiteImg
  ctx    : Nat
  fmt    : List W32
  old    : List Blk
  routes : List Nat
  lbs    : Nat
  mtiles : Nat
  noSets : List Nat
  deriving DecidableEq, Repr

/-- A record of the load, or of the context's blocks that stay, at an index: none at a header or an EXT record (R52). -/
def LoadEnv.nodeAt (e : LoadEnv) (n : Nat) : Option Rec :=
  let raw := e.img.blks.findSome? (fun (b : RawBlk) => if b.head.opc = 0 && b.hdr < n then b.recs[n - b.hdr - 1]? else none)
  let r := match raw with
    | some r => some r
    | none => e.old.findSome? (fun (b : Blk) => if b.hdr < n then b.recs[n - b.hdr - 1]? else none)
  match r with
  | some r => if r.opc = extOpc || r.opc = 0 then none else some r
  | none => none

/-- The EXT record behind a position of a block (R59). -/
def RawBlk.ext (b : RawBlk) (p : Nat) : Option Rec :=
  match b.recs[p + 1]? with
  | some r => if r.opc = extOpc then some r else none
  | none => none

/-- Why a record and the EXT record behind it are refused by themselves (R64): which of the two, and the reason.
DEDUCED (assumption 67). -/
def recProblem (r : Rec) (ext : Option Rec) : Option (Nat × Nat) :=
  match decodeRec r ext with
  | .ok _ => none
  | .error y =>
    match ext with
    | none => some (0, y.code)
    | some e =>
      if y = .oflInvalid then some (0, y.code)
      else match decodeRec r (if y = .extMisplaced then none else some (plainExt r e)) with
        | .error z => if z = .extMisplaced then some (1, y.code) else some (0, z.code)
        | .ok _ => some (1, y.code)

/-- The local targets of a record and its EXT record, with which of the two holds them (R51, R52). -/
def localTargets (r : Rec) (ext : Option Rec) : List (Nat × Target) :=
  let ok (i : Nat) (t : Except Reject Target) : List (Nat × Target) := match t with | .ok g => [(i, g)] | .error _ => []
  ok 0 (targetOf r.t0) ++ ok 0 (targetOf r.t1) ++
    (match r.opc, ext with
     | 0x007, some e => ok 1 (targetOf (fld e.w0.toNat 0 22)) ++ ok 1 (targetOf (fld e.w1.toNat 0 22))
     | _, _ => [])

/-- The region of an access, ORDTOK or FENCE record (R270): none for a record of no region. -/
def regionOf (r : Rec) : Option (Option Nat) :=
  match decodeRec r none with
  | .ok i =>
    match i with
    | .ld _ c | .st _ c | .ldG _ c | .stG _ c | .ldm _ c | .stm _ c | .aadd _ c | .afadd _ c | .amin _ c | .amax _ c
    | .aand _ c | .aor _ c | .axor _ c | .axchg _ c | .acas _ c | .ldr _ c | .cmls _ c | .ordtok _ c | .fence _ c => some c.region
    | _ => none
  | .error _ => none

/-- The wave fields of an access record (R270). -/
def wavesOf (r : Rec) : List WaveRef := [waveOf (fld r.w0.toNat 5 11 / 34), waveOf (fld r.w0.toNat 5 11 % 34)]

/-- A wave field names its own position, or one that holds no access, ORDTOK or FENCE of the same region (R270). -/
def waveBad (b : RawBlk) (p : Nat) (r : Rec) : Bool :=
  match regionOf r with
  | none => false
  | some g => (wavesOf r).any (fun w => match w with
    | .pos q => q = p || (match b.recs[q]? with | some t => regionOf t ≠ some g | none => true)
    | _ => false)

/-- The KMATCH record of a node of the load or of the blocks that stay. -/
def LoadEnv.kmatch (e : LoadEnv) (n : Nat) : Option (Rec × Nat × Nat × Bool) :=
  match e.nodeAt n with
  | some r =>
    if r.opc = 0x282 then some (r, fld r.w0.toNat 13 8 + 1, fld r.w0.toNat 21 4, fld r.w0.toNat 27 1 = 1) else none
  | none => none

/-- The key width of a KMATCH record under the context's formats (R137). -/
def LoadEnv.width (e : LoadEnv) (r : Rec) : Nat := keyWidth (tyOf r.fmt) (e.fmt.getD (fld r.w0.toNat 21 4) 0)

/-- The key store instructions (R146). -/
def namesStore (opc : Nat) : Bool := opc = 0x280 || opc = 0x281 || opc = 0x283 || opc = 0x284

/-- A control field that is out of range only beside the rest of the load: wave fields (R270), STORE (R146, R147), key sizes of
NF (R142), a TILE form outside its island's quad (R317), an LBOUND or MTILE KMATCH record too many (R135, R200), a logical store
too large or too many (R203, R235). `dead` are the blocks of the load that are rejected already; `nth` counts the records of a
kind before this one. DEDUCED (assumption 67). -/
def LoadEnv.litBad (e : LoadEnv) (dead : List Nat) (b : RawBlk) (p : Nat) (r : Rec) (nth : (Rec → Bool) → Nat) : Bool :=
  let lit := r.w0.toNat
  let isLb (q : Rec) : Bool := q.opc = 0x046
  let isMt (q : Rec) : Bool := q.opc = 0x282 && fld q.w0.toNat 11 2 = 1
  if r.opc = 0x046 then e.lbs + nth isLb ≥ 16
  else if r.opc = 0x300 then fld lit 21 2 ≠ 0 && quadOf e.img.p ≠ quadOf (islandPos (fld lit 27 5))
  else if r.opc = 0x282 then
    (tyOf r.fmt == .nf && fld lit 25 1 = 0 && (fld lit 13 8 + 1) * e.width r > 512)
      || (isMt r && e.mtiles + nth isMt ≥ 1) || (fld lit 27 1 = 1 && e.noSets.contains (b.hdr + 1 + p))
  else if namesStore r.opc then
    (match e.kmatch (fld lit 0 10) with
     | none => true
     | some (q, d, _, _) =>
       dead.any (fun h => e.img.blks.any (fun (k : RawBlk) => k.hdr = h && h < fld lit 0 10 && fld lit 0 10 ≤ h + k.recs.length))
         || (r.opc = 0x280 && (q.fmt ≠ r.fmt || (fld lit 26 1 = 0 && d * e.width q > 512))))
  else waveBad b p r

/-- The class of a stage record is permitted in a SPATIAL block (R168). -/
def spatialOk (opc : Nat) : Bool :=
  [0x002, 0x003, 0x006, 0x007, 0x040, 0x041, 0x042, 0x043, 0x044, 0x380, 0x381].contains opc || (2 ≤ opc / 64 && opc / 64 ≤ 8)

/-- The external ports of a stage program, with their OFFs, by record (R169). -/
def externals (b : Blk) : List (Nat × Nat) :=
  ((List.range b.recs.length).map (fun p =>
    if !b.isNode p then [] else
    ((List.range (b.recAt p).arity).filter (fun k => !b.internal (b.hdr + 1 + p) k)).map (fun k => (p, b.off p k)))).flatten

/-- The block a raw block becomes. -/
def LoadEnv.toBlk (e : LoadEnv) (plane slot : Nat) (b : RawBlk) : Blk :=
  let w2 := b.head.w2.toNat
  let w1 := b.head.w1.toNat
  let pm := fld w1 18 10
  { ctx := e.ctx, plane := plane, slot := slot, hdr := b.hdr, exits := fld w2 6 6, fsize := fld w2 1 5 + 1, pmbase := pm
    prio := fld w1 13 5, stores := b.head.w0, recs := b.recs
    pmap := (List.range (4 * b.recs.length)).map (fun k => e.img.entry (4 * pm + k)), present := true, spatial := e.img.spatial }

/-- A SPATIAL block's record breaks R168 or R169: reason 0xA at its index. -/
def LoadEnv.spatialBad (e : LoadEnv) (b : RawBlk) (p : Nat) : Bool :=
  let k := e.toBlk 0 0 b
  let opc := (k.recAt p).opc
  let before := (List.range p).filter (fun q => k.isNode q)
  let ext := externals k
  let mine := (ext.filter (fun x => x.1 = p)).map (fun x => x.2)
  let prior := (ext.filter (fun x => x.1 < p)).map (fun x => x.2)
  !spatialOk opc || before.any (fun q => stageOf (k.recAt q).opc = stageOf opc)
    || mine.any (fun o => o > 3 || prior.contains o) || mine.eraseDups.length ≠ mine.length
    || prior.length + mine.length > 4

/-- A header is refused with reason 0xA (R60, R61, R64, R168); a SPATIAL cell's one block counts with those that stay. DEDUCED
(assumption 67). -/
def LoadEnv.headerBad (e : LoadEnv) (b : RawBlk) : Bool :=
  let k := e.toBlk 0 0 b
  let n := recNrec b.head
  let stores := k.stores.toNat
  let isStore (p : Nat) : Bool := match b.recs[p]? with | some r => [0x201, 0x203, 0x205, 0x24A, 0x341, 0x342].contains r.opc || (0x240 ≤ r.opc && r.opc ≤ 0x248) | none => false
  let ports := ((List.range b.recs.length).map (fun p =>
    if k.isNode p then (List.range (k.recAt p).arity).map (fun i => e.img.entry (4 * (k.pmbase + p) + i)) else [])).flatten
  let overlap := e.img.blks.any (fun c => c.hdr ≠ b.hdr && c.hdr ≤ b.hdr + b.recs.length && b.hdr ≤ c.hdr + c.recs.length)
    || (e.img.blks.filter (fun c => c.hdr = b.hdr)).length > 1 || e.old.any (fun c => k.overlaps c)
  k.exits = 0 || !b.full || b.hdr + 1 + n > 1023 || overlap
    || (List.range 32).any (fun p => fld stores p 1 = 1 && !isStore p)
    || k.pmbase + n > 1023 || ports.any (fun v => v / 32 ≠ 1 || v % 32 ≥ k.fsize)
    || (ports.map (fun v => v % 32)).eraseDups.length ≠ ports.length
    || (e.img.spatial && e.img.blks.length + e.old.length > 1)

/-- Every reason for which a block is refused, each with its index (R64); a header inside a block's range is a record of that block,
and refused there with OPC_UNASSIGNED. DEDUCED (assumption 67). -/
def LoadEnv.reasons (e : LoadEnv) (dead : List Nat) (b : RawBlk) : List (Nat × Nat) :=
  if b.head.opc ≠ 0 then [(b.hdr, 1)]
  else
    let w2 := b.head.w2.toNat
    let hd : List (Nat × Nat) :=
      (if fld w2 12 10 ≠ 0 || fld b.head.w1.toNat 0 13 ≠ 0 then [(b.hdr, 2)] else [])
        ++ (if e.headerBad b then [(b.hdr, 0xA)] else [])
    let one (p : Nat) : List (Nat × Nat) :=
      let i := b.hdr + 1 + p
      match b.recs[p]? with
      | none => []
      | some r =>
        if r.opc = 0 then [(i, 1)]
        else if r.opc = extOpc then
          (match p with
           | 0 => [(i, 9)]
           | q + 1 => match b.recs[q]? with
             | some r0 => if r0.opc = extOpc then [(i, 9)] else []
             | none => [])
        else
          let ext := b.ext p
          let nth (k : Rec → Bool) : Nat :=
            let earlier := (e.img.blks.filter (fun c => c.hdr < b.hdr)).map (fun c => (c.recs.filter k).length)
            earlier.foldl (fun a n => a + n) 0 + ((b.recs.take p).filter k).length
          let tg (t : Nat × Target) : List (Nat × Nat) :=
            match t.2 with
            | .local _ n k => (match e.nodeAt n with
              | some q => if k < q.arity then [] else [(i + t.1, 6)]
              | none => [(i + t.1, 6)])
            | .route _ q => if e.routes.contains q then [] else [(i + t.1, 0xC)]
            | .special _ .exit => if e.img.spatial then [(i + t.1, 5)] else []
            | _ => []
          (match recProblem r ext with | some (k, c) => [(i + k, c)] | none => [])
            ++ ((localTargets r ext).map tg).flatten
            ++ (if e.litBad dead b p r nth then [(i, 8)] else [])
            ++ (if e.img.spatial && e.spatialBad b p then [(i, 0xA)] else [])
    hd ++ ((List.range b.recs.length).map one).flatten

/-- The reason reported of a block: of the record of lowest index, the lowest (R64). DEDUCED (assumption 67). -/
def worst (l : List (Nat × Nat)) : Option (Nat × Nat) :=
  l.foldl (fun a e => match a with
    | none => some e
    | some m => if e.1 < m.1 || (e.1 = m.1 && e.2 < m.2) then some e else some m) none

/-- MTR0 to MTR3 keep to R226 and R227; `mtile`: the site holds a KMATCH record with MTILE residence. -/
def mtrOk (mtr : List W32) (mtile : Bool) : Bool :=
  let m : MTile := { mtr := mtr }
  let ks := (List.range 4).filter (fun k => m.valid k)
  let banks (k : Nat) : List Nat := (List.range (fld (m.word k) 23 3 + 1)).map (fun i => fld (m.word k) 26 3 + i)
  let one (k : Nat) : Bool :=
    let w := m.word k
    let room := m.rsize k
    fld w 29 2 = 0 && fld w 26 3 + fld w 23 3 ≤ 7 && fld w 16 1 = 0 &&
      (match m.mode k with
       | 0 | 2 => (m.depth k + 1) * m.size k ≤ room && m.size k > 0 && m.size k ≤ 65536
       | 1 => m.depth k = 0 && m.size k ≤ room && m.size k > 0 && m.size k ≤ 65536
       | _ => m.depth k = 0 && m.size k = 0 && fld w 26 3 = 0 && fld w 23 3 = 7)
  ks.all one && ((ks.map banks).flatten).eraseDups.length == ((ks.map banks).flatten).length
    && (ks.any (fun k => m.mode k = 3) == mtile)

/-- The rejected blocks of a site's load (R64, R65), each with its index, the index of its failing record and its reason. A
store instruction falls with the block of its KMATCH record (R146), so the verdict is taken until it stands. DEDUCED
(assumption 67). -/
def LoadEnv.verdict (e : LoadEnv) : Nat → List (Nat × Nat × Nat) → List (Nat × Nat × Nat)
  | 0, l => l
  | n + 1, l =>
    let dead := l.map (fun v => v.1)
    let mt := e.mtiles ≥ 1 || e.img.blks.any (fun b => b.recs.any (fun r => r.opc = 0x282 && fld r.w0.toNat 11 2 = 1))
    let next := e.img.blks.filterMap (fun b =>
      if !mtrOk e.img.mtr mt then some (b.hdr, 0, 0xA)
      else (worst (e.reasons dead b)).map (fun r => (b.hdr, r.1, r.2)))
    LoadEnv.verdict e n next

/-- LBOUND records placed at a site for contexts that have not ended (R200). -/
def State.lbPlaced (s : State) (x : Site) (keep : Blk → Bool) : Nat :=
  ((s.cell x).blks.filter (fun b => keep b && !s.gone b.ctx)).foldl (fun a b => a + (b.recs.filter (fun r => r.opc = 0x046)).length) 0

/-- MTILE stores placed at a site for contexts that have not ended (R135). -/
def State.mtPlaced (s : State) (x : Site) (keep : Blk → Bool) : Nat :=
  ((s.cell x).blks.filter (fun b => keep b && !s.gone b.ctx)).foldl (fun a b =>
    a + (b.recs.filter (fun r => r.opc = 0x282 && fld r.w0.toNat 11 2 = 1)).length) 0

/-- The home slice of a logical store (R203), from shard 0's position. -/
def homeOfShard (p : Nat × Nat) : Nat := sliceColEast p.1 * 18 + p.2 / 4

/-- A number put in its place among rising ones. -/
def insNat (a : Nat) : List Nat → List Nat
  | [] => [a]
  | b :: t => if a ≤ b then a :: b :: t else b :: insNat a t

/-- The shards a load gives each logical store: node and residents, rising (R203). -/
def loadShards (imgs : List SiteImg) : List (Nat × List Nat) :=
  let all := (imgs.map (fun i => (i.blks.map (fun b => ((List.range b.recs.length).filter (fun p =>
    match b.recs[p]? with | some r => r.opc = 0x282 && fld r.w0.toNat 27 1 = 1 | none => false)).map
      (fun p => (b.hdr + 1 + p, i.x.res)))).flatten)).flatten
  let nodes := (all.map (fun e => e.1)).eraseDups
  nodes.map (fun n => (n, ((all.filter (fun e => e.1 == n)).map (fun e => e.2)).foldr insNat []))

/-- The logical stores of a load that may not be: more than 256 shards (R203), or a seventeenth store on a slice (R235). -/
def State.noSets (s : State) (die ctx plane : Nat) (sets : List (Nat × List Nat)) : List Nat :=
  let home (l : List Nat) : Nat := homeOfShard (s.pos ⟨die, l.headD 0⟩)
  let old (n : Nat) : Option LStore := (s.die die).eng.lstores.find? (fun l => l.ctx == ctx && l.plane == plane && l.node == n)
  let have_ (n : Nat) : Bool := (old n).isSome
  let size (e : Nat × List Nat) : Nat := match old e.1 with
    | some l => (l.shards ++ e.2).eraseDups.length
    | none => e.2.length
  let fill (sl : Nat) : Nat := ((s.die die).eng.lstores.filter (fun l => l.slice == sl)).length
  (sets.zipIdx.filter (fun e => size e.1 > 256 || (!have_ e.1.1 &&
    fill (home e.1.2) + ((sets.take e.2).filter (fun t => !have_ t.1 && home t.2 == home e.1.2)).length ≥ 16))).map (fun e => e.1.1)

/-- The route entries of a load, with the context written in (R179): a reserved bit keeps one out, and so does a router that
is full. DEDUCED (assumption 67). -/
def State.loadRoutes (s : State) (die ctx plane : Nat) (pats : List Pattern) : List RouteEnt :=
  let all := (pats.map (fun p => p.routes)).flatten.eraseDups
  let clean := all.filter (fun r => fld r.2.2.w2.toNat 0 9 = 0 && fld r.2.2.w1.toNat 0 5 = 0 && fld r.2.2.w0.toNat 0 5 = 0)
  let ent (r : Nat × Nat × Rec) : RouteEnt :=
    ⟨r.1, r.2.1, { r.2.2 with w2 := BitVec.ofNat 32 (2 ^ 31 + ctx * 2 ^ 17 + fld r.2.2.w2.toNat 0 17) }, plane, false⟩
  let has (p : Nat × Nat) : Nat := ((s.die die).net.routes.filter (fun e => (e.col, e.row) == p)).length
  (clean.zipIdx.filter (fun e => has (e.1.1, e.1.2.1)
    + ((clean.take e.2).filter (fun q => (q.1, q.2.1) == (e.1.1, e.1.2.1))).length < 1024)).map (fun e => ent e.1)

/-- The route indices loaded for a site (R53, R179). -/
def routesFor (x : Site) (ctx : Nat) (l : List RouteEnt) : List Nat :=
  ((l.filter (fun e => fld e.w.w1.toNat 19 13 = x.res && fld e.w.w2.toNat 17 14 = ctx)).map (fun e => fld e.w.w2.toNat 9 8)).eraseDups

/-- A route with an entry that a router could not take: its key is loaded only in part, and blocks that need it fail
(R179). -/
def routesShort (ctx : Nat) (pats : List Pattern) (l : List RouteEnt) (x : Site) : List Nat :=
  let want := ((pats.map (fun p => p.routes)).flatten.eraseDups).filter (fun r => fld r.2.2.w1.toNat 19 13 = x.res)
  ((want.filter (fun r => !l.any (fun e => e.col = r.1 && e.row = r.2.1 && fld e.w.w2.toNat 17 14 = ctx
    && fld e.w.w2.toNat 0 17 = fld r.2.2.w2.toNat 0 17 && e.w.w1 = r.2.2.w1 && e.w.w0 = r.2.2.w0))).map
      (fun r => fld r.2.2.w2.toNat 9 8)).eraseDups

/-- PLANE.REJ of a rejection (R66 Table 10). -/
def rejWord (reason : Nat) (p : Nat × Nat) (nridx : Nat) : Nat :=
  2 ^ 31 + reason * 2 ^ 27 + p.1 * 2 ^ 20 + p.2 * 2 ^ 13 + nridx * 2 ^ 3

/-- A rejected block (R65, R66): PLANE.REJ and PLANE.REJCNT, the trace record, and the fault of its context. -/
def State.rejectBlk (s : State) (x : Site) (ctx nridx reason : Nat) : State :=
  let w := rejWord reason (s.pos x) nridx
  let s1 := s.modDie x.die (fun d => { d with
    rej := if fld d.rej.toNat 31 1 = 1 then d.rej else BitVec.ofNat 32 w
    rejcnt := satAdd 32 d.rejcnt 1 })
  let ev : Event := { code := 0xA2, tenant := (s.ctx ctx).tenant, ctx := ctx, arg := nridx }
  let s2 := s1.traceCell x ev
  s2.takeFault (siteUnit x) (s2.cellRec x ctx nridx 0 0 .configReject w) .none

/-- The key stores of a block, created empty (R134, R137). -/
def LoadEnv.stores (e : LoadEnv) (b : RawBlk) : List KStore :=
  (List.range b.recs.length).filterMap (fun p =>
    match b.recs[p]? with
    | some r =>
      if r.opc ≠ 0x282 then none
      else
        let kw := e.width r
        let d := fld r.w0.toNat 13 8 + 1
        let frame := fld r.w0.toNat 11 2 = 0
        let size := entrySize (fld r.w0.toNat 26 1 = 1) d kw
        some { node := b.hdr + 1 + p, ctx := e.ctx, kw := kw, width := if frame then (size + 63) / 64 else 0, seq := 0, g := 0
               ents := [], hold := none, queue := [], fresh := true }
    | none => none)

/-- A block written into a site (R65, R311): it stands in node memory unless its range holds a pinned-in block; others in its
range leave node memory. -/
def State.placeBlk (s : State) (x : Site) (b : Blk) (ks : List KStore) : State :=
  let under := (s.cell x).blks.filter (fun a => a.present && a.overlaps b)
  let free := !under.any (fun a => s.pinnedIn x a)
  s.modCell x (fun c => ({ c with
    blks := (c.blks.map (fun a => if free && a.overlaps b then { a with present := false } else a)) ++ [{ b with present := free }]
    stores := c.stores ++ ks } : Cell).putMap (4 * b.pmbase) b.pmap)

/-- The loader at one site (R64 to R66, R310): its blocks judged, those that pass written, the others rejected in order of
node index. -/
def State.loadSite (s : State) (e : LoadEnv) (plane slot : Nat) : State :=
  let x := e.img.x
  let bad := e.verdict (e.img.blks.length + 1) []
  let rec sorted : List RawBlk → List RawBlk
    | [] => []
    | b :: t =>
      let rec ins (a : RawBlk) : List RawBlk → List RawBlk
        | [] => [a]
        | c :: r => if a.hdr ≤ c.hdr then a :: c :: r else c :: ins a r
      ins b (sorted t)
  (sorted e.img.blks).foldl (fun t b =>
    match bad.find? (fun v => v.1 == b.hdr) with
    | some v => t.rejectBlk x e.ctx v.2.1 v.2.2
    | none => t.placeBlk x (e.toBlk plane slot b) (e.stores b)) s

/-- The site word of a load written where no other context uses the site (R226, R310), and the configuration generation
(R344). DEDUCED (assumption 67). -/
def State.siteWord (s : State) (i : SiteImg) (free : Bool) : State :=
  s.modCell i.x (fun c =>
    let c1 := { c with cgen := c.cgen + 1 }
    if free then { c1 with
      spat := { c1.spat with on := i.spatial }
      mt := { c1.mt with mtr := i.mtr, regs := [{}, {}, {}, {}] } }
    else c1)

/-- Another live context uses a site (R310). DEDUCED (assumption 61). -/
def State.shared (s : State) (x : Site) (ctx : Nat) : Bool :=
  (s.cell x).blks.any (fun b => b.ctx != ctx && !s.gone b.ctx)

/-- The site word of a load agrees with the one in use (R310). -/
def State.wordFits (s : State) (i : SiteImg) (ctx : Nat) : Bool :=
  !s.shared i.x ctx || ((s.cell i.x).spat.on == i.spatial && (s.cell i.x).mt.mtr == i.mtr && !i.spatial)

/-- The shards of a load join their logical stores at the home slices, which are created empty where there are none yet, of the
sites whose records passed (R203, R204). A shard that joins takes the store's generation. -/
def State.makeStores (s : State) (die ctx plane : Nat) (sets : List (Nat × List Nat)) : State :=
  sets.foldl (fun t e =>
    let have_ := e.2.filter (fun r => ((t.cell ⟨die, r⟩).store ctx e.1).isSome)
    let is (l : LStore) : Bool := l.ctx == ctx && l.plane == plane && l.node == e.1
    if have_.isEmpty then t
    else match (t.die die).eng.lstores.find? is with
    | some l =>
      let t1 := have_.foldl (fun u r => u.modCell ⟨die, r⟩ (fun c => c.modStore ctx e.1 (fun k => { k with g := l.g }))) t
      t1.modDie die (fun d => { d with eng := { d.eng with
        lstores := lmap is (fun l => { l with shards := (l.shards ++ have_).eraseDups.foldr insNat [] }) d.eng.lstores } })
    | none =>
      let l : LStore := { ctx := ctx, plane := plane, node := e.1, slice := homeOfShard (t.pos ⟨die, have_.headD 0⟩), shards := have_
                          seq := 0, g := 0, on := 0, flive := 0 }
      t.modDie die (fun d => { d with eng := { d.eng with lstores := d.eng.lstores ++ [l] } })) s

/-- A shard whose record a reload replaces leaves its logical store, with its entries that have LIFE; the last takes the store with it
(R134, R204). -/
def State.leaveStore (s : State) (x : Site) (k : KStore) : State :=
  let n := ((s.keyEnts x k).filter (fun e => e.life > 0)).length
  let out (l : LStore) : LStore := { l with shards := l.shards.filter (fun r => r != x.res), flive := l.flive - n }
  let cut (l : List LStore) : List LStore := (lmap (fun l => l.of k.ctx k.node x.res) out l).filter (fun l => !l.shards.isEmpty)
  s.modDie x.die (fun d => { d with eng := { d.eng with lstores := cut d.eng.lstores } })

/-- What the load of a site's blocks is judged by, given the whole load. -/
def State.envOf (s : State) (i : SiteImg) (ctx : Nat) (pats : List Pattern) (routes : List RouteEnt) (noSets : List Nat)
    (keep : Blk → Bool) : LoadEnv :=
  let short := routesShort ctx pats routes i.x
  { img := i, ctx := ctx, fmt := (s.ctx ctx).fmt, old := (s.cell i.x).blks.filter (fun b => b.ctx == ctx && keep b)
    routes := (routesFor i.x ctx routes).filter (fun r => !short.contains r)
    lbs := s.lbPlaced i.x keep, mtiles := s.mtPlaced i.x keep, noSets := noSets }

/-- THE DROP (R310): every pattern of a context's slot is written into the sites of its rectangles, route entries first.
DESIGN CHOICE (assumption 69). -/
def State.drop (s : State) (die ctx plane slot : Nat) (pats : List Pattern) : State :=
  let mine := pats.filter (fun p => p.slot == slot)
  let imgs := s.siteImgs die mine
  let rs := s.loadRoutes die ctx plane mine
  let s1 := s.modDie die (fun d => { d with net := { d.net with routes := d.net.routes ++ rs } })
  let sets := loadShards imgs
  let no := s1.noSets die ctx plane sets
  let s2 := imgs.foldl (fun t i =>
    let t1 := t.siteWord i (!t.shared i.x ctx)
    let t2 := t1.modCell i.x (fun c => { c with herd := { c.herd with since := (t1.die die).herd.inst } })
    t2.loadSite (t2.envOf i ctx mine rs no (fun _ => true)) plane slot) s1
  s2.makeStores die ctx plane sets

end Sys2Proof.Machine
end

