-- ==== Sys2Proof/Machine/Contexts.lean ====
section
/-! DEFINITION. Contexts: launches by the host and by LAUNCH (R156 to R159, R383), the drop's end and injection (R157, R160),
quiescence (R161), and the end of a context (R384). -/
namespace Sys2Proof.Machine

/-- A launch that has passed its checks: the context it makes (R157). -/
structure Plan where
  die : Nat
  c   : Nat
  k   : Ctx
  deriving DecidableEq, Repr

/-- How the checks of a launch end (R157): refused with a status, waiting (for a page in migration or anything else that ends), or
passed. -/
inductive Check where
  | refused (code : Nat) | wait (b : Block) | pass (p : Plan)
  deriving DecidableEq, Repr

/-- The bits of CTX.TL that R12 gives a meaning. DEDUCED (assumptions 31, 68). -/
def tlMask (w : Nat) : BitVec 96 :=
  BitVec.ofNat 96 (fld w 0 30 + fld w 32 30 * 2 ^ 32 + fld w 64 15 * 2 ^ 64 + fld w 80 4 * 2 ^ 80)

/-- A tag layout is valid (R12). DEDUCED (assumption 68). -/
def tlOk (tl : BitVec 96) : Bool := lvlLo tl (nlev tl) ≤ 64

/-- A token record is valid (R159); its source index stands in DEST [4:0]. DEDUCED (assumption 68). -/
def recordOk (tl : BitVec 96) (nsrc h : Nat) (tag : W64) : Bool :=
  let depth := fld h 78 4
  fld h 101 27 == 0 && fld h 96 5 < nsrc && fld h 82 14 == 0 && fld h 0 1 == 0 && fld h 6 4 == 0 && depth ≤ nlev tl
    && tag.toNat % 2 ^ lvlLo tl (nlev tl) < 2 ^ lvlLo tl depth

/-- A source word is valid (R158). -/
def sourceOk (die : Nat) (w : W32) : Bool :=
  let v := w.toNat
  fld v 30 2 == die && cellPos (fld v 23 7) (fld v 16 7) && fld v 12 4 == 0

/-- What reading a token list gives: its tokens, each with its source index in `site`; whether a record is invalid. -/
inductive Listed where
  | fault | wait (b : Block) | ok (toks : List Tok) (good : Bool)
  deriving DecidableEq, Repr

/-- The bytes of a handle of a context that is being launched, as numbers: none where they fault. -/
def State.launchRead (s : State) (sc h o n : Nat) : Except Block (List Byte × Bool) × State :=
  match s.spots (homeSite sc) sc h o n false with
  | (.error b, s1) => (.error b, s1)
  | (.ok l, s1) => (.ok (s1.readSpots l), s1)

/-- What makes a launch wait and not fail. -/
def Block.waits : Block → Bool
  | .migr _ | .wait => true
  | _ => false

/-- The records of a token list from offset `o` (R159). DEDUCED (assumption 68). -/
def State.tokenList (s : State) (sc h : Nat) (tl : BitVec 96) (nsrc : Nat) : Nat → Nat → List Tok → Bool → Listed × State
  | 0, _, acc, good => (.ok acc good, s)
  | n + 1, o, acc, good =>
    match s.launchRead sc h o 32 with
    | (.error b, s1) => (if b.waits then .wait b else .fault, s1)
    | (.ok (b, bad), s1) =>
      let hd := leNat (b.take 16)
      let tag : W64 := BitVec.ofNat 64 (leNat ((b.drop 16).take 8))
      let vec := fld hd 58 1 = 1
      let r : Except Block (List Byte × Bool) × State :=
        if vec then s1.launchRead sc h (o + 32) 64 else (.ok ((b.drop 24).take 8, bad), s1)
      match r with
      | (.error b, s2) => (if b.waits then .wait b else .fault, s2)
      | (.ok (d, bad2), s2) =>
        if bad || bad2 then (.fault, s2)
        else
          let t := tokOf hd tag (BitVec.ofNat 512 (leNat d))
          State.tokenList s2 sc h tl nsrc n (o + (if vec then 96 else 32)) (acc ++ [{ t with site := fld hd 96 5 }])
            (good && recordOk tl nsrc hd tag)

/-- The lowest free context index of a die (R157). -/
def State.freeIndex (s : State) (die : Nat) : Option Nat :=
  (List.range 4096).find? (fun i => (s.ctx (die * 4096 + i)).st == .free)

/-- A plane of a die. -/
def State.planeAt (s : State) (die idx : Nat) : Option Plane := (s.die die).tab.planes.find? (fun p => p.idx == idx)

/-- The slot a launch binds (R309): the lowest that no live context holds. -/
def Plane.freeSlot (p : Plane) : Option Nat := (List.range p.nslot).find? (fun k => !p.bound.any (fun b => b.1 == k))

/-- The slot of a plane that a launch on a die would take, where nothing refuses it with PLANE_ABSENT (R157, R309, R310, R415,
R417): the die is up, a slot is free and has patterns, no site of theirs is retired, and each site word can stand. -/
def State.launchSlot (s : State) (die idx : Nat) : Option Nat :=
  if !(s.die die).power.on then none
  else match s.planeAt die idx with
    | none => none
    | some p => match p.freeSlot with
      | none => none
      | some k =>
        let mine := p.pats.filter (fun q => q.slot == k)
        let imgs := s.siteImgs die mine
        if imgs.isEmpty || imgs.any (fun i => (s.die die).tab.retired.contains (rankOf i.p.1 i.p.2))
            || imgs.any (fun i => !s.wordFits i 16384) then none
        else some k

/-- The checks of a launch, in their order (R157); an NSRC that no source table can hold, 33 to 63, is refused with
DESC_INVALID: `d` are the descriptor's 64 bytes, `srcs` its source words, `bad` says that one of them is unreadable; `by_` is
the launching context. DEDUCED (assumption 68); DESIGN CHOICE (assumption 84). -/
def State.launchCheck (s : State) (d : List Byte) (bad : Bool) (aligned : Bool) (srcs : List W32) (by_ dov : Option Nat) : Check × State :=
  let w (k : Nat) : Nat := wordAt d (4 * k)
  let tenant := fld (w 0) 24 8
  let die := dov.getD (fld (w 0) 11 2)
  let nsrc := fld (w 0) 5 6
  let tl := tlMask (leNat ((d.drop 4).take 12))
  let htbase := w 4 + fld (w 5) 0 25 * 2 ^ 32
  let sc := 16384 + die * 4096
  let s0 := s.setCtx sc { tenant := tenant, htbase := htbase, htlast := fld (w 6) 16 16 }
  let clean (t : State) : State :=
    (t.modMem (fun m => { m with hcache := m.hcache.filter (fun h => h.ctx != sc) })).setCtx sc {}
  if bad then (.refused 6, s)
  else match s0.tokenList sc (fld (w 9) 16 16) tl nsrc (fld (w 9) 0 16) 0 [] true with
    | (.wait b, s1) => (.wait b, clean s1)
    | (.fault, s1) => (.refused 6, clean s1)
    | (.ok toks good, s1) =>
      let fmth := fld (w 8) 16 16
      let fr : Except Block (List Byte × Bool) × State :=
        if fmth = 0xFFFF then (.ok ([], false), s1) else s1.launchRead sc fmth 0 64
      let s2 := clean fr.2
      let reserved := fld (w 0) 0 5 ≠ 0 || fld (w 5) 25 7 ≠ 0 || fld (w 8) 14 2 ≠ 0
        || (List.range 6).any (fun k => w (10 + k) ≠ 0) || nsrc > 32
      let otherTenant := match by_ with | some b => decide (tenant ≠ (s.ctx b).tenant) | none => false
      let prio := match by_ with | some b => Nat.min (fld (w 0) 19 5) (s.ctx b).prio | none => fld (w 0) 19 5
      if reserved || htbase % 64 ≠ 0 || !aligned then (.refused 8, s2)
      else if !tlOk tl then (.refused 2, s2)
      else if otherTenant then (.refused 3, s2)
      else match s2.launchSlot die (fld (w 0) 13 5 + fld (w 0) 18 1 * 32) with
        | none => (.refused 4, s2)
        | some slot =>
          match fr.1 with
          | .error b => (if b.waits then .wait b else .refused 6, s2)
          | .ok (fb, fbad) =>
            let fmt : List W32 := if fmth = 0xFFFF then List.replicate 16 0x000507C3
              else (List.range 16).map (fun k => fmtWord (wordAt fb (4 * k)))
            if fbad then (.refused 6, s2)
            else if fmt.any (fun f => !fmtValid f) then (.refused 7, s2)
            else if !good || srcs.any (fun x => !sourceOk die x) then (.refused 5, s2)
            else match s2.freeIndex die with
              | none => (.refused 1, s2)
              | some i =>
                (.pass ⟨die, die * 4096 + i,
                  { st := .loading, tenant := tenant, prio := prio, plane := fld (w 0) 13 6, slot := slot, tl := tl, fmt := fmt
                    htbase := htbase, htlast := fld (w 6) 16 16, spillh := fld (w 6) 0 16, saveh := fld (w 7) 16 16
                    fqh := fld (w 7) 0 16, hctx := fld (w 8) 0 14, srcs := srcs, inj := toks }⟩, s2)

/-- A context is created LOADING, and its patterns drop (R157, R310). -/
def State.create (s : State) (p : Plan) : State :=
  let s1 := (s.setCtx p.c p.k).modMem (fun m => { m with hcache := m.hcache.filter (fun h => h.ctx != p.c) })
  let s2 := { s1 with mgmt := { s1.mgmt with launched := true } }
  match s2.planeAt p.die p.k.plane with
  | none => s2
  | some pl =>
    let s3 := s2.modDie p.die (fun d => { d with tab := { d.tab with
      planes := lmap (fun q => q.idx == p.k.plane) (fun q => { q with bound := q.bound ++ [(p.k.slot, p.c)] }) d.tab.planes } })
    s3.drop p.die p.c p.k.plane p.k.slot pl.pats

/-- A launch-ring entry is answered: its status and context number written back (R411). PRESUMED (assumption 20). -/
def State.launchDone (s : State) (desc status c : Nat) : State :=
  { s with host := { s.host with launch := s.host.launch ++ [(desc, status, c)] } }

/-- Physical bytes that a launch by the host reads, and whether they are unreadable. -/
def State.physRead (s : State) (pa n : Nat) : List Byte × Bool :=
  (s.bytes pa n, paKind s.host.cxl pa == .nowhere || paKind s.host.cxl (pa + n - 1) == .nowhere || (barAt pa).isSome
    || s.poisoned pa n)

/-- HOST_LAUNCH (R156, R157, R411): an entry of the launch ring. A page in migration makes it wait. -/
def execHostLaunch (descPa : Nat) (s : State) : Host.Outcome State Fault Refusal :=
  if s.mgmt.recovery then .next s
  else
    let (d, bad) := s.physRead descPa 64
    let nsrc := Nat.min 32 (fld (wordAt d 0) 5 6)
    let (sb, bad2) := if nsrc = 0 then ([], false) else s.physRead (descPa + 64) (4 * nsrc)
    let srcs : List W32 := (List.range nsrc).map (fun k => BitVec.ofNat 32 (wordAt sb (4 * k)))
    match s.launchCheck d (bad || bad2) (descPa % 64 = 0) srcs none none with
    | (.wait _, s1) => .next s1
    | (.refused code, s1) => .next (s1.launchDone descPa code 0)
    | (.pass p, s1) => .next (s1.create { p with k := { p.k with desc := some descPa } })

/-- The results of a firing that waits for something: its tokens with one value filled in. -/
def filledWith (v : Nat) (toks : List Tok) : List Tok := toks.map (fun t => { t with data := BitVec.ofNat 512 v })

/-- A firing that answers later and gives up the operands of some ports now: issued, its tokens, tag actions applied, given to `k`. -/
def State.laterOn (s : State) (f : Firing) (h : Hdr) (ports : List Nat) (t : Tok) (k : State → Dep → State) : State :=
  s.issue f { sends := both h t, ports := ports, used := usedBy f h } (fun s toks =>
    let id := s.msys.nextId
    k (s.modMem (fun m => { m with nextId := id + 1 })) ⟨f.ent.ctx, f.ent.uid, f.ent.node, 0, id, 0, toks.any Tok.isExit, toks⟩)

/-- A firing that answers later (R272). -/
def State.later (s : State) (f : Firing) (h : Hdr) (t : Tok) (k : State → Dep → State) : State := s.laterOn f h (portsOf h) t k

/-- An answer that was owed goes back to its cell (R272). -/
def State.pay (s : State) (x : Site) (d : Dep) : State := s.answer x d.ctx d.uid d.node d.grp (700000 + d.grp) d.toks

/-- LAUNCH (R157, R383): the descriptor is read as a load; the result leaves when the launch has ended. -/
def execLaunch (h : Hdr) (handle : Nat) (die : Option Nat) (s : State) : Host.Outcome State Fault Refusal :=
  s.firing (fun s f =>
    let o := (f.op 0).w64
    let t := newTok f h (usedBy f h) none .z32 false 0
    if (f.op 0).flag .poison then s.refuse f .poisonAddr o 0
    else match s.cellSpots f.x f.ent.ctx handle o 64 false with
      | (.error b, s1) => s1.park f (portsOf h) b
      | (.ok l, s1) =>
        let (d, bad) := s1.readSpots l
        let nsrc := Nat.min 32 (fld (wordAt d 0) 5 6)
        match (if nsrc = 0 then (.ok [], s1) else s1.cellSpots f.x f.ent.ctx handle (o + 64) (4 * nsrc) false) with
        | (.error b, s2) => (s2.regsOf s f.x).park f (portsOf h) b
        | (.ok l2, s2) =>
          let (sb, bad2) := s2.readSpots l2
          let srcs : List W32 := (List.range nsrc).map (fun k => BitVec.ofNat 32 (wordAt sb (4 * k)))
          match s2.launchCheck d (bad || bad2) (o % 64 = 0) srcs (some f.ent.ctx) die with
          | (.wait b, s3) => (s3.regsOf s f.x).park f (portsOf h) b
          | (.refused code, s3) =>
            s3.later f h t (fun s w => s.pay f.x { w with toks := filledWith (code * 2 ^ 16) w.toks })
          | (.pass p, s3) =>
            s3.later f h t (fun s w =>
              s.create { p with k := { p.k with owed := [(f.x, { w with toks := filledWith p.c w.toks })] } }))

/-- DROP_COMPLETE (R157, R310): every drop of a LOADING context is done. It enters RUNNING, stopped at once where a fault
stands open, and its launch is answered. -/
def execDropComplete (ctx : Nat) (s : State) : Host.Outcome State Fault Refusal :=
  let k := s.ctx ctx
  if k.st != .loading then .next s
  else
    let s1 := s.modCtx ctx (fun k => { k with st := .running, desc := none, owed := [], since := s.cycle })
    let ev : Event := { code := 0xA0, tenant := k.tenant, ctx := ctx, arg := k.plane
                        after := lastSent (k.owed.map (fun o => o.2.toks)).flatten }
    let s2 := s1.tracePeri (ctxDie ctx) unitDie 3 0 ev
    let s3 := match k.desc with | some p => s2.launchDone p 0 ctx | none => s2
    .next ((k.owed.foldl (fun t o => t.pay o.1 o.2) s3).settle ctx)

/-- The position of a die's launch engine on the mesh: its first position. -/
def launchPos : Nat × Nat := (0, 0)

/-- A token sent to a source port of a context (R160): to the resident that stands at the named position now. -/
def State.toSource (s : State) (ctx : Nat) (w : W32) (cls : Nat) (t : Tok) : State :=
  let p := sourcePos w
  let die := ctxDie ctx
  let res := s.residentAt die (rankOf p.1 p.2)
  s.netSend die launchPos cls die res (.tok { t with ctx := ctx, kind := 0, die := die, site := res,
                                                     node := fld w.toNat 2 10, port := fld w.toNat 0 2 })

/-- A pre-emption marker (R373), with the channel it comes by in SIDE. -/
def markerTok (ctx chan : Nat) : Tok := Tok.setFlag { ctx := ctx, side := BitVec.ofNat 32 chan } .marker true

/-- TOKEN_INJECTION (R160, R373): the next record of a context's token list enters the mesh, from the cycle after it began to
run; then the markers of a pre-emption. The die's launch engine sends one a cycle. -/
def execTokenInjection (ctx : Nat) (s : State) : Host.Outcome State Fault Refusal :=
  let k := s.ctx ctx
  let die := ctxDie ctx
  let used (s : State) : State := s.modDie die (fun d => { d with injAt := s.cycle + 1 })
  if !(k.st == .running || k.st == .stopped) || s.stopped ctx || k.since ≥ s.cycle || (s.die die).injAt > s.cycle then .next s
  else match k.inj, k.pre.marks with
    | [], [] => .next s
    | [], w :: rest =>
      let s1 := (used s).modCtx ctx (fun k => { k with pre := { k.pre with marks := rest } })
      .next (s1.toSource ctx w 3 (markerTok ctx chanLaunch))
    | t :: rest, _ =>
      let s1 := (used s).modCtx ctx (fun k => { k with inj := rest })
      match k.srcs[t.site]? with
      | none => .next s1
      | some w => .next (s1.toSource ctx w 3 t)

/-- A cell holds something of a context that keeps it from being quiescent (R161, R201). -/
def Cell.busy (c : Cell) (ctx : Nat) : Bool :=
  let mine (l : List Tok) : Bool := l.any (fun t => t.ctx == ctx)
  c.dir.any (fun e => e.ctx == ctx && !e.bind && c.slots.any (fun p => e.base ≤ p.1 && p.1 < e.base + e.size))
    || c.ready.any (fun e => e.ctx == ctx) || c.lbs.any (fun w => w.ctx == ctx) || mine c.miss
    || c.escape.any (fun e => e.tok.ctx == ctx) || mine c.pipe.selfq || mine c.pipe.p0 || mine c.pipe.p1 || mine c.pipe.p2
    || mine c.pipe.p3 || c.pipe.deps.any (fun d => d.ctx == ctx) || c.pipe.ans.any (fun d => d.ctx == ctx)
    || c.spat.inner.any (fun e => e.2.2.ctx == ctx) || c.frz.chan.any (fun e => e.1 == ctx)
    || c.frz.resp.any (fun d => d.ctx == ctx)

/-- A token of a context stands on a die's networks or in its engines, or an engine works for it (R161). -/
def Die.busy (d : Die) (ctx : Nat) : Bool :=
  let q (h : HQueue) : Bool := h.toks.any (fun t => t.ctx == ctx) || h.posts.any (fun e => e.2.2.ctx == ctx)
    || h.unb.any (fun u => u.2.ctx == ctx)
  let isl (i : Island) : Bool := i.notices.any (fun n => n.ctx == ctx) || i.drains.any (fun n => n.ctx == ctx) || i.scaleq.any (fun t => t.ctx == ctx)
    || i.sspill.any (fun t => t.1.ctx == ctx)
  d.net.mesh.any (fun p => p.of ctx) || d.net.tracks.any (fun t => t.tok.ctx == ctx) || d.eng.queues.any (fun e => q e.2)
    || d.eng.creqs.any (fun r => r.ctx == ctx) || d.eng.copies.any (fun r => r.ctx == ctx) || d.eng.islands.any (fun e => isl e.2)
    || d.eng.walks.any (fun w => w.f.ent.ctx == ctx) || d.eng.lops.any (fun o => o.ctx == ctx)
    || d.eng.tmpls.any (fun t => t.ctx == ctx && t.pend.isSome) || d.recfgs.any (fun r => r.dep.ctx == ctx)

/-- A token of a context waits in a comparator or is kept for its spare (R161, R371). -/
def Dual.waits (d : Dual) (ctx : Nat) : Bool :=
  d.ctx == ctx && !(d.outP.isEmpty && d.outS.isEmpty && d.outX.isEmpty && d.kept.isEmpty)

/-- A context is quiescent (R161): no token of it anywhere, no ready entry, no firing in flight, no access or copy
outstanding. -/
def State.quiescent (s : State) (ctx : Nat) : Bool :=
  let k := s.ctx ctx
  k.spill.toks.isEmpty && k.inj.isEmpty
    && !s.cells.any (fun e => e.2.busy ctx) && !s.dies.any (fun e => e.2.duals.any (fun d => d.waits ctx)) && !s.dies.any (fun e => e.2.busy ctx)
    && !s.msys.accs.any (fun a => a.ctx == ctx && !(a.over && a.ans) && a.st != .abandoned) && !s.msys.reqs.any (fun r => r.tok.ctx == ctx)
    && !s.parked.any (fun p => p.f.ent.ctx == ctx) && !k.trap.opens.any (fun o => match o.what with | .toks _ _ _ => true | _ => false) && !s.host.service.any (fun v => v.ctx == ctx)
    && !s.host.portalq.any (fun p => p.tok.ctx == ctx)
    && !s.ctxs.any (fun e => (e.2.owed ++ e.2.pre.owed).any (fun o => o.2.ctx == ctx))
    && !s.host.tlbinv.any (fun e => match e.2.2.2 with | some o => o.2.ctx == ctx | none => false)

/-- What a cell holds of a context is discarded (R384): frames, bindings, ready entries, tokens, windows, pins, and answers on
their way. Its blocks and key stores stay until the context is released. -/
def Cell.discard (c : Cell) (ctx : Nat) : Cell :=
  let gone := c.dir.filter (fun e => e.ctx == ctx)
  let cut (l : List Tok) : List Tok := l.filter (fun t => t.ctx != ctx)
  let p := c.pipe
  { c with
    slots := c.slots.filter (fun q => !gone.any (fun e => e.base ≤ q.1 && q.1 < e.base + e.size))
    dir := c.dir.filter (fun e => e.ctx != ctx), ready := c.ready.filter (fun e => e.ctx != ctx)
    stores := c.stores.map (fun k => if k.ctx == ctx then { k with hold := none, queue := [] } else k)
    lbs := c.lbs.filter (fun w => w.ctx != ctx), miss := cut c.miss, escape := c.escape.filter (fun e => e.tok.ctx != ctx)
    pipe := { p with selfq := cut p.selfq, p0 := cut p.p0, p1 := cut p.p1, p2 := cut p.p2, p3 := cut p.p3
                     deps := p.deps.filter (fun d => d.ctx != ctx), ans := p.ans.filter (fun d => d.ctx != ctx) }
    score := c.score.filter (fun e => e.ctx != ctx)
    herd := { c.herd with pins := c.herd.pins.filter (fun q => q.ctx != ctx) }
    spat := { c.spat with inner := c.spat.inner.filter (fun e => e.2.2.ctx != ctx), binds := c.spat.binds.filter (fun e => e.2.2.1.ctx != ctx) }
    frz := { c.frz with units := c.frz.units.filter (fun u => u != ctx), marked := c.frz.marked.filter (fun m => m.1 != ctx)
                        chan := c.frz.chan.filter (fun e => e.1 != ctx), resp := c.frz.resp.filter (fun d => d.ctx != ctx) } }

/-- What an island holds of a context is released (R316, R384). -/
def Island.discard (i : Island) (ctx : Nat) : Island :=
  { slots := i.slots.filter (fun k => k.ctx != ctx), tiles := i.tiles.filter (fun t => t.ctx != ctx)
    scales := i.scales.filter (fun t => t.ctx != ctx), notices := i.notices.filter (fun n => n.ctx != ctx)
    drains := i.drains.filter (fun n => n.ctx != ctx), scaleq := i.scaleq.filter (fun t => t.ctx != ctx)
    sspill := i.sspill.filter (fun t => t.1.ctx != ctx) }

/-- A queue without the tokens and the binding of a context. -/
def HQueue.discard (q : HQueue) (ctx : Nat) : HQueue :=
  { toks := q.toks.filter (fun t => t.ctx != ctx)
    bind := (match q.bind with | some b => if b.1 = ctx then none else some b | none => none)
    unb := q.unb.filter (fun u => u.2.ctx != ctx)
    posts := q.posts.filter (fun e => e.2.2.ctx != ctx) }

/-- What a die holds of a context is discarded (R384): its tokens on the networks, its copies, walks and island slots, and its
templates; its plane slot is free again (R309). -/
def Die.discard (d : Die) (ctx : Nat) : Die :=
  { d with
    net := { d.net with mesh := d.net.mesh.filter (fun p => !p.of ctx), tracks := d.net.tracks.filter (fun t => t.tok.ctx != ctx) }
    eng := { d.eng with
      tmpls := d.eng.tmpls.filter (fun t => t.ctx != ctx), queues := d.eng.queues.map (fun e => (e.1, e.2.discard ctx))
      creqs := d.eng.creqs.filter (fun r => r.ctx != ctx), copies := d.eng.copies.filter (fun r => r.ctx != ctx)
      agens := d.eng.agens.filter (fun a => a.2.2.1 != ctx), islands := d.eng.islands.map (fun e => (e.1, e.2.discard ctx))
      walks := d.eng.walks.filter (fun w => w.f.ent.ctx != ctx), lops := d.eng.lops.filter (fun o => o.ctx != ctx) }
    tab := { d.tab with planes := d.tab.planes.map (fun p => { p with bound := p.bound.filter (fun b => b.2 != ctx) }) }
    recfgs := d.recfgs.filter (fun r => r.dep.ctx != ctx), duals := d.duals.filter (fun u => u.ctx != ctx) }

/-- A context ends (R384): its state is discarded, its engines' work ends, accesses that have been sent still perform and
their answers are dropped; those that wait or stand in a fault are abandoned. A save under way is discarded (R379), and a
requester that waits for it is answered with a status the spec does not state. -/
def State.endCtx (s : State) (ctx : Nat) : State :=
  let k := s.ctx ctx
  if !(k.st == .running || k.st == .stopped || k.st == .saved) then s
  else
    let (v, s0) := s.freeVal
    let s1 := if k.pre.owed.isEmpty then s
      else k.pre.owed.foldl (fun t o => t.pay o.1 { o.2 with toks := filledWith (v.toNat % 2 ^ 32) o.2.toks }) s0
    let s2 := s1.setCtx ctx { k with
      st := .ended, inj := [], trap := { k.trap with opens := [], acks := [] }, spill := {}, pre := {}, dstop := false, owed := [] }
    let s3 := { s2 with
      cells := s2.cells.map (fun (e : Nat × Cell) => (e.1, e.2.discard ctx))
      dies := s2.dies.map (fun (e : Nat × Die) => (e.1, e.2.discard ctx))
      parked := s2.parked.filter (fun p => p.f.ent.ctx != ctx), latches := s2.latches.filter (fun l => l.fr.ctx != ctx)
      host := { s2.host with portalq := s2.host.portalq.filter (fun p => p.tok.ctx != ctx) } }
    let asks (a : Access) : Bool := match a.kind with | .mem _ => true | _ => false
    let stays (a : Access) : Bool := a.ctx != ctx || a.st == .port
      || (!asks a && (a.st == .walk || a.st == .migr || a.st == .sent || a.st == .barrier || a.st == .home))
    let s4 := s3.modMem (fun m => { m with accs := m.accs.filter stays
                                           reqs := m.reqs.filter (fun (r : NodeReq) => !(r.tok.ctx == ctx && r.st == AccSt.parked)) })
    let ev : Event := { code := 0xA3, tenant := k.tenant, ctx := ctx }
    (s4.dropWaits ctx true).tracePeri (ctxDie ctx) unitDie 3 0 ev

/-- HALT (R384): it consumes A and ends its context. -/
def execHalt (h : Hdr) (s : State) : Host.Outcome State Fault Refusal :=
  s.firing (fun s f => s.fireWith f { sends := [], ports := portsOf h, used := usedBy f h } (fun s => s.endCtx f.ent.ctx))

/-- HOST_TERMINATE (R161, R384). -/
def execHostTerminate (ctx : Nat) (s : State) : Host.Outcome State Fault Refusal := .next (s.endCtx ctx)

/-- CONTEXT_RELEASE (R161, R384): an ENDED context that is quiescent is FREE; its blocks, key stores, logical stores and route
entries go. DESIGN CHOICE (assumption 14). -/
def execContextRelease (ctx : Nat) (s : State) : Host.Outcome State Fault Refusal :=
  if (s.ctx ctx).st != .ended || !s.quiescent ctx then .next s
  else
    let cell (c : Cell) : Cell :=
      let left := c.blks.filter (fun b => b.ctx != ctx)
      { c with blks := left, stores := c.stores.filter (fun k => k.ctx != ctx)
               spat := if left.isEmpty then { c.spat with on := false } else c.spat }
    let die (d : Die) : Die :=
      { d with eng := { d.eng with lstores := d.eng.lstores.filter (fun l => l.ctx != ctx) }
               net := { d.net with routes := d.net.routes.filter (fun e => fld e.w.w2.toNat 17 14 ≠ ctx) } }
    let s1 := { s with cells := s.cells.map (fun (e : Nat × Cell) => (e.1, cell e.2))
                       dies := s.dies.map (fun (e : Nat × Die) => (e.1, die e.2)) }
    .next ((s1.modMem (fun m => { m with hcache := m.hcache.filter (fun h => h.ctx != ctx)
                                         accs := m.accs.filter (fun a => a.ctx != ctx) })).setCtx ctx {})

end Sys2Proof.Machine
end

