-- ==== Sys2Proof/Machine/Streamer.lean ====
section
/-! DEFINITION. Streamers (R297 to R308): templates, hardware queues, copies and their sectors, and the instructions STRM, ARM
and QPOST (R313, R314). -/
namespace Sys2Proof.Machine

/-- Bytes in dimension 0 (R297). -/
def descLen (d : Desc) : Nat := fld (descW d 3) 16 16 + 1
/-- NDIM (R297). -/
def descNdim (d : Desc) : Nat := fld (descW d 3) 13 3
/-- CLVL (R297). -/
def descClvl (d : Desc) : Nat := fld (descW d 3) 5 3
/-- AGEN (R297). -/
def descAgen (d : Desc) : Nat := fld (descW d 3) 3 2
/-- CNTkM1 for `k` from 1 to 4 (R297). -/
def descCntM1 (d : Desc) (k : Nat) : Nat := fld (descW d (4 + (k - 1) / 2)) (if k % 2 = 1 then 16 else 0) 16
/-- The count of dimension `k`, 1 to 4 (R297). -/
def descCnt (d : Desc) (k : Nat) : Nat := descCntM1 d k + 1
/-- SSTRk (R297). -/
def descSstr (d : Desc) (k : Nat) : Int := (d.getD (5 + k) 0).toInt
/-- DSTRk (R297). -/
def descDstr (d : Desc) (k : Nat) : Int := (d.getD (9 + k) 0).toInt
/-- CDEST (R297). -/
def descCdest (d : Desc) : Nat := descW d 14
/-- The scope code (R297). -/
def descScope (d : Desc) : Nat := fld (descW d 3) 10 3

/-- A descriptor is valid (R297). A SCOPE code above 4 names no scope (R255). An ARM's CDEST has KIND 0b00 or 0b01 (Table 1); STRM
ignores it. DEDUCED (assumption 57). -/
def descOk (d : Desc) (arm : Bool) : Bool :=
  fld (descW d 3) 0 3 == 0 && descW d 15 == 0 && 1 ≤ descNdim d && descNdim d ≤ 5 && fld (descW d 3) 8 2 ≤ 1
    && descClvl d < descNdim d && [1, 2, 3, 4].all (fun k => k < descNdim d || descCntM1 d k == 0)
    && !(descZero d && descSrch d != 0) && descScope d ≤ 4 && !(arm && fld (descCdest d) 30 2 ≥ 2)

/-- The scope of a code (R255). -/
def scopeOfCode : Nat → Scope
  | 0 => .site | 1 => .quad | 2 => .die | 3 => .module | _ => .system

/-- A descriptor read at issue, as a load (R314): its sixteen words, or the fault; none where its memory is poisoned.
DEDUCED (assumption 57). -/
def State.readDesc (s : State) (x : Site) (c h o : Nat) : Except Block (Option Desc) × State :=
  match s.cellSpots x c h o 64 false with
  | (.error b, s1) => (.error b, s1)
  | (.ok l, s1) =>
    let (bs, bad) := s1.readSpots l
    (.ok (if bad then none else some ((List.range 16).map (fun k => BitVec.ofNat 32 (wordAt bs (4 * k))))), s1)

/-- A template slot of a context (R297). -/
def State.tmpl (s : State) (die ctx st slot : Nat) : Option Tmpl :=
  (s.die die).eng.tmpls.find? (fun t => t.ctx == ctx && t.st == st && t.slot == slot)

/-- A state with the engines of a die changed. -/
def State.modEng (s : State) (die : Nat) (f : Engines → Engines) : State := s.modDie die (fun d => { d with eng := f d.eng })

/-- The queues bound to a template slot (R299). -/
def State.queuesOf (s : State) (die ctx st slot : Nat) : List Nat :=
  ((s.die die).eng.queues.filter (fun q => q.2.bind == some (ctx, st, slot))).map (fun q => q.1)

/-- A template slot is idle (R307): no queue bound to it holds tokens and no copy of it waits or runs. -/
def State.slotIdle (s : State) (die ctx st slot : Nat) : Bool :=
  (s.queuesOf die ctx st slot).all (fun q => (s.queue die q).toks.isEmpty)
    && !(s.die die).eng.creqs.any (fun r => r.ctx == ctx && r.st == st && r.tmpl == some slot)
    && !(s.die die).eng.copies.any (fun r => r.ctx == ctx && r.st == st && r.tmpl == some slot)

/-- An endpoint of a descriptor is an `mt` handle of its pair (R298). DEDUCED (assumption 56). -/
def State.descMt (s : State) (x : Site) (ctx : Nat) (d : Desc) : Bool :=
  let mt (h : Nat) : Bool := match (s.handleEntry x ctx h).1 with | .ok e => e.valid && e.space = 2 | .error _ => false
  mt (descDsth d) || (!descZero d && mt (descSrch d))

/-- A layout takes effect in its slot (R307, R308): the template is installed, its queue bound, its generator taken (R298), and its
ARM answered. DEDUCED (assumption 56). -/
def State.install (s : State) (ctx st slot : Nat) (l : Layout) : State :=
  let die := l.x.die
  let t : Tmpl := ⟨ctx, st, slot, l.x, l.desc, none⟩
  let mine (a : Nat × Nat × Nat × Nat × Nat) : Bool := a.2.2.1 == ctx && a.2.2.2.1 == st && a.2.2.2.2 == slot
  let gen := if s.descMt l.x ctx l.desc then [(l.x.res, descAgen l.desc, ctx, st, slot)] else []
  let s1 := s.modEng die (fun e => { e with
    tmpls := e.tmpls.filter (fun u => !(u.ctx == ctx && u.st == st && u.slot == slot)) ++ [t]
    agens := e.agens.filter (fun a => !mine a) ++ gen })
  let s2 := match l.queue with
    | some q => s1.setQueue die q { s1.queue die q with bind := some (ctx, st, slot) }
    | none => s1
  s2.pay l.x l.dep

/-- An ARM's layout reaches its slot (R307, R308): installed if the slot is idle, else pending until a STREAM_END leaves its
queue; an older pending layout never takes effect. DEDUCED (assumption 56). -/
def State.armSlot (s : State) (ctx st slot : Nat) (l : Layout) : State :=
  let die := l.x.die
  match s.tmpl die ctx st slot with
  | some _ =>
    if s.slotIdle die ctx st slot then s.install ctx st slot l
    else
      let gen := if s.descMt l.x ctx l.desc then [(l.x.res, descAgen l.desc, ctx, st, slot)] else []
      s.modEng die (fun e => { e with
        tmpls := lmap (fun u => u.ctx == ctx && u.st == st && u.slot == slot) (fun u => { u with pend := some l }) e.tmpls
        agens := e.agens ++ gen })
  | none => s.install ctx st slot l

/-- ARM meets a queue of another context, or a portal's, or a generator that holds another template (R314). -/
def State.armBusy (s : State) (x : Site) (ctx st slot : Nat) (q : Option Nat) (d : Desc) : Bool :=
  (match q with
   | some q => (s.portal x.die q).isSome || (match (s.queue x.die q).bind with | some b => b.1 != ctx | none => false)
   | none => false)
    || (s.descMt x ctx d && (s.die x.die).eng.agens.any (fun a => a.1 == x.res && a.2.1 == descAgen d
      && !(a.2.2.1 == ctx && a.2.2.2.1 == st && a.2.2.2.2 == slot)))

/-- ARM (R307, R308, R313, R314). DEDUCED (assumption 56). -/
def execArm (h : Hdr) (handle streamer tslot : Nat) (queue : Option Nat) (s : State) : Host.Outcome State Fault Refusal :=
  s.firing (fun s f =>
    let o := (f.op 0).w64
    if (f.op 0).flag .poison then s.refuse f .poisonAddr o 0
    else match s.readDesc f.x f.ent.ctx handle o with
      | (.error b, s1) => s1.park f (portsOf h) b
      | (.ok none, s1) => (s1.regsOf s f.x).refuse f .strmDesc 0 0
      | (.ok (some d), s1) =>
        if !descOk d true then (s1.regsOf s f.x).refuse f .strmDesc 0 0
        else if s1.armBusy f.x f.ent.ctx streamer tslot queue d then (s1.regsOf s f.x).refuse f .strmBusy 0 0
        else s1.later f h (doneTok f h) (fun s w => s.armSlot f.ent.ctx streamer tslot ⟨d, f.x, queue, w⟩))

/-- STRM (R313): a copy whose firing is this one; its completions go to the record's targets. DEDUCED (assumption
56). -/
def execStrm (h : Hdr) (handle streamer : Nat) (scope : Option Scope) (s : State) : Host.Outcome State Fault Refusal :=
  s.firing (fun s f =>
    let o := (f.op 0).w64
    if (f.op 0).flag .poison then s.refuse f .poisonAddr o 0
    else match s.readDesc f.x f.ent.ctx handle o with
      | (.error b, s1) => s1.park f (portsOf h) b
      | (.ok none, s1) => (s1.regsOf s f.x).refuse f .strmDesc 0 0
      | (.ok (some d), s1) =>
        if !descOk d false then (s1.regsOf s f.x).refuse f .strmDesc 0 0
        else
          let r : CopyReq := { st := streamer, ctx := f.ent.ctx, x := f.x, queue := none, tmpl := none
                               tok := { f.op 0 with tag := f.ent.tag, depth := f.ent.depth, data := 0 }, desc := d
                               scope := scope.getD (scopeOfCode (descScope d)), direct := some (f, h) }
          s1.issue f { sends := [], ports := portsOf h, used := usedBy f h }
            (fun s _ => s.modEng f.x.die (fun e => { e with creqs := e.creqs ++ [r] })))

/-- A queue may be used by a context for a POST or an UNBIND (R299, R403). -/
def State.queueOther (s : State) (die q ctx : Nat) : Bool :=
  (s.portal die q).isSome || (match (s.queue die q).bind with | some b => b.1 != ctx | none => false)

/-- What follows once a token has left a queue: a posted token enters, and an empty queue is unbound where that was asked
(R313). -/
def State.served (s : State) (die q : Nat) : State :=
  let h := s.queue die q
  match h.posts with
  | p :: rest =>
    if h.toks.length < 32 then (s.setQueue die q { h with toks := h.toks ++ [p.1], posts := rest }).pay p.2.1 p.2.2 else s
  | [] =>
    if h.toks.isEmpty && !h.unb.isEmpty then
      h.unb.foldl (fun t u => t.pay u.1 u.2) (s.setQueue die q { h with bind := none, unb := [] })
    else s

/-- QPOST.POST (R299, R313): A enters the queue, when it has room; a queue of another context, or of none, stops the context, and
A is consumed. -/
def execQpostPost (h : Hdr) (queue : Nat) (s : State) : Host.Outcome State Fault Refusal :=
  s.firing (fun s f =>
    let a := fwdTok f h (usedBy f h) (f.op 0) false
    if !s.queueTakes f.x.die queue f.ent.ctx then
      s.issue f { sends := [], ports := portsOf h, used := usedBy f h } (fun s _ =>
        s.takeFault (siteUnit f.x) ((s.cellRec f.x f.ent.ctx f.ent.node f.ent.tag f.ent.depth .hqUnbound 0).by [a]) .none)
    else s.later f h (doneTok f h) (fun s w =>
      let q := s.queue f.x.die queue
      if q.toks.length < 32 && q.posts.isEmpty then (s.setQueue f.x.die queue { q with toks := q.toks ++ [a] }).pay f.x w
      else s.setQueue f.x.die queue { q with posts := q.posts ++ [(a, f.x, w)] }))

/-- QPOST.UNBIND (R299, R313): the queue is unbound once it is empty. -/
def execQpostUnbind (h : Hdr) (queue : Nat) (s : State) : Host.Outcome State Fault Refusal :=
  s.firing (fun s f =>
    if s.queueOther f.x.die queue f.ent.ctx then s.refuse f .hqUnbound 0 0
    else s.later f h (doneTok f h) (fun s w =>
      let q := s.queue f.x.die queue
      if q.toks.isEmpty && q.posts.isEmpty then (s.setQueue f.x.die queue { q with bind := none }).pay f.x w
      else s.setQueue f.x.die queue { q with unb := q.unb ++ [(f.x, w)] }))

/-- QPOST.STAT (R313): the count of waiting tokens. -/
def execQpostStat (h : Hdr) (queue : Nat) (s : State) : Host.Outcome State Fault Refusal :=
  s.firing (fun s f => s.fire f (scalarOut f h .z32 (s.queue f.x.die queue).toks.length))

/-- A streamer's place on the mesh. -/
def streamerPos (st : Nat) : Nat × Nat := (16 * st + 7, 0)

/-- The record of a fault of a streamer (R362): of copy slot `k`. DEDUCED (assumption 59). -/
def strmRec (die st k ctx : Nat) (t : Tok) (code : FCode) (arg : Nat) : FRec :=
  (engRec die 1 (st, 0x7F) (st * 4 + k) ctx 0x3FF t.tag t.depth code arg).by [t]

/-- A template of a site that a reconfiguration is draining (R312). -/
def Die.draining (d : Die) (x : Site) (ctx : Nat) : Bool :=
  d.recfgs.any (fun r => r.ctx == ctx && r.todo.any (fun e => e.1 == x.res && e.2))

/-- A queue token that leaves its queue, with what is served after it. -/
def State.popQueue (s : State) (die q : Nat) : State :=
  (s.setQueue die q { s.queue die q with toks := (s.queue die q).toks.drop 1 }).served die q

/-- A firing of the queue has not yet emitted its last completion (R300). -/
def State.queueWorks (s : State) (die q : Nat) : Bool :=
  (s.die die).eng.creqs.any (fun r => r.queue == some q) || (s.die die).eng.copies.any (fun r => r.queue == some q)

/-- HQ_TOKEN (R300, R301): the token at the head of a bound queue leaves it, unless a firing of the queue waits for a copy slot:
a data token asks for a copy slot, a POISON token stops its context, NULL is consumed. DEDUCED (assumption 59). -/
def execHqToken (die q : Nat) (s : State) : Host.Outcome State Fault Refusal :=
  let h := s.queue die q
  match h.bind, h.toks with
  | some (ctx, st, slot), t :: _ =>
    match s.tmpl die ctx st slot with
    | none => .next s
    | some m =>
      if (s.portal die q).isSome || t.flag .streamEnd || !s.startable m.x ctx
          || (s.die die).draining m.x ctx || (s.die die).eng.creqs.any (fun r => r.queue == some q) then .next s
      else if t.flag .null then .next (s.popQueue die q)
      else if t.flag .poison then
        .next ((s.popQueue die q).takeFault (engUnit die 1 (st * 4)) (strmRec die st 0 ctx t .poisonAddr 0) .none)
      else
        let r : CopyReq := { st := st, ctx := ctx, x := m.x, queue := some q, tmpl := some slot, tok := t, desc := m.desc
                             scope := scopeOfCode (descScope m.desc), direct := none }
        .next ((s.popQueue die q).modEng die (fun e => { e with creqs := e.creqs ++ [r] }))
  | _, _ => .next s

/-- HQ_STREAM_END (R300, R308): behind the last completion of every earlier firing, the marker goes to CDEST, and a pending layout
applies. -/
def execHqStreamEnd (die q : Nat) (s : State) : Host.Outcome State Fault Refusal :=
  let h := s.queue die q
  match h.bind, h.toks with
  | some (ctx, st, slot), t :: _ =>
    match s.tmpl die ctx st slot with
    | none => .next s
    | some m =>
      if (s.portal die q).isSome || !t.flag .streamEnd || !s.startable m.x ctx
          || s.queueWorks die q then .next s
      else
        let s1 := (s.popQueue die q).sendTok die (streamerPos st) 3 (t.toDest (descCdest m.desc))
        .next (match m.pend with
          | some l => s1.install ctx st slot l
          | none => s1)
  | _, _ => .next s

/-- The firing's offset of an endpoint (R300): the descriptor's, with a payload word read as S32 added. -/
def Copy.off (c : Copy) (dst : Bool) : Int :=
  (descW c.desc (if dst then 2 else 1) : Int) + (BitVec.ofNat 32 (fld c.tok.data.toNat (if dst then 32 else 0) 32)).toInt

/-- Index jk of a row, for `k` from 1 to 4 (R298): dimension 1 fastest. -/
def rowIdx (d : Desc) (row k : Nat) : Nat :=
  row / ((List.range (k - 1)).foldl (fun a i => a * descCnt d (i + 1)) 1) % descCnt d k

/-- The rows of a copy: its runs of dimension 0 (R298). -/
def descRows (d : Desc) : Nat := descCnt d 1 * descCnt d 2 * descCnt d 3 * descCnt d 4

/-- The offset of a row's first byte at an endpoint (R298). -/
def Copy.rowOff (c : Copy) (dst : Bool) (row : Nat) : Int :=
  [1, 2, 3, 4].foldl (fun a k => a + (rowIdx c.desc row k : Nat) * (if dst then descDstr c.desc k else descSstr c.desc k)) (c.off dst)

/-- The lowest offset of an endpoint over all indices, and the span to its highest byte (R301). -/
def Copy.span (c : Copy) (dst : Bool) : Int × Nat :=
  let str (k : Nat) : Int := ((descCnt c.desc k : Int) - 1) * (if dst then descDstr c.desc k else descSstr c.desc k)
  let lo := [1, 2, 3, 4].foldl (fun a k => a + min 0 (str k)) (c.off dst)
  let hi := [1, 2, 3, 4].foldl (fun a k => a + max 0 (str k)) (c.off dst) + descLen c.desc
  (lo, (hi - lo).toNat)

/-- Rows of a tile (R303): of dimensions 1 to CLVL. -/
def tileRows (d : Desc) : Nat := (List.range (descClvl d)).foldl (fun a i => a * descCnt d (i + 1)) 1

/-- Tiles of a copy (R303). -/
def nTiles (d : Desc) : Nat := descRows d / tileRows d

/-- Sectors of a row whose first byte is at destination address `a` (R302). -/
def rowSectors (len : Nat) (a : Int) : Nat := ((a + len - 1) / 256 - a / 256 + 1).toNat

/-- The row of a sector and its number in it, from row `row` on (R302); `base` is the destination handle's base address. -/
def Copy.locate (c : Copy) (base : Nat) : Nat → Nat → Nat → Option (Nat × Nat)
  | 0, _, _ => none
  | n + 1, row, k =>
    let m := rowSectors (descLen c.desc) (base + c.rowOff true row)
    if k < m then some (row, k) else Copy.locate c base n (row + 1) (k - m)

/-- The base address of a handle as it stands: 0 where it cannot be read. -/
def State.handleBase (s : State) (x : Site) (ctx h : Nat) : Nat :=
  match (s.handleEntry x ctx h).1 with
  | .ok e => s.baseOf x e
  | .error _ => 0

/-- A sector of a copy (R302): its source offset, destination offset and bytes; none past the last. -/
def State.sectorAt (s : State) (c : Copy) (k : Nat) : Option (Int × Int × Nat) :=
  let base := s.handleBase c.x c.ctx (descDsth c.desc)
  match c.locate base (descRows c.desc) 0 k with
  | none => none
  | some (row, i) =>
    let a : Int := base + c.rowOff true row
    let lo := if i = 0 then a else (a / 256 + i) * 256
    let hi := min ((a / 256 + i + 1) * 256) (a + descLen c.desc)
    some (c.rowOff false row + (lo - a), lo - base, (hi - lo).toNat)

/-- The row a sector number stands in; the number of rows past the last sector. -/
def State.sectorRow (s : State) (c : Copy) (k : Nat) : Nat :=
  match c.locate (s.handleBase c.x c.ctx (descDsth c.desc)) (descRows c.desc) 0 k with
  | some r => r.1
  | none => descRows c.desc

/-- A state with one copy changed. -/
def State.modCopy (s : State) (die id : Nat) (f : Copy → Copy) : State :=
  s.modEng die (fun e => { e with copies := lmap (fun c => c.id == id) f e.copies })

/-- A record of a copy whose firing token carries TRACE (R306, R345). -/
def State.traceCopy (s : State) (die : Nat) (c : Copy) (code data : Nat) : State :=
  if !c.tok.flag .trace then s else
  let ten := (s.ctx c.ctx).tenant
  let ev : Event := { code := code, tenant := ten, ctx := c.ctx, tag := c.tok.tag, depth := c.tok.depth, arg := c.st * 4 + c.k, data := data
                      xt := (s.ten ten).xt, psn := c.tok.flag .poison, after := c.tok.sent }
  s.tracePeri die (unitStreamer c.st c.k) 0 c.st ev

/-- Whether a copy is held because a record of its would find no room (R306, R352, R353). -/
def State.copyHeld (s : State) (die : Nat) (c : Copy) : Bool :=
  let u := unitStreamer c.st c.k
  (s.die die).loupe.waits u || (c.tok.flag .trace && s.traceHeld die u (s.ctx c.ctx).tenant 0x41)

/-- The number of sectors of a copy, counting the rows from `row` on. -/
def Copy.nSectors (c : Copy) (base : Nat) : Nat → Nat → Nat
  | 0, _ => 0
  | n + 1, row => rowSectors (descLen c.desc) (base + c.rowOff true row) + Copy.nSectors c base n (row + 1)

/-- A PARK or REPLAY record of a copy (R345, R397, R398). -/
def State.traceSector (s : State) (die : Nat) (c : Copy) (code data : Nat) : State :=
  let ev : Event := { code := code, tenant := (s.ctx c.ctx).tenant, ctx := c.ctx, tag := c.tok.tag, depth := c.tok.depth, arg := c.st * 4 + c.k
                      data := data, xt := true, psn := c.tok.flag .poison, after := c.tok.sent }
  s.tracePeri die (unitStreamer c.st c.k) 0 c.st ev

/-- A copy parks on a memory fault (R304): its records, and the fault of its slot. `data` is what its PARK record says (R397).
DEDUCED (assumption 55). -/
def State.parkCopy (s : State) (die : Nat) (c : Copy) (code : FCode) (arg data : Nat) : State :=
  let s1 := (s.modCopy die c.id (fun c => { c with state := .fpark })).traceCopy die c 0x41 c.cursor
  (s1.traceSector die c 0x81 data).takeFault (engUnit die 1 (c.st * 4 + c.k)) (strmRec die c.st c.k c.ctx c.tok code arg) (.copy die c.id)

/-- One range of a copy checked under R237 (R301): its entry, and the first byte as the scoreboard names it (R240). -/
def State.rangeCheck (s : State) (c : Copy) (dst : Bool) : Except Block (Nat × Nat) × State :=
  let h := if dst then descDsth c.desc else descSrch c.desc
  let (lo, n) := c.span dst
  if lo < 0 then
    match s.checkHandle c.x c.ctx h 0 0 with
    | (.error b, s1) => (.error b, s1)
    | (.ok e, s1) => (.error (.fault .handleBound ((if e.space = 0 then (e.base : Int) + lo else lo) % 2 ^ 64).toNat), s1)
  else match s.checkHandle c.x c.ctx h lo.toNat n with
    | (.error b, s1) => (.error b, s1)
    | (.ok e, s1) => (.ok (e.space, s1.baseOf c.x e + lo.toNat), s1)

/-- Both ranges of a copy checked: their scoreboard entries. ZERO reads nothing, and its source entry is empty.
DEDUCED (assumption 58). -/
def State.copyRanges (s : State) (c : Copy) : Except Block (List Score) × State :=
  let ent (dst : Bool) (r : Nat × Nat) : Score := ⟨dst, c.ctx, r.1, c.x.die, r.2, (c.span dst).2, c.id⟩
  let src : Except Block Score × State :=
    if descZero c.desc then (.ok ⟨false, c.ctx, 0, c.x.die, 0, 0, c.id⟩, s)
    else match s.rangeCheck c false with
      | (.error b, s1) => (.error b, s1)
      | (.ok r, s1) => (.ok (ent false r), s1)
  match src with
  | (.error b, s1) => (.error b, s1)
  | (.ok a, s1) =>
    match s1.rangeCheck c true with
    | (.error b, s2) => (.error b, s2)
    | (.ok r, s2) => (.ok [a, ent true r], s2)

/-- A copy at START (R301): its ranges checked, its completion pushes, and its two scoreboard entries; it runs, parks, stops its
context or waits. DEDUCED (assumptions 55, 58). -/
def State.startCopy (s0 : State) (die : Nat) (c : Copy) : State :=
  -- the replay of a copy that parked here (R345)
  let s := match c.parkAt with
    | some off => (s0.traceSector die c 0x82 off).modCopy die c.id (fun c => { c with parkAt := none })
    | none => s0
  match s.copyRanges c with
  | (.error (.fault code arg), s1) => (s1.modCopy die c.id (fun c => { c with parkAt := some arg })).parkCopy die c code arg arg
  | (.error _, s1) => s1
  | (.ok es, s1) =>
    let pushed := if descClvl c.desc + 1 = descNdim c.desc then some (c.tok.tag, c.tok.depth)
      else tagPush (s1.ctx c.ctx).tl (c.tok.tag, c.tok.depth) (nTiles c.desc - 1)
    if pushed.isNone then
      s1.takeFault (engUnit die 1 (c.st * 4 + c.k)) (strmRec die c.st c.k c.ctx c.tok .tagOverflow 0) (.copy die c.id)
    else if (s1.cell c.x).score.length + 2 > 16 then s1
    else
      let s2 := (s1.modCell c.x (fun k => { k with score := k.score ++ es })).modCopy die c.id (fun c => { c with state := .run, began := true })
      (s2.traceCopy die c 0x40 (c.nSectors (s2.handleBase c.x c.ctx (descDsth c.desc)) (descRows c.desc) 0)).progress c.ctx

/-- COPY_START (R301, R304): copy slot `k` of a streamer, unless the scan of a key store occupies it (R306), takes the first
waiting firing, or a copy that waits at START is looked at again. -/
def execCopyStart (die streamer k : Nat) (s : State) : Host.Outcome State Fault Refusal :=
  let may (ctx : Nat) (x : Site) : Bool := s.startable x ctx
  let scan (c : Nat × Nat × Nat) : Bool := c.1 == streamer && c.2.1 == k && s.cycle < c.2.2
  if k ≥ 4 || (s.die die).eng.scans.any scan then .next s else
  match (s.die die).eng.copies.find? (fun c => c.st == streamer && c.k == k) with
  | some c => .next (if c.state == .start && may c.ctx c.x && !s.copyHeld die c then s.startCopy die c else s)
  | none =>
    match (s.die die).eng.creqs.find? (fun r => r.st == streamer && may r.ctx r.x) with
    | none => .next s
    | some r =>
      let id := (s.die die).eng.nextId
      let c : Copy := { id := id, st := streamer, k := k, ctx := r.ctx, x := r.x, queue := r.queue, tmpl := r.tmpl, tok := r.tok, desc := r.desc
                        scope := r.scope, direct := r.direct, state := .start, began := false, cursor := 0, perf := [], flight := []
                        pend := [], tile := 0 }
      if s.copyHeld die c then .next s
      else .next ((s.modEng die (fun e => { e with
        nextId := id + 1, creqs := ldrop (fun q => q == r) e.creqs, copies := e.copies ++ [c] })).startCopy die c)

/-- The translation and checks of a sector's endpoint as it issues (R232, R237, R253). -/
def State.endIssue (s : State) (x : Site) (ctx h : Nat) (o : Int) (n : Nat) (write : Bool) : Except Block Unit × State :=
  if o < 0 then (.error (.fault .handleBound (o % 2 ^ 64).toNat), s) else
  match s.checkHandle x ctx h o.toNat n with
  | (.error b, s1) => (.error b, s1)
  | (.ok e, s1) =>
    let a := e.base + o.toNat
    if e.space = 0 then (match s1.virtRange x ctx a n write with | (.error b, s2) => (.error b, s2) | (.ok _, s2) => (.ok (), s2))
    else if e.space = 1 then
      if a + n > sdmSize then (.error (.fault .handleBound o.toNat), s1)
      else if !s1.sdmOwned x.die a n (s1.ctx ctx).tenant then (.error (.fault .prot o.toNat), s1)
      else (.ok (), s1)
    else match (s1.cell x).mt.check e.base o.toNat n write with
      | some code => (.error (.fault code o.toNat), s1)
      | none => (.ok (), s1)

/-- Both endpoints of a sector as it issues; ZERO has no source. None: the copy has no such sector. DEDUCED
(assumption 58). -/
def State.sectorIssue (s : State) (c : Copy) (k : Nat) : Option (Except Block Unit × State) :=
  match s.sectorAt c k with
  | none => none
  | some (so, d, n) =>
    some (match (if descZero c.desc then (.ok (), s) else s.endIssue c.x c.ctx (descSrch c.desc) so n false) with
      | (.error b, s1) => (.error b, s1)
      | (.ok _, s1) => s1.endIssue c.x c.ctx (descDsth c.desc) d n true)

/-- The homes of both endpoints of a sector that performs at its place in the order of sending (R230, R256): its source, read
first, and its destination. Where the destination keeps it from performing, its source has not been read. DEDUCED (assumption
58). -/
def State.sectorEnds (s : State) (c : Copy) (place k : Nat) : Option (Except Block (List Spot × List Spot × Nat) × State) :=
  match s.sectorAt c k with
  | none => none
  | some (so, d, n) =>
    let dst (t : State) : Except Block (List Spot) × State := t.spotsAt place c.x c.ctx (descDsth c.desc) d.toNat n true
    some (match (if descZero c.desc then (.ok [], s) else s.spotsAt place c.x c.ctx (descSrch c.desc) so.toNat n false) with
      | (.error b, s1) => (.error b, s1)
      | (.ok l, s1) => match dst s1 with
        | (.ok w, s2) => (.ok (l, w, n), s2)
        | (.error b, _) => match dst s with
          | (.error _, s2) => (.error b, s2)
          | (.ok _, _) => (.error b, s))

/-- The sector a copy issues next (R302, R304, R305): a pending one first, then the lowest that has neither performed nor been
issued, below cursor + 64. -/
def Copy.nextSector (c : Copy) : Option Nat :=
  match c.pend with
  | k :: _ => some k
  | [] => ((List.range 64).map (fun i => c.cursor + i)).find? (fun k => !c.perf.contains k && !c.flight.any (fun f => f.1 == k))

/-- The destination address of a sector, as its PARK and REPLAY records give it (R397, R398). -/
def State.sectorDst (s : State) (c : Copy) (k : Nat) : Nat :=
  match s.sectorAt c k with
  | some (_, d, _) => (((s.handleBase c.x c.ctx (descDsth c.desc) : Int) + d) % 2 ^ 32).toNat
  | none => 0

/-- What replays a sector that waits for its page: its copy issues again. -/
def Copy.again (die : Nat) (c : Copy) : Act := .event (.sectorIssue (c.id * 4 + die))

/-- A sector that does not go on is pending (R304). -/
def State.sectorPend (s : State) (die : Nat) (c : Copy) (k : Nat) : State :=
  s.modCopy die c.id (fun c => { c with pend := k :: c.pend.filter (fun j => j != k), flight := c.flight.filter (fun f => f.1 != k) })

/-- A sector that met a fault is pending (R304), its miss outstanding (R253), and its copy parks. -/
def State.sectorFault (s : State) (die : Nat) (c : Copy) (k : Nat) (code : FCode) (arg : Nat) : State :=
  let s1 := (s.sectorPend die c k).missFault c.x.die c.ctx arg (c.again die) code
  if (c.state == .fpark) then s1 else s1.parkCopy die { c with pend := k :: c.pend } code arg (s.sectorDst c k)

/-- A sector parks on a page in migration or copy (R246, R250); it stands there once. -/
def State.sectorParks (s : State) (die : Nat) (c : Copy) (k : Nat) : State :=
  if c.pend.contains k then s else (s.sectorPend die c k).traceSector die c 0x81 (s.sectorDst c k)

/-- What a blocked sector does: a fault parks its copy; a shared page is copied first (R248), and one in migration waited for (R250).
DEDUCED (assumption 58). -/
def State.sectorBlocked (s : State) (die : Nat) (c : Copy) (k : Nat) (b : Block) : State :=
  let ten := (s.ctx c.ctx).tenant
  match b with
  | .fault code arg => s.sectorFault die c k code arg
  | .wait => s
  | .migr va => (s.waitPage c.x.die c.ctx va (c.again die)).sectorParks die c k
  | .copy e at_ va =>
    match s.beginCow c.x.die ten c.ctx va e at_ (some (c.again die)) c.tok.sent with
    | (true, s1) => s1.sectorParks die c k
    | (false, s1) => s1.sectorFault die c k .cow va

/-- A copy may issue sectors (R304, R305, R388, R389): copies in copy slots go on in a stopped context, and not in one being saved.
DEDUCED (assumption 58). -/
def State.copyRuns (s : State) (c : Copy) : Bool :=
  c.state == .run && ((s.ctx c.ctx).st == .running || (s.ctx c.ctx).st == .stopped) && (s.ctx c.ctx).pre.phase ≠ 1

/-- A copy of a number, with its die. -/
def State.copyOf (s : State) (id : Nat) : Option (Nat × Copy) :=
  (List.range 4).findSome? (fun d => ((s.die d).eng.copies.find? (fun c => c.id * 4 + d == id)).map (fun c => (d, c)))

/-- SECTOR_ISSUE (R302, R304 to R306): the next sector of a copy is translated and goes out; `id` is the copy's number × 4 + die. -/
def execSectorIssue (id : Nat) (s : State) : Host.Outcome State Fault Refusal :=
  match s.copyOf id with
  | none => .next s
  | some (die, c) =>
    if !s.copyRuns c || s.copyHeld die c then .next s
    else match c.nextSector with
      | none => .next s
      | some k => match s.sectorIssue c k with
        | none => .next s
        | some (r, s1) =>
          let s2 := if c.pend.contains k then s1.traceSector die c 0x82 (s.sectorDst c k) else s1
          match r with
          | .error (.fault code arg) => .next (s2.sectorFault die c k code arg)
          | .error b => .next (s1.sectorBlocked die c k b)
          | .ok _ =>
            let n := s2.msys.sseq
            .next (((s2.modMem (fun m => { m with sseq := n + 1 })).modCopy die c.id (fun c => { c with
              flight := c.flight ++ [(k, n)], pend := c.pend.filter (fun j => j != k) })).progress c.ctx)

/-- Bytes written at the destination of a sector, in order from its first spot, with their poison marks (R275). -/
def State.endWrite (s : State) (l : List Spot) (bs : List Byte) (psn : List Bool) : State :=
  match l with
  | [] => s
  | p :: _ =>
    let a := p.addr
    let w := bs.map some
    let s1 := psn.zipIdx.foldl (fun t q => if q.1 then t.setPoison (a + q.2) 1 else t) ((s.putBytes a w).mark false a bs.length w)
    match p with
    | .phys pa => s1.pteWritten pa bs.length
    | _ => s1

/-- The completion of tile `t` (R303), before its destination. -/
def Copy.doneTok (c : Copy) (tag : W64) (depth t : Nat) : Tok :=
  let row := t * tileRows c.desc
  let jk (k : Nat) : Nat := if k ≤ descClvl c.desc then 0 else rowIdx c.desc row k * 2 ^ (16 * (k - 1))
  Tok.setFlag
    { ctx := c.ctx, pri := c.tok.pri, tag := tag, depth := depth, fmt := .s64
      data := BitVec.ofNat 512 (jk 1 + jk 2 + jk 3 + jk 4), side := BitVec.ofNat 32 t, sent := c.tok.sent } .complete true

/-- The completion of a tile is sent (R303): to CDEST, or to the targets of STRM, whose tag actions it meets there. -/
def State.completeTile (s : State) (die : Nat) (c : Copy) (t : Nat) : State :=
  let tl := (s.ctx c.ctx).tl
  let tag := if descClvl c.desc + 1 = descNdim c.desc then some (c.tok.tag, c.tok.depth) else tagPush tl (c.tok.tag, c.tok.depth) t
  let ending (s : State) : State :=
    s.takeFault (engUnit die 1 (c.st * 4 + c.k)) (strmRec die c.st c.k c.ctx c.tok .tagOverflow 0) .none
  match tag with
  | none => ending s
  | some (g, dp) =>
    let u := c.doneTok g dp t
    match c.direct with
    | none => s.sendTok die (streamerPos c.st) (tokClass u) (u.toDest (descCdest c.desc))
    | some (f, h) =>
      match sendList tl f.x (both h u) with
      | none => ending s
      | some toks => s.answer f.x f.ent.ctx f.ent.uid f.ent.node (s.msys.nextId + t) (800000 + c.id) toks

/-- The tiles whose last sector the cursor has passed complete in order (R303). -/
def State.completeTiles (s : State) (die : Nat) (c : Copy) (upto : Nat) : State :=
  let ts := (List.range (upto - c.tile)).map (fun i => c.tile + i)
  (ts.foldl (fun u t => u.completeTile die c t) s).modCopy die c.id (fun c => { c with tile := Nat.max c.tile upto })

/-- The cursor after a sector has performed (R302): past every consecutive performed sector. -/
def advanceCursor (perf : List Nat) : Nat → Nat → Nat
  | 0, k => k
  | n + 1, k => if perf.contains k then advanceCursor perf n (k + 1) else k

/-- A sector has performed (R302, R303): the cursor and bitmap, the completions, and the end of the copy (R304). -/
def State.sectorDone (s : State) (die : Nat) (c : Copy) (k : Nat) : State :=
  let perf := k :: c.perf
  let cur := advanceCursor perf 65 c.cursor
  let c1 := { c with flight := c.flight.filter (fun f => f.1 != k), perf := perf.filter (fun j => j ≥ cur), cursor := cur }
  let s1 := s.modCopy die c.id (fun _ => c1)
  let s2 := s1.completeTiles die c1 (s1.sectorRow c1 cur / tileRows c1.desc)
  if (s2.sectorAt c1 cur).isNone then
    let s3 := (s2.modCell c.x (fun k => { k with score := k.score.filter (fun e => e.copy != c.id) })).modEng die
      (fun e => { e with copies := e.copies.filter (fun q => q.id != c.id) })
    s3.traceCopy die c 0x42 cur
  else s2

/-- SECTOR_PERFORM (R298, R302, R303): a sector in flight reads its source, writes its destination, and has then performed at the
copy's scope. At a memory tile it performs in its place there (R230). DEDUCED (assumption 58). -/
def execSectorPerform (id sector : Nat) (s : State) : Host.Outcome State Fault Refusal :=
  match s.copyOf id with
  | none => .next s
  | some (die, c) =>
    match c.flight.find? (fun f => f.1 == sector) with
    | none => .next s
    | some f => match s.sectorEnds c f.2 sector with
      | none => .next s
      | some (.error b, s1) => .next (s1.sectorBlocked die c sector b)
      | some (.ok (src, dst, n), s1) =>
        let bs := if descZero c.desc then List.replicate n 0 else src.map (fun p => s1.byte p.addr)
        .next (((s1.endWrite dst bs (src.map (fun p => s1.poisoned p.addr 1))).sectorDone die c sector).progress c.ctx)

end Sys2Proof.Machine
end

