-- ==== Sys2Proof/Machine/Planes.lean ====
section
/-! DEFINITION. Configuration planes and reconfiguration (R309 to R314): PLANE, RECFG, the drain of a site and its reload. -/
namespace Sys2Proof.Machine

/-- A PLANE firing's status (R314 Table 8), and what it changes. -/
def State.planeStatus (s : State) (f : Firing) (h : Hdr) (code : Nat) (k : State → State) : State :=
  s.fireWith f (scalarOut f h .z32 code) k

/-- A context's tenant owns a plane index of its die (R314). -/
def State.planeOwned (s : State) (f : Firing) (index : Nat) : Bool :=
  tget index (s.die f.x.die).tab.plOwn == some (s.ctx f.ent.ctx).tenant

/-- A plane is bound to a live context (R309, R314). -/
def State.planeBound (s : State) (die index : Nat) : Bool :=
  match s.planeAt die index with
  | some p => !p.bound.isEmpty
  | none => false

/-- PLANE.LOAD (R309, R314): the image is read, verified and expanded. DESIGN CHOICE (assumption 4); DEDUCED
(assumption 60). -/
def execPlaneLoad (h : Hdr) (handle index : Nat) (s : State) : Host.Outcome State Fault Refusal :=
  s.firing (fun s f =>
    let o := (f.op 0).w64
    let x := f.x
    if (f.op 0).flag .poison then s.refuse f .poisonAddr o 0
    else if !s.planeOwned f index then s.planeStatus f h 4 id
    else if s.planeBound x.die index then s.planeStatus f h 5 id
    else match s.spots x f.ent.ctx handle o 64 false with
      | (.error b, s1) => s1.park f (portsOf h) b
      | (.ok l, s1) =>
        let (hd, bad) := s1.readSpots l
        if bad || !headOk index hd then s1.planeStatus f h 2 id
        else
          let n := wordAt hd 8
          match s1.spots x f.ent.ctx handle o (n + sigBytes) false with
          | (.error b, s2) => s2.park f (portsOf h) b
          | (.ok l2, s2) =>
            let (bs, bad2) := s2.readSpots l2
            match (if bad2 then none else planeOf index (bs.take n)) with
            | none => s2.planeStatus f h 2 id
            | some p =>
              if !Config.sigOk s2.mgmt.planeKey (bs.take n) (bs.drop n) then s2.planeStatus f h 3 id
              else s2.planeStatus f h 0 (fun s => s.modDie x.die (fun d => { d with tab := { d.tab with
                planes := d.tab.planes.filter (fun q => q.idx != index) ++ [p] } })))

/-- PLANE.EVICT (R314). DEDUCED (assumption 60). -/
def execPlaneEvict (h : Hdr) (_handle index : Nat) (s : State) : Host.Outcome State Fault Refusal :=
  s.firing (fun s f =>
    if !s.planeOwned f index then s.planeStatus f h 4 id
    else if s.planeBound f.x.die index then s.planeStatus f h 5 id
    else s.planeStatus f h 0 (fun s => s.modDie f.x.die (fun d => { d with tab := { d.tab with
      planes := d.tab.planes.filter (fun q => q.idx != index) } })))

/-- PLANE.QUERY (R314). DEDUCED (assumption 60). -/
def execPlaneQuery (h : Hdr) (_handle index : Nat) (s : State) : Host.Outcome State Fault Refusal :=
  s.firing (fun s f =>
    if !s.planeOwned f index then s.planeStatus f h 4 id
    else s.planeStatus f h (if (s.planeAt f.x.die index).isSome then 0 else 1) id)

/-- The sites a RECFG names (R313): the pairs of its rectangle, or the issuing site alone; as residents. -/
def State.recfgSites (s : State) (x : Site) (rect : Option Rect) : List Nat :=
  match rect with
  | some r => (rectCells r).map (fun p => s.residentAt x.die (rankOf p.1 p.2))
  | none => [x.res]

/-- A RECFG issues (R312, R313): a RECFG token goes to each of its sites on the CTRL class. -/
def State.recfg (s : State) (f : Firing) (h : Hdr) (plane : Nat) (rect : Option Rect) (site : Bool) : State :=
  if (f.op 0).flag .poison && !site then s.refuse f .poisonAddr (f.op 0).w64 0
  else s.later f h (doneTok f h) (fun s w =>
    let x := f.x
    let todo := s.recfgSites x rect
    if todo.isEmpty then s.pay x w
    else
      let id := (s.die x.die).eng.nextId
      let r : Recfg := { id := id, ctx := f.ent.ctx, die := x.die, plane := plane, site := site, first := fld (f.op 0).w64 0 10
                         last := fld (f.op 0).w64 10 10, todo := todo.map (fun t => (t, false)), x := x, dep := w, shut := [] }
      let s1 := (s.modEng x.die (fun e => { e with nextId := id + 1 })).modDie x.die (fun d => { d with recfgs := d.recfgs ++ [r] })
      todo.foldl (fun t res => t.netSend x.die (t.pos x) 0 x.die res (.recfg id)) s1)

/-- RECFG.BLOCKS (R312, R313). -/
def execRecfgBlocks (h : Hdr) (plane : Nat) (rect : Option Rect) (s : State) : Host.Outcome State Fault Refusal :=
  s.firing (fun s f => s.recfg f h plane rect false)

/-- RECFG.SITE (R312, R313). -/
def execRecfgSite (h : Hdr) (plane : Nat) (rect : Option Rect) (s : State) : Host.Outcome State Fault Refusal :=
  s.firing (fun s f => s.recfg f h plane rect true)

/-- RECFG_ARRIVAL (R312): a RECFG token has reached its site, which begins to drain for its context; `k` is the packet's place in
the mesh × 4 + die. -/
def execRecfgArrival (k : Nat) (s : State) : Host.Outcome State Fault Refusal :=
  let die := k % 4
  let l := (s.die die).net.mesh
  match l[k / 4]? with
  | none => .next s
  | some p =>
    match p.body with
    | .recfg id =>
      if p.due > s.cycle || (p.hop die).isSome || s.packetBlocked die p (l.take (k / 4)) || s.swapping ⟨die, p.res⟩
          || s.flHeld p then .next s
      else
        let s1 := s.modDie die (fun d => { d with net := { d.net with mesh := d.net.mesh.take (k / 4) ++ d.net.mesh.drop (k / 4 + 1) } })
        if s.pos ⟨die, p.res⟩ != (p.col, p.row) then .next (s1.netSend die (p.col, p.row) 0 die p.res (.recfg id))
        else
          let begun (r : Recfg) : Recfg := { r with todo := lmap (fun e => e.1 == p.res) (fun e => (e.1, true)) r.todo }
          .next (s1.modDie die (fun d => { d with recfgs := lmap (fun r => r.id == id) begun d.recfgs }))
    | _ => .next s

/-- The patterns that a RECFG's plane holds for its context's slot at a site (R309, R312). DEDUCED (assumption 61). -/
def State.recfgImg (s : State) (r : Recfg) (res : Nat) : Option SiteImg :=
  match s.planeAt r.die r.plane with
  | none => none
  | some p => (s.siteImgs r.die (p.pats.filter (fun q => q.slot == (s.ctx r.ctx).slot))).find? (fun i => i.x == ⟨r.die, res⟩)

/-- A block is replaced by a RECFG (R312): every block of the context in SITE mode, those whose header lies in the named indices in
BLOCKS mode. DEDUCED (assumption 61). -/
def Recfg.takes (r : Recfg) (b : Blk) : Bool := b.ctx == r.ctx && (r.site || (r.first ≤ b.hdr && b.hdr ≤ r.last))

/-- The image of a RECFG's site, with the blocks it loads (R312): in BLOCKS mode the cell's mode stays. -/
def State.recfgPart (s : State) (r : Recfg) (i : SiteImg) : SiteImg :=
  if r.site then i
  else { i with blks := i.blks.filter (fun b => r.first ≤ b.hdr && b.hdr ≤ r.last), spatial := (s.cell i.x).spat.on }

/-- The new header equals the old in FSIZE, NREC, PMBASE and port map (R312). -/
def sameFrame (a b : Blk) : Bool :=
  a.fsize == b.fsize && a.recs.length == b.recs.length && a.pmbase == b.pmbase && a.pmap == b.pmap

/-- A replaced block that keeps its frames (R312). -/
def State.keepsFrames (_s : State) (r : Recfg) (new : List Blk) (b : Blk) : Bool :=
  !r.site && new.any (fun n => n.hdr == b.hdr && sameFrame n b)

/-- The blocks a reload would write at a site. DEDUCED (assumption 61). -/
def State.recfgBlks (s : State) (r : Recfg) (res : Nat) : List Blk :=
  match s.recfgImg r res with
  | none => []
  | some i =>
    let e := s.envOf (s.recfgPart r i) r.ctx [] (s.die r.die).net.routes [] (fun b => !r.takes b)
    (s.recfgPart r i).blks.map (fun b => e.toBlk r.plane (s.ctx r.ctx).slot b)

/-- A record of a list is a shard of a logical store (R203). -/
def Blk.shards (b : Blk) : List Nat :=
  (List.range b.recs.length).filterMap (fun p =>
    let q := b.recAt p
    if q.opc = 0x282 && fld q.w0.toNat 27 1 = 1 then some (b.hdr + 1 + p) else none)

/-- An operation of a logical store with a shard at a site has an order number and has not completed, its commits included, or has
been sent by the site (R210). -/
def State.lopsLeft (s : State) (x : Site) (ctx : Nat) (old : List Blk) : Bool :=
  let nodes := (old.map Blk.shards).flatten
  (s.die x.die).eng.lops.any (fun o => o.ctx == ctx && (o.x == x || (o.on.isSome && nodes.contains o.node &&
    (match s.lstore x ctx o.node with | some l => l.shards.contains o.x.res | none => false))))

/-- An island works for a context at a site (R267, R327): its notices and drains, those of other sites for a slot it armed, and
its banks and tiles. -/
def State.islandsLeft (s : State) (x : Site) (ctx : Nat) : Bool :=
  (s.die x.die).eng.islands.any (fun i =>
    let armed (n : Nat) : Bool := i.2.slots.any (fun k => k.x == x && k.ctx == ctx && k.n == n)
    i.2.notices.any (fun n => n.ctx == ctx && (n.x == x || armed n.cslot)) || i.2.drains.any (fun n => n.ctx == ctx && (n.x == x || armed n.cslot))
      || i.2.slots.any (fun k => k.x == x && k.ctx == ctx && (k.banks.any (fun b => b.st != .free) || i.2.tiles.any (fun t => t.cslot == k.n))))

/-- Firings, engines and accesses of a RECFG's context at a site are done (R312, steps 1 to 3; R210, R267). DEDUCED
(assumption 61). -/
def State.recfgIdle (s : State) (r : Recfg) (res : Nat) : Bool :=
  let x : Site := ⟨r.die, res⟩
  let c := s.cell x
  let d := s.die r.die
  !c.pipe.deps.any (fun p => p.ctx == r.ctx) && !(s.answersTo x).any (fun p => p.ctx == r.ctx)
    && !d.eng.creqs.any (fun q => q.x == x && q.ctx == r.ctx) && !d.eng.copies.any (fun q => q.x == x && q.ctx == r.ctx)
    && !d.eng.walks.any (fun w => w.f.x == x && w.f.ent.ctx == r.ctx) && !s.lopsLeft x r.ctx (c.blks.filter r.takes)
    && !s.islandsLeft x r.ctx
    && !s.msys.accs.any (fun a => a.x == x && a.ctx == r.ctx && !a.over) && !s.msys.reqs.any (fun q => q.x == x && q.tok.ctx == r.ctx)
    && !s.parked.any (fun p => p.f.x == x && p.f.ent.ctx == r.ctx)

/-- Every channel into and out of a site is EMPTY, of whatever context (R187, R188, R312 step 4): its buffer ports and its own
tokens, its router port with all that is on the way to it on any die or has left it and stands at its router, its miss buffer, and
the deliveries of its route entries. -/
def State.channelsEmpty (s : State) (x : Site) : Bool :=
  let c := s.cell x
  let p := s.pos x
  c.pipe.selfq.isEmpty && c.pipe.p0.isEmpty && c.pipe.p1.isEmpty && c.pipe.p2.isEmpty && c.pipe.p3.isEmpty && (s.answersTo x).isEmpty
    && c.miss.isEmpty && c.spat.inner.isEmpty
    && !s.dies.any (fun e => e.2.net.mesh.any (fun q => q.ddie == x.die && q.res == x.res))
    && !(s.die x.die).net.mesh.any (fun q => q.col == p.1 && q.row == p.2 && q.src == routerOf p)
    && !(s.die x.die).net.tracks.any (fun t => t.trk == 96 && (t.col, t.row) == p)
    && !s.inFlight x 3

/-- What step 5 asks before a site loads the replacement (R312): quiescence where an LBOUND or KMATCH record goes, and no
instance of a block that does not keep its frames. DEDUCED (assumption 61). -/
def State.recfgFree (s : State) (r : Recfg) (res : Nat) : Bool :=
  let x : Site := ⟨r.die, res⟩
  let c := s.cell x
  let old := c.blks.filter r.takes
  let new := s.recfgBlks r res
  let bound := old.any (fun b => b.recs.any (fun q => q.opc = 0x046 || q.opc = 0x282))
  !(bound && (c.busy r.ctx || (s.ctx r.ctx).spill.toks.any (fun p => p.x == x)))
    && old.all (fun b => s.keepsFrames r new b || !c.dir.any (fun e => !e.bind && e.ctx == r.ctx && e.blk == b.hdr))

/-- A site's route entries for a context are replaced by those of its plane (R179, R181): those of the routers at the two positions of
its pair. DEDUCED (assumption 61). -/
def State.reloadRoutes (s : State) (r : Recfg) (p : Nat × Nat) : State :=
  let here (q : Nat × Nat) : Bool := q.1 = p.1 && q.2 / 2 = p.2 / 2
  let pats : List Pattern := match s.planeAt r.die r.plane with
    | some pl => pl.pats.filter (fun q => q.slot == (s.ctx r.ctx).slot)
    | none => []
  let s1 := s.modDie r.die (fun d => { d with net := { d.net with
    routes := d.net.routes.filter (fun e => !(here (e.col, e.row) && fld e.w.w2.toNat 17 14 = r.ctx)) } })
  let rs := s1.loadRoutes r.die r.ctx r.plane (pats.map (fun q => { q with routes := q.routes.filter (fun e => here (e.1, e.2.1)) }))
  s1.modDie r.die (fun d => { d with net := { d.net with routes := d.net.routes ++ rs } })

/-- A site loads the replacement from the plane (R312, R134): blocks that keep their frames keep their bindings and directory
entries, of the others every binding goes, and key stores and windows of replaced records are discarded; shards leave and join
their logical stores (R203, R204), and in SITE mode the pair's route entries are replaced (R181). DEDUCED (assumption 61). -/
def State.reloadSite (s : State) (r : Recfg) (res : Nat) : State :=
  let x : Site := ⟨r.die, res⟩
  match s.recfgImg r res with
  | none => s
  | some i =>
    let new := s.recfgBlks r res
    let old := (s.cell x).blks.filter r.takes
    let lost := old.filter (fun b => !s.keepsFrames r new b)
    let inOld (n : Nat) : Bool := old.any (fun b => b.hdr < n && n ≤ b.hdr + b.recs.length)
    let s1 := s.modCell x (fun c =>
      let gone := c.dir.filter (fun e => e.ctx == r.ctx && lost.any (fun b => b.hdr == e.blk))
      { c with
        slots := c.slots.filter (fun q => !gone.any (fun e => e.base ≤ q.1 && q.1 < e.base + e.size))
        dir := c.dir.filter (fun e => !gone.any (fun g => g.uid == e.uid))
        ready := c.ready.filter (fun e => !(match e.uid with | some u => gone.any (fun g => g.uid == u) | none => false))
        stores := c.stores.filter (fun k => !(k.ctx == r.ctx && inOld k.node))
        lbs := c.lbs.filter (fun w => !(w.ctx == r.ctx && inOld w.node))
        spat := if r.site then { c.spat with binds := [], inner := [] } else c.spat
        blks := c.blks.filter (fun b => !r.takes b) })
    let gone := (s.cell x).stores.filter (fun k => k.ctx == r.ctx && inOld k.node && (s.cell x).isShard k.ctx k.node)
    let s1a := gone.foldl (fun t k => t.leaveStore x k) s1
    let s1b := if r.site then s1a.reloadRoutes r i.p else s1a
    let s2 := s1b.siteWord i (r.site && !s1b.shared x r.ctx)
    let part := s.recfgPart r i
    let sets := loadShards [part]
    let e := s2.envOf part r.ctx [] (s2.die r.die).net.routes (s2.noSets r.die r.ctx r.plane sets) (fun b => !r.takes b)
    let s3 := (s2.loadSite e r.plane (s2.ctx r.ctx).slot).makeStores r.die r.ctx r.plane sets
    let ev : Event := { code := 0xA1, tenant := (s3.ctx r.ctx).tenant, ctx := r.ctx, arg := (s3.cell x).cgen
                        after := lastSent r.dep.toks }
    s3.traceCell x ev

/-- SITE_RELOAD (R188, R312): a site whose work is done and whose channels are EMPTY closes them, and then loads its replacement; with
the last site the RECFG is answered. `k` is (RECFG × 8,192 + resident) × 4 + die. -/
def execSiteReload (k : Nat) (s : State) : Host.Outcome State Fault Refusal :=
  let die := k % 4
  let res := k / 4 % 8192
  match (s.die die).recfgs.find? (fun r => r.id == k / 4 / 8192) with
  | none => .next s
  | some r =>
    if !r.todo.contains (res, true) || !s.recfgIdle r res then .next s
    else if !r.shut.contains res then
      .next (if s.channelsEmpty ⟨die, res⟩ then
          s.modDie die (fun d => { d with recfgs := lmap (fun q => q.id == r.id) (fun q => { q with shut := res :: r.shut }) d.recfgs })
        else s)
    else if !s.recfgFree r res then .next s
    else
      let s1 := s.reloadSite r res
      let left := r.todo.filter (fun e => e.1 != res)
      if left.isEmpty then
        .next ((s1.modDie die (fun d => { d with recfgs := d.recfgs.filter (fun q => q.id != r.id) })).pay r.x r.dep)
      else .next (s1.modDie die (fun d => { d with recfgs := lmap (fun q => q.id == r.id) (fun q => { q with todo := left, shut := q.shut.filter (fun n => n != res) }) d.recfgs }))

end Sys2Proof.Machine
end

