-- ==== Sys2Proof/Machine/Island.lean ====
section
/-! DEFINITION. Systolic islands (R315 to R327): commands, notices, staging, pairs, scales, epilogue tables and drains. -/
namespace Sys2Proof.Machine

/-- An island of a die. -/
def State.island (s : State) (die isl : Nat) : Island := (tget isl (s.die die).eng.islands).getD {}

/-- A state with an island changed. -/
def State.modIsl (s : State) (die isl : Nat) (f : Island → Island) : State :=
  s.modEng die (fun e => { e with islands := tput isl (f ((tget isl e.islands).getD {})) e.islands })

/-- A command slot of an island in use. -/
def Island.slot (i : Island) (n : Nat) : Option CSlot := i.slots.find? (fun k => k.n == n)

/-- A state with a command slot changed. -/
def State.modSlot (s : State) (die isl n : Nat) (f : CSlot → CSlot) : State :=
  s.modIsl die isl (fun i => { i with slots := lmap (fun k => k.n == n) f i.slots })

/-- The fault of an island's operation (R362). -/
def islRec (die isl ctx : Nat) (tag : W64) (depth : Nat) (code : FCode) (arg : Nat) : FRec :=
  engRec die 2 (islandPos isl) isl ctx 0x3FF tag depth code arg

/-- The container width of an operand type of a command (R76, R315). -/
def mxWidth (t : Ty) (reg : W32) : Nat := if t == .nf then (nfOf reg).cont else t.width

/-- The float format of an operand type. -/
def mxFmt (t : Ty) (reg : W32) : FFmt := if t == .nf then nfOf reg else fmtOf t

/-- A format register a command slot has read: 0 that of A, 1 of B, 2 of the output. -/
def CSlot.reg (k : CSlot) (i : Nat) : W32 := k.fmts.getD i 0

/-- The container width of a command's operands. -/
def CSlot.width (k : CSlot) : Nat := mxWidth k.cmd.atype (k.reg 0)

/-- Kt (R315 Table 1). -/
def CSlot.kt (k : CSlot) : Nat := 512 / k.width

/-- A command's operands are integers (R315). -/
def CSlot.isInt (k : CSlot) : Bool := k.cmd.atype.isInt

/-- A notice leaves its site for its island (R318): behind what the site has sent there before. -/
def State.sendNotice (s : State) (f : Firing) (isl cslot : Nat) (kind : NoticeKind) (tag : W64) (depth : Nat) (poison trace : Bool) (w : Dep) :
    State :=
  let id := (s.die f.x.die).eng.nextId
  let n : Notice := { id := id, x := f.x, ctx := f.ent.ctx, node := f.ent.node, cslot := cslot, tag := tag, depth := depth
                      poison := poison, trace := trace, sent := lastSent f.all, kind := kind, spilt := none, parked := false
                      parkAt := none, dep := w }
  (s.modEng f.x.die (fun e => { e with nextId := id + 1 })).modIsl f.x.die isl (fun i => { i with notices := i.notices ++ [n] })

/-- An MXOP firing (R318): a notice, whose tokens leave once the island has acted. -/
def State.mxop (s : State) (f : Firing) (h : Hdr) (isl cslot : Nat) (kind : NoticeKind) : State :=
  let a := f.op 0
  s.later f h (doneTok f h) (fun s w => s.sendNotice f isl cslot kind f.ent.tag f.ent.depth (a.flag .poison) (a.flag .trace) w)

/-- A STREAM_END at a TILE form (R318): a notice, after which the marker is forwarded under R107. -/
def State.mxEnd (s : State) (f : Firing) (h : Hdr) (isl cslot : Nat) : State :=
  let t := f.ent.alone.getD {}
  s.issue f (streamOut f h [h.t0, h.t1]) (fun s toks =>
    let id := s.msys.nextId
    let s1 := s.modMem (fun m => { m with nextId := id + 1 })
    s1.sendNotice f isl cslot (.streamEnd t) t.tag t.depth (t.flag .poison) (t.flag .trace) ⟨f.ent.ctx, f.ent.uid, f.ent.node, 0, id, 0, toks.any Tok.isExit, toks⟩)

/-- MXOP.ARM (R317, R318). -/
def execMxopArm (h : Hdr) (isl cslot : Nat) (cmd : MxCmd) (s : State) : Host.Outcome State Fault Refusal :=
  s.firing (fun s f => s.mxop f h isl cslot (.arm cmd))

/-- MXOP.TILEA (R318). -/
def execMxopTileA (h : Hdr) (isl cslot reg : Nat) (s : State) : Host.Outcome State Fault Refusal :=
  s.firing (fun s f => if f.ent.alone.isSome then s.mxEnd f h isl cslot else s.mxop f h isl cslot (.tile false reg))

/-- MXOP.TILEB (R318). -/
def execMxopTileB (h : Hdr) (isl cslot reg : Nat) (s : State) : Host.Outcome State Fault Refusal :=
  s.firing (fun s f => if f.ent.alone.isSome then s.mxEnd f h isl cslot else s.mxop f h isl cslot (.tile true reg))

/-- Bytes of an epilogue table (R326 Table 5). -/
def tableBytes (tbl : Nat) : Nat := if tbl = 0 then 2048 else 512

/-- MXTAB (R326): its bytes are read as a load, and go to the island. -/
def execMxtab (h : Hdr) (c : MxTabCtl) (s : State) : Host.Outcome State Fault Refusal :=
  s.firing (fun s f =>
    let o := (f.op 0).w64
    if (f.op 0).flag .poison then s.refuse f .poisonAddr o 0
    else match s.cellSpots f.x f.ent.ctx c.handle o (tableBytes c.tbl) false with
      | (.error b, s1) => s1.park f (portsOf h) b
      | (.ok l, s1) =>
        let (bs, bad) := s1.readSpots l
        s1.later f h ((doneTok f h).setFlag .poison (bad || anyPoison (usedBy f h))) (fun s w =>
          s.sendNotice f c.isl c.cslot (.table c.tbl c.bank bs) f.ent.tag f.ent.depth false ((f.op 0).flag .trace) w))

/-- Bytes of a drained tile (R326 Table 5). -/
def CSlot.outBits (k : CSlot) : Nat := mxWidth k.cmd.otype (k.reg 2)

/-- MXDRAIN (R326): checked under R274 at issue, and sent to the island. DEDUCED (assumption 62). -/
def execMxdrain (h : Hdr) (isl cslot : Nat) (scope : Scope) (handle : Nat) (s : State) : Host.Outcome State Fault Refusal :=
  s.firing (fun s f =>
    let o := (f.op 0).w64
    let cw := match (s.island f.x.die isl).slot cslot with | some k => k.outBits | none => 8
    let n := 128 * 128 * cw / 8
    if (f.op 0).flag .poison then s.refuse f .poisonAddr o 0
    else match s.checkHandle f.x f.ent.ctx handle o n with
      | (.error b, s1) => s1.park f (portsOf h) b
      | (.ok e, s1) =>
        let name := if e.space = 0 then e.base + o else o
        let at_ := s1.baseOf f.x e + o
        if e.space = 1 && !s1.sdmOwned f.x.die at_ n (s1.ctx f.ent.ctx).tenant then s1.park f (portsOf h) (.fault .prot name)
        else if (if e.space = 2 then o else at_) % 64 ≠ 0 then s1.park f (portsOf h) (.fault .align name)
        else s1.later f h (doneTok f h) (fun s w =>
          let id := (s.die f.x.die).eng.nextId
          let d : Drain := { id := id, x := f.x, ctx := f.ent.ctx, node := f.ent.node, cslot := cslot, tag := f.ent.tag, depth := f.ent.depth
                             trace := (f.op 0).flag .trace, sent := lastSent f.all, handle := handle, off := o, scope := scope, bank := none, row := 0, piece := 0, clamps := 0
                             spilt := none, parked := false, parkAt := none, dep := w }
          (s.modEng f.x.die (fun e => { e with nextId := id + 1 })).modIsl f.x.die isl (fun i => { i with drains := i.drains ++ [d] })))

/-- SCL (R323): a scale token for the scale network. -/
def execScl (h : Hdr) (l : Lit) (s : State) : Host.Outcome State Fault Refusal :=
  s.firing (fun s f =>
    let a := (f.op 0).w64
    let isl := fld a 0 5
    if isl > 23 then s.refuse f .mxCmd 0 0
    else
      let t := (newTok f h (usedBy f h) none .bf16 false (BitVec.ofNat 512 (opElem f h.arity .bf16 l 16 1 0))).setFlag .scale true
      let u := { t with side := BitVec.ofNat 32 (fld a 9 1), tag := (f.op 0).tag, depth := (f.op 0).depth }
      s.issue f { sends := [.tok h.t0 u], ports := portsOf h, used := usedBy f h } (fun s toks =>
        s.depart f 1 (toks.map (fun t => { t with die := f.x.die, site := isl + 32 * fld a 5 4 }))))

/-- The index of a notice or drain in a spill ring, which no token has. -/
def noteHdr : Nat := 2 ^ 32 - 1

/-- The token that stands for a notice in the ring. -/
def Notice.tok (n : Notice) : Tok :=
  (Tok.setFlag { node := n.node, ctx := n.ctx, tag := n.tag, depth := n.depth, sent := n.sent } .trace n.trace).setFlag .poison n.poison

/-- A state with a notice changed, or taken off its island. -/
def State.modNote (s : State) (die isl id : Nat) (f : Notice → Notice) : State :=
  s.modIsl die isl (fun i => { i with notices := lmap (fun n => n.id == id) f i.notices })
/-- A notice has been handled: it leaves its island, and the ring where it was spilled. -/
def State.endNote (s : State) (die isl : Nat) (n : Notice) : State :=
  let s1 := (s.modIsl die isl (fun i => { i with notices := i.notices.filter (fun m => m.id != n.id) })).progress n.ctx
  match n.spilt with
  | some r => s1.unspill n.ctx r
  | none => s1

/-- A PARK or REPLAY record of an island (R345), of the work that a token stands for. -/
def State.traceIsl (s : State) (die isl : Nat) (t : Tok) (code off : Nat) : State :=
  let p := islandPos isl
  s.trace die (unitIsland isl)
    { code := code, tenant := (s.ctx t.ctx).tenant, ctx := t.ctx, tag := t.tag, depth := t.depth, arg := isl, data := off
      xt := true, psn := t.flag .poison, col := p.1, row := p.2, after := t.sent }

/-- A notice meets a fault (R318, R319, R327): it parks until its record is answered. -/
def State.parkNote (s : State) (die isl : Nat) (n : Notice) (code : FCode) (arg : Nat) : State :=
  let memory := code.kind = 1
  let s1 := s.modNote die isl n.id (fun n => { n with parked := true, parkAt := if memory then some arg else none })
  let s2 := if memory then s1.traceIsl die isl n.tok 0x81 arg else s1
  s2.takeFault (engUnit die 2 isl) ((islRec die isl n.ctx n.tag n.depth code arg).by [n.tok]) (.notice die isl n.id)

/-- A notice that parked is replayed (R252, R345). -/
def State.replayNote (s : State) (die isl : Nat) (n : Notice) : State :=
  match n.parkAt with
  | some off => (s.traceIsl die isl n.tok 0x82 off).modNote die isl n.id (fun n => { n with parkAt := none })
  | none => s

/-- The region a TILE notice reads (R318). -/
def Notice.region (n : Notice) : Option Nat := match n.kind with | .tile _ r => some r | _ => none

/-- An earlier notice of the same site holds a notice back (R183, R318, R319): one not yet handled; of those parked or spilled, only
one that reads the same region. -/
def Notice.behind (n m : Notice) : Bool :=
  m.x == n.x && ((!m.parked && m.spilt.isNone) || (m.region.isSome && m.region == n.region))

/-- A slot's tables in a bank (R324). -/
def CSlot.tab (k : CSlot) (b : Nat) : MxTabs := k.tabs.getD b {}

/-- A table bank is busy (R324). -/
def CSlot.tabBusy (k : CSlot) (b : Nat) : Bool := b == k.active || k.banks.any (fun c => c.st != .free && c.tbl == b)

/-- The words of a table's bytes. -/
def tableWords (bs : List Byte) (first step n : Nat) : List Nat := (List.range n).map (fun i => wordAt bs (first + step * i))

/-- A table written into a bank (R324, R326): PENDING is set where it is the shadow. -/
def CSlot.write (k : CSlot) (tbl b : Nat) (bs : List Byte) : CSlot :=
  let t := k.tab b
  let u : MxTabs := match tbl with
    | 0 => { t with slope := tableWords bs 0 8 256, icpt := tableWords bs 4 8 256 }
    | 1 => { t with bias := tableWords bs 0 4 128 }
    | _ => { t with qs := tableWords bs 0 4 128 }
  { k with tabs := k.tabs.set b u, pend := true }

/-- The fresh slot of a new owner (R316). -/
def freshSlot (n ctx : Nat) (x : Site) (cmd : MxCmd) (fmts : List W32) : CSlot :=
  { n := n, ctx := ctx, x := x, cmd := cmd, fmts := fmts, rearm := false, banks := [{}, {}], tabs := [{}, {}], active := 0, pend := false }

/-- An ARM at its island (R316, R317): whether it goes on. DEDUCED (assumption 62). -/
def State.armAt (s : State) (die isl : Nat) (n : Notice) (cmd : MxCmd) : Bool × State :=
  let i := s.island die isl
  let fmts := [s.fmtReg n.ctx cmd.afreg, s.fmtReg n.ctx cmd.bfreg, s.fmtReg n.ctx cmd.ofreg]
  let put (k : CSlot) : State :=
    ((s.modIsl die isl (fun i => { i with slots := i.slots.filter (fun j => j.n != n.cslot) ++ [k] })).endNote die isl n).pay n.x n.dep
  match i.slot n.cslot with
  | some k =>
    if k.ctx ≠ n.ctx then (true, s.parkNote die isl n .mxBusy 0)
    else if mxWidth cmd.atype (fmts.getD 0 0) ≠ mxWidth cmd.btype (fmts.getD 1 0) then (true, s.parkNote die isl n .mxCmd 0)
    else if k.banks.all (fun b => b.st == .free) && !i.tiles.any (fun t => t.ctx == n.ctx && t.cslot == n.cslot) then
      (true, put { k with cmd := cmd, fmts := fmts, x := n.x, rearm := false })
    else (false, s.modSlot die isl n.cslot (fun k => { k with rearm := true }))
  | none =>
    if mxWidth cmd.atype (fmts.getD 0 0) ≠ mxWidth cmd.btype (fmts.getD 1 0) then (true, s.parkNote die isl n .mxCmd 0)
    else (true, put (freshSlot n.cslot n.ctx n.x cmd fmts))

/-- The record of a failed spill at an island, whose code follows (R368). -/
def spillRec (die isl : Nat) (t : Tok) : FRec := islRec die isl t.ctx t.tag t.depth .spillFull 0

/-- A TILE notice goes to the spill area (R319): whether it does. DEDUCED (assumption 62). -/
def State.spillTile (s : State) (die isl : Nat) (n : Notice) : Bool × State :=
  if n.spilt.isSome && !s.mayRing n.ctx n.spilt then (false, s)
  else match s.spillEng (engUnit die 2 isl) (spillRec die isl n.tok) n.x noteHdr n.tok with
    | (some r, s1) => (true, s1.modNote die isl n.id (fun n => { n with spilt := some r }))
    | (none, s1) => (false, s1)

/-- A TILE notice at its island (R318, R319): the tile is read from its region and staged, or the notice spills, waits or faults.
DEDUCED (assumption 62). -/
def State.tileAt (s : State) (die isl : Nat) (n : Notice) (opB : Bool) (reg : Nat) (behind : Bool) : Bool × State :=
  let i := s.island die isl
  let m := (s.cell n.x).mt
  match i.slot n.cslot with
  | none => (true, s.parkNote die isl n .mxBusy 0)
  | some k =>
    if k.ctx ≠ n.ctx then (true, s.parkNote die isl n .mxBusy 0)
    else if n.depth = 0 || lvl (s.ctx n.ctx).tl n.tag 1 > k.cmd.ksm1 then (true, s.parkNote die isl n .mxOrder 0)
    else if !m.valid reg || m.mode reg ≠ 0 || m.size reg ≠ 8192 then (true, s.parkNote die isl n .mtMode 0)
    else if behind || i.tiles.length ≥ 64
        || i.tiles.any (fun t => t.ctx == n.ctx && t.cslot == n.cslot && t.opB == opB && t.tag == n.tag && t.depth == n.depth) then
      s.spillTile die isl n
    else match s.tileSpots s.msys.sseq n.x reg 0 8192 false with
      | (.error (.fault code _), s1) => (true, s1.parkNote die isl n code 0)
      | (.error _, s1) => (false, s1)
      | (.ok l, s1) =>
        let a := match l with | p :: _ => p.addr | [] => 0
        let rows := (List.range 128).map (fun r => leNat (s1.bytes (a + 64 * r) 64))
        let psn := n.poison || s1.poisoned a 8192
        let t : Tile := ⟨n.ctx, n.cslot, opB, n.tag, n.depth, rows, psn, n.trace, n.sent, 0⟩
        let ord := (s1.die die).eng.nextId
        let s2 := (s1.modEng die (fun e => { e with nextId := ord + 1 })).modIsl die isl (fun i => { i with tiles := i.tiles ++ [{ t with ord := ord }] })
        (true, (s2.endNote die isl n).pay n.x n.dep)

/-- An MXTAB at its island (R324, R326): whether it goes on. DEDUCED (assumption 62). -/
def State.tableAt (s : State) (die isl : Nat) (n : Notice) (tbl : Nat) (bank : Option Nat) (bs : List Byte) : Bool × State :=
  match (s.island die isl).slot n.cslot with
  | none => (true, s.parkNote die isl n .mxBusy 0)
  | some k =>
    if k.ctx ≠ n.ctx then (true, s.parkNote die isl n .mxBusy 0)
    else
      let shadow := 1 - k.active
      if bank == some k.active then (true, s.parkNote die isl n .tableBusy 0)
      else if k.tabBusy shadow then (false, s)
      else (true, ((s.modSlot die isl n.cslot (fun k => k.write tbl shadow bs)).endNote die isl n).pay n.x n.dep)

/-- A STREAM_END notice at its island (R324): it swaps the tables of its slot where PENDING is set. -/
def State.endAt (s : State) (die isl : Nat) (n : Notice) : State :=
  let s1 := s.modSlot die isl n.cslot (fun k =>
    if k.ctx = n.ctx && k.pend then { k with active := 1 - k.active, pend := false } else k)
  (s1.endNote die isl n).pay n.x n.dep

/-- One notice is handled, if it can be: whether it is. `behind` says that an earlier notice from its region is spilled (R319).
DEDUCED (assumption 62). -/
def State.noteAt (s : State) (die isl : Nat) (n : Notice) (behind : Bool) : Bool × State :=
  match n.kind with
  | .arm cmd => s.armAt die isl n cmd
  | .tile opB reg => s.tileAt die isl n opB reg behind
  | .table tbl bank bs => s.tableAt die isl n tbl bank bs
  | .streamEnd _ => (true, s.endAt die isl n)

/-- The first notice that can be handled, its site's earlier ones done with. DEDUCED (assumption 62). -/
def State.firstNote (s : State) (die isl : Nat) : List Notice → List Notice → State
  | _, [] => s
  | before, n :: rest =>
    let held := before.filter (fun m => n.behind m)
    let only := held.all (fun m => m.spilt.isSome)
    let live := (s.ctx n.ctx).st == .running || (s.ctx n.ctx).st == .stopped
    let no := n.parked || !live || (!held.isEmpty && !(only && n.region.isSome))
      || (!held.isEmpty && n.spilt.isSome && !s.mayRing n.ctx n.spilt)
    let (did, s1) := if no then (false, s) else (s.replayNote die isl n).noteAt die isl n (!held.isEmpty)
    if did then s1 else State.firstNote s1 die isl (before ++ [n]) rest

/-- MX_NOTICE (R318, R319): an island handles a notice. -/
def execMxNotice (die isl : Nat) (s : State) : Host.Outcome State Fault Refusal :=
  .next (s.firstNote die isl [] (s.island die isl).notices)

/-- A scale token's key (R322): its slot and operand. -/
def scaleSlot (t : Tok) : Nat := t.site / 32
/-- The operand a scale token scales: B, or A (R83). -/
def scaleB (t : Tok) : Bool := t.side.getLsbD 0

/-- A scale of the same block is held (R84). -/
def Island.scaled (i : Island) (t : Tok) : Bool :=
  i.scales.any (fun c => c.ctx == t.ctx && c.cslot == scaleSlot t && c.opB == scaleB t && c.tag == t.tag && c.depth == t.depth)

/-- The store takes a scale token (R84, R315). -/
def Island.takes (i : Island) (t : Tok) : Bool := i.scales.length < 64 && !i.scaled t

/-- A scale token stored (R322). -/
def Island.store (i : Island) (t : Tok) : Island :=
  { i with scales := i.scales ++ [⟨t.ctx, scaleSlot t, scaleB t, t.tag, t.depth, t.data.toNat % 2 ^ 16, t.flag .poison, t.sent, 0⟩] }

/-- The first scale that stands aside of a context whose episode is over goes to the ring (R368): whether one does. -/
def State.ringScale (s : State) (die isl : Nat) : List (Tok × Nat) → Bool × State
  | [] => (false, s)
  | e :: rest =>
    let again : Bool × State :=
      if !s.mayRing e.1.ctx (some e.2) then (false, s)
      else match s.spillEng (engUnit die 2 isl) (spillRec die isl e.1) ⟨die, 0⟩ noteHdr e.1 with
        | (some r, s1) => (true, s1.modIsl die isl (fun i => { i with sspill := i.sspill.map (fun q => if q == e then (q.1, r) else q) }))
        | (none, s1) => (false, s1)
    if again.1 then again else State.ringScale again.2 die isl rest

/-- SCALE_ARRIVAL (R84, R319, R322): a spilled scale that can be stored is; else the next token of the scale network is stored, or
spilled; one that the ring does not take now stands aside, and others go on (R368). DEDUCED (assumption 62). -/
def execScaleArrival (die isl : Nat) (s : State) : Host.Outcome State Fault Refusal :=
  let i := s.island die isl
  let same (a b : Tok) : Bool := a.ctx == b.ctx && a.site == b.site && scaleB a == scaleB b && a.tag == b.tag && a.depth == b.depth
  match i.sspill.find? (fun e => i.takes e.1 && ((s.ctx e.1.ctx).st == .running || (s.ctx e.1.ctx).st == .stopped)) with
  | some e =>
    .next (((s.modIsl die isl (fun i => { i.store e.1 with sspill := ldrop (fun q => q == e) i.sspill })).unspill e.1.ctx e.2).progress e.1.ctx)
  | none =>
    let (did, s0) := s.ringScale die isl i.sspill
    if did then .next s0 else
    match i.scaleq with
    | [] => .next s0
    | t :: rest =>
      let pop (i : Island) : Island := { i with scaleq := rest }
      if s.gone t.ctx then .next (s0.modIsl die isl pop)
      else if i.takes t && !i.sspill.any (fun e => same e.1 t) then .next ((s0.modIsl die isl (fun i => (pop i).store t)).progress t.ctx)
      else
        let (r, s1) := s0.spillEng (engUnit die 2 isl) (spillRec die isl t) ⟨die, 0⟩ noteHdr t
        .next (s1.modIsl die isl (fun i => { pop i with sspill := i.sspill ++ [(t, r.getD escRing)] }))

/-- A pair of tiles (R320). -/
structure Pair where
  slot : CSlot
  a    : Tile
  b    : Tile
  k    : Nat
  bank : Nat
  deriving Repr

/-- The output key of a tag (R319): level 1 cleared. -/
def outKey (tl : BitVec 96) (tag : W64) : W64 := setLvl tl tag 1 0

/-- The bank in which a pair may fire (R320). -/
def CSlot.bankFor (k : CSlot) (key : W64) (depth j : Nat) : Option Nat :=
  let bank (b : Nat) : Bank := k.banks.getD b {}
  match (List.range 2).find? (fun b => (bank b).st == .acc && (bank b).tag == key && (bank b).depth == depth && (bank b).next = j) with
  | some b => some b
  | none => if j = 0 then (List.range 2).find? (fun b => (bank b).st == .free) else none

/-- The scale of a block (R322). -/
def Island.scaleOf (i : Island) (ctx cslot : Nat) (opB : Bool) (tag : W64) (depth : Nat) : Option Scale :=
  i.scales.find? (fun c => c.ctx == ctx && c.cslot == cslot && c.opB == opB && c.tag == tag && c.depth == depth)

/-- BLOCK of an operand (R322). -/
def CSlot.block (k : CSlot) (opB : Bool) : Nat :=
  if (if opB then k.cmd.btype else k.cmd.atype) == .nf then fmtBlock (k.reg (if opB then 1 else 0)) else 32

/-- The blocks that the elements of a pair touch in an operand (R322). -/
def CSlot.blocks (k : CSlot) (opB : Bool) (j : Nat) : List Nat :=
  let lo := j * k.kt / k.block opB
  let hi := (j * k.kt + k.kt - 1) / k.block opB
  (List.range (hi + 1 - lo)).map (fun i => lo + i)

/-- Whether every scale a pair needs is present (R322). -/
def State.scalesReady (s : State) (i : Island) (k : CSlot) (t : Tile) (j : Nat) : Bool :=
  let tl := (s.ctx k.ctx).tl
  let has (opB : Bool) : Bool := (k.blocks opB j).all (fun b => (i.scaleOf k.ctx k.n opB (setLvl tl t.tag 1 b) t.depth).isSome)
  (!k.cmd.sca || has false) && (!k.cmd.scb || has true)

/-- The pairs of an island whose tiles, bank and scales are there (R320). -/
def State.tilePairs (s : State) (die isl : Nat) : List Pair :=
  let i := s.island die isl
  let one (k : CSlot) : List Pair :=
    if k.rearm || !s.startable k.x k.ctx then []
    else
      let mine (b : Bool) : List Tile := i.tiles.filter (fun t => t.ctx == k.ctx && t.cslot == k.n && t.opB == b)
      (mine false).filterMap (fun a =>
        match (mine true).find? (fun b => b.tag == a.tag && b.depth == a.depth) with
        | none => none
        | some b =>
          let j := lvl (s.ctx k.ctx).tl a.tag 1
          match k.bankFor (outKey (s.ctx k.ctx).tl a.tag) a.depth j with
          | none => none
          | some c =>
            if s.scalesReady i k a j then some ⟨k, a, b, j, c⟩ else none)
  (i.slots.map one).flatten

/-- The fireable pairs of an island (R320): the slots of a tenant whose trace buffer blocks it fire none (R353). -/
def State.pairsOf (s : State) (die isl : Nat) : List Pair :=
  (s.tilePairs die isl).filter (fun p => !s.traceBlocked (s.ctx p.slot.ctx).tenant)

/-- The pair whose second tile was staged earliest (R320). -/
def firstPair : List Pair → Option Pair
  | [] => none
  | p :: t => match firstPair t with
    | none => some p
    | some q => if Nat.max q.a.ord q.b.ord < Nat.max p.a.ord p.b.ord then some q else some p

/-- The scales of a pair's elements, by kk: none where the operand is not scaled (R322). -/
def State.scaleVals (s : State) (i : Island) (p : Pair) (opB : Bool) : List (Option Nat) :=
  let k := p.slot
  let tl := (s.ctx k.ctx).tl
  (List.range k.kt).map (fun kk =>
    if !(if opB then k.cmd.scb else k.cmd.sca) then none
    else (i.scaleOf k.ctx k.n opB (setLvl tl p.a.tag 1 ((p.k * k.kt + kk) / k.block opB)) p.a.depth).map (fun c => c.val))

/-- A product of a pair (R81, R84): exact, rounded once to FP32. -/
def scaledProd (fa fb : FFmt) (a b : Nat) (sa sb : Option Nat) : Nat :=
  let v := (exMul (fa.val a) (fb.val b)).1
  let bf := fmtOf .bf16
  let v1 := match sa with | some x => (exMul v (bf.val x)).1 | none => v
  let v2 := match sb with | some x => (exMul v1 (bf.val x)).1 | none => v1
  (f32.rnd .rne (v2, 0)).1

/-- The bank's value at a row and column after a pair (R321). -/
def Pair.cell (p : Pair) (sa sb : List (Option Nat)) (old row col : Nat) : Nat :=
  let k := p.slot
  let w := k.width
  let ra := p.a.rows.getD row 0
  let rb := p.b.rows.getD col 0
  if k.isInt then
    let sum := (List.range k.kt).foldl (fun t kk => t + intVal k.cmd.atype (fld ra (w * kk) w) * intVal k.cmd.btype (fld rb (w * kk) w)) (0 : Int)
    wrapInt 32 (sum + (if p.k = 0 then 0 else (old : Int)))
  else
    let fa := mxFmt k.cmd.atype (k.reg 0)
    let fb := mxFmt k.cmd.btype (k.reg 1)
    sum32 (if p.k = 0 then none else some old)
      ((List.range k.kt).map (fun kk => scaledProd fa fb (fld ra (w * kk) w) (fld rb (w * kk) w) (sa.getD kk none) (sb.getD kk none)))

/-- A scale after a pair has used some of its block; released once BLOCK values of g have (R84, R322). -/
def Island.useScales (i : Island) (tl : BitVec 96) (p : Pair) : Island :=
  let k := p.slot
  let uses (opB : Bool) (c : Scale) : Nat :=
    if c.opB ≠ opB || c.ctx ≠ k.ctx || c.cslot ≠ k.n || c.depth ≠ p.a.depth then 0
    else ((List.range k.kt).filter (fun kk => c.tag == setLvl tl p.a.tag 1 ((p.k * k.kt + kk) / k.block opB))).length
  let on (opB : Bool) : Bool := if opB then k.cmd.scb else k.cmd.sca
  let after := i.scales.map (fun (c : Scale) => if on c.opB then { c with used := c.used + uses c.opB c } else c)
  { i with scales := after.filter (fun c => !(on c.opB && c.ctx == k.ctx && c.cslot == k.n && c.used ≥ k.block c.opB)) }

/-- Any scale a pair uses is poisoned (R321). -/
def State.scalePoison (s : State) (i : Island) (p : Pair) : Bool :=
  let k := p.slot
  let tl := (s.ctx k.ctx).tl
  let psn (opB : Bool) : Bool := (k.blocks opB p.k).any (fun b => match i.scaleOf k.ctx k.n opB (setLvl tl p.a.tag 1 b) p.a.depth with
    | some c => c.poison
    | none => false)
  (k.cmd.sca && psn false) || (k.cmd.scb && psn true)

/-- The latest departure behind the operands of a pair (R349). -/
def State.pairSent (s : State) (i : Island) (p : Pair) : Nat :=
  let k := p.slot
  let tl := (s.ctx k.ctx).tl
  let sc (opB : Bool) : List Nat := (k.blocks opB p.k).filterMap (fun b =>
    (i.scaleOf k.ctx k.n opB (setLvl tl p.a.tag 1 b) p.a.depth).map (fun c => c.sent))
  ((if k.cmd.sca then sc false else []) ++ (if k.cmd.scb then sc true else []) ++ [p.a.sent, p.b.sent]).foldl Nat.max 0

/-- A pair fires (R320, R321): its bank accumulates, its entries free. -/
def State.firePair (s : State) (die isl : Nat) (p : Pair) : State :=
  let i := s.island die isl
  let k := p.slot
  let tl := (s.ctx k.ctx).tl
  let old := k.banks.getD p.bank {}
  let sa := s.scaleVals i p false
  let sb := s.scaleVals i p true
  let vals := ((List.range 128).map (fun r => (List.range 128).map (fun c => p.cell sa sb (old.vals.getD (128 * r + c) 0) r c))).flatten
  let psn := p.a.poison || p.b.poison || s.scalePoison i p
  let nb : Bank :=
    { st := if p.k = k.cmd.ksm1 then .done else .acc, tag := outKey tl p.a.tag, depth := p.a.depth, next := p.k + 1
      tbl := if p.k = 0 then k.active else old.tbl, poison := psn || (p.k ≠ 0 && old.poison), trace := false
      sent := Nat.max (s.pairSent i p) (if p.k = 0 then 0 else old.sent), vals := vals }
  let s1 := s.modIsl die isl (fun i => Island.useScales { i with tiles := i.tiles.filter (fun t => t.ord != p.a.ord && t.ord != p.b.ord) } tl p)
  let s2 := s1.modSlot die isl k.n (fun k => { k with banks := k.banks.set p.bank nb })
  if p.a.trace || p.b.trace then
    let ten := (s.ctx k.ctx).tenant
    let q := islandPos isl
    let ev : Event := { code := 0x43, tenant := ten, ctx := k.ctx, tag := p.a.tag, depth := p.a.depth, arg := isl + 32 * k.n + 512 * p.bank
                        data := p.k, xt := (s.ten ten).xt, psn := nb.poison, col := q.1, row := q.2, after := nb.sent }
    s2.trace die (unitIsland isl) ev
  else s2

/-- The pair that would fire next is held by lossless tracing (R327, R352, R353). -/
def State.pairHeld (s : State) (die isl : Nat) (p : Pair) : Bool :=
  (s.die die).loupe.waits (unitIsland isl)
    || ((p.a.trace || p.b.trace) && s.traceHeld die (unitIsland isl) (s.ctx p.slot.ctx).tenant 0x43)

/-- PAIR_FIRE (R320, R321): the island fires a pair, unless the pair's record would find no room in a lossless queue (R327). -/
def execPairFire (die isl : Nat) (s : State) : Host.Outcome State Fault Refusal :=
  match firstPair (s.pairsOf die isl) with
  | some p =>
    .next (if s.pairHeld die isl p then s else (s.firePair die isl p).progress p.slot.ctx)
  | none => .next s

/-- An element of an output row through the epilogue (R325), and whether it clamps. -/
def CSlot.epilogue (k : CSlot) (t : MxTabs) (v j : Nat) : Nat × Bool :=
  let oty := k.cmd.otype
  let put (mode : RMode) (x : Nat) : Nat × Bool :=
    let r := if oty == .nf then (nfOf (k.reg 2)).put mode (f32.val x) else convElem .fp32 oty true mode x
    (r.1, r.2 &&& flagSat ≠ 0)
  if !k.cmd.bias && !k.cmd.act && !k.cmd.rq then
    if k.isInt then
      let r := if oty == .nf then (nfOf (k.reg 2)).round .rne (intVal .s32 v < 0) (intVal .s32 v).natAbs 0 false
        else convElem .s32 oty true .rne v
      (r.1, r.2 &&& flagSat ≠ 0)
    else put .rne v
  else
    let x0 := if k.isInt then (f32.round .rne (intVal .s32 v < 0) (intVal .s32 v).natAbs 0 false).1 else v
    let x1 := if k.cmd.bias then (f32.add x0 (t.bias.getD j 0)).1 else x0
    let x2 := if !k.cmd.act then x1
      else if (f32.val x1).isNan then f32.nan.1
      else
        let i := fld ((fmtOf .bf16).put .rne (f32.val x1)).1 8 8
        (f32.fma (t.slope.getD i one32) x1 (t.icpt.getD i 0)).1
    if k.cmd.rq then put k.cmd.rmode (f32.mul x2 (t.qs.getD j one32)).1 else put .rne x2

/-- A row of a drained bank (R325, R326): its bytes, and its clamps. -/
def CSlot.row (k : CSlot) (b : Bank) (r : Nat) : List Byte × Nat :=
  let es := (List.range 128).map (fun j => k.epilogue (k.tab b.tbl) (b.vals.getD (128 * r + j) 0) j)
  (leBytes (16 * k.outBits) (packElems k.outBits (es.map (fun e => e.1))), (es.filter (fun e => e.2)).length)

/-- A state with a drain changed. -/
def State.modDrain (s : State) (die isl id : Nat) (f : Drain → Drain) : State :=
  s.modIsl die isl (fun i => { i with drains := lmap (fun d => d.id == id) f i.drains })

/-- The token that stands for a drain in the ring. -/
def Drain.tok (d : Drain) : Tok :=
  Tok.setFlag { node := d.node, ctx := d.ctx, tag := d.tag, depth := d.depth, sent := d.sent } .trace d.trace

/-- A drain meets a fault (R326, R327): it parks at the row it has not written. -/
def State.parkDrain (s : State) (die isl : Nat) (d : Drain) (code : FCode) (arg : Nat) : State :=
  let memory := code.kind = 1
  let s1 := s.modDrain die isl d.id (fun d => { d with parked := true, parkAt := if memory then some arg else none })
  let s2 := if memory then s1.traceIsl die isl d.tok 0x81 arg else s1
  s2.takeFault (engUnit die 2 isl) ((islRec die isl d.ctx d.tag d.depth code arg).by [d.tok]) (.drain die isl d.id)

/-- A drain goes to the spill area (R319): whether it does. -/
def State.spillDrain (s : State) (die isl : Nat) (d : Drain) : Bool × State :=
  match s.spillEng (engUnit die 2 isl) (spillRec die isl d.tok) d.x noteHdr d.tok with
  | (some r, s1) => (true, s1.modDrain die isl d.id (fun d => { d with spilt := some r }))
  | (none, s1) => (false, s1)

/-- A drain beyond the sixteen an island queues spills; a spilled one comes back when there is room (R319, R326): whether one does. -/
def State.queueDrains (s : State) (die isl : Nat) : Bool × State :=
  let l := (s.island die isl).drains
  let queued := l.filter (fun d => d.spilt.isNone)
  let back := if queued.length < 16 then l.find? (fun d => d.spilt.isSome) else none
  match back with
  | some d => (true, (s.modDrain die isl d.id (fun d => { d with spilt := none })).unspill d.ctx (d.spilt.getD escRing))
  | none =>
    match (if queued.length > 16 then queued.getLast? else l.find? (fun d => s.mayRing d.ctx d.spilt)) with
    | some e => if e.parked then (false, s) else s.spillDrain die isl e
    | none => (false, s)

/-- The pieces of 64 bytes of a row written one by one from piece `i` on: what stops it, and how many have then been written.
DEDUCED (assumption 62). -/
def State.rowWrite (s : State) (d : Drain) (o : Nat) (poison : Bool) : Nat → List (List Byte) → Option Block × Nat × State
  | i, [] => (none, i, s)
  | i, p :: rest =>
    match s.spots d.x d.ctx d.handle (o + 64 * i) 64 true with
    | (.error b, s1) => (some b, i, s1)
    | (.ok l, s1) => State.rowWrite (s1.endWrite l p (List.replicate 64 poison)) d o poison (i + 1) rest

/-- The pieces of 64 bytes of a list of bytes. -/
def pieces (n : Nat) (bs : List Byte) : List (List Byte) := (List.range n).map (fun i => (bs.drop (64 * i)).take 64)

/-- A drain is done (R326): its bank is free and its completion leaves. -/
def State.drainDone (s : State) (die isl : Nat) (d : Drain) (k : CSlot) (b : Nat) (poison : Bool) : State :=
  let s1 := (s.modSlot die isl k.n (fun k => { k with banks := k.banks.set b {} })).modIsl die isl
    (fun i => { i with drains := i.drains.filter (fun e => e.id != d.id) })
  let side := BitVec.ofNat 32 (Nat.min d.clamps (2 ^ 32 - 1))
  let s2 := s1.pay d.x { d.dep with toks := d.dep.toks.map (fun t => { t.setFlag .poison (poison || t.flag .poison) with side := side }) }
  if d.trace then
    let ten := (s.ctx d.ctx).tenant
    let q := islandPos isl
    let ev : Event := { code := 0x44, tenant := ten, ctx := d.ctx, tag := d.tag, depth := d.depth, arg := isl + 32 * k.n + 512 * b
                        data := d.clamps, xt := (s.ten ten).xt, psn := poison, col := q.1, row := q.2
                        after := Nat.max d.sent (k.banks.getD b {}).sent }
    s2.trace die (unitIsland isl) ev
  else s2

/-- A drain that waits on a page (R246, R250); its PARK record is written as it begins to. -/
def State.drainParks (s : State) (die isl : Nat) (d : Drain) (va : Nat) : State :=
  (s.modDrain die isl d.id (fun d => { d with parkAt := some va })).traceIsl die isl d.tok 0x81 va

/-- What replays a drain that waits on a page. -/
def Drain.again (die isl : Nat) (d : Drain) : Act := .event (.islandDrain die isl d.cslot)

/-- A drain that parked is replayed (R252, R345), unless its page is still in migration. -/
def State.replayDrain (s : State) (die isl : Nat) (d : Drain) : State :=
  match d.parkAt with
  | some off =>
    if s.waiting (d.again die isl) then s
    else (s.traceIsl die isl d.tok 0x82 off).modDrain die isl d.id (fun d => { d with parkAt := none })
  | none => s

/-- What a blocked row does: a fault parks its drain, whose replay writes the row from its start; a shared page is copied first;
one in migration is waited for (R250). -/
def State.rowBlocked (s : State) (die isl : Nat) (d : Drain) (b : Block) : State :=
  let again := d.again die isl
  let park (s : State) (code : FCode) (arg : Nat) : State :=
    ((s.modDrain die isl d.id (fun d => { d with piece := 0 })).missFault d.x.die d.ctx arg again code).parkDrain die isl d code arg
  match b with
  | .fault code arg => park s code arg
  | .wait => s
  | .migr va => if s.waiting again then s else (s.waitPage d.x.die d.ctx va again).drainParks die isl d va
  | .copy e at_ va =>
    match s.beginCow d.x.die (s.ctx d.ctx).tenant d.ctx va e at_ (some again) d.sent with
    | (true, s1) => s1.drainParks die isl d va
    | (false, s1) => park s1 .cow va

/-- One row of a drain that holds its bank is computed and written (R325, R326). DEDUCED (assumption 62). -/
def State.drainRow (s : State) (die isl : Nat) (d : Drain) (k : CSlot) (b : Nat) : State :=
  let bank := k.banks.getD b {}
  let n := k.outBits / 4
  let o := d.off + d.row * 64 * n
  let (bs, c) := k.row bank d.row
  let s := s.replayDrain die isl d
  match s.rowWrite d o bank.poison d.piece ((pieces n bs).drop d.piece) with
  | (some blk, i, s1) => (s1.modDrain die isl d.id (fun d => { d with piece := i })).rowBlocked die isl { d with piece := i } blk
  | (none, _, s1) =>
    let d1 := { d with row := d.row + 1, piece := 0, clamps := d.clamps + c }
    (if d.row = 127 then s1.drainDone die isl d1 k b bank.poison
     else s1.modDrain die isl d.id (fun d => { d with row := d1.row, piece := 0, clamps := d1.clamps })).progress d.ctx

/-- ISLAND_DRAIN (R316, R325, R326): the first queued drain of an island that is not parked takes its bank, or writes its next
row. -/
def execIslandDrain (die isl cslot : Nat) (s : State) : Host.Outcome State Fault Refusal :=
  let (did, s) := s.queueDrains die isl
  if did then .next s else
    match (s.island die isl).drains.find? (fun d => !d.parked && d.spilt.isNone) with
    | none => .next s
    | some d =>
      let st := (s.ctx d.ctx).st
      let held := (s.die die).loupe.waits (unitIsland isl)
        || (d.trace && s.traceHeld die (unitIsland isl) (s.ctx d.ctx).tenant 0x44)
      if d.cslot ≠ cslot || !(s.startable d.x d.ctx || (d.bank.isSome && (st == .running || st == .stopped))) || (s.ctx d.ctx).pre.phase = 1 || held then .next s
      else match (s.island die isl).slot d.cslot with
        | none => .next (s.parkDrain die isl d .mxBusy 0)
        | some k =>
          if k.ctx ≠ d.ctx then .next (s.parkDrain die isl d .mxBusy 0)
          else match d.bank with
            | some b => .next (s.drainRow die isl d k b)
            | none =>
              let key := outKey (s.ctx d.ctx).tl d.tag
              match (List.range 2).find? (fun b => let c := k.banks.getD b {}; c.st == .done && c.tag == key && c.depth == d.depth) with
              | none => .next s
              | some b =>
                let s1 := s.modSlot die isl k.n (fun k => { k with banks := k.banks.set b { k.banks.getD b {} with st := .drain } })
                .next ((s1.modDrain die isl d.id (fun d => { d with bank := some b })).progress d.ctx)

end Sys2Proof.Machine
end

