-- ==== Sys2Proof/Machine/Walker.lean ====
section
/-! DEFINITION. The Antler index walker (R328 to R340): requests, walks, insertions and deletions. -/
namespace Sys2Proof.Machine

/-- Word `k` of an index descriptor (R328 Table 1). -/
def Walk.dw (w : Walk) (k : Nat) : Nat := (w.desc.getD k 0).toNat
/-- KTYPE (R328). -/
def Walk.ktype (w : Walk) : Ty := tyOf (fld (w.dw 0) 28 4)
/-- D (R328). -/
def Walk.d (w : Walk) : Nat := fld (w.dw 0) 14 8 + 1
/-- MNB (R328). -/
def Walk.mnb (w : Walk) : Nat := fld (w.dw 0) 7 7
/-- DIST (R328); 3 is invalid. -/
def Walk.dist (w : Walk) : Dist := (distOf (fld (w.dw 0) 22 2)).getD .ip
/-- NSLOT (R328). -/
def Walk.nslot (w : Walk) : Nat := w.dw 1
/-- ENTRY (R328). -/
def Walk.entry (w : Walk) : Nat := w.dw 2
/-- G (R328). -/
def Walk.g (w : Walk) : Nat := w.dw 3
/-- The key's element width (R328). -/
def Walk.kw (w : Walk) : Nat := keyWidth w.ktype w.reg
/-- Bytes of a node's key. -/
def Walk.keyBytes (w : Walk) : Nat := 8 * ((w.d * w.kw + 63) / 64)
/-- The offset of node `i` (R328). -/
def Walk.at (w : Walk) (i : Nat) : Nat := w.dw 4 + i * w.dw 5
/-- The index handle. -/
def Walk.handle (w : Walk) : Nat := match w.kind with | .walk c => c.handle | .ins c => c.handle | .del h _ => h
/-- The walker's index in its die. -/
def Walk.eng (w : Walk) : Nat := w.quad * 4 + w.walker.getD 0

/-- The query's key stands in memory (R334, R336). -/
def Walk.byRef (w : Walk) : Bool := match w.kind with | .walk c => c.qref | .ins c => c.kref | .del _ _ => false

/-- K of a walk (R331, R336). -/
def Walk.k (w : Walk) : Nat := match w.kind with | .walk c => c.k | _ => w.mnb
/-- L (R334, R336). -/
def Walk.l (w : Walk) : Nat :=
  match w.kind with
  | .walk c => (match c.ext with | some (_, lm, _, _) => lm + 1 | none => 64)
  | .ins c => (match c.ext with | some (_, lm) => lm + 1 | none => 64)
  | .del _ _ => 0
/-- B (R334, R336). -/
def Walk.b (w : Walk) : Nat :=
  match w.kind with
  | .walk c => (match c.ext with | some (eb, _, _, _) => 64 * (eb + 1) | none => 16384)
  | .ins c => (match c.ext with | some (eb, _) => 64 * (eb + 1) | none => 16384)
  | .del _ _ => 0

/-- A descriptor is refused (R335): for AWALK and AINS under the firing's FMT. DEDUCED (assumption 63). -/
def Walk.descBad (w : Walk) : Bool :=
  let t := fld (w.dw 0) 28 4
  let del := match w.kind with | .del _ _ => true | _ => false
  let freg := fld (w.dw 0) 24 4
  fld (w.dw 0) 0 7 ≠ 0 || (List.range 10).any (fun k => w.dw (6 + k) ≠ 0) || fld (w.dw 0) 22 2 = 3 || w.mnb = 0 || w.mnb > 64
    || w.dw 5 ≠ 32 + w.keyBytes + 8 * w.mnb || w.dw 4 % 64 ≠ 0 || (!del && t ≠ w.h.fmt.code)
    || (freg ≠ 0 && w.ktype != .nf) || (w.ktype == .s8 && w.dist == .cos) || (!del && !w.byRef && w.d * w.kw > 512)

/-- A state with one walk changed. -/
def State.modWalk (s : State) (die id : Nat) (f : Walk → Walk) : State :=
  s.modEng die (fun e => { e with walks := lmap (fun w => w.id == id) f e.walks })

/-- A state without a walk. -/
def State.dropWalk (s : State) (die id : Nat) : State :=
  s.modEng die (fun e => { e with walks := e.walks.filter (fun w => w.id != id) })

/-- An AW counter of a die higher (R340): 0 WALKS, 1 EXPAND, 2 STALE, 3 NAN, 4 BUDGET, 5 LINKFULL. -/
def State.awCount (s : State) (die k n : Nat) : State :=
  s.modEng die (fun e => { e with aw := e.aw.set k (satAdd 48 (e.aw.getD k 0) n) })

/-- A walk request goes to its site's quad (R339). Its operands stand in the frame, their node still READY, until it can stop no more
(R338): see `walkTakes`. DEDUCED (assumption 63). -/
def State.sendWalk (s : State) (f : Firing) (h : Hdr) (kind : WalkKind) (dep : Dep) : State :=
  let id := (s.die f.x.die).eng.nextId
  let w : Walk := { id := id, quad := quadOf (s.pos f.x), walker := none, spilt := none, f := f, h := h, kind := kind, state := .seed
                    prev := .seed, dep := dep }
  let s1 := s.modEng f.x.die (fun e => { e with nextId := id + 1, walks := e.walks ++ [w] })
  let issued (e : DirEnt) : DirEnt :=
    { e with ready := setBit e.ready f.pos, spend := if w.stores then setBit e.spend f.pos else e.spend }
  match f.ent.uid with
  | some u => s1.modCell f.x (fun c => c.modEnt u issued)
  | none => s1

/-- The instance of a walk still takes part in it: it has neither retired nor been force-retired. -/
def State.walkLives (s : State) (w : Walk) : Bool :=
  match w.f.ent.uid with
  | some u => (match (s.cell w.f.x).ent u with | some e => !e.dying | none => false)
  | none => true

/-- A walk that can stop no more takes its operands (R19, R338). -/
def State.walkTakes (s : State) (w : Walk) : State :=
  if s.walkLives w then s.modCell w.f.x (fun c => c.consume w.f (portsOf w.h)) else s

/-- A store that will not perform leaves SPEND (R23, R276). -/
def State.unspend (s : State) (x : Site) (uid : Option Nat) (pos : Nat) : State :=
  match uid with
  | some u => (s.modCell x (fun c => c.modEnt u (fun e => { e with spend := clrBit e.spend pos }))).retire x uid
  | none => s

/-- AWALK (R334, R335): its tags are checked for K winners, and the request is sent. -/
def execAwalk (h : Hdr) (c : AwCtl) (s : State) : Host.Outcome State Fault Refusal :=
  s.firing (fun s f =>
    let a := f.op 0
    if c.qref && a.flag .poison then s.refuse f .poisonAddr a.w64 0
    else match (matchCheck (s.ctx f.ent.ctx).tl f h c.k).bind (sendList (s.ctx f.ent.ctx).tl f.x) with
      | none => s.refuse f .tagOverflow 0 0
      | some _ =>
        s.issue f { sends := [], ports := [], used := usedBy f h }
          (fun s _ => s.sendWalk f h (.walk c) ⟨f.ent.ctx, f.ent.uid, f.ent.node, 0, 0, 0, false, []⟩))

/-- AINS (R336, R338). -/
def execAins (h : Hdr) (c : AinsCtl) (s : State) : Host.Outcome State Fault Refusal :=
  s.firing (fun s f =>
    let a := f.op 0
    if c.kref && a.flag .poison then s.refuse f .poisonAddr a.w64 0
    else s.laterOn f h [] ((newTok f h (usedBy f h) none .z32 false 0).setFlag .complete true) (fun s w => s.sendWalk f h (.ins c) w))

/-- ADEL (R337, R338). -/
def execAdel (h : Hdr) (handle : Nat) (scope : Scope) (s : State) : Host.Outcome State Fault Refusal :=
  s.firing (fun s f =>
    s.laterOn f h [] ((newTok f h (usedBy f h) none .z32 false 0).setFlag .complete true) (fun s w => s.sendWalk f h (.del handle scope) w))

/-- A token of a walk's firing carries TRACE (R339). -/
def Walk.traced (w : Walk) : Bool := (usedBy w.f w.h).any (fun t => t.flag .trace)

/-- A walker's record (R344). -/
def State.traceWalk (s : State) (die : Nat) (w : Walk) (code data : Nat) : State :=
  if !w.traced then s else
  let ten := (s.ctx w.f.ent.ctx).tenant
  let ev : Event := { code := code, tenant := ten, ctx := w.f.ent.ctx, tag := w.f.ent.tag, depth := w.f.ent.depth, arg := w.eng, data := data
                      xt := (s.ten ten).xt, psn := w.poison, after := lastSent (usedBy w.f w.h) }
  s.tracePeri die (unitWalker w.quad (w.walker.getD 0)) 1 w.eng ev

/-- A firing that a walk stops (R7, R338, R361): the walker is idle again, SPEND loses it, and it is ready to be fired anew, with its
operands in the frame. With every latch of the unit occupied the walker holds it (R363). -/
def State.walkStop (s : State) (die : Nat) (w : Walk) (unit : Nat) (r : FRec) : State :=
  if s.latched unit ≥ nLatches then s else
  let s1 := s.dropWalk die w.id
  let back (c : Cell) : Cell := { c with ready := c.ready ++ [w.f.ent] }
  let s2 := if s.walkLives w then s1.modCell w.f.x back else s1
  let s3 := if w.stores then s2.unspend w.f.x w.f.ent.uid w.f.pos else s2
  s3.takeFault unit (r.by w.f.all) (.fire w.f.x w.f.ent.uid)

/-- A stopping fault at SEED (R335 to R339). -/
def State.seedStop (s : State) (die : Nat) (w : Walk) (code : FCode) : State :=
  s.walkStop die w (engUnit die 3 (64 + w.eng))
    (engRec die 3 (32 + w.eng, 0x7F) w.eng w.f.ent.ctx w.f.ent.node w.f.ent.tag w.f.ent.depth code 0)

/-- A PARK or REPLAY record of a walker (R345). -/
def State.traceWalker (s : State) (die : Nat) (w : Walk) (code data : Nat) : State :=
  let ev : Event := { code := code, tenant := (s.ctx w.f.ent.ctx).tenant, ctx := w.f.ent.ctx, tag := w.f.ent.tag, depth := w.f.ent.depth
                      arg := w.eng, data := data, xt := true, psn := w.poison || anyPoison (usedBy w.f w.h), after := lastSent (usedBy w.f w.h) }
  s.tracePeri die (unitWalker w.quad (w.walker.getD 0)) 1 w.eng ev

/-- What replays a walk that waits on a page. -/
def Walk.again (die : Nat) (w : Walk) : Act := .event (.walkResult die w.quad (w.walker.getD 0))

/-- A walk whose step parked is replayed (R252, R345), unless its page is still in migration. -/
def State.replayWalk (s : State) (die : Nat) (w : Walk) : State :=
  match w.parkAt with
  | some off =>
    if s.waiting (w.again die) then s
    else (s.traceWalker die w 0x82 off).modWalk die w.id (fun w => { w with parkAt := none })
  | none => s

/-- A read or write of a walk is blocked (R339): a fault parks it, its step to be taken again; a shared page is copied first
(R248), and one in migration waited for (R250). `s0` is the state before the step, none of whose reads count yet. -/
def State.walkBlocked (s s0 : State) (die : Nat) (w : Walk) (b : Block) : State :=
  let again := w.again die
  let parks (s : State) (va : Nat) : State := s.modWalk die w.id (fun w => { w with parkAt := some va })
  let park (s : State) (code : FCode) (arg : Nat) : State :=
    let s1 := ((s.modWalk die w.id (fun w => { w with state := .fpark, prev := w.state, parkAt := some arg })).missFault die w.f.ent.ctx arg again code).traceWalker
      die w 0x81 arg
    s1.takeFault (engUnit die 3 (64 + w.eng))
      ((engRec die 3 (32 + w.eng, 0x7F) w.eng w.f.ent.ctx 0x3FF w.f.ent.tag w.f.ent.depth code arg).by w.f.all) (.walk die w.id)
  match b with
  | .fault code arg => park s0 code arg
  | .wait => s.regsOf s0 w.f.x
  | .migr va => if s0.waiting again then s0 else (parks (s0.waitPage die w.f.ent.ctx va again) va).traceWalker die w 0x81 va
  | .copy e at_ va =>
    match s0.beginCow die (s0.ctx w.f.ent.ctx).tenant w.f.ent.ctx va e at_ (some again) (lastSent w.f.all) with
    | (true, s1) => (parks s1 va).traceWalker die w 0x81 va
    | (false, s1) => park s1 .cow va

/-- Bytes of the index read (R332), and whether any is poisoned. -/
def State.walkRead (s : State) (w : Walk) (o n : Nat) : Except Block (List Byte × Bool) × State :=
  match s.spots w.f.x w.f.ent.ctx w.handle o n false with
  | (.error b, s1) => (.error b, s1)
  | (.ok l, s1) => (.ok (s1.readSpots l), s1)

/-- Bytes written at spots, with their poison marks (R275): granules that are written whole become clean. -/
def State.putSpots (s : State) (l : List Spot) (bs : List Byte) (poison : Bool) : State :=
  let as_ := l.map Spot.addr
  let s1 := s.writeSpots l bs
  if poison then as_.foldl (fun t a => t.setPoison a 1) s1
  else { s1 with poison := s1.poison.filter (fun g => !(List.range 32).all (fun k => as_.contains (g * 32 + k))) }

/-- Bytes of the index written (R336, R337). -/
def State.walkWrite (s : State) (w : Walk) (o : Nat) (bs : List Byte) (poison : Bool) : Except Block Unit × State :=
  match s.spots w.f.x w.f.ent.ctx w.handle o bs.length true with
  | (.error b, s1) => (.error b, s1)
  | (.ok l, s1) =>
    let s2 := s1.putSpots l bs poison
    (.ok (), match l with | .phys pa :: _ => s2.pteWritten pa bs.length | _ => s2)

/-- The first bytes of a node (R328 Table 2). -/
structure NodeHead where
  gin  : Nat
  gout : Nat
  norm : Nat
  used : Bool
  ngen : Nat
  psn  : Bool
  deriving DecidableEq, Repr

/-- Bytes 0 to 15 of a node (R332). -/
def State.nodeHead (s : State) (w : Walk) (i : Nat) : Except Block NodeHead × State :=
  match s.walkRead w (w.at i) 16 with
  | (.error b, s1) => (.error b, s1)
  | (.ok (bs, p), s1) => (.ok ⟨wordAt bs 0, wordAt bs 4, wordAt bs 8, fld (wordAt bs 12) 0 1 = 1, fld (wordAt bs 12) 24 8, p⟩, s1)

/-- Traversable at a generation (R329). -/
def NodeHead.traversable (n : NodeHead) (q : Nat) : Bool := n.used && n.gin ≤ q
/-- Visible at a generation (R329). -/
def NodeHead.visible (n : NodeHead) (q : Nat) : Bool := n.traversable q && q < n.gout

/-- The score of a node (R331), and whether its key is poisoned. -/
def State.nodeScore (s : State) (w : Walk) (i : Nat) (n : NodeHead) : Except Block (Nat × Bool) × State :=
  match s.walkRead w (w.at i + 32) w.keyBytes with
  | (.error b, s1) => (.error b, s1)
  | (.ok (bs, p), s1) =>
    let v := leNat bs
    let key := (List.range w.d).map (fun j => fld v (w.kw * j) w.kw)
    (.ok (scoreOf w.ktype w.reg w.dist w.query key n.norm, p), s1)

/-- The order on candidates (R331): score descending, then id ascending; an entry is an id and its score. -/
def nodeBefore (t : Ty) (a b : Nat × Nat) : Bool :=
  if scoreAbove t a.2 b.2 then true else if scoreAbove t b.2 a.2 then false else a.1 < b.1

/-- A node put in its place in R. -/
def insRes (t : Ty) (a : Nat × Nat) : List (Nat × Nat) → List (Nat × Nat)
  | [] => [a]
  | b :: r => if nodeBefore t a b then a :: b :: r else b :: insRes t a r

/-- A node put in its place in C. -/
def insCands (t : Ty) (a : Nat × Nat) : List (Nat × Nat × Bool) → List (Nat × Nat × Bool)
  | [] => [(a.1, a.2, false)]
  | b :: r => if nodeBefore t a (b.1, b.2.1) then (a.1, a.2, false) :: b :: r else b :: insCands t a r

/-- A walk after a node has been offered (R331). -/
def Walk.offer (w : Walk) (i score : Nat) (n : NodeHead) : Walk :=
  let t := w.ktype
  { w with cands := (insCands t (i, score) w.cands).take w.l
           res := if n.visible w.q then (insRes t (i, score) w.res).take w.k else w.res }

/-- What a walk's reads have counted: stale edges and NaN scores. -/
abbrev Tally := Nat × Nat

/-- A node that is traversable and not yet visited is offered (R331). -/
def State.offer (s : State) (w : Walk) (i : Nat) (n : NodeHead) (c : Tally) : Except Block (Walk × Tally) × State :=
  match s.nodeScore w i n with
  | (.error b, s1) => (.error b, s1)
  | (.ok (v, p), s1) =>
    let w1 := { w with vis := hash16 i :: w.vis, poison := w.poison || p || n.psn }
    (.ok (if scoreNan w.ktype v then (w1, c.1, c.2 + 1) else (w1.offer i v n, c)), s1)

/-- The edges of an expanded node, in list order, up to the first null (R328, R331). -/
def State.edges (s : State) (w : Walk) (bs : List Byte) : Nat → Nat → Tally → Except Block (Walk × Tally) × State
  | 0, _, c => (.ok (w, c), s)
  | fuel + 1, j, c =>
    let t := wordAt bs (8 * j)
    let g := fld (wordAt bs (8 * j + 4)) 0 8
    if t = 0xFFFFFFFF then (.ok (w, c), s)
    else if t ≥ w.nslot then State.edges s w bs fuel (j + 1) (c.1 + 1, c.2)
    else match s.nodeHead w t with
      | (.error b, s1) => (.error b, s1)
      | (.ok n, s1) =>
        let w1 := { w with poison := w.poison || n.psn }
        if !n.used || n.ngen ≠ g then State.edges s1 w1 bs fuel (j + 1) (c.1 + 1, c.2)
        else if !n.traversable w.q || w.vis.contains (hash16 t) then State.edges s1 w1 bs fuel (j + 1) c
        else match s1.offer w1 t n c with
          | (.error b, s2) => (.error b, s2)
          | (.ok (w2, c2), s2) => State.edges s2 w2 bs fuel (j + 1) c2

/-- The best entry of C not yet expanded (R331). -/
def Walk.best (w : Walk) : Option (Nat × Nat × Bool) := w.cands.find? (fun c => !c.2.2)

/-- A walk leaves its loop (R331): AINS goes on to link its node. -/
def State.walkExit (s : State) (die : Nat) (w : Walk) : State :=
  let next : WalkSt := match w.kind with | .ins _ => .link | _ => .finish
  ((s.modWalk die w.id (fun _ => { w with state := next, step := 0 })).awCount die 0 1)

/-- One expansion of a walk, or its exit (R331). DEDUCED (assumption 63). -/
def State.expand (s : State) (die : Nat) (w : Walk) : State :=
  match w.best with
  | none => s.walkExit die w
  | some c =>
    let last := w.res[w.k - 1]?
    let past := match last with | some r => w.res.length = w.k && nodeBefore w.ktype r (c.1, c.2.1) | none => false
    if past then s.walkExit die w
    else if w.x = w.b then (s.awCount die 4 1).walkExit die { w with budget := true }
    else
      let w1 := { w with cands := lmap (fun e => e.1 == c.1) (fun e => (e.1, e.2.1, true)) w.cands, x := w.x + 1 }
      match s.walkRead w1 (w1.at c.1 + 32 + w1.keyBytes) (8 * w1.mnb) with
      | (.error b, s1) => s1.walkBlocked s die w b
      | (.ok (bs, p), s1) =>
        match s1.edges { w1 with poison := w1.poison || p } bs w1.mnb 0 (0, 0) with
        | (.error b, s2) => s2.walkBlocked s die w b
        | (.ok (w2, t), s2) => (((s2.modWalk die w.id (fun _ => w2)).awCount die 1 1).awCount die 2 t.1).awCount die 3 t.2

/-- The entry node is offered, and the walk begins (R331). `s0` is the state before the step, and `w` as it stands there but for
what the step has found. -/
def State.beginWalk (s s0 : State) (die : Nat) (w : Walk) : State :=
  if w.k = 0 || w.entry ≥ w.nslot then s.walkExit die w
  else match s.nodeHead w w.entry with
    | (.error b, s1) => s1.walkBlocked s0 die w b
    | (.ok n, s1) =>
      if !n.traversable w.q then s1.walkExit die { w with poison := w.poison || n.psn }
      else match s1.offer w w.entry n (0, 0) with
        | (.error b, s2) => s2.walkBlocked s0 die w b
        | (.ok (w1, t), s2) => (s2.modWalk die w.id (fun _ => { w1 with state := .walk, step := 0 })).awCount die 3 t.2

/-- The id and generation an AINS or ADEL names (R336, R337), and AINS's payload. -/
def Walk.named (w : Walk) : Nat × Nat × Nat :=
  match w.kind with
  | .ins _ => let b := (w.f.op 1).data.toNat; (fld b 0 32, fld b 32 32, fld b 64 64)
  | _ => let a := (w.f.op 0).data.toNat; (fld a 0 32, fld a 32 32, 0)

/-- An AINS claims its slot (R336): bytes 12 to 15 of its node, by ACAS from the value read. DEDUCED (assumption
63). -/
def State.claim (s : State) (die : Nat) (w : Walk) : State :=
  let o := w.at w.named.1 + 12
  match s.walkRead w o 4 with
  | (.error b, s1) => s1.walkBlocked s die w b
  | (.ok (bs, _), s1) =>
    let v := (w.seen.getD (0, 0)).2
    let ngen := (fld v 24 8 + 1) % 256
    if leNat bs ≠ v then (s1.regsOf s w.f.x).seedStop die w .awSlot
    else match s1.walkWrite w o (leBytes 4 (v % 2 ^ 24 / 2 * 2 + 1 + ngen * 2 ^ 24)) (anyPoison (w.f.first 2)) with
      | (.error b, s2) => s2.walkBlocked s die w b
      | (.ok _, s2) => (s2.walkTakes w).modWalk die w.id (fun w => { w with step := 2, ngen := ngen, seen := none })

/-- An AINS writes its node, uncommitted (R336), and its linking walk begins. DEDUCED (assumption 63). -/
def State.fillNode (s : State) (die : Nat) (w : Walk) : State :=
  let (id, gen, pay) := w.named
  let psn := anyPoison (w.f.first 2) || w.poison
  let key := leBytes w.keyBytes (packElems w.kw w.query) ++ (List.replicate w.mnb (leBytes 8 0xFFFFFFFF)).flatten
  let head := leBytes 4 0xFFFFFFFF ++ leBytes 4 0xFFFFFFFF ++ leBytes 4 (keyNorm w.ktype w.reg w.query)
  match s.walkWrite w (w.at id) head psn with
  | (.error b, s1) => s1.walkBlocked s die w b
  | (.ok _, s1) => match s1.walkWrite w (w.at id + 16) (leBytes 8 pay) psn with
    | (.error b, s2) => s2.walkBlocked s die w b
    | (.ok _, s2) => match s2.walkWrite w (w.at id + 32) key psn with
      | (.error b, s3) => s3.walkBlocked s die w b
      | (.ok _, s3) => s3.beginWalk s die { w with q := gen - 1 }

/-- An ADEL's result (R337). -/
def State.deleted (s : State) (die : Nat) (w : Walk) (status : Nat) : State :=
  s.modWalk die w.id (fun _ => { w with state := .finish, dep := { w.dep with toks := filledWith status w.dep.toks } })

/-- The scope of an AINS or ADEL (R336, R337). -/
def Walk.scope (w : Walk) : Scope := match w.kind with | .ins c => c.scope | .del _ sc => sc | .walk _ => .die

/-- An ADEL's deletion (R337): GOUT, by ACAS; at SYSTEM scope it has performed only after a further step (R256).
DEDUCED (assumption 63). -/
def State.deleteNode (s : State) (die : Nat) (w : Walk) : State :=
  let (id, gen, _) := w.named
  match s.walkRead w (w.at id + 4) 4 with
  | (.error b, s1) => s1.walkBlocked s die w b
  | (.ok (bs, _), s1) =>
    if leNat bs ≠ 0xFFFFFFFF then s1.deleted die w 1
    else match s1.walkWrite w (w.at id + 4) (leBytes 4 gen) ((w.f.op 0).flag .poison) with
      | (.error b, s2) => s2.walkBlocked s die w b
      | (.ok _, s2) => if w.scope == .system then s2.modWalk die w.id (fun w => { w with step := 3 }) else s2.deleted die w 0

/-- The first step of SEED (R335 to R337, R339): the descriptor is read and checked, the query read, and the walk begins, or the node
that AINS and ADEL name is read. DEDUCED (assumption 63). -/
def State.seed (s : State) (die : Nat) (w0 : Walk) : State :=
  match s.walkRead w0 0 64 with
  | (.error b, s1) => s1.walkBlocked s die w0 b
  | (.ok (bs, p), s1) =>
    let desc : List W32 := (List.range 16).map (fun k => BitVec.ofNat 32 (wordAt bs (4 * k)))
    let w := { w0 with desc := desc, reg := s1.fmtReg w0.f.ent.ctx (fld (desc.getD 0 0).toNat 24 4), poison := p || w0.poison }
    let (id, gen, _) := w.named
    let genBad := gen ≤ w.g || gen = 0xFFFFFFFF
    let stop (code : FCode) : State := (s1.regsOf s w.f.x).seedStop die w code
    match w.kind with
    | .del _ _ =>
      if id ≥ w.nslot then stop .awNode
      else if genBad then stop .awGen
      else (match s1.nodeHead w id with
        | (.error b, s2) => s2.walkBlocked s die w b
        | (.ok n, s2) =>
          let w1 := { w with step := 2 }
          if !n.used || n.gin ≥ gen then (s2.walkTakes w).deleted die w1 2
          else (s2.walkTakes w).modWalk die w.id (fun _ => w1))
    | .walk c =>
      let q := if c.snap then (w.f.op 0).side.toNat else w.g
      if w.descBad then stop .awDesc
      else if c.snap && q > w.g then stop .awGen
      else match s1.readKey w.f (w.f.op 0) c.qref w.d w.kw with
        | (.error b, s2) => s2.walkBlocked s die w b
        | (.ok (key, bad), s2) => s2.beginWalk s die { w with query := key, q := q, poison := w.poison || bad || (w.f.op 0).flag .poison }
    | .ins c =>
      if w.descBad then stop .awDesc
      else if !(w.f.op 1).vec then stop .awOp
      else if id ≥ w.nslot then stop .awNode
      else if genBad then stop .awGen
      else match s1.readKey w.f (w.f.op 0) c.kref w.d w.kw with
        | (.error b, s2) => s2.walkBlocked s die w b
        | (.ok (key, bad), s2) => match s2.walkRead w (w.at id + 12) 4 with
          | (.error b, s3) => s3.walkBlocked s die w b
          | (.ok (hd, hp), s3) =>
            if fld (leNat hd) 0 1 = 1 then (s3.regsOf s w.f.x).seedStop die w .awSlot
            else s3.modWalk die w.id (fun _ => { w with query := key, poison := w.poison || bad || hp, seen := some (0, leNat hd), step := 1 })

/-- SEED, one step at a time (R336, R337, R339). -/
def State.seeding (s : State) (die : Nat) (w : Walk) : State :=
  match w.step, w.kind with
  | 0, _ => s.seed die w
  | 1, _ => s.claim die w
  | 2, .del _ _ => s.deleteNode die w
  | 2, _ => s.fillNode die w
  | _, _ => s.deleted die w 0

/-- The entries of an AINS's list: its winners in rank order with their generations (R336), and whether a read was poisoned. -/
def State.listOf (s : State) (w : Walk) : List (Nat × Nat) → List Byte → Bool → Except Block (List Byte × Bool) × State
  | [], acc, p => (.ok (acc, p), s)
  | r :: t, acc, p =>
    match s.nodeHead w r.1 with
    | (.error b, s1) => (.error b, s1)
    | (.ok n, s1) => State.listOf s1 w t (acc ++ leBytes 4 r.1 ++ leBytes 4 n.ngen) (p || n.psn)

/-- The first null entry of a list (R336). -/
def firstNull (bs : List Byte) (mnb : Nat) : Option Nat := (List.range mnb).find? (fun j => wordAt bs (8 * j) = 0xFFFFFFFF)

/-- A step of linking is done: the next one is taken. -/
def State.linked (s : State) (die : Nat) (w : Walk) : State :=
  s.modWalk die w.id (fun _ => { w with step := w.step + 1, seen := none, tries := 0 })

/-- The list of a new node (R336). -/
def State.linkList (s : State) (die : Nat) (w : Walk) : State :=
  match s.listOf w w.res [] false with
  | (.error b, s1) => s1.walkBlocked s die w b
  | (.ok (bs, p), s1) =>
    match (if bs.isEmpty then (.ok (), s1) else s1.walkWrite w (w.at w.named.1 + 32 + w.keyBytes) bs false) with
    | (.error b, s2) => s2.walkBlocked s die w b
    | (.ok _, s2) => s2.linked die { w with poison := w.poison || p }

/-- A reverse edge in the list of node `m` (R336): its first null entry is read, and then written by CMLS, at most eight times. -/
def State.linkBack (s : State) (die : Nat) (w : Walk) (m : Nat) : State :=
  let at_ := w.at m + 32 + w.keyBytes
  let full (s : State) (w : Walk) : State := (s.awCount die 5 1).linked die w
  match w.seen with
  | none =>
    (match s.walkRead w at_ (8 * w.mnb) with
     | (.error b, s1) => s1.walkBlocked s die w b
     | (.ok (bs, p), s1) =>
       let w1 := { w with poison := w.poison || p }
       match firstNull bs w.mnb with
       | none => full s1 w1
       | some j => s1.modWalk die w.id (fun _ => { w1 with seen := some (j, leNat ((bs.drop (8 * j)).take 8)) }))
  | some (j, v) =>
    match s.walkRead w (at_ + 8 * j) 8 with
    | (.error b, s1) => s1.walkBlocked s die w b
    | (.ok (bs, _), s1) =>
      if leNat bs ≠ v then
        (if w.tries + 1 ≥ 8 then full s1 w else s1.modWalk die w.id (fun w => { w with seen := none, tries := w.tries + 1 }))
      else match s1.walkWrite w (at_ + 8 * j) (leBytes 4 w.named.1 ++ leBytes 4 w.ngen) false with
        | (.error b, s2) => s2.walkBlocked s die w b
        | (.ok _, s2) => s2.linked die { w with made := w.made + 1 }

/-- ENTRY of an index whose entry is null or unused (R336): read, and then written by ACAS from the value read. -/
def State.linkEntry (s : State) (die : Nat) (w : Walk) : State :=
  match s.walkRead w 8 4 with
  | (.error b, s1) => s1.walkBlocked s die w b
  | (.ok (bs, p), s1) =>
    let e := leNat bs
    match w.seen with
    | some (_, v) =>
      if e ≠ v then s1.linked die w
      else match s1.walkWrite w 8 (leBytes 4 w.named.1) false with
        | (.error b, s2) => s2.walkBlocked s die w b
        | (.ok _, s2) => s2.linked die w
    | none =>
      let w1 := { w with poison := w.poison || p }
      let take (s : State) (w : Walk) : State := s.modWalk die w.id (fun _ => { w with seen := some (0, e) })
      if e = 0xFFFFFFFF then take s1 w1
      else if e ≥ w.nslot then s1.linked die w1
      else match s1.nodeHead w e with
        | (.error b, s2) => s2.walkBlocked s die w b
        | (.ok n, s2) =>
          let w2 := { w1 with poison := w1.poison || n.psn }
          if n.used then s2.linked die w2 else take s2 w2

/-- The commit of a new node (R336): GIN. -/
def State.linkCommit (s : State) (die : Nat) (w : Walk) : State :=
  match s.walkWrite w (w.at w.named.1) (leBytes 4 w.named.2.1) false with
  | (.error b, s1) => s1.walkBlocked s die w b
  | (.ok _, s1) => s1.linked die w

/-- An AINS has its result (R336). -/
def State.linkDone (s : State) (die : Nat) (w : Walk) : State :=
  let out := (filledWith w.res.length w.dep.toks).map (fun (t : Tok) => { t with side := BitVec.ofNat 32 w.made })
  s.modWalk die w.id (fun _ => { w with state := .finish, dep := { w.dep with toks := out } })

/-- One step of linking a new node (R336): its list; a reverse edge at each winner in turn; ENTRY; the commit of GIN, once every write
has performed at the scope, and the result once the commit has: at SYSTEM scope after a further step each (R256). DEDUCED
(assumption 63). -/
def State.link (s : State) (die : Nat) (w : Walk) : State :=
  let n := w.res.length
  let sys := w.scope == .system
  if w.step = 0 then s.linkList die w
  else match w.res[w.step - 1]? with
    | some m => s.linkBack die w m.1
    | none =>
      if w.step = n + 1 then s.linkEntry die w
      else if w.step = n + 2 then (if sys then s.linked die w else s.linkCommit die w)
      else if w.step = n + 3 && sys then s.linkCommit die w
      else s.linkDone die w

/-- The winners' payloads, as entries a query sends (R335). -/
def State.payloads (s : State) (w : Walk) : List (Nat × Nat) → List KEnt → Except Block (List KEnt × Bool) × State
  | [], acc => (.ok (acc, false), s)
  | r :: t, acc =>
    match s.walkRead w (w.at r.1 + 16) 8 with
    | (.error b, s1) => (.error b, s1)
    | (.ok (bs, p), s1) =>
      let e : KEnt := { seq := 0, life := 0, gin := 0, gout := 0, norm := 0, poison := false, vfmt := .s64, vec := false
                        value := BitVec.ofNat 512 (leNat bs), key := [], slot := 0 }
      match State.payloads s1 w t (acc ++ [e]) with
      | (.error b, s2) => (.error b, s2)
      | (.ok (l, q), s2) => (.ok (l, q || p), s2)

/-- The winners of a walk at or above FLOOR (R331, R334). -/
def Walk.winners (w : Walk) : List (Nat × Nat) :=
  match w.kind with
  | .walk c => (match c.ext with | some (_, _, _, fl) => w.res.filter (fun r => !scoreAbove w.ktype fl.toNat r.2) | none => w.res)
  | _ => w.res

/-- The count token of a walk carries x and BUDGET (R335). -/
def Walk.countTok (w : Walk) : Send → Send
  | .tok g t => if g == w.h.t1 && t.depth == w.f.ent.depth && !t.flag .miss then
      .tok g { t with fmt := .s64, data := BitVec.ofNat 512 (w.x + w.budget.toNat * 2 ^ 32) } else .tok g t
  | m => m

/-- FINISH (R335, R338, R339): the results go to the issuing cell, as memory answers, and the walker is idle; too many exits stop an
AWALK (R100, R144). DEDUCED (assumption 63). -/
def State.finish (s : State) (die : Nat) (w : Walk) : State :=
  let f := w.f
  let home := 900000 + die * 16 + w.eng
  let fin (s : State) : State := ((s.traceWalk die w 0x46 w.x).dropWalk die w.id)
  match w.kind with
  | .walk c =>
    let win := w.winners
    (match s.payloads w win [] with
     | (.error b, s1) => s1.walkBlocked s die w b
     | (.ok (es, p), s1) =>
       let ws := es.zip (weightsOf c.wmode w.ktype (match c.ext with | some (_, _, b, _) => b.toNat * 2 ^ 16 | none => one32) (win.map (fun r => r.2)))
       let sends := (matchSends (s1.ctx f.ent.ctx).tl f w.h (w.poison || p) ws).map (fun l => l.map w.countTok)
       match sends.bind (sendList (s1.ctx f.ent.ctx).tl f.x) with
       | none => fin (s1.walkTakes w)
       | some toks =>
         if s1.exitExcess f (toks.filter Tok.isExit).length then
           s1.walkStop die w (siteUnit f.x) (s1.cellRec f.x f.ent.ctx f.ent.node f.ent.tag f.ent.depth .exitExcess 0)
         else
           let exits := toks.any Tok.isExit
           fin (toks.zipIdx.foldl (fun t u => t.answerAs f.x f.ent.ctx f.ent.uid f.ent.node (s1.msys.nextId + u.2) home exits [u.1])
             (s1.walkTakes w)))
  | _ =>
    let toks := w.dep.toks.map (fun t => if w.poison then t.setFlag .poison true else t)
    fin ((s.answer f.x f.ent.ctx f.ent.uid f.ent.node w.dep.grp home toks).storeDone f.x f.ent.uid f.pos)

/-- A walk is held by lossless tracing between its steps (R339, R352, R353). -/
def State.walkHeld (s : State) (die : Nat) (w : Walk) (event : Nat) : Bool :=
  let u := unitWalker w.quad (w.walker.getD 0)
  (s.die die).loupe.waits u || (w.traced && s.traceHeld die u (s.ctx w.f.ent.ctx).tenant event)

/-- Requests of a quad that no walker has taken. -/
def State.waitingWalks (s : State) (die quad : Nat) : List Walk := (s.die die).eng.walks.filter (fun w => w.quad == quad && w.walker.isNone)

/-- The token that stands for a walk request in the ring. -/
def Walk.tok (w : Walk) : Tok :=
  (Tok.setFlag { node := w.f.ent.node, ctx := w.f.ent.ctx, tag := w.f.ent.tag, depth := w.f.ent.depth, sent := lastSent w.f.all }
    .trace w.traced).setFlag .poison (anyPoison w.f.all)

/-- A request beyond the sixty-four a quad queues spills; a spilled one comes back when there is room (R339): whether one does. -/
def State.queueWalks (s : State) (die quad : Nat) : Bool × State :=
  let l := s.waitingWalks die quad
  let queued := l.filter (fun w => w.spilt.isNone)
  match (if queued.length < 64 then l.find? (fun w => w.spilt.isSome) else none) with
  | some w => (true, (s.modWalk die w.id (fun w => { w with spilt := none })).unspill w.f.ent.ctx (w.spilt.getD escRing))
  | none =>
    match (if queued.length > 64 then queued.getLast? else l.find? (fun w => s.mayRing w.f.ent.ctx w.spilt)) with
    | none => (false, s)
    | some w =>
      let r := engRec die 3 (32 + quad * 4, 0x7F) (quad * 4) w.f.ent.ctx 0x3FF w.f.ent.tag w.f.ent.depth .spillFull 0
      match s.spillEng (engUnit die 3 (64 + quad * 4)) r w.f.x noteHdr w.tok with
      | (some r, s1) => (true, s1.modWalk die w.id (fun w => { w with spilt := some r }))
      | (none, s1) => (false, s1)

/-- WALK_REQUEST (R339): the lowest idle walker of a quad takes the oldest request whose context runs. -/
def execWalkRequest (die quad : Nat) (s : State) : Host.Outcome State Fault Refusal :=
  let (did, s) := s.queueWalks die quad
  if did then .next s else
    let idle := (List.range 4).find? (fun k => !(s.die die).eng.walks.any (fun w => w.quad == quad && w.walker == some k))
    let may (w : Walk) : Bool := s.startable w.f.x w.f.ent.ctx && w.state != .fpark && w.spilt.isNone
    match idle, (s.waitingWalks die quad).find? may with
    | some k, some w =>
      let w1 := { w with walker := some k }
      if s.walkHeld die w1 0x45 then .next s
      else .next (((s.modWalk die w.id (fun _ => w1)).traceWalk die w1 0x45 0).progress w.f.ent.ctx)
    | _, _ => .next s

/-- After a step of a walk: the context has made progress if the walk has ended or stands elsewhere, unparked (R369). -/
def State.walkMoved (s : State) (die : Nat) (w : Walk) : State :=
  match (s.die die).eng.walks.find? (fun v => v.id == w.id) with
  | some v => if v == w || v.state == .fpark then s else s.progress w.f.ent.ctx
  | none => s.progress w.f.ent.ctx

/-- WALK_RESULT (R331, R335 to R339): a walker takes its next step: SEED, one expansion, one step of linking, or FINISH, in which its
results go to the issuing cell. -/
def execWalkResult (die quad walker : Nat) (s : State) : Host.Outcome State Fault Refusal :=
  match (s.die die).eng.walks.find? (fun w => w.quad == quad && w.walker == some walker) with
  | none => .next s
  | some w =>
    let st := (s.ctx w.f.ent.ctx).st
    if !(st == .running || st == .stopped) || ((s.ctx w.f.ent.ctx).pre.phase = 1 && w.state != .finish) || s.walkHeld die w 0x46 then .next s
    else
      let s1 := s.replayWalk die w
      let w1 := if s.waiting (w.again die) then w else { w with parkAt := none }
      match w.state with
      | .seed => .next ((s1.seeding die w1).walkMoved die w1)
      | .walk => .next ((s1.expand die w1).walkMoved die w1)
      | .link => .next ((s1.link die w1).walkMoved die w1)
      | .finish => .next ((s1.finish die w1).walkMoved die w1)
      | .fpark | .saved => .next s

end Sys2Proof.Machine
end

