-- ==== Sys2Proof/Machine/Clock.lean ====
section
/-! DEFINITION. What a cycle of the arithmetic clock does by itself (R5): the wait counters of ready entries (R164), Loupe time
(R341), the collection of trace records (R348), the channel counters (R393), LOUPE.HOLDS (R343), the watchdogs (R369) and the
lifetime data that count time (R396). -/
namespace Sys2Proof.Machine

/-- The wait counter of an entry, which the aging event takes back to 0 (R164). -/
def RdyEnt.waited (e : RdyEnt) (running : Bool) : RdyEnt :=
  if running then { e with wait := Nat.min 4096 (e.wait + 1) } else e

/-- The entries of a cell one cycle on: those of RUNNING contexts wait, unless a STOP or a pre-emption has frozen them (R164,
R388, R390). -/
def State.agedCell (s : State) (x : Site) (c : Cell) : Cell :=
  { c with ready := c.ready.map (fun e =>
    e.waited ((s.ctx e.ctx).st == .running && !(s.siteStop x && (s.ctx e.ctx).pre.phase ≠ 1) && !c.frz.units.contains e.ctx)) }

/-- What a tick of the die's clock is counted in: the clock in units of 100 MHz times a million (R5, R342). -/
def Power.perTick (p : Power) : Nat := Nat.max 1 p.clock * 1000000

/-- Loupe ticks of 0.25 ns that pass in one cycle of a die's clock. -/
def Die.dt (d : Die) : Nat := (d.loupe.acc + d.loupe.rate) / d.power.perTick

/-- LOUPE.TIME after one cycle (R341): 4,000 ticks a Loupe microsecond, whatever the clock (R416). -/
def Die.timeOn (d : Die) : Die :=
  { d with loupe := { d.loupe with time := (d.loupe.time + d.dt) % 2 ^ 64
                                   acc := (d.loupe.acc + d.loupe.rate) % d.power.perTick } }

/-- The unit whose turn it is (R348): the next after the last one served. DESIGN CHOICE (assumption 65). -/
def Loupe.next (l : Loupe) : Option Nat :=
  let us := l.queue.map (fun q => q.1)
  let least (l : List Nat) : Option Nat := l.foldl (fun a u => match a with | none => some u | some b => some (Nat.min b u)) none
  match least (us.filter (fun u => l.turn < u)) with
  | some u => some u
  | none => least us

/-- The first record that waits for a place in a unit's queue takes the one that has come free (R352). -/
def Loupe.refill (l : Loupe) (u : Nat) : Loupe :=
  match l.backlog.find? (fun e => e.1 == u) with
  | some e => if l.held u < unitRoom u then { l with backlog := ldrop (fun r => r.1 == u) l.backlog, queue := l.queue ++ [e] } else l
  | none => l

/-- One record of a die is accepted, numbered and forwarded to its tenant's home (R348, R349). DESIGN CHOICE
(assumption 64). -/
def State.collect (s : State) (die : Nat) : State :=
  let l := (s.die die).loupe
  match l.next.bind (fun u => (l.queue.find? (fun q => q.1 == u))) with
  | none => s
  | some q =>
    let s1 := s.modDie die (fun d => { d with loupe := Loupe.refill { d.loupe with
      queue := ldrop (fun r => r.1 == q.1) d.loupe.queue, turn := q.1, seq := l.seq + 1 } q.1 })
    s1.modDie (s.ten q.2.tenant).home (fun d => { d with loupe := { d.loupe with fwd := d.loupe.fwd ++ [{ q.2 with seq := l.seq }] } })

/-- Sixteen records a cycle (R348). DESIGN CHOICE (assumption 64). -/
def State.collectN (s : State) (die : Nat) : Nat → State
  | 0 => s
  | n + 1 => (State.collectN s die n).collect die

/-- A cell is held by lossless tracing (R352, R353): a record waits for its queue, or its next firing's would; or an entry is
passed over that might issue else. -/
def State.cellHeld (s : State) (x : Site) (c : Cell) : Bool :=
  (s.die x.die).loupe.waits x.res || c.ready.any (fun r => s.mayIssue x r && s.traceBars x r)
    || (match firstEnt (c.ready.filter (fun e => s.eligible x e)) with | some e => s.stalled x e | none => false)
    || (c.spat.on && c.blks.any (fun b => b.spatial && s.traceBlocked (s.ctx b.ctx).tenant))

/-- An engine of a die is held by lossless tracing in work of a context that `of` picks (R352, R353): a copy slot, an island or a
walker. -/
def State.engineHeld (s : State) (die : Nat) (e : Engines) (of : Nat → Bool) : Bool :=
  e.copies.any (fun c => of c.ctx && (c.state == .start || c.state == .run) && s.copyHeld die c)
    || e.islands.any (fun i => (s.tilePairs die i.1).any (fun p => of p.slot.ctx && s.traceBlocked (s.ctx p.slot.ctx).tenant)
      || (match firstPair (s.pairsOf die i.1) with
        | some p => s.pairHeld die i.1 p && (s.pairsOf die i.1).any (fun q => of q.slot.ctx)
        | none => false))
    || e.walks.any (fun w => of w.f.ent.ctx && w.walker.isSome
      && (w.state == .seed || w.state == .walk || w.state == .link || w.state == .finish) && s.walkHeld die w 0x46)

/-- Some unit of a die is held by lossless tracing (R343, R352, R353). DESIGN CHOICE (assumption 66). -/
def State.holding (s : State) (die : Nat) : Bool :=
  if !s.tens.any (fun t => t.2.en && t.2.lossless) then false
  else !(s.die die).loupe.backlog.isEmpty || s.engineHeld die (s.die die).eng (fun _ => true)
    || s.cells.any (fun e => e.1 / 8192 == die && s.cellHeld ⟨die, e.1 % 8192⟩ e.2)

/-- States a channel reports (R187). -/
inductive ChanState where
  | empty | full | moving
  deriving DecidableEq, Repr

/-- What a channel of a resident reports (R186, R187): 0 to 3 the ports of the input buffer, 4 the router port. -/
def State.chanState (s : State) (x : Site) (i : Nat) : ChanState :=
  let c := s.cell x
  if i < 4 then
    let n := c.pipe.used i
    if n ≥ portRoom then .full else if n = 0 && !s.inFlight x i then .empty else .moving
  else
    let l := (s.die x.die).net.mesh.filter (fun p => p.ddie == x.die && p.res == x.res)
    if l.isEmpty then .empty
    else if l.any (fun p => p.col == p.dcol && p.row == p.drow
        && c.pipe.used (classPort p.cls) ≥ portRoom) then .full
    else .moving

/-- The counters of a channel (R393): FULL, EMPTY, MOVING. One that has none of its own was EMPTY in every counted cycle. -/
def Die.chan (d : Die) (res i : Nat) : Nat × Nat × Nat := (tget (res * 8 + i) d.chans).getD (0, d.idle, 0)

/-- One cycle of a channel's counters. -/
def chanCount (v : Nat × Nat × Nat) : ChanState → Nat × Nat × Nat
  | .full => (satAdd 48 v.1 1, v.2.1, v.2.2)
  | .empty => (v.1, satAdd 48 v.2.1 1, v.2.2)
  | .moving => (v.1, v.2.1, satAdd 48 v.2.2 1)

/-- The channel counters of a die one cycle on (R393); they pause while an end is stopped. -/
def State.chansOn (s : State) (die : Nat) : State :=
  let d := s.die die
  if d.stop then s
  else
    let mine := s.cells.filter (fun e => e.1 / 8192 == die)
    let one (t : Table (Nat × Nat × Nat)) (e : Nat × Cell) : Table (Nat × Nat × Nat) :=
      let x : Site := ⟨die, e.1 % 8192⟩
      (List.range 5).foldl (fun u i =>
        let v := d.chan x.res i
        tput (x.res * 8 + i) (if s.siteStop x then v else chanCount v (s.chanState x i)) u) t
    s.modDie die (fun d => { d with chans := mine.foldl one d.chans, idle := satAdd 48 d.idle 1 })

/-- Counters of the lifetime data (R396), 48-bit and saturating. -/
def State.life (s : State) (k n : Nat) : State :=
  { s with mgmt := { s.mgmt with live := tput k (satAdd 48 ((tget k s.mgmt.live).getD 0) n) s.mgmt.live } }

/-- Keys of the lifetime data (R396 Table 5). DEDUCED (assumption 51). -/
def lifeCorrected (die struct : Nat) : Nat := 0x10000 + die * 256 + struct
/-- Uncorrectable errors of a die and structure. DEDUCED (assumption 51). -/
def lifeUncorrected (die struct : Nat) : Nat := 0x20000 + die * 256 + struct
/-- Spare pairs in use of a die. -/
def lifeSpares (die : Nat) : Nat := 0x30000 + die
/-- Vertical-bus fallbacks of a die. -/
def lifeFallback (die : Nat) : Nat := 0x40000 + die
/-- Retired sites of a die. -/
def lifeRetired (die : Nat) : Nat := 0x40010 + die
/-- Seconds of a die at a temperature: 16 bins of 5 °C from 30 °C. -/
def lifeTemp (die temp : Nat) : Nat := 0x50000 + die * 16 + Nat.min 15 ((temp - 30) / 5)
/-- Power-on hours. -/
def lifeHours : Nat := 0x60000
/-- Power cycles. -/
def lifeCycles : Nat := 0x60001
/-- Mismatches charged to the pair of a rank of a die. -/
def lifeCharged (die rank : Nat) : Nat := 0x100000 + die * 8192 + rank

/-- Seconds at temperature, of a die that is up (R396). -/
def State.seconds (s : State) (die dt : Nat) : State :=
  let p := (s.die die).power
  if p.ticks + dt < 4000000000 then s.modDie die (fun d => { d with power := { d.power with ticks := p.ticks + dt } })
  else (s.modDie die (fun d => { d with power := { d.power with ticks := p.ticks + dt - 4000000000 } })).life (lifeTemp die p.temp) 1

/-- Power-on hours (R396). -/
def State.hours (s : State) (dt : Nat) : State :=
  let n := s.mgmt.ticks + dt
  if n < 14400000000000 then { s with mgmt := { s.mgmt with ticks := n } }
  else { s with mgmt := { s.mgmt with ticks := n - 14400000000000 } }.life lifeHours 1

/-- A die that is up, one cycle on. -/
def State.dieOn (s : State) (die : Nat) : State :=
  let d := s.die die
  if !d.power.on then s
  else
    let s1 := (s.modDie die Die.timeOn).chansOn die
    let s2 := if s.holding die then s1.modDie die (fun d => { d with loupe := { d.loupe with holds := satAdd 48 d.loupe.holds 1 } }) else s1
    (s2.collectN die 16).seconds die d.dt

/-- A context's work, in its cells or its engines, is held by lossless tracing or waits on a page in migration, which its
watchdog does not count (R369). -/
def State.excused (s : State) (c : Nat) : Bool :=
  s.cells.any (fun e => e.2.ready.any (fun r => r.ctx == c &&
      (s.traceBars ⟨e.1 / 8192, e.1 % 8192⟩ r || s.stalled ⟨e.1 / 8192, e.1 % 8192⟩ r)))
    || s.dies.any (fun e => s.engineHeld e.1 e.2.eng (fun k => k == c))
    || s.msys.waits.any (fun w => w.ctx == c && !w.fault) || s.msys.cows.any (fun w => w.ctx == c)

/-- The watchdog of a context one cycle on (R369, R390): it counts while the context is RUNNING and not quiescent, starts again
where it is not, and stands still under a STOP and while the context's work is held. -/
def State.watchOn (s : State) (c : Nat) : State :=
  let k := s.ctx c
  if k.trap.wdog = 0 || s.stopped c then s
  else if k.st != .running || s.quiescent c then s.progress c
  else if s.excused c then s
  else s.modCtx c (fun k => { k with trap := { k.trap with idle := k.trap.idle + (s.die (ctxDie c)).dt } })

/-- Writes of CTX.TLBINV whose accesses have all performed have performed (R254); a SYSWR is answered. DEDUCED
(assumption 35). -/
def State.invDone (s : State) : State :=
  let ended (e : Nat × Nat × List Nat × Option (Site × Dep)) : Bool :=
    e.2.2.1.all (fun id => match s.msys.accs.find? (fun a => a.id == id) with | some a => a.over | none => true)
  let s1 := { s with host := { s.host with tlbinv := s.host.tlbinv.filter (fun e => !ended e) } }
  (s.host.tlbinv.filter ended).foldl (fun t e => match e.2.2.2 with
    | some o => t.pay o.1 { o.2 with toks := filledWith 0 o.2.toks }
    | none => t) s1

/-- The cells with an entry that has waited 4,096 cycles below level 31: its level rises before anything else happens (R164,
R166). -/
def State.aging (s : State) : List Act :=
  (s.cells.filter (fun e => e.2.ready.any (fun r => r.wait ≥ 4096 && r.level < 31))).map
    (fun e => .event (.readyAging ⟨e.1 / 8192, e.1 % 8192⟩))

/-- A die's clock goes forward to a time; the herd's next instant, counted on that clock, moves with it (R214).
DESIGN CHOICE (assumption 65). -/
def Die.clockTo (d : Die) (time : Nat) : Die :=
  let t := Nat.max d.loupe.time time % 2 ^ 64
  { d with loupe := { d.loupe with time := t }, herd := { d.herd with nextAt := d.herd.nextAt + (t - d.loupe.time) } }

/-- The latest time of the dies that are up. DESIGN CHOICE (assumption 45). -/
def State.lateTime (s : State) : Nat := (List.range 4).foldl (fun a d => if (s.die d).power.on then Nat.max a (s.die d).loupe.time else a) 0

/-- The module keeps its clocks within BOUND of each other (R343): one that lags behind, as after the reset of its die alone,
takes the others' time. DESIGN CHOICE (assumption 65). -/
def State.together (s : State) : State :=
  let t := s.lateTime
  (List.range 4).foldl (fun u d =>
    if (u.die d).power.on && (u.die d).loupe.time + Config.skewBound < t then u.modDie d (fun e => e.clockTo t) else u) s

/-- One cycle passes. -/
def State.clock (s0 : State) : State :=
  let s := s0.invDone
  let s1 := { s with cells := s.cells.map (fun (e : Nat × Cell) => (e.1, s.agedCell ⟨e.1 / 8192, e.1 % 8192⟩ e.2)) }
  let s2 := ((List.range 4).foldl (fun t d => t.dieOn d) s1).together
  let s3 := s.ctxs.foldl (fun t e => t.watchOn e.1) s2
  let s4 := s3.hours (s.die 0).dt
  { s4 with cycle := s.cycle + 1, agenda := s4.agenda ++ s4.aging }

end Sys2Proof.Machine
end

