-- ==== Sys2Proof/Machine/Faults.lean ====
section
/-! DEFINITION. Traps (R381), service requests (R382), the answers to fault records (R365, R386, R419), soft errors (R366), the
watchdog (R369), and the replay and vote of a dual configuration (R372). -/
namespace Sys2Proof.Machine

/-- The firing of a TRAP or BRKPT that stops its context (R381): it performs, its record names A's payload and CODE, and its
tokens are owed until the record is resumed or skipped. With every latch of its site occupied it is passed over (R363). -/
def State.trap (s : State) (f : Firing) (h : Hdr) (code : FCode) (n : Nat) : State :=
  let a := f.op 0
  if !f.taken && s.latched (siteUnit f.x) ≥ nLatches then s.refuse f code a.w64 n
  else s.later f h (fwdTok f h (usedBy f h) a false) (fun s w =>
    s.takeFault (siteUnit f.x) ({ s.cellRec f.x f.ent.ctx f.ent.node f.ent.tag f.ent.depth code a.w64 with eng := n }.by f.all)
      (.toks f.x f.ent.uid w))

/-- A firing that sends A on (R381). -/
def State.sendOn (s : State) (f : Firing) (h : Hdr) : State :=
  s.fire f { sends := both h (fwdTok f h (usedBy f h) (f.op 0) false), ports := portsOf h, used := usedBy f h }

/-- TRAP (R381). -/
def execTrap (h : Hdr) (code : Nat) (cond : Bool) (s : State) : Host.Outcome State Fault Refusal :=
  s.firing (fun s f => if cond && (f.op 0).w64 % 2 = 0 then s.sendOn f h else s.trap f h .user code)

/-- BRKPT (R381): it stops its context only where TRAP.FSTAT.DBG is set. -/
def execBrkpt (h : Hdr) (code : Nat) (cond : Bool) (s : State) : Host.Outcome State Fault Refusal :=
  s.firing (fun s f =>
    if (cond && (f.op 0).w64 % 2 = 0) || !(s.ctx f.ent.ctx).trap.dbg then s.sendOn f h else s.trap f h .break_ code)

/-- SYS (R382): the request enters the host's service queue, and its tokens are owed until the host answers.
PRESUMED (assumption 20). -/
def execSys (h : Hdr) (svc : Nat) (s : State) : Host.Outcome State Fault Refusal :=
  s.firing (fun s f =>
    s.later f h (newTok f h (usedBy f h) none .s64 false 0) (fun s w =>
      let r : Service := { k := s.host.nextReq, ctx := f.ent.ctx, svc := svc, tag := f.ent.tag
                           pay := BitVec.ofNat 64 (f.op 0).w64, x := f.x, dep := w }
      { s with host := { s.host with nextReq := s.host.nextReq + 1, service := s.host.service ++ [r] } }))

/-- SYS_ANSWER (R382, R411): the host's answer to request `k` leaves as a memory answer does. -/
def execSysAnswer (k : Nat) (v : W64) (s : State) : Host.Outcome State Fault Refusal :=
  match s.host.service.find? (fun r => r.k == k) with
  | none => .next s
  | some r =>
    let s1 := { s with host := { s.host with service := s.host.service.filter (fun q => q.k != k) } }
    .next ((s1.progress r.ctx).pay r.x { r.dep with toks := filledWith v.toNat r.dep.toks })

/-- A context may answer the faults of another, or use its registers (R385, R386): its handler or tenant 0. -/
def State.handles (s : State) (by_ c : Nat) : Bool := (s.ctx c).hctx == by_ || (s.ctx by_).tenant == 0

/-- An access that was parked or held goes on its way again (R252, R386, R419); at a port it stands before those that came after
it. -/
def State.resendAcc (s : State) (a : Access) : State :=
  match a.space with
  | .virt => (s.accSet a.id (fun a => { a with st := .walk, pages := [] })).missEnd (.event (.pageWalk a.id))
  | .mt => s.accSet a.id (fun a => { a with st := .sent })
  | .sdm =>
    (s.accSet a.id (fun a => { a with st := .sent })).modCell a.x (fun c =>
      { c with nodeq := c.nodeq.set 0 (a.id :: c.nodeq.getD 0 []) })

/-- A memory-node request that was parked goes back to its port (R252), before those that came after it. -/
def State.resendReq (s : State) (q : NodeReq) : State :=
  (s.modMem (fun m => { m with reqs := lmap (fun r => r.id == q.id) (fun r => { r with st := .sent }) m.reqs })).modCell q.x
    (fun c => { c with nodeq := c.nodeq.set q.m (q.id :: c.nodeq.getD q.m []) })

/-- The copy of an engine's record (R386, R398): from FPARK to RUN, or back to START where it has not begun. -/
def Copy.resumed (c : Copy) : Copy := if c.state == .fpark then { c with state := if c.began then .run else .start } else c

/-- A walk out of FPARK (R339): its pending step is tried again. -/
def Walk.resumed (w : Walk) : Walk := if w.state == .fpark then { w with state := w.prev } else w

/-- THE RETURN FROM A FAULT (R365, R386, R398): what the record held back goes on. `memory` says that it is an M record.
DEDUCED (assumption 50). -/
def State.resume (s : State) (c : Nat) (memory : Bool) (what : Resume) : State :=
  match what with
  | .fire _ _ => s
  | .none => s
  | .ecc => s
  | .toks x _ d => s.pay x d
  | .access id =>
    (match s.acc id with
     | some a =>
       if a.st == .parked || a.st == .held then (if memory then s.traceAcc a 0x82 else s).resendAcc a else s
     | none => match s.msys.reqs.find? (fun r => r.id == id && r.st == .parked) with
       | some q => (s.traceReq q 0x82 ((q.tok.req.map reqAddr).getD 0)).resendReq q
       | none => s)
  | .refire id =>
    if !memory then s
    else match s.parked.find? (fun p => p.id == id) with
      | some p =>
        let s1 := s.tracePark p.f 0x82 p.off
        { s1 with parked := lmap (fun p => p.id == id) (fun p => { p with miss := none }) s1.parked, agenda := s.agenda ++ [.refire id] }
      | none => s
  | .copy die id =>
    (match (s.die die).eng.copies.find? (fun k => k.id == id) with
     | some k => (s.missEnd (k.again die)).modCopy die id Copy.resumed
     | none => s)
  | .walk die id =>
    (match (s.die die).eng.walks.find? (fun w => w.id == id) with
     | some w => (s.missEnd (w.again die)).modWalk die id Walk.resumed
     | none => s)
  | .notice die isl id => s.modNote die isl id (fun n => { n with parked := false })
  | .drain die isl id =>
    (match (s.island die isl).drains.find? (fun d => d.id == id) with
     | some d => (s.missEnd (d.again die isl)).modDrain die isl id (fun d => { d with parked := false })
     | none => s)
  | .spill _ _ _ _ => s.drainEscape c (s.escapes c)

/-- Force-retirement of an instance that may not be there (R23, R386). -/
def State.forceOut (s : State) (x : Site) (uid : Option Nat) : State :=
  match uid with
  | some u => s.forceRetire x u
  | none => s

/-- An access abandoned with no response, its instance force-retired (R386, R419). DEDUCED (assumption 50). -/
def State.skipAcc (s : State) (a : Access) : State :=
  (((s.accSet a.id (fun a => { a with st := .abandoned, ans := true })).missEnd (.event (.pageWalk a.id))).forceOut a.x a.uid).unspend
    a.x a.uid a.pos

/-- The access whose request stands at a memory-node port (R279). -/
def State.accOfReq (s : State) (q : NodeReq) : Option Access :=
  s.msys.accs.find? (fun a => a.ctx == q.tok.ctx && (a.st == .sent || a.st == .port) && q.tok.req.isSome &&
    (match a.kind with | .mem _ => a.outs.any (fun u => u.req == q.tok.req) | _ => false))

/-- What SKIP abandons (R386): the work that the record held back, with its instance. DEDUCED (assumption 50). -/
def State.skip (s : State) (c : Nat) (memory : Bool) (what : Resume) : State :=
  match what with
  | .fire x uid => s.forceOut x uid
  | .none => s
  | .ecc => s
  | .toks x uid d => (s.forceOut x uid).pay x d
  | .access id =>
    (match s.acc id with
     | some a => if a.st == .parked || a.st == .held then s.skipAcc a else s
     | none => match s.msys.reqs.find? (fun r => r.id == id && r.st == .parked) with
       | some q =>
         let s1 := s.modMem (fun m => { m with reqs := m.reqs.filter (fun r => r.id != id) })
         (match s.accOfReq q with | some a => s1.skipAcc a | none => s1)
       | none => s)
  | .refire id =>
    (match s.parked.find? (fun p => p.id == id) with
     | some p =>
       let s1 := { s with parked := s.parked.filter (fun q => q.id != id) }
       (((s1.accSet id (fun a => { a with st := .abandoned, ans := true })).missEnd (.refire id)).forceOut p.f.x p.f.ent.uid).unspend
         p.f.x p.f.ent.uid p.f.pos
     | none => s)
  | .copy die id =>
    (match (s.die die).eng.copies.find? (fun k => k.id == id) with
     | some k =>
       if !memory && k.direct.isNone then s.modCopy die id Copy.resumed
       else
         let s1 := ((s.missEnd (k.again die)).modCell k.x (fun e => { e with score := e.score.filter (fun q => q.copy != id) })).modEng die
           (fun e => { e with copies := e.copies.filter (fun q => q.id != id) })
         (match k.direct with | some (f, _) => s1.forceOut f.x f.ent.uid | none => s1)
     | none => s)
  | .walk die id =>
    (match (s.die die).eng.walks.find? (fun w => w.id == id) with
     | some w =>
       let s1 := (s.missEnd (w.again die)).dropWalk die id
       let s2 := match w.spilt with | some r => s1.unspill c r | none => s1
       (s2.forceOut w.f.x w.f.ent.uid).unspend w.f.x w.f.ent.uid w.f.pos
     | none => s)
  | .notice die isl id =>
    (match (s.island die isl).notices.find? (fun n => n.id == id) with
     | some n => (s.endNote die isl n).forceOut n.x n.dep.uid
     | none => s)
  | .drain die isl id =>
    (match (s.island die isl).drains.find? (fun d => d.id == id) with
     | some d =>
       let s1 := (s.missEnd (d.again die isl)).modIsl die isl (fun i => { i with drains := i.drains.filter (fun e => e.id != id) })
       let s2 := match d.bank with
         | some b => s1.modSlot die isl d.cslot (fun k => { k with banks := k.banks.set b {} })
         | none => s1
       let s3 := match d.spilt with | some r => s2.unspill c r | none => s2
       s3.forceOut d.x d.dep.uid
     | none => s)
  | .spill x hdr tag depth =>
    let s1 := s.forceOut x (((s.cell x).inst c hdr tag depth).map (fun e => e.uid))
    s1.drainEscape c (s1.escapes c)

/-- An answer to an open record takes effect (R365, R386): 0 RESUME, 1 SKIP, 2 END. DEDUCED (assumption 49). -/
def State.answerRec (s : State) (c : Nat) (o : OpenRec) (act : Nat) : State :=
  if act = 2 && o.kind ≠ 2 then s.endCtx c
  else
    let s1 := s.modCtx c (fun k => { k with trap := { k.trap with opens := k.trap.opens.filter (fun p => p.seq != o.seq) } })
    let s2 := if o.kind = 2 then s1
      else if act = 1 then s1.skip c (o.kind == 1) o.what
      else s1.resume c (o.kind == 1) o.what
    s2.settle c

/-- The site of what a record holds back. -/
def State.whatSite (s : State) (what : Resume) : Option Site :=
  match what with
  | .access id =>
    (match s.acc id with
     | some a => some a.x
     | none => (s.msys.reqs.find? (fun r => r.id == id)).map (fun r => r.x))
  | .refire id => (s.parked.find? (fun p => p.id == id)).map (fun p => p.f.x)
  | .copy die id => ((s.die die).eng.copies.find? (fun k => k.id == id)).map (fun k => k.x)
  | .walk die id => ((s.die die).eng.walks.find? (fun w => w.id == id)).map (fun w => w.f.x)
  | .notice die isl id => ((s.island die isl).notices.find? (fun n => n.id == id)).map (fun n => n.x)
  | .drain die isl id => ((s.island die isl).drains.find? (fun d => d.id == id)).map (fun d => d.x)
  | _ => none

/-- An answer is kept for later: to a SAVED context for its restore (R379), and to a memory record whose work a STOP keeps parked for
the release of that STOP (R389). DEDUCED (assumption 41). -/
def State.keepsAnswer (s : State) (c : Nat) (o : OpenRec) (act : Nat) : Bool :=
  (s.ctx c).st == .saved || (o.kind == 1 && act != 2 && s.staysParked c (s.whatSite o.what))

/-- Answers kept under a STOP take effect once it is released (R390). DEDUCED (assumption 41). -/
def State.answersDue (s : State) (c : Nat) : State :=
  if (s.ctx c).st == .saved then s
  else (s.ctx c).trap.acks.foldl (fun t a =>
    match (t.ctx c).trap.opens.find? (fun o => o.seq == a.1) with
    | some o =>
      if t.keepsAnswer c o a.2 then t
      else (t.modCtx c (fun k => { k with trap := { k.trap with acks := ldrop (fun b => b == a) k.trap.acks } })).answerRec c o a.2
    | none => t) s

/-- FAULTRET (R379, R386): its status, and the answer, unless that is kept for later.
DEDUCED (assumption 49). -/
def State.faultret (s : State) (f : Firing) (h : Hdr) (act0 : Nat) : State :=
  let v := (f.op 0).w64
  let c := fld v 0 14
  let seq := fld v 32 32
  let act := if retAction f = 3 then 3 else act0
  let k := s.ctx c
  let out (code : Nat) : Out :=
    { sends := both h (newTok f h (usedBy f h) none .z32 false (BitVec.ofNat 512 code)), ports := portsOf h, used := usedBy f h }
  if !s.handles f.ent.ctx c then s.fire f (out 2)
  else if act = 3 then s.fire f (out 3)
  else match k.trap.opens.find? (fun o => o.seq == seq && !k.trap.acks.any (fun a => a.1 == seq)) with
    | none => s.fire f (out 1)
    | some o =>
      if o.what == .ecc && act ≠ 2 then s.fire f (out 3)
      else if s.keepsAnswer c o act then
        s.fireWith f (out 0) (fun s => s.modCtx c (fun k => { k with trap := { k.trap with acks := k.trap.acks ++ [(seq, act)] } }))
      else s.fireWith f (out 0) (fun s => s.answerRec c o act)

/-- FAULTRET with ACTION 0 (R386); with ACTION 3 it answers INVALID. DEDUCED (assumptions 27, 49). -/
def execFaultretResume (h : Hdr) (s : State) : Host.Outcome State Fault Refusal := s.firing (fun s f => s.faultret f h 0)

/-- FAULTRET with ACTION 1 (R386). DEDUCED (assumption 49). -/
def execFaultretSkip (h : Hdr) (s : State) : Host.Outcome State Fault Refusal := s.firing (fun s f => s.faultret f h 1)

/-- FAULTRET with ACTION 2 (R386). DEDUCED (assumption 49). -/
def execFaultretEnd (h : Hdr) (s : State) : Host.Outcome State Fault Refusal := s.firing (fun s f => s.faultret f h 2)

/-- The structure and die of an address, as the lifetime data count soft errors (R366, R396): 0 frame stores, 1 node memory, 2 port
maps, 3 route entries, 4 MT banks, 5 SDM, 6 L2 slices, 7 configuration planes, 8 HBM4E, 9 island banks. DEDUCED
(assumption 51). -/
def errPlace (cxl : Table (Nat × Nat × Nat)) (a : Nat) : Nat × Nat :=
  if a ≥ 2 ^ 57 then ((a - 2 ^ 57) / 65536 / 8192 % 4, 4)
  else if a ≥ 2 ^ 56 then ((a - 2 ^ 56) / 2 ^ 40 % 4, 5)
  else (paDie cxl a, 8)

/-- An uncorrectable error counted (R396). -/
def State.badWord (s : State) (die struct : Nat) : State := s.life (lifeUncorrected die struct) 1

/-- An uncorrectable error in configuration or control state stops a context (R366). -/
def State.eccState (s : State) (unit : Nat) (r : FRec) : State := s.takeFault unit { r with code := .eccState } .ecc

/-- Free contents of a payload (assumption 3): the spec gives none for a word that could not be corrected. DESIGN
CHOICE (assumption 3). -/
def freePayload (n : Nat) : Payload :=
  BitVec.ofNat 512 ((List.range 8).foldl (fun a i => a + (Config.freeWord (2 ^ 64 + n * 16 + i)).toNat * 2 ^ (64 * i)) 0)

/-- Key-store entries of a node and SEQ whose value could not be corrected (R366): in the cell, or in the tile that holds the
store (R135). DESIGN CHOICE (assumption 3). -/
def State.badEntries (s : State) (x : Site) (node seq : Nat) : State :=
  let bad (g : KEnt) : KEnt := { g with poison := true, value := freePayload s.free }
  let one (s : State) (k : KStore) : State :=
    match s.viewOf x k.ctx k.node with
    | some v =>
      if v.c.res = .mtile then
        match (s.keyEnts x k).find? (fun g => g.seq == seq) with
        | some g =>
          let a := mtBase x + g.slot * v.size
          (s.lose (a + 32) (if v.c.vvec then 64 else 8)).setPoison a v.size
        | none => s
      else s.modCell x (fun c => c.modStore k.ctx k.node (fun k => { k with ents := lmap (fun g => g.seq == seq) bad k.ents }))
    | none => s
  ((s.cell x).stores.filter (fun k => k.node == node)).foldl one s

/-- SOFT_ERROR (R366). DESIGN CHOICE (assumption 3); DEDUCED (assumption 51). -/
def execSoftError (e : SoftErr) (s : State) : Host.Outcome State Fault Refusal :=
  let used (s : State) : State := { s with free := s.free + 1 }
  .next (match e with
  | .corrected die struct => s.life (lifeCorrected die struct) 1
  | .memory addr =>
    let p := errPlace s.host.cxl addr
    ((s.lose (addr / 8 * 8) 8).setPoison (addr / 8 * 8) 8).badWord p.1 p.2
  | .slot x k =>
    (match tget k (s.cell x).slots with
     | none => s
     | some v =>
       let bad : Slot := { v with tok := { v.tok with data := freePayload s.free }.setFlag .poison true }
       (used (s.modCell x (fun c => { c with slots := tput k bad c.slots }))).badWord x.die 0)
  | .keyEntry x node seq =>
    (used (s.badEntries x node seq)).badWord x.die 0
  | .islandBank die isl cslot bank =>
    let bad (b : Bank) : Bank :=
      { b with poison := true
               vals := (List.range 16384).map (fun i => (Config.freeWord (2 ^ 66 + s.free * 16384 + i)).toNat % 2 ^ 32) }
    (used (s.modSlot die isl cslot (fun k => { k with banks := k.banks.set bank (bad (k.banks.getD bank {})) }))).badWord die 9
  | .block x node planeBad =>
    (match (s.cell x).blks.find? (fun b => b.present && b.hdr < node && node ≤ b.hdr + b.recs.length) with
     | none => s
     | some b =>
       let s1 := s.badWord x.die 1
       if planeBad then (s1.badWord x.die 7).eccState (siteUnit x) (s.cellRec x b.ctx node 0 0 .eccState 0)
       else s1.modCell x (fun c => { c with blks := lmap (fun a => a.ctx == b.ctx && a.hdr == b.hdr) (fun a => { a with present := false }) c.blks }))
  | .route die col row ctx route ssite planeBad =>
    let is (e : RouteEnt) : Bool := (e.col, e.row) == (col, row) && fld e.w.w2.toNat 31 1 = 1 && fld e.w.w2.toNat 17 14 = ctx
      && fld e.w.w2.toNat 9 8 = route && fld e.w.w1.toNat 19 13 = ssite
    if !(s.die die).net.routes.any is then s
    else
      let s1 := (s.badWord die 3).modDie die (fun d => { d with net := { d.net with
        routes := lmap is (fun e => { e with bad := true }) d.net.routes } })
      if planeBad then
        (s1.badWord die 7).eccState (routerUnit die (col, row)) { code := .eccState, die := die, col := col, row := row, ctx := ctx }
      else s1
  | .control x ctx => (s.badWord x.die 0).eccState (siteUnit x) (s.cellRec x ctx 0x3FF 0 0 .eccState 0))

/-- ROUTE_ENTRY_FETCH (R181, R366): an invalidated route entry has been fetched again from its plane. -/
def execRouteEntryFetch (die col row ctx route ssite : Nat) (s : State) : Host.Outcome State Fault Refusal :=
  let is (e : RouteEnt) : Bool := (e.col, e.row) == (col, row) && fld e.w.w2.toNat 31 1 = 1 && fld e.w.w2.toNat 17 14 = ctx
    && fld e.w.w2.toNat 9 8 = route && fld e.w.w1.toNat 19 13 = ssite && (s.planeAt die e.plane).isSome
  .next (s.modDie die (fun d => { d with net := { d.net with routes := lmap is (fun e => { e with bad := false }) d.net.routes } }))

/-- WATCHDOG_EXPIRY (R369): a RUNNING context has made no progress for WDOG Loupe microseconds. -/
def execWatchdogExpiry (ctx : Nat) (s : State) : Host.Outcome State Fault Refusal :=
  let k := s.ctx ctx
  if k.trap.wdog = 0 || k.st != .running || k.trap.idle < k.trap.wdog * 4000 || s.quiescent ctx then .next s
  else
    let die := ctxDie ctx
    let s1 := s.modCtx ctx (fun k => { k with trap := { k.trap with idle := 0 } })
    .next (s1.takeFault (engUnit die 3 96) (engRec die 3 (96 + die, 0x7F) 0 ctx 0x3FF 0 0 .watchdog 0) .none)

/-- The mismatched entries that a comparator holds (R371, R372). -/
def Dual.mismatch (d : Dual) : Option (DOut × DOut) :=
  d.outP.findSome? (fun p => match d.outS.find? (fun q => q.twin p) with
    | some q => if p.agrees q then none else some (p, q)
    | none => none)

/-- The two sites compared, as a record's ARG names them (R362). -/
def Dual.arg (d : Dual) : Nat := d.prim + d.shad * 2 ^ 16

/-- The context of a comparator stops with SINK_MISMATCH (R372), once until its record is answered. DEDUCED
(assumption 52). -/
def State.sinkMismatch (s : State) (die : Nat) (d : Dual) (p : DOut) : State :=
  let x : Site := ⟨die, d.prim⟩
  if (s.ctx d.ctx).trap.opens.any (fun o => o.code == .sinkMismatch)
      || s.latches.any (fun l => l.fr.code == .sinkMismatch && l.fr.ctx == d.ctx) then s
  else s.takeFault (siteUnit x) ((s.cellRec x d.ctx p.node p.tok.tag p.tok.depth .sinkMismatch d.arg).by [p.tok]) .none

/-- The spare begins its replay from the retained inputs (R372). -/
def State.replayOn (s : State) (die : Nat) (d : Dual) (sp : Nat) : State :=
  let again := d.kept.map (fun t => { t with site := sp })
  (s.modCell ⟨die, sp⟩ (fun c => { c with pipe := { c.pipe with selfq := c.pipe.selfq ++ again } })).modDual die d.k
    (fun d => { d with replay := true, outX := [] })

/-- The entry that commits where the vote goes to the shadow's copy (R372): its value under the primary's name. -/
def State.voted (s : State) (p q : DOut) : State × DOut :=
  match p.acc.bind s.acc, q.acc.bind s.acc with
  | some a, some b =>
    (s.accSet a.id (fun a => { a with kind := b.kind, space := b.space, die := b.die, mtr := b.mtr, addr := b.addr, size := b.size
                                      arg := b.arg, desc := b.desc, b := b.b, c := b.c, poison := b.poison }), p)
  | _, _ => (s, { p with tok := { q.tok with site := if q.tok.named = 0 then p.tok.site else q.tok.site } })

/-- A mismatch charged to a pair in the lifetime data (R396): the first 256 pairs are counted. DEDUCED (assumption
52). -/
def State.charge (s : State) (die rank : Nat) : State :=
  let k := lifeCharged die rank
  if (tget k s.mgmt.live).isSome || (s.mgmt.live.filter (fun e => 0x100000 ≤ e.1)).length < 256 then s.life k 1 else s

/-- A notice of a comparator (R361, R372). -/
def State.dualNotice (s : State) (die : Nat) (d : Dual) (p : DOut) (code : FCode) : State :=
  let x : Site := ⟨die, d.prim⟩
  s.takeFault (siteUnit x) ((s.cellRec x d.ctx p.node p.tok.tag p.tok.depth code d.arg).by [p.tok]) .none

/-- A pair charged a second mismatch is retired (R372): its resident moves to the spare's pair, and runs there in its old role.
DEDUCED (assumption 52); DESIGN CHOICE (assumption 79). -/
def State.retirePair (s : State) (die : Nat) (d : Dual) (p : DOut) (r sp : Nat) : State :=
  let a : Site := ⟨die, r⟩
  let b : Site := ⟨die, sp⟩
  let rank := s.pairOf a
  let c : Couple := ⟨r, sp, s.costChange die r sp, s.pos a, s.pos b⟩
  let s1 := s.beginSwap die (s.die die).herd.inst c
  let s2 := s1.modDie die (fun e => { e with
    net := e.net.moves [c]
    herd := { e.herd with busy := e.herd.busy ++ [c], done := s.cycle + 900, len := 900 }
    tab := { e.tab with retired := e.tab.retired ++ [rank] } })
  ((s2.life (lifeRetired die) 1).modDual die d.k (fun d => { d with spare := none })).dualNotice die d p .siteRetired

/-- What the spare holds of the replay is discarded. -/
def State.clearSpare (s : State) (die sp ctx : Nat) : State :=
  (s.modCell ⟨die, sp⟩ (fun c => c.discard ctx)).modMem (fun m =>
    { m with accs := m.accs.filter (fun a => !(a.x == ⟨die, sp⟩ && a.ctx == ctx)) })

/-- The vote of a replay (R372): the spare agrees with the primary's copy or the shadow's; `other` is the resident charged.
DEDUCED (assumption 52). -/
def State.vote (s : State) (die : Nat) (d : Dual) (sp : Nat) (p q v : DOut) : Option State :=
  let prim : Site := ⟨die, d.prim⟩
  let shad : Site := ⟨die, d.shad⟩
  let okP := v.agrees p
  if !okP && !v.agrees q then some (s.sinkMismatch die d p)
  else
    let (s1, win) := if okP then (s, p) else s.voted p q
    match s1.commit prim shad win q with
    | none => none
    | some s2 =>
      let r := if okP then d.shad else d.prim
      let rank := s.pairOf ⟨die, r⟩
      let s3 := s2.modDual die d.k (fun d => { d with
        outP := ldrop (fun o => o == p) d.outP, outS := ldrop (fun o => o == q) d.outS, outX := [], held := false, replay := false })
      let s4 := (((s3.clearSpare die sp d.ctx).charge die rank).dualNotice die d p .dualVote).unkeep die d.k
      some (if (tget (lifeCharged die rank) s4.mgmt.live).getD 0 ≥ 2 then s4.retirePair die d p r sp else s4)

/-- DUAL_REPLAY (R372): after a mismatch the spare replays, and once it has produced the twin it votes; without a spare the context
stops. DEDUCED (assumption 52). -/
def execDualReplay (die k : Nat) (s : State) : Host.Outcome State Fault Refusal :=
  match (s.die die).duals.find? (fun d => d.k == k) with
  | none => .next s
  | some d =>
    match d.held, d.mismatch with
    | true, some (p, q) =>
      (match d.spare with
       | none => .next (s.sinkMismatch die d p)
       | some sp =>
         if !(s.die die).herd.busy.isEmpty || (s.die die).flushing then .next s
         else if !d.replay then .next (s.replayOn die d sp)
         else match d.outX.find? (fun v => v.twin p) with
           | none => .next s
           | some v => match s.vote die d sp p q v with
             | some s1 => .next s1
             | none => .next s)
    | _, _ => .next s

end Sys2Proof.Machine
end

