-- ==== Sys2Proof/Machine/Preempt.lean ====
section
/-! DEFINITION. Pre-emption (R373 to R379, R390): requests, markers, freezing and saving units, the save area, and the restore. -/
namespace Sys2Proof.Machine

/-- A STOP covers a context: of itself, of its die, or of one of its sites (R388, R390). -/
def State.covered (s : State) (ctx : Nat) : Bool :=
  (s.ctx ctx).dstop || (s.die (ctxDie ctx)).stop || (s.unitsOf ctx).any (fun r => (s.cell (unitSite ctx r)).frz.stop)

/-- One cycle passes; what a STOP has let go of is replayed first (R390). -/
def State.tick (s : State) : State := (s.ctxs.foldl (fun t e => t.answersDue e.1) s.releaseLeft).clock

/-- A save begins (R373): a marker for every source port. DEDUCED (assumption 53). -/
def State.beginSave (s : State) (ctx : Nat) : State :=
  s.modCtx ctx (fun k => { k with pre := { k.pre with phase := 1, held := false, marks := k.srcs } })

/-- A request to pre-empt a context (R373, R390): ignored unless it is RUNNING or STOPPED and nothing is under way; held while a STOP
covers it. `owed` is the answer a SYSWR awaits. DEDUCED (assumption 53). -/
def State.preempt (s : State) (ctx : Nat) (owed : List (Site × Dep)) : State :=
  let k := s.ctx ctx
  if !(k.st == .running || k.st == .stopped) || k.pre.phase ≠ 0 then s
  else
    let s1 := s.modCtx ctx (fun k => { k with pre := { k.pre with owed := k.pre.owed ++ owed, held := true } })
    if s1.covered ctx then s1 else s1.beginSave ctx

/-- The host, the handler of a context, or tenant 0 may pre-empt and restore it; it may not itself (R373, R378). -/
def State.mayPre (s : State) (ctx : Nat) (who : Actor) : Bool :=
  match who with
  | .host => true
  | .ctx c => c != ctx && s.handles c ctx

/-- CTX_PRE_PREEMPT (R373). -/
def execCtxPrePreempt (ctx : Nat) (who : Actor) (s : State) : Host.Outcome State Fault Refusal :=
  .next (if s.mayPre ctx who then s.preempt ctx [] else s)

/-- A unit freezes (R374): it stops issuing for the context and records its state; tokens parked for a fetch are channel tokens.
DEDUCED (assumption 53). -/
def State.freeze (s : State) (x : Site) (ctx : Nat) : State :=
  s.modCell x (fun c => { c with
    miss := c.miss.filter (fun t => t.ctx != ctx)
    frz := { c.frz with units := c.frz.units ++ [ctx]
                        chan := c.frz.chan ++ (c.miss.filter (fun t => t.ctx == ctx)).map (fun t => (ctx, 5, t)) } })

/-- A marker noted on a channel of a unit. -/
def State.mark_ (s : State) (x : Site) (ctx chan : Nat) : State :=
  s.modCell x (fun c => { c with frz := { c.frz with marked := c.frz.marked ++ [(ctx, chan)] } })

/-- A frozen unit sends its markers (R374): to every other site on each class, and on each route class whose tree starts there.
None: a switch box has no room for one. -/
def State.sendMarkers (s : State) (x : Site) (ctx : Nat) : Option State :=
  let others := (s.unitsOf ctx).filter (fun r => r != x.res)
  let toSite (s : State) (r : Nat) : State :=
    [0, 1, 3].foldl (fun t cls => t.netSend x.die (s.pos x) cls x.die r
      (.tok { markerTok ctx (chanMesh x.res cls) with die := x.die, site := r })) s
  let mine := (s.routesOf ctx (fun _ => true)).filter (fun r => r.1 == x.res)
  let on (s : State) (r : Nat × Nat) : Option State :=
    s.toRoute x { markerTok ctx (chanRoute r.1 r.2) with kind := 2, die := x.die, site := x.res, node := r.2 / 4, port := r.2 % 4 }
  (mine.foldlM on (others.foldl toSite s)).map (fun t => t.mark_ x ctx chanSent)

/-- The marker that a cell takes next (R374): the next token of the cell, or the head of a port of a SPATIAL cell. -/
def Cell.nextMarker (c : Cell) : Option (Source × Tok) :=
  if c.spat.on then
    ((List.range 4).filterMap (fun i => ((c.pipe.port i).head?).map (fun t => (i, t)))).find? (fun e => e.2.flag .marker)
  else match c.nextTok with
    | some (src, t) => if t.flag .marker then some (src, t) else none
    | none => none

/-- A marker is taken (R374): the first freezes its unit; one of a context that is not being saved passes untouched. -/
def State.takeMarker (s : State) (x : Site) (src : Source) (t : Tok) : State :=
  let s1 := s.modCell x (fun c =>
    let c1 := if c.spat.on then c.popPort src else c.takeTok src
    { c1 with pipe := { c1.pipe with matchAt := s.cycle + 1 } })
  if (s.ctx t.ctx).pre.phase ≠ 1 then s1
  else
    let s2 := if (s1.cell x).frz.units.contains t.ctx then s1 else s1.freeze x t.ctx
    s2.mark_ x t.ctx t.side.toNat

/-- An access that a unit need not wait for (R374, R375, R419): it has parked, as it or its firing did, or is held, or is behind
one that has, or waits in a comparator; or it has ended. DEDUCED (assumption 53). -/
def State.settledAcc (s : State) (a : Access) : Bool :=
  a.over || a.st == .parked || a.st == .migr || a.st == .held || a.st == .barrier || a.st == .compare
    || a.st == .check || (a.st == .wait && !s.sendable a (s.chainOf a).1 (s.accsOf (s.chainOf a).2))

/-- Everything a unit waits for has come (R374, R375): its markers, its tokens on the way out, its answers, its queries.
DEDUCED (assumption 53). -/
def State.unitDone (s : State) (ctx res : Nat) : Bool :=
  let x := unitSite ctx res
  let c := s.cell x
  let mine (l : List Tok) : Bool := l.any (fun t => t.ctx == ctx)
  c.frz.units.contains ctx && c.frz.marked.contains (ctx, chanSent)
    && (s.channels ctx res).all (fun k => c.frz.marked.contains (ctx, k))
    && !(mine c.miss || mine c.pipe.selfq || mine c.pipe.p0 || mine c.pipe.p1 || mine c.pipe.p2 || mine c.pipe.p3)
    && !c.pipe.deps.any (fun d => d.ctx == ctx) && !(s.answersTo x).any (fun d => d.ctx == ctx)
    && !s.msys.accs.any (fun a => a.x == x && a.ctx == ctx && !s.settledAcc a)
    && !c.stores.any (fun k => k.ctx == ctx && (k.hold.isSome || !k.queue.isEmpty))
    && !s.agenda.any (fun a => match a with
      | .refire id => s.parked.any (fun p => p.id == id && p.f.x == x && p.f.ent.ctx == ctx)
      | _ => false)

/-- Noted of a unit whose save is complete and traced. -/
def chanSaved : Nat := 2 ^ 22

/-- Channel tokens and answers recorded at a unit. -/
def Cell.recorded (c : Cell) (ctx : Nat) : Nat :=
  (c.frz.chan.filter (fun e => e.1 == ctx)).length + ((c.frz.resp.filter (fun d => d.ctx == ctx)).map (fun d => d.toks.length)).foldl (· + ·) 0

/-- A unit's SAVE or RESTORE record (R345). -/
def State.traceUnit (s : State) (x : Site) (ctx code n : Nat) : State :=
  let ev : Event := { code := code, tenant := (s.ctx ctx).tenant, ctx := ctx, arg := n, xt := true }
  s.traceCell x ev

/-- The engines and networks hold nothing of a context that must still move (R304, R327, R339, R210). DEDUCED
(assumption 53). -/
def State.enginesDone (s : State) (ctx : Nat) : Bool :=
  s.dies.all (fun e => !e.2.net.mesh.any (fun p => p.of ctx) && !e.2.net.tracks.any (fun t => t.tok.ctx == ctx)
      && !e.2.eng.lops.any (fun o => o.ctx == ctx) && !e.2.recfgs.any (fun r => r.ctx == ctx)
      && !e.2.eng.copies.any (fun c => c.ctx == ctx && !c.flight.isEmpty)
      && !e.2.eng.walks.any (fun w => w.f.ent.ctx == ctx && w.walker.isSome && w.state == .finish))
    && !s.msys.reqs.any (fun r => r.tok.ctx == ctx && r.st != .parked)
    && (s.ctx ctx).inj.isEmpty && (s.ctx ctx).pre.marks.isEmpty

/-- A cell's share of a context (R375). -/
def Cell.share (c : Cell) (ctx : Nat) : Cell :=
  let dir := c.dir.filter (fun e => e.ctx == ctx)
  { dir := dir, slots := c.slots.filter (fun p => dir.any (fun e => e.base ≤ p.1 && p.1 < e.base + e.size))
    ready := c.ready.filter (fun e => e.ctx == ctx), stores := c.stores.filter (fun k => k.ctx == ctx)
    lbs := c.lbs.filter (fun w => w.ctx == ctx), escape := c.escape.filter (fun e => e.tok.ctx == ctx)
    mt := c.mt, score := c.score.filter (fun e => e.ctx == ctx)
    spat := { on := c.spat.on, busy := [], inner := c.spat.inner.filter (fun e => e.2.2.ctx == ctx)
              binds := c.spat.binds.filter (fun e => e.2.2.1.ctx == ctx) } }

/-- A cell without its share of a context: frames, slots and queue entries are free (R375). -/
def Cell.without (c : Cell) (ctx : Nat) : Cell :=
  let gone := c.dir.filter (fun e => e.ctx == ctx)
  { c with
    dir := c.dir.filter (fun e => e.ctx != ctx)
    slots := c.slots.filter (fun p => !gone.any (fun e => e.base ≤ p.1 && p.1 < e.base + e.size))
    ready := c.ready.filter (fun e => e.ctx != ctx), stores := c.stores.filter (fun k => k.ctx != ctx)
    lbs := c.lbs.filter (fun w => w.ctx != ctx), escape := c.escape.filter (fun e => e.tok.ctx != ctx)
    score := c.score.filter (fun e => e.ctx != ctx)
    spat := { c.spat with inner := c.spat.inner.filter (fun e => e.2.2.ctx != ctx)
                          binds := c.spat.binds.filter (fun e => e.2.2.1.ctx != ctx) }
    frz := { c.frz with marked := c.frz.marked.filter (fun m => m.1 != ctx) } }

/-- The lines in progress of a tile's LINE regions. -/
def State.lineBytes (s : State) (x : Site) : List Byte :=
  ((List.range 4).map (fun k => if (s.cell x).mt.mode k = 2 then s.bytes (lineBase x k) ((s.cell x).mt.size k) else [])).flatten

/-- What a unit saves (R375): its cell's share, and its MT where no other live context uses the site. DESIGN CHOICE
(assumption 10). -/
def State.savedUnit (s : State) (ctx res : Nat) : SavedUnit :=
  let x := unitSite ctx res
  let alone := !s.shared x ctx
  { x := x, cell := (s.cell x).share ctx
    mem := if alone then some (s.bytes (mtBase x) 65536, s.lineBytes x) else none
    pois := if alone then s.poison.filter (fun g => mtBase x / 32 ≤ g && g < mtBase x / 32 + 2048) else [] }

/-- A segment of a save area (R376): TYPE, unit, entries and contents. -/
structure Seg where
  type : Nat
  x    : Site
  n    : Nat
  body : List Byte

/-- A segment's header and padded contents (R376). -/
def Seg.bytes (g : Seg) (p : Nat × Nat) : List Byte :=
  leBytes 4 (g.type + g.x.die * 2 ^ 8 + p.1 * 2 ^ 10 + p.2 * 2 ^ 17) ++ leBytes 4 g.body.length ++ leBytes 4 g.n ++ leBytes 4 0 ++ g.body
    ++ List.replicate ((16 - g.body.length % 16) % 16) 0

/-- Fields packed from bit 0, in whole bytes. DEDUCED (assumption 38). -/
def packBits (l : List (Nat × Nat)) : List Byte :=
  let r := l.foldl (fun (a : Nat × Nat) p => (a.1 + p.1, a.2 + p.2 % 2 ^ p.1 * 2 ^ a.1)) (0, 0)
  leBytes ((r.1 + 7) / 8) r.2

/-- A frame slot: 64 bytes, its presence bit and its count (R391). DEDUCED (assumption 38). -/
def slotBytes (v : Option Slot) : List Byte :=
  match v with
  | some v => packBits [(512, v.tok.data.toNat), (1, 1), (8, v.cnt)]
  | none => packBits [(512, 0), (1, 0), (8, 0)]

/-- A frame directory entry (R14 Table 5). DEDUCED (assumption 38). -/
def dirBytes (e : Option DirEnt) : List Byte :=
  let pk (v b ctx blk tag depth base size x sd sp rd : Nat) : List Byte :=
    packBits [(1, v), (1, b), (14, ctx), (10, blk), (64, tag), (4, depth), (9, base), (5, size), (6, x), (32, sd), (32, sp), (32, rd)]
  match e with
  | some e => pk 1 e.bind.toNat e.ctx e.blk e.tag.toNat e.depth e.base (e.size - 1) e.xfired e.sdone.toNat e.spend.toNat e.ready.toNat
  | none => pk 0 0 0 0 0 0 0 0 0 0 0 0

/-- An LBOUND window (R201 Table 5). DEDUCED (assumption 38). -/
def winBytes (w : Option LbWin) : List Byte :=
  let pk (v l pfx b adm dn mk held : Nat) : List Byte :=
    packBits [(1, v), (4, l), (64, pfx), (32, b), (64, adm), (64, dn), (1, mk), (32, held)]
  match w with
  | some w => pk 1 w.lvl w.pfx.toNat w.base w.adm.toNat w.done.toNat w.mkh.isSome.toNat w.held
  | none => pk 0 0 0 0 0 0 0 0

/-- Contents of a segment of `n` entries whose layout the spec does not give (assumption 10). DESIGN CHOICE
(assumption 10). -/
def freeBody (tag type n : Nat) : List Byte :=
  (List.range (n * Config.saveSize type)).map (fun i => Config.freeByte (2 ^ 192 + (tag * 16 + type) * 2 ^ 64 + i))

/-- The segments of a unit (R376). DESIGN CHOICE (assumption 10). -/
def State.unitSegs (s : State) (ctx : Nat) (v : SavedUnit) : List Seg :=
  let tag := s.free + siteKey v.x * 2 ^ 64
  let c := s.cell v.x
  let seg (type n : Nat) (body : List Byte) : List Seg := if n = 0 then [] else [⟨type, v.x, n, body⟩]
  let open_ (type n : Nat) : List Seg := seg type n (freeBody tag type n)
  let chan := c.frz.chan.filter (fun e => e.1 == ctx)
  let resp := ((c.frz.resp.filter (fun d => d.ctx == ctx)).map (fun d => d.toks)).flatten
  let toks := chan.map (fun e => e.2.2.record ++ leBytes 8 e.2.1) ++ resp.map (fun t => t.record ++ leBytes 8 6)
  let accs := s.msys.accs.filter (fun a => a.x == v.x && a.ctx == ctx && !a.over)
  let parked := s.parked.filter (fun p => p.f.x == v.x && p.f.ent.ctx == ctx)
  let faults := (s.ctx ctx).pre.faults.filter (fun l => l.unit == siteUnit v.x)
  let dir := v.cell.dir.filter (fun e => !e.bind)
  let frame (e : DirEnt) : List Byte := dirBytes (some e) ++ ((List.range e.size).map (fun i => slotBytes (tget (e.base + i) v.cell.slots))).flatten
  let keys (k : KStore) : List (List Byte) :=
    match s.viewOf v.x k.ctx k.node with
    | some w => (s.keyEnts v.x k).map (fun e => e.bytes w.c.vvec k.kw)
    | none => []
  let ents := (v.cell.stores.map keys).flatten
  seg 1 dir.length (dir.map frame).flatten ++ open_ 2 v.cell.ready.length
    ++ open_ 3 ((v.cell.dir.filter (fun e => e.bind)).length + v.cell.spat.binds.length)
    ++ seg 4 toks.length toks.flatten ++ open_ 5 (accs.length + parked.length + faults.length)
    ++ seg 6 v.cell.escape.length ((v.cell.escape.map (fun e => e.tok.record)).flatten) ++ seg 7 v.cell.lbs.length ((v.cell.lbs.map (fun w => winBytes (some w))).flatten) ++ seg 8 ents.length ents.flatten
    ++ (match v.mem with
      | some (bs, _) => ((List.range 4).filter v.cell.mt.valid).map (fun k =>
          ⟨12, v.x, 1, (bs.drop (v.cell.mt.base k)).take (v.cell.mt.rsize k)⟩)
      | none => [])

/-- The segments of a context's engines and registers (R376). DESIGN CHOICE (assumption 10). -/
def State.engineSegs (s : State) (ctx : Nat) : List Seg :=
  let die := ctxDie ctx
  let e := (s.die die).eng
  let tag := s.free + 2 ^ 96
  let open_ (type n : Nat) : List Seg := if n = 0 then [] else [⟨type, ⟨die, 0⟩, n, freeBody tag type n⟩]
  open_ 9 (e.copies.filter (fun c => c.ctx == ctx)).length
    ++ open_ 10 ((e.islands.map (fun i => (i.2.slots.filter (fun k => k.ctx == ctx)).length)).foldl (· + ·) 0)
    ++ open_ 11 (e.walks.filter (fun w => w.f.ent.ctx == ctx)).length ++ open_ 13 1

/-- Recorded tokens and answers of a unit stand again ahead of later arrivals (R376, R377). DEDUCED (assumption 54). -/
def Cell.reinject (c : Cell) (ctx : Nat) : Cell :=
  let from_ (i : Nat) : List Tok := (c.frz.chan.filter (fun e => e.1 == ctx && (e.2.1 == i || (i = 4 && e.2.1 == 5)))).map (fun e => e.2.2)
  let p := c.pipe
  { c with
    pipe := { p with p0 := from_ 0 ++ p.p0, p1 := from_ 1 ++ p.p1, p2 := from_ 2 ++ p.p2, p3 := from_ 3 ++ p.p3
                     selfq := from_ 4 ++ p.selfq, ans := c.frz.resp.filter (fun d => d.ctx == ctx) ++ p.ans }
    frz := { c.frz with units := c.frz.units.filter (fun u => u != ctx), marked := c.frz.marked.filter (fun m => m.1 != ctx)
                        chan := c.frz.chan.filter (fun e => e.1 != ctx), resp := c.frz.resp.filter (fun d => d.ctx != ctx) } }

/-- The requesters of a pre-emption or restore are answered (R378). -/
def State.payPre (s : State) (ctx code : Nat) : State :=
  let owed := (s.ctx ctx).pre.owed
  let s1 := s.modCtx ctx (fun k => { k with pre := { k.pre with owed := [] } })
  owed.foldl (fun t o => t.pay o.1 { o.2 with toks := filledWith code o.2.toks }) s1

/-- A context goes on after a save was abandoned or a restore completed (R376, R377): its pending faults are taken again, answers
given meanwhile take effect, and firings that wait for nothing are replayed. -/
def State.goOn (s : State) (ctx : Nat) : State :=
  let k := s.ctx ctx
  let s1 := s.modCtx ctx (fun k => { k with st := .saved, pre := {}, trap := { k.trap with acks := [] } })
  let s2 := k.pre.faults.foldl (fun t l => t.takeFault l.unit l.fr l.what) s1
  let s3 := k.trap.acks.foldl (fun t a => match (t.ctx ctx).trap.opens.find? (fun o => o.seq == a.1) with
    | some o => t.answerRec ctx o a.2
    | none => t) s2
  if (s3.ctx ctx).st == .saved then (s3.modCtx ctx (fun k => { k with st := .stopped })).settle ctx else s3

/-- A save is abandoned (R376): every unit takes back what it recorded. DEDUCED (assumption 53). -/
def State.abortSave (s : State) (ctx : Nat) : State :=
  let s1 := (s.unitsOf ctx).foldl (fun t r => t.modCell (unitSite ctx r) (fun c => c.reinject ctx)) s
  (s1.payPre ctx 6).goOn ctx

/-- Bytes written through a context's handle. -/
def State.ctxWrite (s : State) (c h o : Nat) (bs : List Byte) : Put :=
  match s.spots (homeSite c) c h o bs.length true with
  | (.ok l, s1) => .done (s1.writeSpots l bs)
  | (.error b, s1) => s1.putBlocked c b

/-- What the islands hold of one context. -/
def Island.share (i : Island) (ctx : Nat) : Island :=
  { slots := i.slots.filter (fun k => k.ctx == ctx), tiles := i.tiles.filter (fun t => t.ctx == ctx)
    scales := i.scales.filter (fun t => t.ctx == ctx), notices := i.notices.filter (fun n => n.ctx == ctx)
    drains := i.drains.filter (fun n => n.ctx == ctx), scaleq := i.scaleq.filter (fun t => t.ctx == ctx)
    sspill := i.sspill.filter (fun t => t.1.ctx == ctx) }

/-- An island holds nothing. -/
def Island.bare (i : Island) : Bool :=
  i.slots.isEmpty && i.tiles.isEmpty && i.scales.isEmpty && i.notices.isEmpty && i.drains.isEmpty && i.scaleq.isEmpty && i.sspill.isEmpty

/-- A context is SAVED (R304, R327, R339, R375): what its units and engines hold of it moves to the save. -/
def State.saved (s : State) (ctx : Nat) (us : List SavedUnit) : State :=
  let die := ctxDie ctx
  let e := (s.die die).eng
  let isls := (e.islands.map (fun i => (i.1, i.2.share ctx))).filter (fun i => !i.2.bare)
  let copies := (e.copies.filter (fun c => c.ctx == ctx)).map (fun c => { c with state := .saved, flight := [] })
  let walks := (e.walks.filter (fun w => w.f.ent.ctx == ctx && w.walker.isSome)).map
    (fun w => { w with state := .saved, prev := if w.state == .fpark then w.prev else w.state })
  let s1 := us.foldl (fun t v => t.modCell v.x (fun c => c.without ctx)) s
  let s2 := s1.modEng die (fun e => { e with
    copies := e.copies.filter (fun c => c.ctx != ctx)
    walks := e.walks.filter (fun w => !(w.f.ent.ctx == ctx && w.walker.isSome))
    islands := e.islands.map (fun i => (i.1, i.2.discard ctx)) })
  let s3 := s2.modCtx ctx (fun k => { k with st := .saved
                                             pre := { k.pre with phase := 2, units := us, copies := copies, isls := isls, walks := walks } })
  -- a copy, walk or drain finds its page again when it goes on
  let stays (w : PageWait) : Bool := w.ctx != ctx || (match w.act with | .event (.pageWalk _) | .refire _ => true | _ => false)
  (s3.modMem (fun m => { m with waits := m.waits.filter stays })).payPre ctx 0

/-- Every unit and engine has saved (R375, R376): the save area is written and the context is SAVED, or the save is abandoned where it
would pass BOUND; a page of the area that is shared or in migration makes it wait (R248). DEDUCED (assumption 53). -/
def State.completeSave (s : State) (ctx : Nat) : State :=
  let us := (s.unitsOf ctx).map (s.savedUnit ctx)
  let segs := (us.map (s.unitSegs ctx)).flatten ++ s.engineSegs ctx
  let body := (segs.map (fun g => g.bytes (s.pos g.x))).flatten
  let h := (s.ctx ctx).saveh
  let head (st : Nat) : List Byte := leBytes 4 st ++ leBytes 4 (64 + body.length) ++ leBytes 4 segs.length ++ List.replicate 52 0
  let fits : Bool := match (s.ctxBound ctx h).1 with | .ok b => 64 + body.length ≤ b | .error b => b.waits
  let s0 := { s with free := s.free + 1 }
  match s0.ctxWrite ctx h 0 (if fits then head 1 ++ body else leBytes 4 2) with
  | .done s1 => if fits then s1.saved ctx us else s1.abortSave ctx
  | .wait s1 => s1
  | _ => s0.abortSave ctx

/-- The next thing a pre-emption does at a site for a context that is being saved: a unit that no source reaches freezes, a frozen one
sends its markers, a complete one is noted, and the last completes the save. DEDUCED (assumption 53). -/
def State.saveStep (s : State) (x : Site) (ctx : Nat) : Option State :=
  let c := s.cell x
  let units := s.unitsOf ctx
  -- an exchange under way completes first (R379)
  if s.swapping x then none
  else if !c.frz.units.contains ctx then
    (if (s.ctx ctx).srcs.isEmpty && units.contains x.res then some (s.freeze x ctx) else none)
  else if !c.frz.marked.contains (ctx, chanSent) then
    (if c.pipe.deps.any (fun d => d.ctx == ctx) then none else s.sendMarkers x ctx)
  else if !c.frz.marked.contains (ctx, chanSaved) then
    (if s.unitDone ctx x.res then some ((s.traceUnit x ctx 0x83 (c.recorded ctx)).mark_ x ctx chanSaved) else none)
  else if units.all (fun r => s.unitDone ctx r && (s.cell (unitSite ctx r)).frz.marked.contains (ctx, chanSaved)) && s.enginesDone ctx then
    some (s.completeSave ctx)
  else none

/-- MARKER_ARRIVAL (R374 to R376): the marker at the head of a site's channels is taken; with none there, the next thing the saves
under way do at that site. -/
def execMarkerArrival (x : Site) (s : State) : Host.Outcome State Fault Refusal :=
  let c := s.cell x
  match c.nextMarker with
  | some (src, t) => if s.cycle < c.pipe.matchAt || s.halted x t.ctx then .next s else .next (s.takeMarker x src t)
  | none =>
    let saving := (s.ctxs.filter (fun e => e.2.pre.phase == 1 && ctxDie e.1 == x.die)).map (fun e => e.1)
    match saving.findSome? (s.saveStep x) with
    | some s1 => .next s1
    | none =>
      -- a context without a site has nothing to save
      match saving.find? (fun k => (s.unitsOf k).isEmpty && s.enginesDone k) with
      | some k => .next (s.completeSave k)
      | none => .next s

/-- Saved directory entries placed in free frame slots (R375, R377): each with its base, the lowest run that fits. -/
def placeEnts : List (Nat × Nat) → List DirEnt → Option (List (DirEnt × Nat))
  | _, [] => some []
  | used, e :: t =>
    match findRun used e.size 384 0 with
    | none => none
    | some b => (placeEnts ((b, e.size) :: used) t).map (fun l => (e, b) :: l)

/-- The entries of a key store of FRAME residence placed in free frame slots. -/
def placeKeys (w : Nat) : List (Nat × Nat) → List KEnt → Option (List KEnt × List (Nat × Nat))
  | used, [] => some ([], used)
  | used, e :: t =>
    match findRun used w 384 0 with
    | none => none
    | some b => (placeKeys w ((b, w) :: used) t).map (fun r => ({ e with slot := b } :: r.1, r.2))

/-- The key stores of a unit placed again. -/
def placeStores : List (Nat × Nat) → List KStore → Option (List KStore × List (Nat × Nat))
  | used, [] => some ([], used)
  | used, k :: t =>
    if k.width = 0 then (placeStores used t).map (fun r => (k :: r.1, r.2))
    else match placeKeys k.width used k.ents with
      | none => none
      | some (es, u) => (placeStores u t).map (fun r => ({ k with ents := es } :: r.1, r.2))

/-- A cell with a saved share of a context back in place (R377); none where it has no room yet. -/
def Cell.regain (c : Cell) (v : Cell) : Option Cell :=
  match placeStores c.runs v.stores with
  | none => none
  | some (ks, used) =>
    match placeEnts used v.dir with
    | none => none
    | some l =>
      if c.dir.length + l.length > nDir || c.score.length + v.score.length > 16 || c.escape.length + v.escape.length > 8 then none
      else
        let moved (e : DirEnt × Nat) : List (Nat × Slot) :=
          (v.slots.filter (fun p => e.1.base ≤ p.1 && p.1 < e.1.base + e.1.size)).map (fun p => (p.1 - e.1.base + e.2, p.2))
        let slots := ((l.map moved).flatten).foldl (fun t p => tput p.1 p.2 t) c.slots
        some { c with
          dir := c.dir ++ l.map (fun e => { e.1 with base := e.2 }), slots := slots, ready := c.ready ++ v.ready, stores := c.stores ++ ks
          lbs := c.lbs ++ v.lbs, escape := c.escape ++ v.escape, score := c.score ++ v.score
          spat := { c.spat with inner := c.spat.inner ++ v.spat.inner, binds := c.spat.binds ++ v.spat.binds } }

/-- A unit restored at the pair that now holds its resident (R377). DESIGN CHOICE (assumption 10); DEDUCED
(assumption 54). -/
def State.restoreUnit (s : State) (ctx : Nat) (v : SavedUnit) : Option State :=
  match (s.cell v.x).regain v.cell with
  | none => none
  | some c =>
    let n := c.recorded ctx
    let s1 := s.setCell v.x (c.reinject ctx)
    let s2 := match v.mem with
      | none => s1
      | some (bs, ls) =>
        let put (p : State × List Byte) (k : Nat) : State × List Byte :=
          if v.cell.mt.mode k = 2 then (p.1.setBytes (lineBase v.x k) (p.2.take (v.cell.mt.size k)), p.2.drop (v.cell.mt.size k)) else p
        let t := ((List.range 4).foldl put (s1.setBytes (mtBase v.x) bs, ls)).1
        let t1 := { t with poison := v.pois ++ t.poison.filter (fun g => !(mtBase v.x / 32 ≤ g && g < mtBase v.x / 32 + 2048)) }
        t1.modCell v.x (fun c => { c with mt := { c.mt with regs := v.cell.mt.regs } })
    some (s2.traceUnit v.x ctx 0x84 n)

/-- All units restored, or none where one has no room. DEDUCED (assumption 54). -/
def State.restoreUnits (s : State) (ctx : Nat) : List SavedUnit → Option State
  | [] => some s
  | v :: t => (s.restoreUnit ctx v).bind (fun s1 => State.restoreUnits s1 ctx t)

/-- A saved copy back in a copy slot of its streamer (R304): FPARK if a fault is pending, else RUN; none where no slot is free.
DEDUCED (assumption 54). -/
def State.restoreCopy (s : State) (ctx : Nat) (c : Copy) : Option State :=
  let die := ctxDie ctx
  let k := s.ctx ctx
  let is (w : Resume) : Bool := w == .copy die c.id
  let held := k.trap.opens.any (fun o => is o.what) || k.pre.faults.any (fun l => is l.what) || s.latches.any (fun l => is l.what)
  let taken (i : Nat) : Bool := (s.die die).eng.copies.any (fun q => q.st == c.st && q.k == i)
    || (s.die die).eng.scans.any (fun q => q.1 == c.st && q.2.1 == i && s.cycle < q.2.2)
  match (c.k :: List.range 4).find? (fun i => !taken i) with
  | none => none
  | some i =>
    let st : CopySt := if held then .fpark else if c.began then .run else .start
    some (s.modEng die (fun e => { e with copies := e.copies ++ [{ c with k := i, state := st }] }))

/-- A saved walk back in a walker of its quad (R339); none where no walker is free. DEDUCED (assumption 54). -/
def State.restoreWalk (s : State) (ctx : Nat) (w : Walk) : Option State :=
  let die := ctxDie ctx
  let k := s.ctx ctx
  let is (r : Resume) : Bool := r == .walk die w.id
  let held := k.trap.opens.any (fun o => is o.what) || k.pre.faults.any (fun l => is l.what) || s.latches.any (fun l => is l.what)
  let taken (i : Nat) : Bool := (s.die die).eng.walks.any (fun q => q.quad == w.quad && q.walker == some i)
  match (w.walker.getD 0 :: List.range 4).find? (fun i => !taken i) with
  | none => none
  | some i => some (s.modEng die (fun e => { e with
      walks := e.walks ++ [{ w with walker := some i, state := if held then .fpark else w.prev }] }))

/-- A context's island state reinstated (R327); none where one of its command slots is in use, or a store has no room (R315).
DEDUCED (assumption 54). -/
def State.restoreIsl (s : State) (die : Nat) (p : Nat × Island) : Option State :=
  let i := s.island die p.1
  let v := p.2
  if v.slots.any (fun k => i.slots.any (fun q => q.n == k.n)) || i.tiles.length + v.tiles.length > 64
      || i.scales.length + v.scales.length > 64 then none
  else some (s.modIsl die p.1 (fun i => { slots := i.slots ++ v.slots, tiles := i.tiles ++ v.tiles, scales := i.scales ++ v.scales
                                          notices := v.notices ++ i.notices, drains := v.drains ++ i.drains
                                          scaleq := v.scaleq ++ i.scaleq, sspill := v.sspill ++ i.sspill }))

/-- A list of changes each of which may have to wait. -/
def allOf {α : Type} (f : State → α → Option State) : List α → State → Option State
  | [], s => some s
  | a :: t, s => (f s a).bind (allOf f t)

/-- The restore of a SAVED context (R377, R390): it waits for a STOP to be released, and for room. DEDUCED
(assumption 54). -/
def State.restoreNow (s : State) (ctx : Nat) : State :=
  let k := s.ctx ctx
  let bound := (s.die (ctxDie ctx)).tab.planes.any (fun p => p.idx == k.plane && p.bound.contains (k.slot, ctx))
  if k.st != .saved || k.pre.phase ≠ 3 || !bound || s.covered ctx then s
  else
    let r := (s.restoreUnits ctx k.pre.units).bind (fun s1 => (allOf (fun t c => t.restoreCopy ctx c) k.pre.copies s1).bind (fun s2 =>
      (allOf (fun t w => t.restoreWalk ctx w) k.pre.walks s2).bind (allOf (fun t i => t.restoreIsl (ctxDie ctx) i) k.pre.isls)))
    match r with
    | none => s
    | some s1 =>
      let back := (k.pre.units.map (fun v => v.cell.dir.map (fun e => (v.x, e.uid)))).flatten
      let s2 := (s1.payPre ctx 0).goOn ctx
      back.foldl (fun t e => t.retire e.1 (some e.2)) s2

/-- A request to restore a context (R377): of a SAVED one whose save is complete and whose plane slot is still bound.
DEDUCED (assumption 54). -/
def State.restore (s : State) (ctx : Nat) (owed : List (Site × Dep)) : State :=
  let k := s.ctx ctx
  let bound := (s.die (ctxDie ctx)).tab.planes.any (fun p => p.idx == k.plane && p.bound.contains (k.slot, ctx))
  if k.st != .saved || k.pre.phase ≠ 2 || !bound then s
  else (s.modCtx ctx (fun k => { k with pre := { k.pre with phase := 3, owed := k.pre.owed ++ owed } })).restoreNow ctx

/-- CTX_PRE_RESTORE (R377): a request, or a restore under way that may now find what it waited for. -/
def execCtxPreRestore (ctx : Nat) (who : Actor) (s : State) : Host.Outcome State Fault Refusal :=
  .next (if !s.mayPre ctx who then s
    else if (s.ctx ctx).pre.phase = 3 then s.restoreNow ctx
    else s.restore ctx [])

end Sys2Proof.Machine
end

