-- ==== Sys2Proof/Machine/TraceTime.lean ====
section
/-! DEFINITION. The Loupe trace fabric at its home (R347 to R351), time (R341 to R343), TREV and RDTIME (R355, R356). -/
namespace Sys2Proof.Machine

/-- ARG of a TREV record (R355). -/
def trevArg (c : TrevCtl) (a : Tok) : Nat :=
  match c.asrc with
  | 0 => c.imm
  | 1 => a.w64 % 2 ^ 16
  | _ => a.side.toNat % 2 ^ 16

/-- TREV (R355): one record, and A on both targets, formed as under R102. -/
def execTrev (h : Hdr) (c : TrevCtl) (s : State) : Host.Outcome State Fault Refusal :=
  s.firing (fun s f =>
    let a := f.op 0
    let o : Out := { sends := both h (fwdTok f h (usedBy f h) a false), ports := portsOf h, used := usedBy f h }
    let ev : Event :=
      { code := 0x20 + c.code, tenant := (s.ctx f.ent.ctx).tenant, ctx := f.ent.ctx, tag := f.ent.tag, depth := f.ent.depth,
        arg := trevArg c a, data := a.w32, xt := c.xt, psn := a.flag .poison, after := lastSent (usedBy f h) }
    s.fireWith f o (fun s => s.traceCell f.x ev))

/-- A cell's latest departure is that of an RDTIME, stamped as it takes S6 (R356). DESIGN CHOICE (assumption 66). -/
def Cell.timeDep (c : Cell) : Cell :=
  match c.pipe.deps.getLast? with
  | some d => { c with pipe := { c.pipe with deps := c.pipe.deps.dropLast ++ [{ d with home := 1 }] } }
  | none => c

/-- RDTIME (R356): A is a join. A token that goes to a latch of its own SPATIAL cell carries the time of its firing. -/
def execRdtime (h : Hdr) (s : State) : Host.Outcome State Fault Refusal :=
  s.firing (fun s f =>
    let t := newTok f h (usedBy f h) none .s64 false 0
    let o : Out := { sends := both h (timeTok (s.die f.x.die).loupe t), ports := portsOf h, used := usedBy f h }
    s.issue f o (fun s toks =>
      let n := (s.cell f.x).pipe.deps.length
      let s1 := s.depart f o.n toks
      if (s1.cell f.x).pipe.deps.length > n then s1.modCell f.x Cell.timeDep else s1))

/-- The watermark a die can report (R349): no record it accepts later has a time so low. -/
def Loupe.low (l : Loupe) : Nat := (l.queue ++ l.backlog).foldl (fun a q => Nat.min a q.2.time) l.time - 1

/-- TRACE_WATERMARK (R349): a die reports its watermark. DESIGN CHOICE (assumption 64). -/
def execTraceWatermark (die : Nat) (s : State) : Host.Outcome State Fault Refusal :=
  if !(s.die die).power.on then .next s
  else .next (s.modDie die (fun d => { d with loupe := { d.loupe with wmark := Nat.max d.loupe.wmark d.loupe.low } }))

/-- A record comes before another in the written stream (R349). -/
def TRec.before (a b : TRec) : Bool :=
  a.time < b.time || (a.time = b.time && (a.die < b.die || (a.die = b.die && a.seq < b.seq)))

/-- The first record of a list in the order of the stream. -/
def firstRec : List TRec → Option TRec
  | [] => none
  | a :: t => match firstRec t with
    | none => some a
    | some b => if b.before a then some b else some a

/-- Entries of a trace buffer (R350). -/
def TenBlk.room (b : TenBlk) : Nat := 2 ^ (b.sizel - 4)

/-- Every die that is up has reported a watermark of at least `t` (R349). DESIGN CHOICE (assumption 64). -/
def State.passed (s : State) (t : Nat) : Bool :=
  (List.range 4).all (fun d => !(s.die d).power.on || t ≤ (s.die d).loupe.wmark)

/-- Words stored at the physical address of a trace buffer, where that lies in HBM4E (R347, R350). -/
def State.traceStore (s : State) (pa : Nat) (ws : List W32) : State :=
  match paKind s.host.cxl pa with
  | .hbm _ => ((s.setBytes pa (wordBytes ws)).touchWrite pa 0).clearPoison pa (4 * ws.length)
  | _ => s

/-- A tenant's block with words replaced. -/
def TenBlk.set (b : TenBlk) (k v : Nat) : TenBlk := { b with w := b.w.set k (BitVec.ofNat 32 v) }

/-- A record stored at WP, which follows it; WRAPS counts the passes of a circular buffer's end (R350). -/
def State.tracePut (s : State) (t : Nat) (r : List W32) : State :=
  let b := s.ten t
  let n := b.room
  let wp := b.word 4
  let k := r.length / 4
  let s1 := s.traceStore (b.base + 16 * (wp % n)) r
  let b1 := b.set 4 ((wp + k) % 2 ^ 32)
  let b2 := if !b.stopMode && wp % n + k ≥ n then b1.set 6 ((b.word 6 + 1) % 2 ^ 32) else b1
  { s1 with tens := tput t b2 s1.tens }

/-- A record fits a tenant's buffer (R351): it is circular, or WP - RP plus the record's size is within its room. -/
def TenBlk.fits (b : TenBlk) (r : List W32) : Bool :=
  !b.stopMode || (b.word 4 + 2 ^ 32 - b.word 3) % 2 ^ 32 + r.length / 4 ≤ b.room

/-- A CLOCK or meta record made by the home die's Loupe unit for a tenant (R350, R351). DESIGN CHOICE (assumption
64). -/
def metaRec (home tenant code arg time : Nat) : List W32 :=
  Event.words { code := code, tenant := tenant, arg := arg, col := 3 * 32 + home, row := 0x7F } home time

/-- One record put into a tenant's buffer (R350, R351), after the PAD record that fills a lone slot before its end: whether it fits.
DESIGN CHOICE (assumption 64). -/
def State.traceOne (s : State) (t time : Nat) (r : List W32) : Bool × State :=
  let b := s.ten t
  let pad := metaRec b.home t 0xE1 0 time
  let s1 := if r.length / 4 = 2 && b.word 4 % b.room = b.room - 1 && b.fits pad then s.tracePut t pad else s
  let lone := r.length / 4 = 2 && (s1.ten t).word 4 % b.room = b.room - 1
  if lone || !(s1.ten t).fits r then (false, s1) else (true, s1.tracePut t r)

/-- A record of a tenant written by its home (R350, R351), each if it fits: EPOCH first where the high bits of TIME change, DROP
next where records have been lost, then the record itself. Whether that was written. DESIGN CHOICE (assumption 64). -/
def State.traceWrite (s : State) (t : Nat) (r : TRec) : Bool × State :=
  let b := s.ten t
  let epoch := r.time / 2 ^ 48 % 2 ^ 16
  let mark (s : State) (g : TenBlk → TenBlk) : State := { s with tens := tput t (g (s.ten t)) s.tens }
  let first : Bool × State := if b.epoch = some epoch then (true, s) else
    match s.traceOne t r.time (metaRec b.home t 0xC0 epoch r.time) with
    | (true, s1) => (true, mark s1 (fun b => { b with epoch := some epoch }))
    | p => p
  let next : Bool × State := if !first.1 || !b.lost then first else
    match first.2.traceOne t r.time (metaRec b.home t 0xE0 (Nat.min (b.word 5) 0xFFFF) r.time) with
    | (true, s1) => (true, mark s1 (fun b => { b with lost := false }))
    | p => p
  if !next.1 then next else next.2.traceOne t r.time r.ws

/-- TRACE_WRITE (R349 to R351): the home writes a tenant's next record once every die's watermark has passed it. A tenant that
is not enabled, or whose SIZEL names no buffer, has none written. DESIGN CHOICE (assumption 64). -/
def execTraceWrite (tenant : Nat) (s : State) : Host.Outcome State Fault Refusal :=
  let b := s.ten tenant
  let l := (s.die b.home).loupe.fwd
  match firstRec (l.filter (fun r => r.tenant == tenant)) with
  | none => .next s
  | some r =>
    let take (s : State) : State :=
      s.modDie b.home (fun d => { d with loupe := { d.loupe with fwd := ldrop (fun q => q == r) d.loupe.fwd } })
    if !b.en || b.sizel < 20 || b.sizel > 36 then .next (take s)
    else if !s.passed r.time then .next s
    else match s.traceWrite tenant r with
      | (true, s2) => .next (take s2)
      | (false, s2) =>
        if b.lossless then .next s2
        else
          let c := s2.ten tenant
          .next (take { s2 with tens := tput tenant { (c.set 5 (satAdd 32 (c.word 5) 1)) with lost := true } s2.tens })

/-- A CLOCK-class record of a die's Loupe unit goes to every enabled tenant (R346). -/
def State.traceClock (s : State) (die code arg : Nat) : State :=
  s.tens.foldl (fun t e => t.tracePeri die unitDie 3 0 { code := code, tenant := e.1, arg := arg }) s

/-- The state of the clocks of the dies that are up and that `which` picks becomes `st`, with a LOCK record where it changes
(R345). -/
def State.clockState (s : State) (which : Loupe → Bool) (st : Nat) : State :=
  (List.range 4).foldl (fun t d =>
    if !(t.die d).power.on || !which (t.die d).loupe || (t.die d).loupe.state = st then t
    else (t.modDie d (fun k => { k with loupe := { k.loupe with state := st } })).traceClock d 0xC1 st) s

/-- The first lock steps a die's clock forward to master time, with a STEP record (R342). DESIGN CHOICE (assumption 65). -/
def State.stepClock (s : State) (die time : Nat) : State :=
  if !(s.die die).power.on then s
  else (s.modDie die (fun d =>
    let e := d.clockTo time
    { e with loupe := { e.loupe with locked := true } })).traceClock die 0xC2 0

/-- The rate of a slewed clock: any within 200 ppm (R342). DESIGN CHOICE (assumption 65). -/
def slewRate (v : W64) : Nat := 40000000 - 8000 + v.toNat % 16001

/-- A state with every die's Loupe unit changed. -/
def State.allLoupes (s : State) (f : Loupe → Loupe) : State :=
  (List.range 4).foldl (fun t d => t.modDie d (fun k => { k with loupe := f k.loupe })) s

/-- PTP_MESSAGE (R342, R343): the engine's measurement. The first lock after the reset of a die steps every clock; afterwards they are
slewed, at a rate the spec leaves open within its bound, and never go back. DESIGN CHOICE (assumption 65). -/
def execPtpMessage (time : Nat) (offset : BitVec 16) (locked : Bool) (s : State) : Host.Outcome State Fault Refusal :=
  let s1 := s.allLoupes (fun l => { l with offs := offset })
  if !locked then .next (s1.clockState (fun l => l.state = 0) 1)
  else if (List.range 4).all (fun d => !(s.die d).power.on || (s.die d).loupe.locked) then
    let (v, s2) := s1.freeVal
    .next ((s2.allLoupes (fun l => { l with rate := slewRate v })).clockState (fun _ => true) 2)
  else .next (((List.range 4).foldl (fun (t : State) d => t.stepClock d time) s1).clockState (fun _ => true) 2)

/-- PTP_MASTER_LOSS (R342): STATE becomes HOLDOVER, and the clocks run on their last rate. A clock that has no master loses
none. DESIGN CHOICE (assumption 65). -/
def execPtpMasterLoss (s : State) : Host.Outcome State Fault Refusal := .next (s.clockState (fun l => l.state ≠ 0) 3)

end Sys2Proof.Machine
end

