-- ==== Sys2Proof/Machine/Registers.lean ====
section
/-! DEFINITION. The registers that software and the host read and write (R385 Table 9, R12, R66, R73, R80, R161, R221, R238, R242,
R254, R340, R343, R347, R365, R370, R378) and the host's tables (R409, R410). -/
namespace Sys2Proof.Machine

/-- Context states as CTX.STATE gives them (R161). -/
def CState.code : CState → Nat
  | .free => 0 | .loading => 1 | .running => 2 | .stopped => 3 | .saved => 4 | .ended => 5

/-- The statuses of R385. -/
inductive RegStatus where
  | ok | prot | fmtRange | busy | mismatch | full
  deriving DecidableEq, Repr

/-- Their codes (R385). -/
def RegStatus.code : RegStatus → Nat
  | .ok => 0 | .prot => 1 | .fmtRange => 3 | .busy => 4 | .mismatch => 5 | .full => 6

/-- Whether a context may use a register of the context `ctx` (R347, R378, R385). DEDUCED (assumption 30). -/
def State.mayReg (s : State) (by_ ctx : Nat) (c : SysCtl) (write : Bool) : Bool :=
  let zero := (s.ctx by_).tenant == 0
  match c.family with
  | 0 | 1 | 6 =>
    if c.family = 0 && c.index = 7 && write then c.other && by_ != ctx && s.handles by_ ctx
    else by_ == ctx || (c.other && s.handles by_ ctx)
  | 4 =>
    if 0x100 ≤ c.index then (s.ctx by_).tenant == c.index - 0x100 && (!write || c.part == 1)
    else !write || (zero && c.index != 3)
  | _ => !write || zero

/-- TRAP.FSTAT (R365 Table 4). -/
def State.fstat (s : State) (ctx : Nat) : Nat :=
  let t := (s.ctx ctx).trap
  (s.latches.any (fun l => l.fr.ctx == ctx)).toNat * 2 ^ 31 + t.dbg.toNat * 2 ^ 30 + t.sopen * 2 ^ 8 + t.last

/-- TRAP.DUALk of a context (R370 Table 5). -/
def State.dualReg (s : State) (ctx k : Nat) : Nat :=
  match (s.die (ctxDie ctx)).duals.find? (fun d => d.k == ctx * 8 + k) with
  | none => 0
  | some d => 2 ^ 31 + d.prim * 2 ^ 13 + d.shad
      + (match d.spare with | some sp => 2 ^ 63 + sp * 2 ^ 32 | none => 0)

/-- The CELL counters by index (R385). -/
def Counters.get (c : Counters) (k : Nat) : Nat :=
  match k with
  | 0 => c.dangle | 1 => c.nullmiss | 2 => c.spills | 3 => c.refills | 4 => c.packw | 5 => c.knan | 6 => c.psndrop | _ => c.cmiss

/-- A CELL counter set (R24). -/
def Counters.set (c : Counters) (k v : Nat) : Counters :=
  match k with
  | 0 => { c with dangle := v } | 1 => { c with nullmiss := v } | 2 => { c with spills := v } | 3 => { c with refills := v }
  | 4 => { c with packw := v } | 5 => { c with knan := v } | 6 => { c with psndrop := v } | _ => { c with cmiss := v }

/-- The 64 bits that a read of a register gives (R385). CELL registers are those of `x`, die registers of its die; `by_` is the
context whose firing reads, which is not quiescent. DESIGN CHOICE (assumption 5); DEDUCED (assumption 30). -/
def State.regRead (s : State) (x : Site) (ctx : Nat) (by_ : Option Nat) (c : SysCtl) : Nat :=
  let k := s.ctx ctx
  let d := s.die x.die
  let ce := s.cell x
  match c.family, c.index with
  | 0, 0 => k.st.code * 2 ^ 29 + (by_ != some ctx && s.quiescent ctx).toNat * 2 ^ 28 + k.tenant * 2 ^ 20 + k.prio * 2 ^ 15
  | 0, 1 => fld k.tl.toNat (64 * c.part) 64
  | 0, 2 => k.aflags.toNat
  | 0, 3 => k.amask.toNat
  | 0, 4 => k.prio
  | 0, 7 => k.pre.phase * 4
  | 0, _ => 0
  | 1, n => (k.fmt.getD n 0).toNat
  | 2, 8 => ce.mt.pwr
  | 2, 9 => ce.escape.length
  | 2, n => ce.ctr.get n
  | 3, 0 => d.herd.en.toNat + d.herd.inst % 4 * 2
  | 3, 1 => d.herd.period
  | 3, 2 => d.herd.minage
  | 3, 3 => d.herd.cool
  | 3, 4 => d.herd.gain
  | 3, 5 => d.herd.mapver
  | 3, 6 => d.herd.swaps
  | 3, _ => d.herd.skips
  | 4, 0 => d.loupe.time
  | 4, 1 => d.loupe.state * 2 ^ 30 + d.loupe.offs.toNat
  | 4, 2 => Config.skewBound
  | 4, 3 => s.host.ptp.toNat
  | 4, 4 => d.loupe.dropx
  | 4, 5 => d.loupe.holds
  | 4, n => (s.ten (n - 0x100)).word (2 * c.part) + (s.ten (n - 0x100)).word (2 * c.part + 1) * 2 ^ 32
  | 5, n => d.eng.aw.getD n 0
  | 6, 0 => s.fstat ctx
  | 6, 1 => k.trap.fport.toNat
  | 6, 2 => k.trap.wdog
  | 6, n => s.dualReg ctx (n - 0x10)
  | 7, 0 => d.rej.toNat
  | 7, _ => d.rejcnt
  | _, _ => 0

/-- Bits of LOUPE.TENt that a write of the host reaches, by word (R347 Table 4). -/
def tenMask (word : Nat) : Nat :=
  match word with
  | 0 => 0xFC00003F | 1 => 0xFFFFF000 | 2 => 0xFC0FFFFF | 3 => 0xFFFFFFFF | 5 => 0xFFFFFFFF | _ => 0

/-- A host write of a word of LOUPE.TENt (R347): refused whole where it would set a lossless stop-mode buffer below 64 MiB or a
SIZEL outside 20 to 36; EN 1 clears WP, LOST and WRAPS. DEDUCED (assumption 31). -/
def TenBlk.write (b : TenBlk) (word : Nat) (v : W32) : TenBlk :=
  if tenMask word = 0 then b
  else
    let n := b.set word (v.toNat &&& tenMask word)
    if (n.lossless && n.stopMode && n.sizel < 26) || (word = 2 && (n.sizel < 20 || 36 < n.sizel)) then b
    else if word = 0 && n.en then { ((n.set 4 0).set 5 0).set 6 0 with epoch := none, lost := false }
    else n

/-- Two residents hold a context's blocks at equal indices, with equal records (R370). DEDUCED (assumption 34). -/
def State.sameBlocks (s : State) (die ctx a b : Nat) : Bool :=
  let of (r : Nat) : List (Nat × List Rec) := ((s.cell ⟨die, r⟩).blks.filter (fun k => k.ctx == ctx)).map (fun k => (k.hdr, k.recs))
  !(of a).isEmpty && (of a).all (fun p => (of b).contains p) && (of b).all (fun p => (of a).contains p)

/-- The fields of a write of TRAP.DUALk (R370): VALID, PRIM, SHAD and the spare. DEDUCED (assumption 34). -/
def dualFields (v : Nat) : Bool × Nat × Nat × Option Nat :=
  (fld v 31 1 = 1, fld v 13 13, fld v 0 13, if fld v 63 1 = 1 then some (fld v 32 13) else none)

/-- The status of a write of TRAP.DUALk (R370): MISMATCH where the residents do not hold the same blocks or one stands in another
register, BUSY where the primary or the shadow, new or old, holds an instance of the context. DEDUCED (assumption
34). -/
def State.dualStatus (s : State) (ctx k v : Nat) : RegStatus :=
  let die := ctxDie ctx
  let (valid, prim, shad, spare) := dualFields v
  let named := prim :: shad :: spare.toList
  let others := (s.die die).duals.filter (fun d => d.k != ctx * 8 + k)
  let used := (others.map (fun d => d.prim :: d.shad :: d.spare.toList)).flatten
  let live (r : Nat) : Bool := (s.cell ⟨die, r⟩).dir.any (fun e => e.ctx == ctx && !e.bind)
  let old := match (s.die die).duals.find? (fun d => d.k == ctx * 8 + k) with
    | some d => [d.prim, d.shad]
    | none => []
  if valid && (named.eraseDups.length < named.length || named.any (fun r => nResidents ≤ r || used.contains r)
      || (shad :: spare.toList).any (fun r => !s.sameBlocks die ctx prim r)) then .mismatch
  else if ((if valid then [prim, shad] else []) ++ old).any live then .busy
  else .ok

/-- TRAP.DUALk written (R370): a comparator with nothing in it, or none. DEDUCED (assumption 34). -/
def State.dualWrite (s : State) (ctx k v : Nat) : State :=
  let (valid, prim, shad, spare) := dualFields v
  s.modDie (ctxDie ctx) (fun d => { d with
    duals := d.duals.filter (fun u => u.k != ctx * 8 + k)
      ++ (if valid then [{ k := ctx * 8 + k, ctx := ctx, prim := prim, shad := shad, spare := spare }] else []) })

/-- CTX.HINV (R238): the context's cached handle entries go, on every die. -/
def State.hinv (s : State) (ctx : Nat) : State :=
  s.modMem (fun m => { m with hcache := m.hcache.filter (fun h => h.ctx != ctx) })

/-- The bytes that a write of CTX.TLBINV covers (R254): none for all of the tenant's. -/
def invRange (v : Nat) : Option (Nat × Nat) :=
  let size := fld v 0 4
  if fld v 63 1 = 1 || 12 ≤ size then none
  else some ((fld v 32 25 * 2 ^ 32 + fld v 12 20 * 4096) / pageBytes size * pageBytes size, pageBytes size)

/-- A page overlaps what a write of CTX.TLBINV covers. DEDUCED (assumption 35). -/
def invHits (r : Option (Nat × Nat)) (va size : Nat) : Bool :=
  match r with
  | none => true
  | some (a, n) => va < a + n && a < va + pageBytes size

/-- CTX.TLBINV (R254): tenant `ten` is the writer's, whose translations of the page drop everywhere; the write has performed
once every access that carries one has. `owed` is the answer a SYSWR awaits. DEDUCED (assumption 35). -/
def State.tlbinv (s : State) (ctx ten v : Nat) (owed : Option (Site × Dep)) : State :=
  let r := invRange v
  let out := s.msys.accs.filter (fun a => !a.over && (s.ctx a.ctx).tenant == ten && a.pages.any (fun p => invHits r p.va p.size))
  let s1 := s.modMem (fun m => { m with tlb := m.tlb.filter (fun t => !(t.tenant == ten && invHits r t.va t.size)) })
  { s1 with host := { s1.host with tlbinv := s1.host.tlbinv ++ [(ctx, ten, out.map (fun a => a.id), owed)] } }

/-- CELL.MTPWR (R242): each field but 3 asks for a state of its bank, once the accesses and sectors accepted by the tile have
performed. DEDUCED (assumption 33). -/
def State.mtpwr (s : State) (x : Site) (v : Nat) : State :=
  let ids := (s.msys.accs.filter (fun a => a.x == x && a.space == .mt && a.st == .sent)).map (fun a => a.sseq)
    ++ (((s.die x.die).eng.copies.filter (fun c => c.x == x)).map (fun c => c.flight.map (fun f => f.2))).flatten
  let asks := ((List.range 8).filter (fun k => fld v (2 * k) 2 ≠ 3)).map (fun k => (k, some (fld v (2 * k) 2), ids))
  s.modCell x (fun c => { c with mt := { c.mt with pend := c.mt.pend ++ asks } })

/-- LOUPE.PTP as a write of the host leaves it (R343). -/
def ptpWrite (old : W32) (v : Nat) : W32 :=
  let keep (lo w : Nat) : Nat := fld old.toNat lo w
  let domain := if fld v 24 8 < 128 then fld v 24 8 else keep 24 8
  let transport := if fld v 2 2 < 3 then fld v 2 2 else keep 2 2
  BitVec.ofNat 32 (domain * 2 ^ 24 + transport * 4 + v % 4)

/-- The status of a register write for which the rights have been checked (R73, R370, R378, R385). DEDUCED
(assumption 31). -/
def State.regStatus (s : State) (ctx : Nat) (c : SysCtl) (v : Nat) : RegStatus :=
  match c.family with
  | 0 =>
    if c.index ≠ 7 then .ok
    else
      let k := s.ctx ctx
      let live := k.st == .running || k.st == .stopped
      if v % 4 = 1 && (k.pre.phase = 1 || k.pre.phase = 3) then .busy
      else if v % 4 = 1 && !live then .ok
      else if v % 4 = 2 && k.pre.phase ≠ 2 then .busy
      else .ok
  | 1 => if fmtValid (fmtWord v) then .ok else .fmtRange
  | 6 => if 0x10 ≤ c.index then s.dualStatus ctx (c.index - 0x10) v else .ok
  | _ => .ok

/-- A register write of status OK, but for CTX.TLBINV and CTX.PRE, which end later: read-only fields stay, reserved bits read zero
(R12, R24, R66, R73, R80, R221, R242, R340, R343, R350, R365, R369, R385). DEDUCED (assumption 31). -/
def State.regWrite (s : State) (x : Site) (ctx : Nat) (c : SysCtl) (v : Nat) : State :=
  let mc (f : Ctx → Ctx) : State := s.modCtx ctx f
  let mt (f : TrapSt → TrapSt) : State := s.modCtx ctx (fun k => { k with trap := f k.trap })
  let mh (f : HerdRegs → HerdRegs) : State := s.modDie x.die (fun d => { d with herd := f d.herd })
  match c.family, c.index with
  | 0, 1 => mc (fun k => { k with tl := tlMask (k.tl.toNat - fld k.tl.toNat (64 * c.part) 64 * 2 ^ (64 * c.part) + v % 2 ^ 64 * 2 ^ (64 * c.part)) })
  | 0, 2 => mc (fun k => { k with aflags := BitVec.ofNat 32 (v % 128) })
  | 0, 3 => mc (fun k => { k with amask := BitVec.ofNat 32 (v % 128) })
  | 0, 4 => mc (fun k => { k with prio := v % 32 })
  | 0, 5 => s.hinv ctx
  | 0, _ => s
  | 1, n => mc (fun k => { k with fmt := k.fmt.set n (fmtWord v) })
  | 2, 8 => s.mtpwr x v
  | 2, 9 => s
  | 2, n => s.modCell x (fun e => { e with ctr := e.ctr.set n (v % 2 ^ 48) })
  | 3, 0 => mh (fun h => { h with en := v % 2 = 1 })
  | 3, 1 => mh (fun h => { h with period := if v % 2 ^ 16 = 0 then h.period else v % 2 ^ 16 })
  | 3, 2 => mh (fun h => { h with minage := v % 256 })
  | 3, 3 => mh (fun h => { h with cool := v % 256 })
  | 3, 4 => mh (fun h => { h with gain := v % 2 ^ 24 })
  | 3, 6 => mh (fun h => { h with swaps := v % 2 ^ 48 })
  | 3, 7 => mh (fun h => { h with skips := v % 2 ^ 48 })
  | 3, _ => s
  | 4, 3 => { s with host := { s.host with ptp := ptpWrite s.host.ptp v } }
  | 4, 4 => s.modDie x.die (fun d => { d with loupe := { d.loupe with dropx := v % 2 ^ 48 } })
  | 4, 5 => s.modDie x.die (fun d => { d with loupe := { d.loupe with holds := v % 2 ^ 48 } })
  | 4, n => if 0x100 ≤ n && c.part = 1 then { s with tens := tput (n - 0x100) ((s.ten (n - 0x100)).set 3 (v / 2 ^ 32 % 2 ^ 32)) s.tens } else s
  | 5, n => s.modDie x.die (fun d => { d with eng := { d.eng with aw := d.eng.aw.set n (v % 2 ^ 48) } })
  | 6, 0 => mt (fun t => { t with dbg := fld v 30 1 = 1 })
  | 6, 1 => mt (fun t => { t with fport := BitVec.ofNat 32 (v / 8 * 8) })
  | 6, 2 => mt (fun t => { t with wdog := v % 2 ^ 32, idle := 0 })
  | 6, n => s.dualWrite ctx (n - 0x10) v
  | 7, 0 => if fld v 31 1 = 0 then s.modDie x.die (fun d => { d with rej := 0 }) else s
  | 7, _ => s.modDie x.die (fun d => { d with rejcnt := v % 2 ^ 32 })
  | _, _ => s

/-- The context whose register a SYSRD or SYSWR means (R385). DEDUCED (assumption 30). -/
def regCtx (f : Firing) (c : SysCtl) : Nat := if c.other then fld (f.op 0).w64 0 14 else f.ent.ctx

/-- SYSRD (R385): the value, with its status in SIDE. DEDUCED (assumption 30). -/
def execSysrd (h : Hdr) (c : SysCtl) (s : State) : Host.Outcome State Fault Refusal :=
  s.firing (fun s f =>
    let ctx := regCtx f c
    let ok := s.mayReg f.ent.ctx ctx c false
    let v := if ok then s.regRead f.x ctx (some f.ent.ctx) c else 0
    let t := newTok f h (usedBy f h) none .s64 false (BitVec.ofNat 512 v)
    s.fire f { sends := both h { t with side := if ok then 0 else 1 }, ports := portsOf h, used := usedBy f h })

/-- SYSWR (R385): the write, and its status, which leaves once the write has performed: for CTX.TLBINV when the accesses it waits for
have (R254), for CTX.PRE when the request has ended (R378). DEDUCED (assumption 30). -/
def execSyswr (h : Hdr) (c : SysCtl) (s : State) : Host.Outcome State Fault Refusal :=
  s.firing (fun s f =>
    let ctx := regCtx f c
    let v := (f.op 1).w64
    let tok (r : RegStatus) : Tok := (newTok f h (usedBy f h) none .z32 false (BitVec.ofNat 512 r.code)).setFlag .complete true
    let r := if s.mayReg f.ent.ctx ctx c true then s.regStatus ctx c v else .prot
    if r ≠ .ok then s.fire f { sends := both h (tok r), ports := portsOf h, used := usedBy f h }
    else if c.family = 0 && c.index = 6 then s.later f h (tok .ok) (fun s w => s.tlbinv ctx (s.ctx f.ent.ctx).tenant v (some (f.x, w)))
    else if c.family = 0 && c.index = 7 && v % 4 = 1 && ((s.ctx ctx).st == .running || (s.ctx ctx).st == .stopped) then
      s.later f h (tok .ok) (fun s w => s.preempt ctx [(f.x, w)])
    else if c.family = 0 && c.index = 7 && v % 4 = 2 then s.later f h (tok .ok) (fun s w => s.restore ctx [(f.x, w)])
    else s.fireWith f { sends := both h (tok .ok), ports := portsOf h, used := usedBy f h } (fun s => s.regWrite f.x ctx c v))

/-- A write by the host, or by a context that may make it, as a SYSWR of that context does (R385, R409). -/
def State.write (s : State) (who : Actor) (x : Site) (ctx : Nat) (c : SysCtl) (v : Nat) : State :=
  let may := match who with
    | .host => true
    | .ctx b => s.mayReg b ctx c true
  if may && s.regStatus ctx c v = .ok then s.regWrite x ctx c v else s

/-- The control fields that name a register of another context. -/
def regOf (family index : Nat) : SysCtl := ⟨family, index, 0, true⟩

/-- FMT_WRITE (R73). DESIGN CHOICE (assumption 32). -/
def execFmtWrite (ctx k : Nat) (v : W32) (who : Actor) (s : State) : Host.Outcome State Fault Refusal :=
  .next (s.write who (homeSite ctx) ctx (regOf 1 k) v.toNat)

/-- CTX_HINV (R238). DESIGN CHOICE (assumption 32). -/
def execCtxHinv (ctx : Nat) (who : Actor) (s : State) : Host.Outcome State Fault Refusal :=
  .next (s.write who (homeSite ctx) ctx (regOf 0 5) 0)

/-- CTX_TLBINV (R254). DESIGN CHOICE (assumption 32). -/
def execCtxTlbinv (ctx : Nat) (v : W64) (who : Actor) (s : State) : Host.Outcome State Fault Refusal :=
  match who with
  | .host => .next (s.tlbinv ctx (s.ctx ctx).tenant v.toNat none)
  | .ctx b => .next (if s.mayReg b ctx (regOf 0 6) true then s.tlbinv ctx (s.ctx b).tenant v.toNat none else s)

/-- TRAP_DUAL_WRITE (R370): a register of a context of that die. DESIGN CHOICE (assumption 32). -/
def execTrapDualWrite (die k : Nat) (v : W64) (ctx : Nat) (who : Actor) (s : State) : Host.Outcome State Fault Refusal :=
  .next (if ctxDie ctx = die && k < 8 then s.write who (homeSite ctx) ctx (regOf 6 (0x10 + k)) v.toNat else s)

/-- PLANE_REJ_CLEAR (R66). DESIGN CHOICE (assumption 32). -/
def execPlaneRejClear (die : Nat) (v : W32) (who : Actor) (s : State) : Host.Outcome State Fault Refusal :=
  .next (s.write who ⟨die, 0⟩ 0 (regOf 7 0) v.toNat)

/-- CELL_MTPWR_WRITE (R242). DESIGN CHOICE (assumption 32). -/
def execCellMtpwrWrite (x : Site) (v : W32) (who : Actor) (s : State) : Host.Outcome State Fault Refusal :=
  .next (s.write who x 0 (regOf 2 8) v.toNat)

/-- A write of one word of LOUPE.TENt (R347): the host writes any field, a context only the RP of its own tenant.
DEDUCED (assumption 31). -/
def State.tenWrite (s : State) (tenant word : Nat) (v : W32) (who : Actor) : State :=
  match who with
  | .host => { s with tens := tput tenant ((s.ten tenant).write word v) s.tens }
  | .ctx b =>
    if (s.ctx b).tenant = tenant && word = 3 then { s with tens := tput tenant ((s.ten tenant).set 3 v.toNat) s.tens } else s

/-- LOUPE_TEN_WRITE (R347). DESIGN CHOICE (assumption 32). -/
def execLoupeTenWrite (tenant word : Nat) (v : W32) (who : Actor) (s : State) : Host.Outcome State Fault Refusal :=
  .next (s.tenWrite tenant word v who)

/-- A register whose write is an event of its own. DESIGN CHOICE (assumption 32). -/
def regSpecial (c : SysCtl) : Bool :=
  match c.family with
  | 0 => 5 ≤ c.index
  | 1 => true
  | 2 => c.index == 8
  | 4 => 0x100 ≤ c.index
  | 6 => 0x10 ≤ c.index
  | 7 => c.index == 0
  | _ => false

/-- REGISTER_WRITE (R385): a register that has no event of its own. DESIGN CHOICE (assumption 32). -/
def execRegisterWrite (x : Site) (ctx : Nat) (c : SysCtl) (v : W64) (who : Actor) (s : State) : Host.Outcome State Fault Refusal :=
  .next (if regSpecial c then s else s.write who x ctx c v.toNat)

/-- A host table of a die changed. -/
def State.modTab (s : State) (die : Nat) (f : Tables → Tables) : State := s.modDie die (fun d => { d with tab := f d.tab })

/-- An entry of a table set, or cleared. DEDUCED (assumption 36). -/
def tset {α : Type} (k : Nat) (v : Option α) (t : Table α) : Table α :=
  match v with
  | some a => tput k a t
  | none => tdel k t

/-- A host table write (R409): an entry replaced whole; one that names what its table does not have acts as if not valid (R410).
DEDUCED (assumption 36). -/
def State.tableWrite (s : State) (w : TableWrite) : State :=
  match w with
  | .ptroot die tenant pa => if die < 4 && tenant < 256 then s.modTab die (fun t => { t with ptroot := tput tenant pa t.ptroot }) else s
  | .cowRing die tenant size base log2 head tail =>
    if die < 4 && tenant < 256 && size < 6 then
      s.modTab die (fun t => { t with pools := tput (tenant * 8 + size) ⟨base, log2, head, tail⟩ t.pools })
    else s
  | .sdmOwner die g tenant => if die < 4 && g < 12288 then s.modTab die (fun t => { t with sdmOwn := tset g tenant t.sdmOwn }) else s
  | .planeOwner die p tenant => if die < 4 && p < 64 then s.modTab die (fun t => { t with plOwn := tset p tenant t.plOwn }) else s
  | .cxlWindow k base len die valid =>
    if k < 64 then
      { s with host := { s.host with cxl := tset k (if valid && die < 4 then some (base, len, die) else none) s.host.cxl } }
    else s
  | .metaBase pa => { s with host := { s.host with meta_ := pa } }
  | .portal die q w0 w1 w2 => if die < 4 && q < 256 then s.modTab die (fun t => { t with portals := tput q ⟨w2, w1, w0⟩ t.portals }) else s
  | .remoteWindow k w0 => if k < 256 then { s with host := { s.host with remote := tput k w0 s.host.remote } } else s
  | .exportRow k dev tenant valid =>
    if k < 256 then { s with host := { s.host with exports := tset k (if valid then some (dev, tenant) else none) s.host.exports } } else s
  | .deviceNumber n => if n < 2 ^ 19 then { s with host := { s.host with dev := n } } else s
  | .tlbinvRead ctx =>
    -- it returns once every earlier write of the host to the register has performed (R254)
    if s.host.tlbinv.any (fun e => e.1 == ctx && e.2.2.2.isNone) then s
    else { s with host := { s.host with reads := s.host.reads ++ [List.replicate 8 0] } }
  | .loupePtp v => { s with host := { s.host with ptp := ptpWrite s.host.ptp v.toNat } }
  | .loupeTen tenant word v => if tenant < 256 && word < 8 then s.tenWrite tenant word v .host else s
  | .powerCap watts => if 1200 ≤ watts && watts ≤ 3000 then { s with host := { s.host with cap := watts } } else s

/-- BAR0_TABLE_WRITE (R409, R410); a module in RECOVERY takes none (R412). DEDUCED (assumption 36). -/
def execBar0TableWrite (t : TableWrite) (s : State) : Host.Outcome State Fault Refusal :=
  .next (if s.mgmt.recovery then s else s.tableWrite t)

end Sys2Proof.Machine
end

