-- ==== Sys2Proof/Machine/Debug.lean ====
section
/-! DEFINITION. The debug port (R387 to R392), the channel counters it reads (R393) and the Chamois walker (R394). -/
namespace Sys2Proof.Machine

/-- The statuses of R387 Table 2. -/
inductive DbgStatus where
  | ok | prot | invalid | live | noPower | drained
  deriving DecidableEq, Repr

/-- Their codes. -/
def DbgStatus.code : DbgStatus → Nat
  | .ok => 0 | .prot => 1 | .invalid => 2 | .live => 3 | .noPower => 4 | .drained => 5

/-- OP of a request (R387). -/
def dbgOp (r : DebugReq) : Nat := fld r.w0.toNat 28 4
/-- GRAN of a request. -/
def dbgGran (r : DebugReq) : Nat := fld r.w0.toNat 26 2
/-- DIE of a request. -/
def dbgDie (r : DebugReq) : Nat := fld r.w0.toNat 24 2
/-- COL and ROW of a request. -/
def dbgPos (r : DebugReq) : Nat × Nat := (fld r.w0.toNat 17 7, fld r.w0.toNat 10 7)
/-- OBJ of a request. -/
def dbgObj (r : DebugReq) : Nat := fld r.w1.toNat 24 8
/-- CTX of a request. -/
def dbgCtx (r : DebugReq) : Nat := fld r.w1.toNat 0 14

/-- A request is well formed (R387 Table 1). DEDUCED (assumption 37). -/
def dbgFits (r : DebugReq) : Bool :=
  dbgOp r ≤ 5 && dbgGran r ≤ 2 && fld r.w0.toNat 0 10 == 0 && fld r.w1.toNat 14 10 == 0

/-- The resident at the position a request names, none where no pair stands there. -/
def State.dbgSite (s : State) (r : DebugReq) : Option Site :=
  (rankAt (dbgPos r)).map (fun k => ⟨dbgDie r, s.residentAt (dbgDie r) k⟩)

/-- A request answered (R387): its status and data stand with the host. -/
def State.dbgAnswer (s : State) (k : Nat) (c : DbgStatus) (data : List Byte) : State :=
  { s with host := { s.host with debug := s.host.debug ++ [(k, c.code, data)] } }

/-- A request served: it has a number, and one of another OP is another event's. A module in RECOVERY serves none (R412).
DEDUCED (assumption 37). -/
def State.dbgServe (s : State) (op : Nat) (r : DebugReq) (k : State → Nat → State) : State :=
  if s.mgmt.recovery then s
  else
    let n := s.host.nextReq
    let s1 := { s with host := { s.host with nextReq := n + 1 } }
    if !dbgFits r then s1.dbgAnswer n .invalid []
    else if dbgOp r ≠ op then s
    else k s1 n

/-- A context is in use. -/
def State.live (s : State) (c : Nat) : Bool := (s.ctx c).st != .free && (s.ctx c).st != .ended

/-- The contexts in use on a die. -/
def State.liveOn (s : State) (die : Nat) : List Nat :=
  (s.ctxs.filter (fun e => ctxDie e.1 == die && s.live e.1)).map (fun e => e.1)

/-- A tenant may act on what these contexts own (R387). -/
def State.dbgMay (s : State) (tenant : Nat) (owners : List Nat) : Bool :=
  tenant == 0 || owners.all (fun c => (s.ctx c).tenant == tenant)

/-- What a STOP or RESUME names (R388). -/
inductive DbgSet where
  | site (x : Site) | ctx (c : Nat) | die (d : Nat)
  deriving DecidableEq, Repr

/-- The set of a request, none where its position or context names nothing. DEDUCED (assumption 37). -/
def State.dbgSet (s : State) (r : DebugReq) : Option DbgSet :=
  match dbgGran r with
  | 0 => (s.dbgSite r).map .site
  | 1 => if s.live (dbgCtx r) then some (.ctx (dbgCtx r)) else none
  | _ => some (.die (dbgDie r))

/-- The contexts that occupy a set. -/
def State.dbgOwners (s : State) : DbgSet → List Nat
  | .site x => (s.cell x).ctxs
  | .ctx c => [c]
  | .die d => s.liveOn d

/-- STOP set or released on a set (R388, R390): a context STOP and a die STOP move the contexts' states, a site STOP does not. -/
def State.setStop (s : State) (d : DbgSet) (on : Bool) : State :=
  match d with
  | .site x => s.modCell x (fun c => { c with frz := { c.frz with stop := on } })
  | .ctx c => (s.modCtx c (fun k => { k with dstop := on })).settle c
  | .die n => (s.liveOn n).foldl (fun t c => t.settle c) (s.modDie n (fun e => { e with stop := on }))

/-- A pre-emption held under a STOP begins when no STOP covers its context any more (R390). -/
def State.beginHeld (s : State) (c : Nat) : State :=
  if (s.ctx c).pre.held && !s.covered c then s.beginSave c else s

/-- STOP, STOP+DRAIN or RESUME checked, then done (R387, R388, R390). DEDUCED (assumption 37). -/
def State.dbgStop (s : State) (r : DebugReq) (n : Nat) (k : State → DbgSet → State) : State :=
  match s.dbgSet r with
  | none => s.dbgAnswer n .invalid []
  | some d => if s.dbgMay r.tenant (s.dbgOwners d) then k s d else s.dbgAnswer n .prot []

/-- DEBUG_STOP (R388). -/
def execDebugStop (r : DebugReq) (s : State) : Host.Outcome State Fault Refusal :=
  .next (s.dbgServe 0 r (fun s n => s.dbgStop r n (fun s d => (s.setStop d true).dbgAnswer n .ok [])))

/-- DEBUG_STOP_DRAIN (R389): a STOP whose answer waits for the drain. -/
def execDebugStopDrain (r : DebugReq) (s : State) : Host.Outcome State Fault Refusal :=
  .next (s.dbgServe 1 r (fun s n => s.dbgStop r n (fun s d =>
    let s1 := s.setStop d true
    { s1 with host := { s1.host with waits := s1.host.waits ++ [⟨n, r⟩] } })))

/-- DEBUG_RESUME (R390): the STOP of that granularity is released. -/
def execDebugResume (r : DebugReq) (s : State) : Host.Outcome State Fault Refusal :=
  .next (s.dbgServe 2 r (fun s n => s.dbgStop r n (fun s d =>
    let s1 := s.setStop d false
    ((s1.dbgOwners d).foldl (fun t c => t.beginHeld c) s1).dbgAnswer n .ok [])))

/-- Work of a context from a site belongs to a set (R388). -/
def DbgSet.has (d : DbgSet) (x : Site) (c : Nat) : Bool :=
  match d with
  | .site y => x == y
  | .ctx k => c == k
  | .die n => x.die == n

/-- Nothing that a set had begun is under way (R389): copies, those of pages among them, walks, island drains, and accesses that have
neither completed nor parked, or that only wait to be sent. DEDUCED (assumption 41). -/
def State.isDrained (s : State) (d : DbgSet) : Bool :=
  let inDie (e : Engines) : Bool :=
    e.copies.any (fun c => d.has c.x c.ctx && c.state == .run)
      || e.walks.any (fun w => d.has w.f.x w.f.ent.ctx && w.walker.isSome && w.state != .fpark && w.state != .saved)
      || e.islands.any (fun i => i.2.drains.any (fun q => d.has q.x q.ctx && q.bank.isSome && !q.parked))
  !s.dies.any (fun e => inDie e.2.eng)
    && !s.msys.accs.any (fun a => d.has a.x a.ctx && (a.st == .leaving || a.st == .walk || a.st == .sent || a.st == .barrier || a.st == .home
      || (a.st == .wait && s.sendable a (s.chainOf a).1 (s.accsOf (s.chainOf a).2))))
    && !s.msys.reqs.any (fun q => d.has q.x q.tok.ctx && q.st == .sent)
    && !s.msys.cows.any (fun w => d.has ((w.init.bind s.actSite).getD (homeSite w.ctx)) w.ctx)

/-- DRAINED (R389): the answer to request `k`. DEDUCED (assumption 41). -/
def execDrained (k : Nat) (s : State) : Host.Outcome State Fault Refusal :=
  match s.host.waits.find? (fun w => w.k == k) with
  | none => .next s
  | some w =>
    let s1 := { s with host := { s.host with waits := s.host.waits.filter (fun v => v.k != k) } }
    match s.dbgSet w.req with
    | none => .next (s1.dbgAnswer k .drained [])
    | some d => .next (if s.isDrained d then s1.dbgAnswer k .drained [] else s)

/-- What a debug read finds: its owners, its bytes, and whether power is missing. -/
structure DbgData where
  owners : List Nat
  bytes  : List Byte
  dark   : Bool := false

/-- A token as a debug read gives it (R159); an empty place reads as zeros. -/
def tokData (t : Option Tok) : DbgData :=
  match t with
  | some t => ⟨[t.ctx], t.record, false⟩
  | none => ⟨[], List.replicate 32 0, false⟩

/-- The tokens that stand in a channel of a resident (R186, R391): ports 0 to 3, and the router port 4. -/
def State.chanToks (s : State) (x : Site) (port : Nat) : List Tok :=
  if port < 4 then (s.cell x).pipe.port port
  else
    let q := s.pos x
    ((s.die x.die).net.mesh.filter (fun p => p.ddie == x.die && p.res == x.res && p.col == q.1 && p.row == q.2)).filterMap
      (fun p => match p.body with | .tok t => some t | _ => none)

/-- The header record of a block (R60). -/
def Blk.head (b : Blk) : Rec :=
  let n := b.recs.length - 1
  ⟨BitVec.ofNat 32 (b.exits * 64 + (b.fsize - 1) * 2 + n / 16), BitVec.ofNat 32 (n % 16 * 2 ^ 28 + b.pmbase * 2 ^ 18 + b.prio * 2 ^ 13),
    b.stores⟩

/-- The block that stands in node memory over an index, its header included. -/
def Cell.blkOver (c : Cell) (n : Nat) : Option Blk := c.blks.find? (fun b => b.present && b.hdr ≤ n && n ≤ b.hdr + b.recs.length)

/-- The bytes of a record (R48). -/
def recBytes (r : Rec) : List Byte := wordBytes [r.w0, r.w1, r.w2]

/-- Frame slot `i` (R391). DEDUCED (assumption 38). -/
def Cell.dbgSlot (c : Cell) (i : Nat) : DbgData :=
  match tget i c.slots with
  | some v => ⟨[v.tok.ctx], slotBytes (some v), false⟩
  | none => ⟨(c.dir.filter (fun e => e.base ≤ i && i < e.base + e.size)).map (fun e => e.ctx), slotBytes none, false⟩

/-- Frame directory entry `i` (R14 Table 5). DEDUCED (assumption 38). -/
def Cell.dbgDir (c : Cell) (i : Nat) : DbgData := ⟨(c.dir[i]?).toList.map (fun e => e.ctx), dirBytes c.dir[i]?, false⟩

/-- Ready-queue entry at a position of the queue order (R165, R391). DEDUCED (assumption 38). -/
def Cell.dbgReady (c : Cell) (i : Nat) : DbgData :=
  match (c.ready.foldr insEnt [])[i]? with
  | some e => ⟨[e.ctx], packBits [(10, e.node), (14, e.ctx), (64, e.tag.toNat), (5, e.level), (64, e.time), (13, e.wait)], false⟩
  | none => ⟨[], packBits [(10, 0), (14, 0), (64, 0), (5, 0), (64, 0), (13, 0)], false⟩

/-- Channel counters (R393 Table 4). DEDUCED (assumption 38). -/
def State.dbgChan (s : State) (x : Site) (port : Nat) : DbgData :=
  let v := (s.die x.die).chan x.res port
  ⟨(s.cell x).ctxs, packBits [(64, v.1), (64, v.2.1), (64, v.2.2)], false⟩

/-- Range-scoreboard entry `i` (R240 Table 4). DEDUCED (assumption 38). -/
def Cell.dbgScore (c : Cell) (i : Nat) : DbgData :=
  let pk (v d ctx sp die a n : Nat) : List Byte := packBits [(1, v), (1, d), (14, ctx), (2, sp), (2, die), (57, a), (32, n)]
  match c.score[i]? with
  | some e => ⟨[e.ctx], pk 1 e.dst.toNat e.ctx e.space e.die e.addr e.len, false⟩
  | none => ⟨[], pk 0 0 0 0 0 0 0, false⟩

/-- Node record `i` (R48). DEDUCED (assumption 38). -/
def Cell.dbgRec (c : Cell) (i : Nat) : DbgData :=
  match c.blkOver i with
  | some b => ⟨[b.ctx], recBytes (if i = b.hdr then b.head else b.recAt (i - b.hdr - 1)), false⟩
  | none => ⟨[], List.replicate 12 0, false⟩

/-- LBOUND window `i % 8` of the record at node `i / 8` (R201 Table 5), of a context. DEDUCED (assumption 38). -/
def Cell.dbgWin (c : Cell) (ctx i : Nat) : DbgData :=
  ⟨[ctx], winBytes ((c.lbs.filter (fun w => w.ctx == ctx && w.node == i / 8))[i % 8]?), false⟩

/-- Key-store entry `i % 2^14` of the store at node `i / 2^14` (R137), of a context, from where it stands: in the cell, in its
tile or in memory (R135). None where a read of that memory would fault. DEDUCED (assumption 38). -/
def State.dbgKey (s : State) (x : Site) (ctx i : Nat) : Option DbgData :=
  let k := i % 2 ^ 14
  match s.viewOf x ctx (i / 2 ^ 14) with
  | none => some ⟨[ctx], [], false⟩
  | some v =>
    let zeros := List.replicate v.size (0 : Byte)
    let none_ := if v.k.fresh then some ⟨[ctx], zeros, false⟩ else none
    match v.c.res with
    | .frame => some ⟨[ctx], (match v.k.ents[k]? with | some e => e.bytes v.c.vvec v.k.kw | none => zeros), false⟩
    | .mtile =>
      if (k + 1) * v.size > 65536 then some ⟨[ctx], zeros, false⟩
      else if (banksOf (k * v.size) v.size).any (fun b => (s.cell x).mt.power b = 2) then some ⟨[ctx], [], true⟩
      else none_.orElse (fun _ => some ⟨[ctx], s.bytes (mtBase x + k * v.size) v.size, false⟩)
    | .stream =>
      none_.orElse (fun _ => match s.spots x ctx v.hndl (k * v.size) v.size false with
        | (.ok l, _) => some ⟨[ctx], (s.readSpots l).1, false⟩
        | (.error _, _) => none)

/-- Traffic-table entry `i` (R211 Table 1). DEDUCED (assumption 38). -/
def Cell.dbgTraffic (c : Cell) (i : Nat) : DbgData :=
  match c.herd.traf.getD i none with
  | some e => ⟨c.ctxs, packBits [(1, 1), (13, e.1), (24, e.2)], false⟩
  | none => ⟨c.ctxs, packBits [(1, 0), (13, 0), (24, 0)], false⟩

/-- The object of a site that a request names (R391 Table 3), none where INDEX names nothing. DEDUCED (assumption
38). -/
def State.dbgCell (s : State) (x : Site) (obj ctx i : Nat) : Option DbgData :=
  let c := s.cell x
  match obj with
  | 0x01 => if i < 384 then some (c.dbgSlot i) else none
  | 0x02 => if i < 64 then some (c.dbgDir i) else none
  | 0x03 => some (c.dbgReady i)
  | 0x04 => if i < 40 then some (tokData ((s.chanToks x (i / 8))[i % 8]?)) else none
  | 0x05 => if i < 40 && i % 8 == 0 then some (s.dbgChan x (i / 8)) else none
  | 0x06 => if i < 16 then some (c.dbgScore i) else none
  | 0x07 => if i < 1024 then some (c.dbgRec i) else none
  | 0x08 => if i < 8 then some (tokData ((c.escape[i]?).map (fun e => e.tok))) else if i < 24 then some (tokData (c.miss[i - 8]?)) else none
  | 0x09 => if i < 8192 then some (c.dbgWin ctx i) else none
  | 0x0A => if i < 2 ^ 24 then s.dbgKey x ctx i else none
  | 0x0B => if i < 8 then some (c.dbgTraffic i) else none
  | _ => none

/-- A unit is stopped, so that a read of it is exact (R388, R391): its site, its die, or every context at it.
DEDUCED (assumption 39). -/
def State.unitStopped (s : State) (x : Site) : Bool :=
  s.siteStop x || (s.die x.die).stop || (!(s.cell x).ctxs.isEmpty && (s.cell x).ctxs.all (fun c => s.stopped c))

/-- The units that reach a die's SDM are stopped: the die, or every context on it. DEDUCED (assumption 39). -/
def State.dieStopped (s : State) (die : Nat) : Bool :=
  (s.die die).stop || (!(s.liveOn die).isEmpty && (s.liveOn die).all (fun c => s.stopped c))

/-- A read answered (R391): zeros and PROT for what another tenant owns, LIVE where the unit runs. -/
def State.dbgGive (s : State) (n tenant : Nat) (d : DbgData) (stopped : Bool) : State :=
  if !s.dbgMay tenant d.owners then s.dbgAnswer n .prot (d.bytes.map (fun _ => 0))
  else s.dbgAnswer n (if d.dark then .noPower else if stopped then .ok else .live) d.bytes

/-- MT bytes of a tile (R392): a bank in retention wakes as an access wakes it; one that is off gives nothing. None where the range
leaves the tile. DEDUCED (assumption 39). -/
def State.dbgMt (s : State) (x : Site) (o n : Nat) : Option (Bool × State) :=
  if o + n > 65536 then none
  else
    let m := (s.cell x).mt
    let ks := banksOf o n
    if ks.any (fun k => m.power k = 2) then some (true, s)
    else some (false, (ks.filter (fun k => m.power k = 1)).foldl (fun t k => t.wake x k) s)

/-- SDM bytes of a die (R392): a gibibyte in retention wakes; one that is off does not power up. None where the range leaves the
SDM. DESIGN CHOICE (assumption 2); DEDUCED (assumption 39). -/
def State.dbgSdm (s : State) (die o n : Nat) : Option (Bool × State) :=
  if o + n > sdmSize then none
  else
    let gs := (List.range ((o + n - 1) / 2 ^ 30 - o / 2 ^ 30 + 1)).map (fun k => o / 2 ^ 30 + k)
    if gs.any (fun g => s.sdmPower die (g * 2 ^ 30) = 2) then some (true, s)
    else some (false, s.modDie die (fun d => { d with power := { d.power with
      sdm := d.power.sdm.filter (fun e => !(gs.contains e.1 && e.2 == 1)) } }))

/-- The physical bytes of 64 bytes of virtual memory of a context, none where the access would fault or wait (R391). -/
def State.dbgVirt (s : State) (ctx va : Nat) (write : Bool) : Option (List Nat × State) :=
  let x := homeSite ctx
  match s.lookRange x.die (s.pairOf x) (colCache (s.pos x).1) (s.ctx ctx).tenant write true 3 va 64 [] with
  | (.ok ps, s1) =>
    let l := (List.range 64).map (fun k => paOf ps (va + k))
    let ok := l.all (fun o => match o with
      | some pa => (match paKind s.host.cxl pa with
        | .hbm d => (s.die d).power.on
        | .cxl d => (s.die d).power.on
        | _ => false)
      | none => false)
    if ok then some (l.map (fun o => o.getD 0), s1) else none
  | _ => none

/-- VA of object 0x12. -/
def dbgVa (r : DebugReq) : Nat := r.w2.toNat + fld r.w3.toNat 0 25 * 2 ^ 32

/-- A READ (R391, R392). DEDUCED (assumption 39). -/
def State.dbgRead (s : State) (r : DebugReq) (n : Nat) : State :=
  let i := r.w2.toNat
  let len := r.w3.toNat
  let bad := s.dbgAnswer n .invalid []
  match dbgObj r with
  | 0x10 =>
    (match s.dbgSite r with
     | none => bad
     | some x =>
       if !s.dbgMay r.tenant (s.cell x).ctxs then s.dbgAnswer n .prot (List.replicate len 0)
       else match s.dbgMt x i len with
         | none => bad
         | some (dark, s1) =>
           s1.dbgGive n r.tenant ⟨[], if dark then [] else s.bytes (mtBase x + i) len, dark⟩ (s.unitStopped x))
  | 0x11 =>
    let die := dbgDie r
    if i + len > sdmSize then bad
    else if r.tenant ≠ 0 && !s.sdmOwned die i len r.tenant then s.dbgAnswer n .prot (List.replicate len 0)
    else match s.dbgSdm die i len with
      | none => bad
      | some (dark, s1) =>
        let (v, s2) := if dark then s1.freeVal else (0, s1)
        let bytes := if dark then (List.range len).map (fun k => Config.freeByte (v.toNat + k)) else s.bytes (sdmBase die + i) len
        s2.dbgGive n r.tenant ⟨[], bytes, dark⟩ (s.dieStopped die)
  | 0x12 =>
    let ctx := dbgCtx r
    if !s.live ctx then bad
    else if !s.dbgMay r.tenant [ctx] then s.dbgAnswer n .prot (List.replicate 64 0)
    else match s.dbgVirt ctx (dbgVa r) false with
      | none => bad
      | some (pas, _) => s.dbgGive n r.tenant ⟨[], pas.map (fun pa => s.byte pa), false⟩ (s.stopped ctx)
  | obj =>
    match s.dbgSite r with
    | none => bad
    | some x => match s.dbgCell x obj (dbgCtx r) i with
      | none => bad
      | some d => s.dbgGive n r.tenant d (s.unitStopped x)

/-- DEBUG_READ (R391, R392). -/
def execDebugRead (r : DebugReq) (s : State) : Host.Outcome State Fault Refusal :=
  .next (s.dbgServe 3 r (fun s n => s.dbgRead r n))

/-- A node record replaced through the loader (R65, R391): the block is judged with the new record; one that fails is not written, and
its context stops with CONFIG_REJECT. A KMATCH record that stays keeps its store. DEDUCED (assumption 39). -/
def State.dbgRecord (s : State) (x : Site) (b : Blk) (i : Nat) (new : Rec) : State :=
  let at_ (k : Blk) : Bool := k.ctx == b.ctx && k.hdr == b.hdr
  let head := if i = b.hdr then new else b.head
  let recs := if i = b.hdr then b.recs else b.recs.set (i - b.hdr - 1) new
  let raw : RawBlk := ⟨b.hdr, head, recs.take (recNrec head + 1), recNrec head + 1 == recs.length⟩
  let img : SiteImg := { x := x, p := s.pos x, spatial := b.spatial, mtr := (s.cell x).mt.mtr, blks := [raw],
                         pmap := [(4 * b.pmbase, b.pmap)], base := (s.cell x).pmap }
  let e := s.envOf img b.ctx [] (s.die x.die).net.routes [] (fun k => !at_ k)
  match (e.verdict 2 []).find? (fun v => v.1 == b.hdr) with
  | some v => s.rejectBlk x b.ctx v.2.1 v.2.2
  | none =>
    let n := { e.toBlk b.plane b.slot raw with present := b.present }
    let ks := e.stores raw
    let mine (k : KStore) : Bool := k.ctx == b.ctx && b.hdr < k.node && k.node ≤ b.hdr + b.recs.length
    s.modCell x (fun c => { c with
      blks := lmap at_ (fun _ => n) c.blks
      stores := c.stores.filter (fun k => !mine k || ks.any (fun q => q.node == k.node && q.kw == k.kw && q.width == k.width))
        ++ ks.filter (fun q => !c.stores.any (fun k => mine k && q.node == k.node && q.kw == k.kw && q.width == k.width)) })

/-- A WRITE (R391, R393): node records, the clearing of channel counters, and bytes of MT, SDM and virtual memory.
DEDUCED (assumption 39). -/
def State.dbgWrite (s : State) (r : DebugReq) (n : Nat) : State :=
  let i := r.w2.toNat
  let len := r.w3.toNat
  let bad := s.dbgAnswer n .invalid []
  let prot := s.dbgAnswer n .prot []
  let put (t : State) (a : Nat) : State := ((t.setBytes a r.data).clearPoison a len).dbgAnswer n .ok []
  match dbgObj r with
  | 0x05 =>
    (match s.dbgSite r with
     | none => bad
     | some x =>
       if i ≥ 40 || i % 8 ≠ 0 then bad
       else if !s.dbgMay r.tenant (s.cell x).ctxs then prot
       else (s.modDie x.die (fun d => { d with chans := tput (x.res * 8 + i / 8) (0, 0, 0) d.chans })).dbgAnswer n .ok [])
  | 0x07 =>
    (match s.dbgSite r with
     | none => bad
     | some x => match (s.cell x).blkOver i with
       | none => bad
       | some b =>
         if r.data.length ≠ 12 then bad
         else if !s.dbgMay r.tenant [b.ctx] then prot
         else (s.dbgRecord x b i (recAt r.data 0)).dbgAnswer n .ok [])
  | 0x10 =>
    (match s.dbgSite r with
     | none => bad
     | some x =>
       if r.data.length ≠ len then bad
       else if !s.dbgMay r.tenant (s.cell x).ctxs then prot
       else match s.dbgMt x i len with
         | none => bad
         | some (dark, s1) => if dark then s1.dbgAnswer n .noPower [] else put s1 (mtBase x + i))
  | 0x11 =>
    let die := dbgDie r
    if r.data.length ≠ len || i + len > sdmSize then bad
    else if r.tenant ≠ 0 && !s.sdmOwned die i len r.tenant then prot
    else (match s.dbgSdm die i len with
      | none => bad
      | some (dark, s1) => if dark then s1.dbgAnswer n .noPower [] else put s1 (sdmBase die + i))
  | 0x12 =>
    let ctx := dbgCtx r
    if r.data.length ≠ 64 || !s.live ctx then bad
    else if !s.dbgMay r.tenant [ctx] then prot
    else (match s.dbgVirt ctx (dbgVa r) true with
      | none => bad
      | some (pas, s1) =>
        let s2 := s1.writeSpots (pas.map .phys) r.data
        let s3 := ((pas.map (fun pa => pa / 128 * 128)).eraseDups).foldl (fun t pa => t.touchWrite pa 0) s2
        let s4 := ((pas.map (fun pa => pa / 8 * 8)).eraseDups).foldl (fun t pa => t.pteWritten pa 8) s3
        s4.dbgAnswer n .ok [])
  | _ => bad

/-- DEBUG_WRITE (R391, R393). -/
def execDebugWrite (r : DebugReq) (s : State) : Host.Outcome State Fault Refusal :=
  .next (s.dbgServe 4 r (fun s n => s.dbgWrite r n))

/-- Whom the start of a Chamois walk concerns: every context of the die, whose channels it samples (R394). DEDUCED
(assumption 42). -/
def State.chamoisStart (s : State) (r : DebugReq) (n : Nat) : State :=
  let w := r.w3.toNat
  match s.dbgSite r with
  | none => s.dbgAnswer n .invalid []
  | some x =>
    if w < 1024 || dbgObj r > 1 || r.w2.toNat ≥ 40 then s.dbgAnswer n .invalid []
    else if !s.dbgMay r.tenant (s.liveOn x.die) then s.dbgAnswer n .prot []
    else
      let d := s.die x.die
      let c : ChamoisSt :=
        { x := x, pos := r.w2.toNat, up := dbgObj r = 1, until_ := s.cycle + w, w := w, req := n
          base := (2 ^ 20, 0, d.idle) :: d.chans.map (fun e => (e.1, e.2.1, e.2.2.1)) }
      s.modDie x.die (fun d => { d with chamois := d.chamois ++ [c] })

/-- CHAMOIS (R394): the counters of the die are sampled; the die's one walker serves one request at a time. DEDUCED
(assumption 42). -/
def execChamois (r : DebugReq) (s : State) : Host.Outcome State Fault Refusal :=
  .next (if (s.die (dbgDie r)).chamois.isEmpty then s.dbgServe 5 r (fun s n => s.chamoisStart r n) else s)

/-- The change of a channel's FULL and EMPTY counters over the window (R394). -/
def Die.delta (d : Die) (c : ChamoisSt) (res port : Nat) : Nat × Nat :=
  let now := d.chan res port
  let was := match c.base.find? (fun e => e.1 == res * 8 + port) with
    | some e => e.2
    | none => match c.base.head? with
      | some e => e.2
      | none => (0, 0)
  (now.1 - was.1, now.2.1 - was.2)

/-- The residents whose route port a resident's route classes reach, each once, rising: its output channels (R394).
DEDUCED (assumption 42). -/
def Die.outputs (d : Die) (from_ : Nat) (residentAt : Nat → Nat) : List Nat :=
  let l := (d.net.routes.filter (fun e => e.dlv && fld e.w.w1.toNat 19 13 == from_)).filterMap
    (fun e => (rankAt (e.col, e.row)).map residentAt)
  (List.range nResidents).filter (fun r => l.contains r)

/-- The producer of a resident's route port: the lowest resident whose route classes reach it. DEDUCED (assumption
42). -/
def Die.producer (d : Die) (at_ : Nat) (residentAt : Nat → Nat) : Option Nat :=
  (List.range nResidents).find? (fun r => d.net.routes.any (fun e => e.dlv && fld e.w.w1.toNat 19 13 == r
    && (rankAt (e.col, e.row)).map residentAt == some at_))

/-- The first of a list with the largest delta. -/
def largest : List (Nat × Nat × Nat) → Option (Nat × Nat × Nat)
  | [] => none
  | e :: t => match largest t with
    | none => some e
    | some f => if e.2.2 < f.2.2 then some f else some e

/-- The channel that a walk chooses at a site (R394): resident, port and delta. DEDUCED (assumption 42). -/
def Die.choose (d : Die) (c : ChamoisSt) (site : Nat) (residentAt : Nat → Nat) : Option (Nat × Nat × Nat) :=
  if c.up then largest ((List.range 5).map (fun i => (site, i, (d.delta c site i).2)))
  else largest ((d.outputs site residentAt).map (fun r => (r, 3, (d.delta c r 3).1)))

/-- The walk from a site (R394): its hops, the site it ends at, and whether it met a site twice. DEDUCED (assumption
42). -/
def Die.chamoisWalk (d : Die) (c : ChamoisSt) (residentAt : Nat → Nat) :
    Nat → Nat → List Nat → List (Nat × Nat × Nat) → List (Nat × Nat × Nat) × Nat × Bool
  | 0, site, _, hops => (hops, site, false)
  | n + 1, site, seen, hops =>
    if seen.contains site then (hops, site, true)
    else match d.choose c site residentAt with
      | none => (hops, site, false)
      | some h =>
        let hops1 := hops ++ [h]
        if h.2.2 ≤ c.w / 2 then (hops1, site, false)
        else
          let next := if c.up then (if h.2.1 = 3 then d.producer site residentAt else none) else some h.1
          match next with
          | none => (hops1, site, false)
          | some r => Die.chamoisWalk d c residentAt n r (site :: seen) hops1

/-- CHAMOIS_WINDOW_END (R394): the walk and its report. A channel's consumer is the site whose channel it is.
DEDUCED (assumption 42). -/
def execChamoisWindowEnd (die : Nat) (s : State) : Host.Outcome State Fault Refusal :=
  match (s.die die).chamois with
  | [] => .next s
  | c :: rest =>
    if s.cycle < c.until_ then .next s
    else
      let d := s.die die
      let start := if !c.up then some c.x.res
        else if c.pos / 8 = 3 then d.producer c.x.res (s.residentAt die) else none
      let r := match start with
        | some site => d.chamoisWalk c (s.residentAt die) 64 site [] []
        | none => ([], c.x.res, false)
      let hop (h : Nat × Nat × Nat) : List W32 :=
        let p := s.pos ⟨die, h.1⟩
        [BitVec.ofNat 32 p.1, BitVec.ofNat 32 p.2, BitVec.ofNat 32 (8 * h.2.1), BitVec.ofNat 32 h.2.2]
      let e := s.pos ⟨die, r.2.1⟩
      let last : W32 := BitVec.ofNat 32 (r.2.2.toNat * 2 ^ 31 + e.1 * 2 ^ 14 + e.2 * 2 ^ 7 + r.1.length)
      let s1 := s.modDie die (fun d => { d with chamois := rest })
      .next (s1.dbgAnswer c.req .ok (wordBytes ((r.1.map hop).flatten ++ [last])))

end Sys2Proof.Machine
end

