-- ==== Sys2Proof/Machine/Loops.lean ====
section
/-! DEFINITION. The loop instructions LCARRY, LBOUND and MARK (R163, R199 to R202). -/
namespace Sys2Proof.Machine

/-- LCARRY (R199). -/
def execLcarry (h : Hdr) (level : Nat) (s : State) : Host.Outcome State Fault Refusal :=
  s.firing (fun s f =>
    if f.ent.alone.isSome then s.fire f (streamOut f h [h.t0, h.t1])
    else
      let tl := (s.ctx f.ent.ctx).tl
      let k := if level = 0 then f.ent.depth else level
      let p := s.firstPort f
      if k = 0 || k > f.ent.depth then s.refuse f .loopOrder 0 0
      else if (p = 0) != (lvl tl f.ent.tag k = 0) then s.refuse f .loopOrder 0 0
      else s.fire f (forwardOut f h [p] (f.op p) false [h.t0, h.t1]))

/-- The marker that MARK makes (R202). DEDUCED (assumption 24). -/
def markTok (tl : BitVec 96) (f : Firing) (h : Hdr) (level : Nat) : Tok :=
  Tok.setFlag { ctx := f.ent.ctx, depth := level - 1, tag := tagUpTo tl f.ent.tag (level - 1), ma := outMa h,
                pri := outPri f h, side := BitVec.ofNat 32 level } .streamEnd true

/-- MARK (R202): with PASS, A goes ahead of the marker on each target. Every target's tag action is evaluated on A and on
the marker before anything leaves. DEDUCED (assumption 24). -/
def execMark (h : Hdr) (level : Nat) (pass : Bool) (s : State) : Host.Outcome State Fault Refusal :=
  s.firing (fun s f =>
    let tl := (s.ctx f.ent.ctx).tl
    let k := if level = 0 then f.ent.depth else level
    let a := fwdTok f h (usedBy f h) (f.op 0) false
    if k = 0 || k > f.ent.depth then s.refuse f .tagOverflow 0 0
    else if (sendList tl f.x [.tok h.t0 a, .tok h.t1 a]).isNone then s.refuse f .tagOverflow 0 0
    else
      let m := markTok tl f h k
      let one (g : Target) : List Send := if pass then [.tok g a, .marker g m] else [.marker g m]
      s.fire f { sends := one h.t0 ++ one h.t1, ports := portsOf h, used := usedBy f h })

/-- Windows of an LBOUND record and prefix (R200). -/
def LbWin.is (w : LbWin) (ctx node lvl : Nat) (pfx : W64) : Bool :=
  w.ctx == ctx && w.node == node && w.lvl == lvl && w.pfx == pfx

/-- The newest open window of a prefix: a start token or marker belongs to it (R200). -/
def Cell.openWin (c : Cell) (ctx node lvl : Nat) (pfx : W64) : Option LbWin :=
  (c.lbs.filter (fun w => w.is ctx node lvl pfx && !w.closed)).getLast?

/-- Windows of one LBOUND record. -/
def Cell.winsOf (c : Cell) (ctx node : Nat) : Nat := (c.lbs.filter (fun w => w.ctx == ctx && w.node == node)).length

/-- The newest open window of a prefix replaced. -/
def setWin (l : List LbWin) (ctx node lvl : Nat) (pfx : W64) (v : Option LbWin) : List LbWin :=
  match l.reverse.findIdx? (fun w => w.is ctx node lvl pfx && !w.closed) with
  | none => (match v with | some w => l ++ [w] | none => l)
  | some i =>
    let k := l.length - 1 - i
    match v with
    | some w => l.set k w
    | none => l.take k ++ l.drop (k + 1)

/-- A window whose marker has been forwarded is freed once every admitted iteration has completed (R163). -/
def LbWin.finished (w : LbWin) : Bool := w.closed && (w.adm &&& ~~~ w.done) == 0

/-- The base advances over every consecutive completed iteration (R163). -/
def LbWin.advance : Nat → LbWin → LbWin
  | 0, w => w
  | n + 1, w =>
    if w.done.getLsbD 0 then LbWin.advance n { w with base := w.base + 1, adm := w.adm >>> 1, done := w.done >>> 1 } else w

/-- Iteration `i` of a window is admitted and not complete. -/
def LbWin.awaits (w : LbWin) (i : Nat) : Bool :=
  w.base ≤ i && i - w.base < 64 && w.adm.getLsbD (i - w.base) && !w.done.getLsbD (i - w.base)

/-- A completion marks the oldest window that awaits it (R200): the windows, or none where it is stray. -/
def iterComplete (ctx node lvl : Nat) (pfx : W64) (i : Nat) : List LbWin → Option (List LbWin)
  | [] => none
  | w :: t =>
    if w.is ctx node lvl pfx && w.awaits i then
      let w1 := LbWin.advance 64 { w with done := w.done ||| BitVec.ofNat 64 (2 ^ (i - w.base)) }
      some (if w1.finished then t else w1 :: t)
    else (iterComplete ctx node lvl pfx i t).map (fun r => w :: r)

/-- Another start token of a window's prefix stands in the ready queue behind the firing (R200). -/
def Cell.startsBehind (c : Cell) (tl : BitVec 96) (f : Firing) (lvl : Nat) (pfx : W64) : Bool :=
  c.ready.any (fun e => e.ctx == f.ent.ctx && e.node == f.ent.node && e.ord != f.ent.ord &&
    (match e.alone with
     | some t => t.port == 0 && !t.flag .streamEnd && t.depth == lvl && tagUpTo tl t.tag (lvl - 1) == pfx
     | none => false))

/-- The marker that LBOUND has held, as it is forwarded (R200): it keeps its own tag and priority. -/
def heldMarker (f : Firing) (h : Hdr) (m : Tok) : Tok :=
  { fwdTok f h [m] m false with tag := m.tag, depth := m.depth, pri := Nat.min 31 (m.pri + h.ofl.bump.toNat) }

/-- LBOUND's start token (R163, R200). -/
def State.lboundStart (s : State) (f : Firing) (h : Hdr) (k : Nat) (t : Tok) : State :=
  let tl := (s.ctx f.ent.ctx).tl
  let c := s.cell f.x
  let lv := t.depth
  if lv = 0 then s.refuse f .loopOrder 0 0
  else
    let i := lvl tl t.tag lv
    let pfx := tagUpTo tl t.tag (lv - 1)
    let open_ := c.openWin f.ent.ctx f.ent.node lv pfx
    if open_.isNone && c.winsOf f.ent.ctx f.ent.node ≥ 8 then
      -- a ninth window: the token waits in spill order
      match s.spill f.x f.hdr t false with
      | some s1 => s1.issue f { sends := [], ports := [], used := [t] } (fun s _ => s)
      | none => s.spillWait f.x t
    else
      let w := open_.getD ⟨f.ent.ctx, f.ent.node, lv, pfx, 0, 0, 0, none, 0, false⟩
      let put (s : State) (v : Option LbWin) : State :=
        s.modCell f.x (fun c => { c with lbs := setWin c.lbs f.ent.ctx f.ent.node lv pfx v })
      if i < w.base + k then
        let w1 := if w.base ≤ i then { w with adm := w.adm ||| BitVec.ofNat 64 (2 ^ (i - w.base)) } else w
        let last := w1.held = 0 && !c.startsBehind tl f lv pfx && !s.startsSpilled f.x f.ent.ctx f.ent.node lv pfx
        let sends := both h (fwdTok f h [t] t false)
        match w1.mkh with
        | some m =>
          if last then
            let w2 := { w1 with mkh := none, closed := true }
            s.issue f { sends := sends ++ [.marker h.t0 (heldMarker f h m), .marker h.t1 (heldMarker f h m)],
                        ports := [], used := [t] }
              (fun s toks => (put s (if w2.finished then none else some w2)).depart f 1 toks)
          else s.issue f { sends := sends, ports := [], used := [t] } (fun s toks => (put s (some w1)).depart f 1 toks)
        | none => s.issue f { sends := sends, ports := [], used := [t] } (fun s toks => (put s (some w1)).depart f 1 toks)
      else
        match s.spill f.x f.hdr t true with
        | some s1 =>
          s1.issue f { sends := [], ports := [], used := [t] }
            (fun s _ => put s (some { w with held := satAdd 32 w.held 1 }))
        | none => s.spillWait f.x t

/-- LBOUND's marker at port 0 (R163, R200): held while its window holds a start token or one of its prefix is still to be admitted,
else forwarded; where those wait for a ninth window, it waits behind them in spill order. DESIGN CHOICE (assumption 22). -/
def State.lboundMarker (s : State) (f : Firing) (h : Hdr) (t : Tok) : State :=
  let lv := fld t.side.toNat 0 4
  let c := s.cell f.x
  let put (s : State) (v : Option LbWin) : State :=
    s.modCell f.x (fun c => { c with lbs := setWin c.lbs f.ent.ctx f.ent.node lv t.tag v })
  let waits := s.startsSpilled f.x f.ent.ctx f.ent.node lv t.tag
  match c.openWin f.ent.ctx f.ent.node lv t.tag with
  | none =>
    if !waits then s.fire f (streamOut f h [h.t0, h.t1])
    else match s.spill f.x f.hdr t true with
      | some s1 => s1.issue f { sends := [], ports := [], used := [t] } (fun s _ => s)
      | none => s.spillWait f.x t
  | some w =>
    if w.held > 0 || waits then
      s.issue f { sends := [], ports := [], used := [t] } (fun s _ => put s (some { w with mkh := some t }))
    else
      let w1 := { w with closed := true }
      s.issue f (streamOut f h [h.t0, h.t1])
        (fun s toks => (put s (if w1.finished then none else some w1)).depart f 1 toks)

/-- LBOUND's completion token (R163, R200): a stray one counts in NULLMISS. -/
def State.lboundDone (s : State) (f : Firing) (t : Tok) : State :=
  let tl := (s.ctx f.ent.ctx).tl
  let lv := t.depth
  let i := lvl tl t.tag lv
  let r := if lv = 0 then none else iterComplete f.ent.ctx f.ent.node lv (tagUpTo tl t.tag (lv - 1)) i (s.cell f.x).lbs
  s.issue f { sends := [], ports := [], used := [t] } (fun s _ =>
    match r with
    | some l => s.modCell f.x (fun c => { c with lbs := l })
    | none => s.modCell f.x (fun c => { c with ctr := { c.ctr with nullmiss := satAdd 48 c.ctr.nullmiss 1 } }))

/-- LBOUND (R200): each arriving token is one firing. -/
def execLbound (h : Hdr) (km1 : Nat) (s : State) : Host.Outcome State Fault Refusal :=
  s.firing (fun s f =>
    let t := f.ent.alone.getD (f.op 0)
    if t.port = 0 then (if t.flag .streamEnd then s.lboundMarker f h t else s.lboundStart f h (km1 + 1) t)
    else s.lboundDone f t)

end Sys2Proof.Machine
end

