-- ==== Sys2Proof/Machine/Portals.lean ====
section
/-! DEFINITION. Portals (R403 to R405) and destinations that cannot be reached. -/
namespace Sys2Proof.Machine

/-- A token as it leaves a portal (R404): for the destination context and node of the entry, with its departure time where it goes to
another die (R349). DESIGN CHOICE (assumption 43). -/
def portalTok (r : Rec) (die time : Nat) (t : Tok) : Tok :=
  let ddie := fld r.w0.toNat 8 2
  { t with ctx := fld r.w2.toNat 18 14, kind := 0, die := ddie, site := fld r.w1.toNat 19 13, node := fld r.w1.toNat 9 10
           port := fld r.w1.toNat 7 2, sent := if ddie = die then t.sent else time }

/-- PORTAL_FORWARD (R404, R405): the head of a portal's queue leaves it. A marker is consumed; a token for another module leaves this
one, or waits while that module cannot be reached. DESIGN CHOICE (assumptions 7, 43). -/
def execPortalForward (die q : Nat) (s : State) : Host.Outcome State Fault Refusal :=
  match s.portal die q, (s.queue die q).toks with
  | some r, t :: rest =>
    let dev := fld r.w0.toNat 10 19
    let s1 := s.setQueue die q { s.queue die q with toks := rest }
    if t.flag .marker then .next s1
    else if dev ≠ s.host.dev then (if s.host.unreach.contains dev then .next s else .next s1)
    else
      let p : PortalTok :=
        { die := die, q := q, tenant := (s.ctx t.ctx).tenant, sctx := t.ctx, ddie := fld r.w0.toNat 8 2
          tok := portalTok r die (s.die die).loupe.time t }
      .next { s1 with host := { s1.host with portalq := s1.host.portalq ++ [p] } }
  | _, _ => .next s

/-- The tag of a token suits a context (R12, R404). DESIGN CHOICE (assumption 43). -/
def tagFits (tl : BitVec 96) (t : Tok) : Bool :=
  t.depth ≤ nlev tl && t.tag.toNat % 2 ^ lvlLo tl (nlev tl) == t.tag.toNat % 2 ^ lvlLo tl t.depth
    && !(t.flag .streamEnd && nlev tl < fld t.side.toNat 0 4)

/-- A token refused at the destination die (R404): its sender stops with DEST_INVALID. DESIGN CHOICE (assumption
43). -/
def State.portalRefused (s : State) (p : PortalTok) : State :=
  if (s.ctx p.sctx).st == .free || (s.ctx p.sctx).st == .ended then s
  else s.takeFault (engUnit p.die 3 97)
    (engRec p.die 3 (96 + p.die, 0x7F) 0 p.sctx 0x3FF p.tok.tag p.tok.depth .destInvalid p.q) .none

/-- PORTAL_ARRIVAL (R404, R405): token `k` of those that cross reaches its die, after the earlier tokens of its portal. It is
refused, or delivered, or written to the spill area of a context that is LOADING or SAVED. DESIGN CHOICE (assumption 43). -/
def execPortalArrival (k : Nat) (s : State) : Host.Outcome State Fault Refusal :=
  match s.host.portalq[k]? with
  | none => .next s
  | some p =>
    if (s.host.portalq.take k).any (fun e => e.die == p.die && e.q == p.q) then .next s
    else
      let s1 := { s with host := { s.host with portalq := s.host.portalq.take k ++ s.host.portalq.drop (k + 1) } }
      let c := s.ctx p.tok.ctx
      let x : Site := ⟨p.ddie, p.tok.site⟩
      if ctxDie p.tok.ctx ≠ p.ddie || c.st == .free || c.st == .ended || c.tenant ≠ p.tenant || !tagFits c.tl p.tok then
        .next (s1.portalRefused p)
      else if c.st == .running || c.st == .stopped then
        .next (s1.netSend p.ddie (linkCol p.die p.ddie, (s.pos x).2) 3 p.ddie p.tok.site (.tok p.tok))
      else
        let hdr := match (s.cell x).blkOf p.tok.ctx p.tok.node with | some b => b.hdr | none => 1023
        (match s1.spill x hdr p.tok false with
         | some s2 => .next s2
         | none => .next (s.spillWait x p.tok))

/-- UNREACHABLE_DESTINATION (R405): a module can no longer be reached, and the host is notified, or it can be again. -/
def execUnreachableDestination (dev : Nat) (reachable : Bool) (s : State) : Host.Outcome State Fault Refusal :=
  let rest := s.host.unreach.filter (fun d => d != dev)
  if reachable then .next { s with host := { s.host with unreach := rest } }
  else .next { s with host := { s.host with unreach := rest ++ [dev], notices := s.host.notices ++ [(1, dev)] } }

end Sys2Proof.Machine
end

