-- ==== Sys2Proof/Machine/Power.lean ====
section
/-! DEFINITION. The host's port (R408), boot and attestation (R412, R413), power (R414 to R416), repair (R310, R417) and the lifetime
data in flash (R396). -/
namespace Sys2Proof.Machine

/-- HOST_MEMORY_ACCESS (R408): the host reads or writes the HBM of dies that are up, through its HDM range. A write of a page-table
entry releases what waits for it (R250). DESIGN CHOICE (assumption 48). -/
def execHostMemoryAccess (pa : Nat) (write : Option (List Byte)) (len : Nat) (s : State) : Host.Outcome State Fault Refusal :=
  let n := match write with | some bs => bs.length | none => len
  if pa + n > 2 ^ 39 || s.mgmt.recovery || !(s.die (pa / 2 ^ 37)).power.on || !(s.die ((pa + n - 1) / 2 ^ 37)).power.on then .next s
  else match write with
    | none => .next { s with host := { s.host with reads := s.host.reads ++ [s.bytes pa len] } }
    | some bs =>
      let s1 := (s.setBytes pa bs).clearPoison pa n
      let lines := List.range ((pa + n - 1) / 128 - pa / 128 + 1)
      let s2 := lines.foldl (fun t k => t.touchWrite ((pa / 128 + k) * 128) 0) s1
      .next (s2.pteWritten pa n)

/-- LINK_TRAINING (R408): the host port at a width and a rate that PCIe 7.0 has. DESIGN CHOICE (assumption 48). -/
def execLinkTraining (width rate : Nat) (s : State) : Host.Outcome State Fault Refusal :=
  if [1, 2, 4, 8, 16].contains width && 1 ≤ rate && rate ≤ 7 then .next { s with host := { s.host with width := width, rate := rate } }
  else .next s

/-- A firmware image judged (R412): refused on a bad signature or a version below the fused minimum; accepted, it raises the minimum
where it asks to. Images are numbered in the order in which they are verified. DESIGN CHOICE (assumptions 4, 6, 44). -/
def Mgmt.verify (m : Mgmt) (i : Nat) (im : Nat × List Byte × List Byte × Bool) : Mgmt :=
  let least := (tget i m.fused).getD 0
  if !Config.sigOk (Config.vendorKey 0) im.2.1 im.2.2.1 || im.1 < least then { m with recovery := true }
  else { m with images := m.images ++ [im.2.1], fused := if im.2.2.2 then tput i im.1 m.fused else m.fused }

/-- Images verified in order, from number `i`. DESIGN CHOICE (assumption 44). -/
def Mgmt.verifyAll (m : Mgmt) : Nat → List (Nat × List Byte × List Byte × Bool) → Mgmt
  | _, [] => m
  | i, im :: t => Mgmt.verifyAll (m.verify i im) (i + 1) t

/-- POWER_UP (R412, R396): the management controller verifies the images, and the power cycle is counted. DESIGN
CHOICE (assumption 44). -/
def execPowerUp (images : List (Nat × List Byte × List Byte × Bool)) (s : State) : Host.Outcome State Fault Refusal :=
  if s.mgmt.up then .next s
  else
    let m0 := { s.mgmt with up := true, recovery := false, images := [], planeKey := [], launched := false
                            version := (images.headD (0, [], [], false)).1 }
    .next (({ s with mgmt := m0.verifyAll 0 images }).life lifeCycles 1)

/-- PLANE_KEY_INSTALL (R412): only before a context has launched. DESIGN CHOICE (assumptions 44, 48). -/
def execPlaneKeyInstall (key : List Byte) (s : State) : Host.Outcome State Fault Refusal :=
  if s.mgmt.recovery || s.mgmt.launched || key.length ≠ 64 then .next s
  else .next { s with mgmt := { s.mgmt with planeKey := key } }

/-- The lifetime total of uncorrectable errors (R396, R413). -/
def Mgmt.uncorrectable (m : Mgmt) : Nat :=
  (m.live.filter (fun e => 0x20000 ≤ e.1 && e.1 < 0x30000)).foldl (fun a e => satAdd 64 a e.2) 0

/-- The fields of a quote (R413 Table 3). DESIGN CHOICE (assumption 44). -/
def State.quoteBody (s : State) (nonce : List Byte) : List Byte :=
  let planes := (s.dies.map (fun e => e.2.tab.planes.map (fun p => p.image))).flatten
  let digests := (s.mgmt.images ++ [s.mgmt.planeKey] ++ planes).map Config.shake256
  nonce ++ leBytes 4 s.host.dev ++ leBytes 4 s.mgmt.version ++ digests.flatten ++ leBytes 8 s.mgmt.uncorrectable

/-- ATTESTATION_QUOTE (R413): the fields and their signature. DESIGN CHOICE (assumptions 4, 48). -/
def execAttestationQuote (nonce : List Byte) (s : State) : Host.Outcome State Fault Refusal :=
  if nonce.length ≠ 32 || s.mgmt.recovery then .next s
  else
    let b := s.quoteBody nonce
    .next { s with host := { s.host with quotes := s.host.quotes ++ [b ++ Config.sign b] } }

/-- The answer to a host request that has one: OK or BUSY. DESIGN CHOICE (assumption 45). -/
def State.hostAnswer (s : State) (r : RegStatus) : State :=
  { s with host := { s.host with reads := s.host.reads ++ [[BitVec.ofNat 8 r.code]] } }

/-- A die loses what power or a reset takes (R341, R414): its contexts, cells, SDM, MT and L2 slices, its planes and registers. The
host's tables, its retired sites and its buses stay. DESIGN CHOICE (assumption 45). -/
def State.clearDie (s : State) (die : Nat) (d : Die) : State :=
  let old := s.die die
  let here (k : Nat) : Bool := k / 8192 == die
  let wires (e : Nat × Cell) : Option (Nat × Cell) :=
    if !here e.1 then some e
    else if e.2.frz.wires = 72 then none else some (e.1, { frz := { wires := e.2.frz.wires } })
  let s1 := { s with
    cells := s.cells.filterMap wires
    ctxs := s.ctxs.filter (fun e => ctxDie e.1 != die)
    parked := s.parked.filter (fun p => ctxDie p.f.ent.ctx != die)
    latches := s.latches.filter (fun l => ctxDie l.fr.ctx != die)
    poison := s.poison.filter (fun g => !(sdmBase die ≤ g * 32 && g * 32 < sdmBase die + sdmSize)
      && !(mtBase ⟨die, 0⟩ ≤ g * 32 && g * 32 < mtBase ⟨die, 0⟩ + 2 ^ 29)) }
  let s2 := ((s1.lose (sdmBase die) sdmSize).lose (mtBase ⟨die, 0⟩) (2 ^ 29)).lose (lineBase ⟨die, 0⟩ 0) (2 ^ 31)
  let s3 := s2.modMem (fun m => { m with
    accs := m.accs.filter (fun a => a.x.die != die), reqs := m.reqs.filter (fun r => r.x.die != die)
    tlb := m.tlb.filter (fun t => t.die != die), hcache := m.hcache.filter (fun h => h.die != die)
    lines := m.lines.filter (fun e => s.slice (e.1 * 128) / 288 != die), bars := m.bars.filter (fun e => e.1 / 64 / 288 != die)
    cows := m.cows.filter (fun c => c.die != die), waits := m.waits.filter (fun w => w.die != die && ctxDie w.ctx != die) })
  s3.setDie die { d with tab := { old.tab with planes := [] } }

/-- DIE_POWER_DOWN (R415): refused with BUSY while the die holds a context that is not FREE. DESIGN CHOICE
(assumption 45). -/
def execDiePowerDown (die : Nat) (s : State) : Host.Outcome State Fault Refusal :=
  let d := s.die die
  if s.mgmt.recovery || !d.power.on then .next s
  else if s.ctxs.any (fun e => ctxDie e.1 == die && e.2.st != .free) then .next (s.hostAnswer .busy)
  else .next ((s.clearDie die { power := { d.power with on := false, sdm := [] } }).hostAnswer .ok)

/-- DIE_POWER_UP (R414): the die is up, with no planes; its clock takes the module's time. DESIGN CHOICE (assumption
45). -/
def execDiePowerUp (die : Nat) (s : State) : Host.Outcome State Fault Refusal :=
  let d := s.die die
  if s.mgmt.recovery || d.power.on then .next s
  else
    let l : Loupe := { time := s.lateTime, state := (s.die ((die + 1) % 4)).loupe.state, locked := (s.die ((die + 1) % 4)).loupe.locked }
    .next (s.setDie die { d with power := { d.power with on := true }, loupe := l
                                 herd := { d.herd with nextAt := l.time + 400000 } })

/-- SDM_POWER_WRITE (R414): a gibibyte of SDM on, in retention or off; off loses its contents. -/
def execSdmPowerWrite (die gib state : Nat) (s : State) : Host.Outcome State Fault Refusal :=
  let old := s.sdmPower die (gib * 2 ^ 30)
  if s.mgmt.recovery || !(s.die die).power.on then .next s
  else
    let s1 := s.modDie die (fun d => { d with power := { d.power with
      sdm := if state = 0 then tdel gib d.power.sdm else tput gib state d.power.sdm
      -- a state that the host sets ends a wake-up under way
      wakes := d.power.wakes.filter (fun g => g != gib) } })
    .next (if state = 2 && old ≠ 2 then s1.lose (sdmBase die + gib * 2 ^ 30) (2 ^ 30) else s1)

/-- CLOCK_GATE (R414): a pair to which no token has come for 64 cycles, and which holds none. The next token wakes it. -/
def execClockGate (x : Site) (s : State) : Host.Outcome State Fault Refusal :=
  let c := s.cell x
  let p := c.pipe
  let none_ := p.selfq.isEmpty && p.p0.isEmpty && p.p1.isEmpty && p.p2.isEmpty && p.p3.isEmpty && p.deps.isEmpty && p.ans.isEmpty
    && c.ready.isEmpty
  if none_ && c.frz.lastTok + 64 ≤ s.cycle then .next (s.modCell x (fun c => { c with frz := { c.frz with gated := true } }))
  else .next s

/-- A thermal notice to the host (R411, R416). DESIGN CHOICE (assumption 46). -/
def State.thermalNotice (s : State) (die : Nat) : State := { s with host := { s.host with notices := s.host.notices ++ [(2, die)] } }

/-- THERMAL_THROTTLE (R416): at 95 °C, or at the power cap, the clock of a die goes down one step of 100 MHz. DESIGN
CHOICE (assumption 46). -/
def execThermalThrottle (die temp : Nat) (s : State) : Host.Outcome State Fault Refusal :=
  if !(s.die die).power.on then .next s
  else .next ((s.modDie die (fun d => { d with power := { d.power with temp := temp, clock := Nat.max 1 (d.power.clock - 1) } })).thermalNotice die)

/-- THERMAL_SHUTDOWN (R416): at 105 °C a die powers down, and its contexts end. DESIGN CHOICE (assumption 46). -/
def execThermalShutdown (die temp : Nat) (s : State) : Host.Outcome State Fault Refusal :=
  let d := s.die die
  if temp < 105 || !d.power.on then .next s
  else
    let cs := (s.ctxs.filter (fun e => ctxDie e.1 == die)).map (fun e => e.1)
    let s1 := cs.foldl (fun (t : State) c => t.endCtx c) s
    .next ((s1.clearDie die { power := { d.power with on := false, sdm := [], temp := temp } }).thermalNotice die)

/-- The spares left of a die (R417). DESIGN CHOICE (assumption 9). -/
def State.sparesLeft (s : State) (die : Nat) : Nat := Config.spares die - (tget die s.mgmt.spares).getD 0

/-- A die's spares mapped into its retired positions (R417). DESIGN CHOICE (assumption 9). -/
def State.repair (s : State) (die : Nat) : State :=
  let l := (s.die die).tab.retired
  let n := Nat.min (s.sparesLeft die) l.length
  if n = 0 then s
  else
    let s1 := s.modDie die (fun d => { d with tab := { d.tab with retired := l.drop n } })
    let s2 := (l.take n).foldl (fun (t : State) k => t.modCell ⟨die, k⟩ (fun c => { c with frz := { c.frz with wires := 72 } })) s1
    ({ s2 with mgmt := { s2.mgmt with spares := tput die ((tget die s.mgmt.spares).getD 0 + n) s2.mgmt.spares } }).life (lifeSpares die) n

/-- BRING_UP (R417): before any context lives, each die's spares go into its retired positions. DESIGN CHOICE
(assumption 9). -/
def execBringUp (s : State) : Host.Outcome State Fault Refusal :=
  if s.ctxs.any (fun e => e.2.st != .free) then .next s
  else .next ((List.range 4).foldl (fun (t : State) d => t.repair d) s)

/-- LIFETIME_FLUSH (R396): the counters go to flash, hourly and at an orderly power-down. DESIGN CHOICE (assumption
47). -/
def execLifetimeFlush (_orderly : Bool) (s : State) : Host.Outcome State Fault Refusal :=
  .next { s with mgmt := { s.mgmt with flash := s.mgmt.live } }

/-- DIE_RESET (R341): the die as after reset, its time 0 in FREERUN. DESIGN CHOICE (assumption 45). -/
def execDieReset (die : Nat) (s : State) : Host.Outcome State Fault Refusal := .next (s.clearDie die {})

/-- VERTICAL_BUS_FALLBACK (R310, R396): the vertical bus of a pair has `good` wires left; below 64 it falls back, below 32 its site is
retired. `x.res` is the pair's own number. DESIGN CHOICE (assumption 48). -/
def execVerticalBusFallback (x : Site) (good : Nat) (s : State) : Host.Outcome State Fault Refusal :=
  let was := (s.cell x).frz.wires
  if was ≤ good then .next s
  else
    let s1 := s.modCell x (fun c => { c with frz := { c.frz with wires := good } })
    let s2 := if good < 64 && 64 ≤ was then s1.life (lifeFallback x.die) 1 else s1
    .next (if good < 32 && 32 ≤ was && !(s.die x.die).tab.retired.contains x.res then
        (s2.modDie x.die (fun d => { d with tab := { d.tab with retired := d.tab.retired ++ [x.res] } })).life (lifeRetired x.die) 1
      else s2)

/-- What a power loss leaves of a die: its retired sites. DESIGN CHOICE (assumption 47). -/
def Die.bare (d : Die) : Die := { tab := { retired := d.tab.retired } }

/-- ABRUPT_POWER_LOSS (R396): everything but flash, fuses and repairs is lost; the lifetime counters go back to what flash holds.
DESIGN CHOICE (assumption 47). -/
def execAbruptPowerLoss (s : State) : Host.Outcome State Fault Refusal :=
  let wires (e : Nat × Cell) : Option (Nat × Cell) :=
    if e.2.frz.wires = 72 then none else some (e.1, { frz := { wires := e.2.frz.wires } })
  let s1 := s.lose 0 (2 ^ 60)
  .next { State.reset with
    cycle := s.cycle, steps := s.steps, free := s1.free, mem := s1.mem, lost := s1.lost
    cells := s.cells.filterMap wires, dies := s.dies.map (fun (e : Nat × Die) => (e.1, e.2.bare))
    mgmt := { fused := s.mgmt.fused, live := s.mgmt.flash, flash := s.mgmt.flash, spares := s.mgmt.spares } }

end Sys2Proof.Machine
end

