-- ==== Sys2Proof/Machine/Dispatch.lean ====
section
/-! DEFINITION. The meaning of every step, one direct call of a definition of its own. -/
namespace Sys2Proof.Machine

def exec (i : Instr) (s : State) : Host.Outcome State Fault Refusal :=
  match i with
  | .tokenMatch x => Sys2Proof.Machine.execTokenMatch x s
  | .bindingArrival x => Sys2Proof.Machine.execBindingArrival x s
  | .purgeArrival x => Sys2Proof.Machine.execPurgeArrival x s
  | .nullArrival x => Sys2Proof.Machine.execNullArrival x s
  | .streamEndArrival x => Sys2Proof.Machine.execStreamEndArrival x s
  | .spillRefill x ctx => Sys2Proof.Machine.execSpillRefill x ctx s
  | .blockFetch x ctx node => Sys2Proof.Machine.execBlockFetch x ctx node s
  | .readyAging x => Sys2Proof.Machine.execReadyAging x s
  | .firingTokensLeave x => Sys2Proof.Machine.execFiringTokensLeave x s
  | .memoryAnswer x k => Sys2Proof.Machine.execMemoryAnswer x k s
  | .spatialStageFire x stage => Sys2Proof.Machine.execSpatialStageFire x stage s
  | .exit h => Sys2Proof.Machine.execExit h s
  | .null h => Sys2Proof.Machine.execNull h s
  | .steer h => Sys2Proof.Machine.execSteer h s
  | .merge h => Sys2Proof.Machine.execMerge h s
  | .mergeOrd h => Sys2Proof.Machine.execMergeOrd h s
  | .mov h l => Sys2Proof.Machine.execMov h l s
  | .mov4 h t2 t3 => Sys2Proof.Machine.execMov4 h t2 t3 s
  | .tagpush h l => Sys2Proof.Machine.execTagpush h l s
  | .tagpop h => Sys2Proof.Machine.execTagpop h s
  | .taginc h => Sys2Proof.Machine.execTaginc h s
  | .tagset h level => Sys2Proof.Machine.execTagset h level s
  | .tagget h sel level => Sys2Proof.Machine.execTagget h sel level s
  | .lcarry h level => Sys2Proof.Machine.execLcarry h level s
  | .lbound h km1 => Sys2Proof.Machine.execLbound h km1 s
  | .mark h level pass => Sys2Proof.Machine.execMark h level pass s
  | .purge h => Sys2Proof.Machine.execPurge h s
  | .add h l => Sys2Proof.Machine.execAdd h l s
  | .addSat h l => Sys2Proof.Machine.execAddSat h l s
  | .sub h l => Sys2Proof.Machine.execSub h l s
  | .subSat h l => Sys2Proof.Machine.execSubSat h l s
  | .mul h l => Sys2Proof.Machine.execMul h l s
  | .mulh h l => Sys2Proof.Machine.execMulh h l s
  | .div h l => Sys2Proof.Machine.execDiv h l s
  | .rem h l => Sys2Proof.Machine.execRem h l s
  | .mad h l => Sys2Proof.Machine.execMad h l s
  | .madSat h l => Sys2Proof.Machine.execMadSat h l s
  | .min h l => Sys2Proof.Machine.execMin h l s
  | .max h l => Sys2Proof.Machine.execMax h l s
  | .abs h => Sys2Proof.Machine.execAbs h s
  | .neg h => Sys2Proof.Machine.execNeg h s
  | .and h l => Sys2Proof.Machine.execAnd h l s
  | .or h l => Sys2Proof.Machine.execOr h l s
  | .xor h l => Sys2Proof.Machine.execXor h l s
  | .not h => Sys2Proof.Machine.execNot h s
  | .shl h l => Sys2Proof.Machine.execShl h l s
  | .shr h l => Sys2Proof.Machine.execShr h l s
  | .sar h l => Sys2Proof.Machine.execSar h l s
  | .rot h l => Sys2Proof.Machine.execRot h l s
  | .clz h => Sys2Proof.Machine.execClz h s
  | .popc h => Sys2Proof.Machine.execPopc h s
  | .cmpEq h l => Sys2Proof.Machine.execCmpEq h l s
  | .cmpNe h l => Sys2Proof.Machine.execCmpNe h l s
  | .cmpLt h l => Sys2Proof.Machine.execCmpLt h l s
  | .cmpLe h l => Sys2Proof.Machine.execCmpLe h l s
  | .cmpGt h l => Sys2Proof.Machine.execCmpGt h l s
  | .cmpGe h l => Sys2Proof.Machine.execCmpGe h l s
  | .sel h => Sys2Proof.Machine.execSel h s
  | .fadd h l => Sys2Proof.Machine.execFadd h l s
  | .fsub h l => Sys2Proof.Machine.execFsub h l s
  | .fmul h l => Sys2Proof.Machine.execFmul h l s
  | .ffma h l => Sys2Proof.Machine.execFfma h l s
  | .fmin h l => Sys2Proof.Machine.execFmin h l s
  | .fmax h l => Sys2Proof.Machine.execFmax h l s
  | .fdiv h l => Sys2Proof.Machine.execFdiv h l s
  | .fsqrt h => Sys2Proof.Machine.execFsqrt h s
  | .fabs h => Sys2Proof.Machine.execFabs h s
  | .fneg h => Sys2Proof.Machine.execFneg h s
  | .fcmpEq h l => Sys2Proof.Machine.execFcmpEq h l s
  | .fcmpNe h l => Sys2Proof.Machine.execFcmpNe h l s
  | .fcmpLt h l => Sys2Proof.Machine.execFcmpLt h l s
  | .fcmpLe h l => Sys2Proof.Machine.execFcmpLe h l s
  | .fcmpGt h l => Sys2Proof.Machine.execFcmpGt h l s
  | .fcmpGe h l => Sys2Proof.Machine.execFcmpGe h l s
  | .fcmpUn h l => Sys2Proof.Machine.execFcmpUn h l s
  | .frcp h => Sys2Proof.Machine.execFrcp h s
  | .frsq h => Sys2Proof.Machine.execFrsq h s
  | .fexp2 h => Sys2Proof.Machine.execFexp2 h s
  | .flog2 h => Sys2Proof.Machine.execFlog2 h s
  | .ftanh h => Sys2Proof.Machine.execFtanh h s
  | .fsigm h => Sys2Proof.Machine.execFsigm h s
  | .ferf h => Sys2Proof.Machine.execFerf h s
  | .cvt h c => Sys2Proof.Machine.execCvt h c s
  | .cvtnf h c => Sys2Proof.Machine.execCvtnf h c s
  | .shuf h pattern => Sys2Proof.Machine.execShuf h pattern s
  | .bcast h side idx => Sys2Proof.Machine.execBcast h side idx s
  | .reduce h c => Sys2Proof.Machine.execReduce h c s
  | .scan h c => Sys2Proof.Machine.execScan h c s
  | .dot16 h => Sys2Proof.Machine.execDot16 h s
  | .pack h freg => Sys2Proof.Machine.execPack h freg s
  | .unpack h freg => Sys2Proof.Machine.execUnpack h freg s
  | .lmset h mask => Sys2Proof.Machine.execLmset h mask s
  | .lmand h mask => Sys2Proof.Machine.execLmand h mask s
  | .lmor h mask => Sys2Proof.Machine.execLmor h mask s
  | .lmnot h => Sys2Proof.Machine.execLmnot h s
  | .lmget h => Sys2Proof.Machine.execLmget h s
  | .lmpred h => Sys2Proof.Machine.execLmpred h s
  | .ld h c => Sys2Proof.Machine.execLd h c s
  | .st h c => Sys2Proof.Machine.execSt h c s
  | .ldG h c => Sys2Proof.Machine.execLdG h c s
  | .stG h c => Sys2Proof.Machine.execStG h c s
  | .ldm h c => Sys2Proof.Machine.execLdm h c s
  | .stm h c => Sys2Proof.Machine.execStm h c s
  | .pref h handle nlm1 => Sys2Proof.Machine.execPref h handle nlm1 s
  | .prefG h nlm1 => Sys2Proof.Machine.execPrefG h nlm1 s
  | .gtoh h handle => Sys2Proof.Machine.execGtoh h handle s
  | .htog h handle => Sys2Proof.Machine.execHtog h handle s
  | .aptest h test => Sys2Proof.Machine.execAptest h test s
  | .aadd h c => Sys2Proof.Machine.execAadd h c s
  | .afadd h c => Sys2Proof.Machine.execAfadd h c s
  | .amin h c => Sys2Proof.Machine.execAmin h c s
  | .amax h c => Sys2Proof.Machine.execAmax h c s
  | .aand h c => Sys2Proof.Machine.execAand h c s
  | .aor h c => Sys2Proof.Machine.execAor h c s
  | .axor h c => Sys2Proof.Machine.execAxor h c s
  | .axchg h c => Sys2Proof.Machine.execAxchg h c s
  | .acas h c => Sys2Proof.Machine.execAcas h c s
  | .ldr h c => Sys2Proof.Machine.execLdr h c s
  | .cmls h c => Sys2Proof.Machine.execCmls h c s
  | .ordtok h c => Sys2Proof.Machine.execOrdtok h c s
  | .fence h c => Sys2Proof.Machine.execFence h c s
  | .kins h c => Sys2Proof.Machine.execKins h c s
  | .kdel h byVal store => Sys2Proof.Machine.execKdel h byVal store s
  | .kmatch h c => Sys2Proof.Machine.execKmatch h c s
  | .kpurge h store => Sys2Proof.Machine.execKpurge h store s
  | .kgenRead h store => Sys2Proof.Machine.execKgenRead h store s
  | .kgenAdv h store => Sys2Proof.Machine.execKgenAdv h store s
  | .kgenSet h store => Sys2Proof.Machine.execKgenSet h store s
  | .strm h handle streamer scope => Sys2Proof.Machine.execStrm h handle streamer scope s
  | .arm h handle streamer tslot queue => Sys2Proof.Machine.execArm h handle streamer tslot queue s
  | .qpostPost h queue => Sys2Proof.Machine.execQpostPost h queue s
  | .qpostUnbind h queue => Sys2Proof.Machine.execQpostUnbind h queue s
  | .qpostStat h queue => Sys2Proof.Machine.execQpostStat h queue s
  | .planeLoad h handle index => Sys2Proof.Machine.execPlaneLoad h handle index s
  | .planeEvict h handle index => Sys2Proof.Machine.execPlaneEvict h handle index s
  | .planeQuery h handle index => Sys2Proof.Machine.execPlaneQuery h handle index s
  | .recfgBlocks h plane rect => Sys2Proof.Machine.execRecfgBlocks h plane rect s
  | .recfgSite h plane rect => Sys2Proof.Machine.execRecfgSite h plane rect s
  | .mxopArm h isl cslot cmd => Sys2Proof.Machine.execMxopArm h isl cslot cmd s
  | .mxopTileA h isl cslot reg => Sys2Proof.Machine.execMxopTileA h isl cslot reg s
  | .mxopTileB h isl cslot reg => Sys2Proof.Machine.execMxopTileB h isl cslot reg s
  | .mxtab h c => Sys2Proof.Machine.execMxtab h c s
  | .mxdrain h isl cslot scope handle => Sys2Proof.Machine.execMxdrain h isl cslot scope handle s
  | .scl h l => Sys2Proof.Machine.execScl h l s
  | .awalk h c => Sys2Proof.Machine.execAwalk h c s
  | .ains h c => Sys2Proof.Machine.execAins h c s
  | .adel h handle scope => Sys2Proof.Machine.execAdel h handle scope s
  | .trev h c => Sys2Proof.Machine.execTrev h c s
  | .rdtime h => Sys2Proof.Machine.execRdtime h s
  | .hpin h => Sys2Proof.Machine.execHpin h s
  | .hunpin h => Sys2Proof.Machine.execHunpin h s
  | .trap h code cond => Sys2Proof.Machine.execTrap h code cond s
  | .sys h svc => Sys2Proof.Machine.execSys h svc s
  | .launch h handle die => Sys2Proof.Machine.execLaunch h handle die s
  | .halt h => Sys2Proof.Machine.execHalt h s
  | .brkpt h code cond => Sys2Proof.Machine.execBrkpt h code cond s
  | .sysrd h c => Sys2Proof.Machine.execSysrd h c s
  | .syswr h c => Sys2Proof.Machine.execSyswr h c s
  | .faultretResume h => Sys2Proof.Machine.execFaultretResume h s
  | .faultretSkip h => Sys2Proof.Machine.execFaultretSkip h s
  | .faultretEnd h => Sys2Proof.Machine.execFaultretEnd h s
  | .trackRouteEntry die col row => Sys2Proof.Machine.execTrackRouteEntry die col row s
  | .meshPacketHop die k => Sys2Proof.Machine.execMeshPacketHop die k s
  | .hostLaunch descPa => Sys2Proof.Machine.execHostLaunch descPa s
  | .dropComplete ctx => Sys2Proof.Machine.execDropComplete ctx s
  | .tokenInjection ctx => Sys2Proof.Machine.execTokenInjection ctx s
  | .contextRelease ctx => Sys2Proof.Machine.execContextRelease ctx s
  | .hostTerminate ctx => Sys2Proof.Machine.execHostTerminate ctx s
  | .storeOpSequence die k => Sys2Proof.Machine.execStoreOpSequence die k s
  | .shardPerform x => Sys2Proof.Machine.execShardPerform x s
  | .lensMerge die k => Sys2Proof.Machine.execLensMerge die k s
  | .shardCommit x => Sys2Proof.Machine.execShardCommit x s
  | .swapInstant die exLen => Sys2Proof.Machine.execSwapInstant die exLen s
  | .mapVersionAdvance die => Sys2Proof.Machine.execMapVersionAdvance die s
  | .tokenForward die k => Sys2Proof.Machine.execTokenForward die k s
  | .flushArrival die k => Sys2Proof.Machine.execFlushArrival die k s
  | .waveSend id useTlb => Sys2Proof.Machine.execWaveSend id useTlb s
  | .accessPerform id el evict => Sys2Proof.Machine.execAccessPerform id el evict s
  | .memnodeRequest x port => Sys2Proof.Machine.execMemnodeRequest x port s
  | .pageWalk id => Sys2Proof.Machine.execPageWalk id s
  | .cowCopyDone k => Sys2Proof.Machine.execCowCopyDone k s
  | .faultLatchDrain k => Sys2Proof.Machine.execFaultLatchDrain k s
  | .bankPowerEffect x bank => Sys2Proof.Machine.execBankPowerEffect x bank s
  | .bankWake x bank => Sys2Proof.Machine.execBankWake x bank s
  | .sdmWake die gib => Sys2Proof.Machine.execSdmWake die gib s
  | .hqToken die q => Sys2Proof.Machine.execHqToken die q s
  | .hqStreamEnd die q => Sys2Proof.Machine.execHqStreamEnd die q s
  | .copyStart die streamer k => Sys2Proof.Machine.execCopyStart die streamer k s
  | .sectorIssue id => Sys2Proof.Machine.execSectorIssue id s
  | .sectorPerform id sector => Sys2Proof.Machine.execSectorPerform id sector s
  | .recfgArrival k => Sys2Proof.Machine.execRecfgArrival k s
  | .siteReload k => Sys2Proof.Machine.execSiteReload k s
  | .mxNotice die isl => Sys2Proof.Machine.execMxNotice die isl s
  | .scaleArrival die isl => Sys2Proof.Machine.execScaleArrival die isl s
  | .pairFire die isl => Sys2Proof.Machine.execPairFire die isl s
  | .islandDrain die isl cslot => Sys2Proof.Machine.execIslandDrain die isl cslot s
  | .walkRequest die quad => Sys2Proof.Machine.execWalkRequest die quad s
  | .walkResult die quad walker => Sys2Proof.Machine.execWalkResult die quad walker s
  | .traceWatermark die => Sys2Proof.Machine.execTraceWatermark die s
  | .traceWrite tenant => Sys2Proof.Machine.execTraceWrite tenant s
  | .ptpMessage time offset locked => Sys2Proof.Machine.execPtpMessage time offset locked s
  | .ptpMasterLoss => Sys2Proof.Machine.execPtpMasterLoss s
  | .softError e => Sys2Proof.Machine.execSoftError e s
  | .watchdogExpiry ctx => Sys2Proof.Machine.execWatchdogExpiry ctx s
  | .dualCompare die k => Sys2Proof.Machine.execDualCompare die k s
  | .dualReplay die k => Sys2Proof.Machine.execDualReplay die k s
  | .ctxPrePreempt ctx who => Sys2Proof.Machine.execCtxPrePreempt ctx who s
  | .ctxPreRestore ctx who => Sys2Proof.Machine.execCtxPreRestore ctx who s
  | .markerArrival x => Sys2Proof.Machine.execMarkerArrival x s
  | .debugStop r => Sys2Proof.Machine.execDebugStop r s
  | .debugStopDrain r => Sys2Proof.Machine.execDebugStopDrain r s
  | .drained k => Sys2Proof.Machine.execDrained k s
  | .debugResume r => Sys2Proof.Machine.execDebugResume r s
  | .debugRead r => Sys2Proof.Machine.execDebugRead r s
  | .debugWrite r => Sys2Proof.Machine.execDebugWrite r s
  | .chamois r => Sys2Proof.Machine.execChamois r s
  | .chamoisWindowEnd die => Sys2Proof.Machine.execChamoisWindowEnd die s
  | .fmtWrite ctx k v who => Sys2Proof.Machine.execFmtWrite ctx k v who s
  | .ctxHinv ctx who => Sys2Proof.Machine.execCtxHinv ctx who s
  | .ctxTlbinv ctx v who => Sys2Proof.Machine.execCtxTlbinv ctx v who s
  | .trapDualWrite die k v ctx who => Sys2Proof.Machine.execTrapDualWrite die k v ctx who s
  | .planeRejClear die v who => Sys2Proof.Machine.execPlaneRejClear die v who s
  | .cellMtpwrWrite x v who => Sys2Proof.Machine.execCellMtpwrWrite x v who s
  | .loupeTenWrite tenant word v who => Sys2Proof.Machine.execLoupeTenWrite tenant word v who s
  | .registerWrite x ctx c v who => Sys2Proof.Machine.execRegisterWrite x ctx c v who s
  | .bar0TableWrite t => Sys2Proof.Machine.execBar0TableWrite t s
  | .sysAnswer k v => Sys2Proof.Machine.execSysAnswer k v s
  | .portalForward die q => Sys2Proof.Machine.execPortalForward die q s
  | .portalArrival k => Sys2Proof.Machine.execPortalArrival k s
  | .powerUp images => Sys2Proof.Machine.execPowerUp images s
  | .planeKeyInstall key => Sys2Proof.Machine.execPlaneKeyInstall key s
  | .attestationQuote nonce => Sys2Proof.Machine.execAttestationQuote nonce s
  | .diePowerDown die => Sys2Proof.Machine.execDiePowerDown die s
  | .diePowerUp die => Sys2Proof.Machine.execDiePowerUp die s
  | .sdmPowerWrite die gib state => Sys2Proof.Machine.execSdmPowerWrite die gib state s
  | .clockGate x => Sys2Proof.Machine.execClockGate x s
  | .thermalThrottle die temp => Sys2Proof.Machine.execThermalThrottle die temp s
  | .thermalShutdown die temp => Sys2Proof.Machine.execThermalShutdown die temp s
  | .bringUp => Sys2Proof.Machine.execBringUp s
  | .lifetimeFlush orderly => Sys2Proof.Machine.execLifetimeFlush orderly s
  | .dieReset die => Sys2Proof.Machine.execDieReset die s
  | .hostMemoryAccess pa write len => Sys2Proof.Machine.execHostMemoryAccess pa write len s
  | .unreachableDestination dev reachable => Sys2Proof.Machine.execUnreachableDestination dev reachable s
  | .linkTraining width rate => Sys2Proof.Machine.execLinkTraining width rate s
  | .routeEntryFetch die col row ctx route ssite => Sys2Proof.Machine.execRouteEntryFetch die col row ctx route ssite s
  | .verticalBusFallback x goodWires => Sys2Proof.Machine.execVerticalBusFallback x goodWires s
  | .abruptPowerLoss => Sys2Proof.Machine.execAbruptPowerLoss s

end Sys2Proof.Machine
end

