-- ==== Sys2Proof/Machine/Step.lean ====
section
/-! DEFINITION. One step of the device, and placing an instruction where the next step runs it. -/
namespace Sys2Proof.Machine

/-- The instruction that a fetch has found runs; with none, the state is as the fetch left it. -/
def runFetched (r : Option Instr × State) : Host.Outcome State Fault Refusal :=
  match r.1 with
  | some i => exec i r.2
  | none => .next r.2

/-- One step: what the agenda or the free choice says happens. An event runs as its own instruction; an operation of the
opcode map runs only as the firing of an issue. DESIGN CHOICE (assumption 1). -/
def step (s : State) : Host.Outcome State Fault Refusal :=
  match s.nextAct with
  | (.tick, s1) => .next s1.tick
  | (.issue x, s1) => runFetched (s1.startIssue x)
  | (.packed x n u, s1) => runFetched (s1.startPacked x n u)
  | (.refire id, s1) => runFetched (s1.startRefire id)
  | (.hdrop k, s1) => .next (s1.dropHandle k)
  | (.tdrop k, s1) => .next (s1.dropEntry k)
  | (.event i, s1) => if i.isOp || !WellFormed i then .next s1 else exec i s1

/-- The state with an instruction's words placed at the first node of a block of the first pair, its operands present as
zero tokens, its context running, and that pair's issue next. DESIGN CHOICE (assumption 18); DEDUCED (assumption
27). -/
def State.withFetchWord (s : State) (nbits w : Nat) : State := s.placeWord nbits w

end Sys2Proof.Machine
end

