-- ==== Sys2Proof/Safety.lean ====
section
/-! DEFINITION. What counts as a safe run, and the terms in which claims are made: when a firing performs, what it sends,
and what it leaves as it was. -/
namespace Sys2Proof

/-- An outcome that goes on. -/
def isNext (o : Host.Outcome Machine.State Machine.Fault Machine.Refusal) : Bool :=
  match o with
  | .next _ => true
  | _ => false

/-- A run of `k` steps from a state goes on throughout: no step of it stops or is refused. The device's own faults are
taken and end in a next state, so they do not make a run unsafe. -/
def SafeFor (k : Nat) (s : Machine.State) : Prop := isNext (core.run k s) = true

/-- Every run from a state goes on. -/
def Safe (s : Machine.State) : Prop := ∀ k, SafeFor k s

namespace Machine

/-- How many of some targets are the exit sink (R54, R100). -/
def exitTargets (ts : List Target) : Nat :=
  (ts.filter (fun g => match g with | .special _ .exit => true | _ => false)).length

/-- A token on each of some targets, in order, their tag actions applied (R55, R57, R97). -/
def onTargets (tl : BitVec 96) (x : Site) (ts : List Target) (t : Tok) : List Tok :=
  (ts.map (fun g => (onTarget tl x g t).getD [])).flatten

/-- A firing is under way and nothing refuses it: none of the flags it raises is trapped (R80), every tag action of its
targets applies to the tag its tokens start from (R57), and its exits do not exceed its block's (R100). -/
structure Clear (s : State) (f : Firing) (ts : List Target) (tag : W64 × Nat) (flags exits : Nat) : Prop where
  cur : s.cur = some f
  trap : flags &&& (s.ctx f.ent.ctx).amask.toNat = 0
  tags : ∀ g ∈ ts, (tagAct (s.ctx f.ent.ctx).tl (tgtAct g) tag).isSome = true
  exits : s.exitExcess f (exits + exitTargets ts) = false

/-- The tag and DEPTH of a firing. -/
def Firing.tagOf (f : Firing) : W64 × Nat := (f.ent.tag, f.ent.depth)

/-- What a firing that performs has done between `s` and `t`: it has sent `toks` (on their way out of S6 no earlier than
5 + n cycles on, R96; operands of internal ports of a SPATIAL cell in their latches, R358), given up its operands at
`ports` (R19), entered `flags` in AFLAGS (R80), and kept its cell, or its stage of a SPATIAL cell, from issuing for n cycles
(R96, R170). -/
structure Emits (s t : State) (f : Firing) (n flags : Nat) (ports : List Nat) (toks : List Tok) : Prop where
  deps : ∃ due, s.cycle + 5 + n ≤ due ∧ ((s.cell f.x).pipe.packed ≤ 1 → due = s.cycle + 5 + n) ∧ (t.cell f.x).pipe.deps = (s.cell f.x).pipe.deps ++
    (let out := toks.filter (fun u => !(s.cell f.x).inward f.x u)
     if out.isEmpty then [] else [⟨f.ent.ctx, f.ent.uid, f.ent.node, due, f.ent.ord, 0, toks.any Tok.isExit, out⟩])
  inner : (t.cell f.x).spat.inner = (s.cell f.x).spat.inner ++
    (toks.filter ((s.cell f.x).inward f.x)).map (fun u => (u.node, u.port, u))
  slots : (t.cell f.x).slots = ((s.consume f ports).cell f.x).slots
  stages : (t.cell f.x).spat.busy = if (s.cell f.x).spat.on then tput (stageOf (s.opcOf f)) (s.cycle + n) (s.cell f.x).spat.busy
    else (s.cell f.x).spat.busy
  aflags : (t.ctx f.ent.ctx).aflags = (s.ctx f.ent.ctx).aflags ||| BitVec.ofNat 32 flags
  busy : s.cycle + n ≤ (t.cell f.x).pipe.issue
  done : t.cur = none

/-- The parts of a cell that matching, issue and departure do not touch. -/
def Cell.rest (c : Cell) : Cell :=
  { c with slots := [], dir := [], ready := [], pipe := {}, uids := 0, spat := { c.spat with inner := [], busy := [] } }

/-- What a firing that only computes and sends leaves as it was, whatever it sends: memory, the memory system, every
other cell and context, every register of its own context but AFLAGS and the watchdog's count, and every part of a die
but its trace queues. -/
structure Kept (s t : State) (f : Firing) : Prop where
  byte : ∀ a, t.byte a = s.byte a
  poison : t.poison = s.poison
  msys : t.msys = s.msys
  cells : ∀ y, siteKey y ≠ siteKey f.x → t.cell y = s.cell y
  cell : (t.cell f.x).rest = (s.cell f.x).rest
  ctxs : ∀ c, c ≠ f.ent.ctx → t.ctx c = s.ctx c
  ctx : ∃ fl n, t.ctx f.ent.ctx = { s.ctx f.ent.ctx with aflags := fl, trap := { (s.ctx f.ent.ctx).trap with idle := n } }
  dies : ∀ d, ∃ l, t.die d = { s.die d with loupe := l }
  tens : t.tens = s.tens
  mgmt : t.mgmt = s.mgmt
  host : t.host = s.host
  queues : t.parked = s.parked ∧ t.latches = s.latches ∧ t.agenda = s.agenda
  time : t.cycle = s.cycle ∧ t.steps = s.steps ∧ t.free = s.free

/-- The 64 bits of a literal (R49): its two words, or its one word extended, by sign for a signed integer type. -/
def litBits (ty : Ty) (l : Lit) : BitVec 64 :=
  match l.hi with
  | some hi => hi ++ l.lo
  | none => if ty.isSigned then l.lo.signExtend 64 else l.lo.setWidth 64

/-- Element `j` of `w` bits of a token (R10); a scalar gives its one element to every position (R92). -/
def Tok.bits (t : Tok) (w j : Nat) : BitVec w := if t.vec then t.data.extractLsb' (w * j) w else t.data.setWidth w

/-- Element `j` of operand `k` of a firing: from its port, or from the literal where the ports end before it (R49, R91). -/
def operand (f : Firing) (h : Hdr) (l : Lit) (k j : Nat) : BitVec h.fmt.width :=
  if k < h.arity then (f.op k).bits h.fmt.width j else (litBits h.fmt l).setWidth h.fmt.width

/-- What an elementwise instruction makes of the elements of A, B and C: a result element and the flags it raises. -/
abbrev ElFn (w : Nat) := BitVec w → BitVec w → BitVec w → BitVec w × Nat

/-- The result element at position `j` of a firing: an inactive one is A's (R92). -/
def resultAt (f : Firing) (h : Hdr) (l : Lit) (g : ElFn h.fmt.width) (j : Nat) : BitVec h.fmt.width :=
  if active f h.fmt.width j then (g (operand f h l 0 j) (operand f h l 1 j) (operand f h l 2 j)).1
  else operand f h l 0 j

/-- The flags that the active elements of a firing raise (R95). -/
def flagsOf (f : Firing) (h : Hdr) (l : Lit) (g : ElFn h.fmt.width) : Nat :=
  (List.range (nElems (f.vec h.arity) h.fmt.width)).foldl (fun a j =>
    a ||| (if active f h.fmt.width j then (g (operand f h l 0 j) (operand f h l 1 j) (operand f h l 2 j)).2 else 0)) 0

/-- A payload holds the elements `es` (R10): packed from position 0 up, or one right-aligned element with sign copies
above it for a signed integer type and zeros for any other. -/
def Holds (vec : Bool) (ty : Ty) (w : Nat) (d : Payload) (es : Nat → BitVec w) : Prop :=
  if vec then ∀ j, j < 512 / w → d.extractLsb' (w * j) w = es j
  else d = (if ty.isSigned then (es 0).signExtend 64 else (es 0).setWidth 64).setWidth 512

/-- The instruction `i`, with header `h` and literal `l`, computes `g` element by element, and its tokens have type `out`:
every clear firing of it, of any well-formed form, ends in a next state in which one token with those elements is on its
way to each target, its flags are in AFLAGS, its operands are consumed, and the rest is kept. It occupies its stage for `n`
cycles, or for one where A is a vector with no lane (R93, R96). -/
def Computes (i : Instr) (h : Hdr) (l : Lit) (out : Ty) (n : Firing → Nat) (g : ElFn h.fmt.width) : Prop :=
  ∀ s f, WellFormed i = true → Clear s f [h.t0, h.t1] f.tagOf (flagsOf f h l g) 0 →
    ∃ d t, exec i s = .next t ∧ Holds (f.vec h.arity) out h.fmt.width d (resultAt f h l g)
      ∧ Emits s t f (if passThrough f then 1 else n f) (flagsOf f h l g) (List.range h.arity)
          (onTargets (s.ctx f.ent.ctx).tl f.x [h.t0, h.t1]
            (newTok f h (f.first h.arity) (some (f.op 0)) out (f.vec h.arity) d))
      ∧ Kept s t f

/-- The instruction `i` sends one token, of which `P` holds, on the targets `ts`: every clear firing of it that meets `ok`
ends in a next state in which it is on its way, the operands at `ports` are consumed, the flags are in AFLAGS and the rest
is kept. `tag` is the tag and DEPTH the token has before its targets' tag actions; `n` the cycles its stage is occupied. -/
def Sends (i : Instr) (ts : Firing → List Target) (ports : State → Firing → List Nat) (n : Firing → Nat)
    (flags : State → Firing → Nat) (tag : State → Firing → W64 × Nat) (ok : State → Firing → Prop)
    (P : State → Firing → Tok → Prop) : Prop :=
  ∀ s f, WellFormed i = true → ok s f → Clear s f (ts f) (tag s f) (flags s f) 0 →
    ∃ k t, P s f k ∧ exec i s = .next t
      ∧ Emits s t f (n f) (flags s f) (ports s f) (onTargets (s.ctx f.ent.ctx).tl f.x (ts f) k) ∧ Kept s t f

/-- The instruction `i` sends the list `sends` in one cycle with no flag: every firing of it that meets `ok`, whose tag
actions all apply, giving `toks`, and whose exits do not exceed its block's, ends in a next state in which those tokens are
on their way, the operands at `ports` are consumed and the rest is kept. -/
def Issues (i : Instr) (sends : State → Firing → List Send) (ports : State → Firing → List Nat)
    (ok : State → Firing → Prop) : Prop :=
  ∀ s f toks, WellFormed i = true → ok s f → s.cur = some f →
    sendList (s.ctx f.ent.ctx).tl f.x (sends s f) = some toks →
    s.exitExcess f (toks.filter Tok.isExit).length = false →
    ∃ t, exec i s = .next t ∧ Emits s t f 1 0 (ports s f) toks ∧ Kept s t f

end Machine
end Sys2Proof
end

