-- ==== Sys2Proof/Certificates/Slice0/Obligations.lean ====
section
/-! DEFINITION. The statements about the model, each a proposition. -/
open Sys2Proof Sys2Proof.Machine

namespace Sys2Proof.Machine

/-- One stage cycle (R96). -/
def oneCycle (_ : Firing) : Nat := 1

/-- Cycles of a multiplication (R96 Table 1). -/
def mulCycles (h : Hdr) (f : Firing) : Nat :=
  if h.fmt = .s64 then 4 else if h.fmt.width = 4 ∧ f.vec h.arity = true then 2 else 1

/-- Cycles of a division (R96 Table 1). -/
def divCycles (h : Hdr) (_ : Firing) : Nat :=
  if h.fmt.width ≤ 8 then 8 else if h.fmt.width = 16 then 12 else if h.fmt.width = 32 then 20 else 36

/-- An element that raises no flag. -/
def plainEl {w : Nat} (r : BitVec w) : BitVec w × Nat := (r, 0)

/-- The integer a `w`-bit element stands for, by type (R68). -/
def elInt {w : Nat} (sg : Bool) (x : BitVec w) : Int := if sg then x.toInt else x.toNat

/-- An exact integer clamped to `w` bits, with SAT where it lies outside (R69). -/
def satEl (w : Nat) (sg : Bool) (v : Int) : BitVec w × Nat :=
  let lo : Int := if sg then -(2 ^ (w - 1)) else 0
  let hi : Int := if sg then 2 ^ (w - 1) - 1 else 2 ^ w - 1
  (BitVec.ofInt w (if v < lo then lo else if hi < v then hi else v), if v < lo ∨ hi < v then 64 else 0)

/-- Less or equal by type (R68). -/
def elLe {w : Nat} (sg : Bool) (x y : BitVec w) : Bool := if sg then x.sle y else x.ule y

/-- The upper half of the exact product (R113). -/
def mulHigh {w : Nat} (sg : Bool) (x y : BitVec w) : BitVec w :=
  if sg then ((x.signExtend (2 * w) * y.signExtend (2 * w)) >>> w).setWidth w
  else ((x.setWidth (2 * w) * y.setWidth (2 * w)) >>> w).setWidth w

end Sys2Proof.Machine

/-- R113: ADD, SUB, MUL, MULH, MAD, NEG, ABS, MIN and MAX give each active element's wrapped result, at every type and in every
form, and raise no flag. -/
def Claims.IntegerArithmeticWraps : Prop := ∀ (h : Hdr) (l : Lit),
  Computes (.add h l) h l h.fmt oneCycle (fun x y _ => plainEl (x + y)) ∧
  Computes (.sub h l) h l h.fmt oneCycle (fun x y _ => plainEl (x - y)) ∧
  Computes (.mul h l) h l h.fmt (mulCycles h) (fun x y _ => plainEl (x * y)) ∧
  Computes (.mulh h l) h l h.fmt (mulCycles h) (fun x y _ => plainEl (mulHigh h.fmt.isSigned x y)) ∧
  Computes (.mad h l) h l h.fmt (mulCycles h) (fun x y z => plainEl (x * y + z)) ∧
  Computes (.neg h) h noLit h.fmt oneCycle (fun x _ _ => plainEl (-x)) ∧
  Computes (.abs h) h noLit h.fmt oneCycle (fun x _ _ => plainEl (if h.fmt.isSigned && x.msb then -x else x)) ∧
  Computes (.min h l) h l h.fmt oneCycle (fun x y _ => plainEl (if elLe h.fmt.isSigned x y then x else y)) ∧
  Computes (.max h l) h l h.fmt oneCycle (fun x y _ => plainEl (if elLe h.fmt.isSigned y x then x else y))

/-- R113, R69: ADD.SAT, SUB.SAT and MAD.SAT clamp the exact result once, and raise SAT where it lies outside the type. -/
def Claims.IntegerArithmeticSaturates : Prop := ∀ (h : Hdr) (l : Lit),
  let sg := h.fmt.isSigned
  Computes (.addSat h l) h l h.fmt oneCycle (fun x y _ => satEl _ sg (elInt sg x + elInt sg y)) ∧
  Computes (.subSat h l) h l h.fmt oneCycle (fun x y _ => satEl _ sg (elInt sg x - elInt sg y)) ∧
  Computes (.madSat h l) h l h.fmt (mulCycles h) (fun x y z => satEl _ sg (elInt sg x * elInt sg y + elInt sg z))

/-- R114: DIV and REM truncate the quotient towards zero, and give all ones with IDZ for a zero divisor, whatever the type. -/
def Obligations.DivisionTruncates : Prop := ∀ (h : Hdr) (l : Lit),
  let sg := h.fmt.isSigned
  Computes (.div h l) h l h.fmt (divCycles h) (fun x y _ =>
    if y = 0 then (BitVec.allOnes _, 32) else plainEl (if sg then x.sdiv y else x.udiv y)) ∧
  Computes (.rem h l) h l h.fmt (divCycles h) (fun x y _ =>
    if y = 0 then (BitVec.allOnes _, 32) else plainEl (if sg then x.srem y else x.umod y))

/-- R115, R116, R117: AND, OR, XOR and NOT act bit by bit, on bit 0 alone for PRED; SHL, SHR, SAR and ROT shift by B's
element read as unsigned, whatever its size; CLZ counts leading zeros and POPC one bits. None raises a flag. -/
def Claims.LogicShiftsAndCounts : Prop := ∀ (h : Hdr) (l : Lit),
  let bits (r : BitVec h.fmt.width) : BitVec h.fmt.width × Nat := plainEl (if h.fmt = .pred then r &&& 1 else r)
  Computes (.and h l) h l h.fmt oneCycle (fun x y _ => bits (x &&& y)) ∧
  Computes (.or h l) h l h.fmt oneCycle (fun x y _ => bits (x ||| y)) ∧
  Computes (.xor h l) h l h.fmt oneCycle (fun x y _ => bits (x ^^^ y)) ∧
  Computes (.not h) h noLit h.fmt oneCycle (fun x _ _ => bits (~~~x)) ∧
  Computes (.shl h l) h l h.fmt oneCycle (fun x y _ => plainEl (x <<< y.toNat)) ∧
  Computes (.shr h l) h l h.fmt oneCycle (fun x y _ => plainEl (x >>> y.toNat)) ∧
  Computes (.sar h l) h l h.fmt oneCycle (fun x y _ => plainEl (x.sshiftRight y.toNat)) ∧
  Computes (.rot h l) h l h.fmt oneCycle (fun x y _ => plainEl (x.rotateLeft y.toNat)) ∧
  Computes (.clz h) h noLit h.fmt oneCycle (fun x _ _ => plainEl x.clz) ∧
  Computes (.popc h) h noLit h.fmt oneCycle (fun x _ _ => plainEl x.cpop)

/-- R118, R119: CMP compares by the type's signedness, TAG unsigned, gives 1 or 0 in an element of the same width, of type
PRED for a 32-bit type and S64 for TAG; SEL chooses A where bit 0 of C is 1, else B. -/
def Claims.CompareAndSelect : Prop := ∀ (h : Hdr) (l : Lit),
  let sg := h.fmt.isSigned
  let out : Ty := if h.fmt = .tag then .s64 else if h.fmt.width = 32 then .pred else h.fmt
  let rel (b : Bool) : BitVec h.fmt.width × Nat := plainEl (if b then 1 else 0)
  Computes (.cmpEq h l) h l out oneCycle (fun x y _ => rel (x == y)) ∧
  Computes (.cmpNe h l) h l out oneCycle (fun x y _ => rel (x != y)) ∧
  Computes (.cmpLt h l) h l out oneCycle (fun x y _ => rel (!elLe sg y x)) ∧
  Computes (.cmpLe h l) h l out oneCycle (fun x y _ => rel (elLe sg x y)) ∧
  Computes (.cmpGt h l) h l out oneCycle (fun x y _ => rel (!elLe sg x y)) ∧
  Computes (.cmpGe h l) h l out oneCycle (fun x y _ => rel (elLe sg y x)) ∧
  Computes (.sel h) h noLit h.fmt oneCycle (fun x y z => plainEl (if z.getLsbD 0 then x else y))

/-- R115 to R119: the operation codes of logic, shifts, counts, compares and SEL, with the types and the numbers of ports that
their records may have; the shifts and counts take no EXT record. -/
def Claims.LogicCompareAndSelectRecords : Prop := ∀ (h : Hdr) (l : Lit),
  let code (i : Instr) : Option Nat := (parts i).map (fun p => p.opc)
  [Instr.and h l, .or h l, .xor h l, .not h, .shl h l, .shr h l, .sar h l, .rot h l, .clz h, .popc h, .cmpEq h l, .cmpNe h l,
    .cmpLt h l, .cmpLe h l, .cmpGt h l, .cmpGe h l, .sel h].map code
    = [0x0C0, 0x0C1, 0x0C2, 0x0C3, 0x0C4, 0x0C5, 0x0C6, 0x0C7, 0x0C8, 0x0C9, 0x0D0, 0x0D1, 0x0D2, 0x0D3, 0x0D4, 0x0D5, 0x0D8].map some ∧
  (WellFormed (.and h l) = true ∨ WellFormed (.or h l) = true ∨ WellFormed (.xor h l) = true →
    (h.fmt.isInt = true ∨ h.fmt = .pred) ∧ (h.arity = 1 ∨ h.arity = 2)) ∧
  (WellFormed (.not h) = true → (h.fmt.isInt = true ∨ h.fmt = .pred) ∧ h.arity = 1) ∧
  (WellFormed (.shl h l) = true ∨ WellFormed (.shr h l) = true ∨ WellFormed (.sar h l) = true ∨ WellFormed (.rot h l) = true →
    h.fmt.isInt = true ∧ (h.arity = 1 ∨ h.arity = 2) ∧ l.hi = none) ∧
  (WellFormed (.clz h) = true ∨ WellFormed (.popc h) = true → h.fmt.isInt = true ∧ h.arity = 1) ∧
  (WellFormed (.cmpEq h l) = true ∨ WellFormed (.cmpNe h l) = true ∨ WellFormed (.cmpLt h l) = true ∨ WellFormed (.cmpLe h l) = true ∨
    WellFormed (.cmpGt h l) = true ∨ WellFormed (.cmpGe h l) = true →
    (h.fmt.isInt = true ∨ h.fmt = .tag) ∧ (h.arity = 1 ∨ h.arity = 2)) ∧
  (WellFormed (.sel h) = true → h.arity = 3)
namespace Sys2Proof.Machine

/-- A result code and its flags, as bits of the element's width. -/
def codeEl (w : Nat) (r : Nat × Nat) : BitVec w × Nat := (BitVec.ofNat w r.1, r.2)

/-- Cycles of a float instruction that takes two for an FP64 vector firing (R121 Table 1). -/
def fpCycles (h : Hdr) (f : Firing) : Nat := if h.fmt = .fp64 ∧ f.vec h.arity = true then 2 else 1

/-- A number of cycles that does not depend on the firing. -/
def cyclesOf (n : Nat) (_ : Firing) : Nat := n

/-- The number a finite value stands for. -/
def FVal.rat : FVal → Option Rat
  | .fin neg m e => some ((if neg then -1 else 1) * (m : Rat) * (2 : Rat) ^ e)
  | _ => none

/-- A float type's NaN flag (R71, R126): INV for a signalling NaN among the operands. -/
def sigInv (l : List FVal) : Nat := if FVal.nan true ∈ l then 16 else 0

/-- A comparison of R126: what its relation says of the order of two numbers (−1, 0 or 1), what a NaN gives, and whether
any NaN raises INV. -/
def fcmpEl (h : Hdr) (rel : Int → Bool) (nan quiet : Bool) : ElFn h.fmt.width := fun x y _ =>
  let a := (fmtOf h.fmt).val x.toNat
  let b := (fmtOf h.fmt).val y.toNat
  if a.isNan || b.isNan then (if nan then 1 else 0, if quiet then 16 else sigInv [a, b])
  else (if rel (cmpVal a b) then 1 else 0, 0)

/-- FMIN (`max` false) and FMAX (R123): a NaN gives way to the other operand, −0 counts as less than +0, and the result is
one of the operands, never rounded. -/
def fminEl (h : Hdr) (max : Bool) : ElFn h.fmt.width := fun x y _ =>
  let a := (fmtOf h.fmt).val x.toNat
  let b := (fmtOf h.fmt).val y.toNat
  let less (a b : FVal) : Bool := cmpVal a b < 0 ||
    (match a, b with | .fin true 0 _, .fin false 0 _ => true | _, _ => false)
  (if a.isNan && b.isNan then BitVec.ofNat _ (fmtOf h.fmt).nan.1
   else if a.isNan then y
   else if b.isNan then x
   else if max then (if less a b then y else x) else (if less b a then y else x), sigInv [a, b])

/-- FABS and FNEG (R125): the sign bit changed, or the canonical NaN. -/
def signEl (h : Hdr) (g : BitVec h.fmt.width → BitVec h.fmt.width) : ElFn h.fmt.width := fun x _ _ =>
  let a := (fmtOf h.fmt).val x.toNat
  if a.isNan then (BitVec.ofNat _ (fmtOf h.fmt).nan.1, sigInv [a]) else (g x, 0)

/-- The sign bit of an element. -/
def signMask (w : Nat) : BitVec w := BitVec.twoPow w (w - 1)

end Sys2Proof.Machine

/-- R122: FADD, FSUB, FMUL and FFMA round the exact value once, to nearest even, at every float type and in every form;
FDIV and FSQRT are those of R85 and R124. The exact values and the rounding are the subject of statements of their own. -/
def Claims.FloatArithmeticRoundsOnce : Prop := ∀ (h : Hdr) (l : Lit),
  let F := fmtOf h.fmt
  let w := h.fmt.width
  let v (x : BitVec w) : FVal := F.val x.toNat
  Computes (.fadd h l) h l h.fmt (fpCycles h) (fun x y _ => codeEl w (F.rnd .rne (exAdd (v x) (v y)))) ∧
  Computes (.fsub h l) h l h.fmt (fpCycles h) (fun x y _ => codeEl w (F.rnd .rne (exAdd (v x) (v y).neg))) ∧
  Computes (.fmul h l) h l h.fmt (fpCycles h) (fun x y _ => codeEl w (F.rnd .rne (exMul (v x) (v y)))) ∧
  Computes (.ffma h l) h l h.fmt (fpCycles h) (fun x y z => codeEl w (F.rnd .rne (exFma (v x) (v y) (v z)))) ∧
  Computes (.fdiv h l) h l h.fmt (cyclesOf (if h.fmt = .fp64 then 16 else 8))
    (fun x y _ => codeEl w (F.div x.toNat y.toNat)) ∧
  Computes (.fsqrt h) h noLit h.fmt (cyclesOf (if h.fmt = .fp64 then 16 else 8)) (fun x _ _ => codeEl w (F.sqrt x.toNat))

/-- R123, R125, R126: FMIN and FMAX, FABS and FNEG, and the seven comparisons, with the flags of their NaN cases; a
comparison's tokens have the type of the operand's width. -/
def Claims.FloatSelectionSignAndCompare : Prop := ∀ (h : Hdr) (l : Lit),
  let w := h.fmt.width
  let out : Ty := if h.fmt = .fp32 then .pred else if h.fmt = .fp64 then .s64 else .s16
  Computes (.fmin h l) h l h.fmt (fpCycles h) (fminEl h false) ∧
  Computes (.fmax h l) h l h.fmt (fpCycles h) (fminEl h true) ∧
  Computes (.fabs h) h noLit h.fmt (fpCycles h) (signEl h (fun x => x &&& ~~~ signMask w)) ∧
  Computes (.fneg h) h noLit h.fmt (fpCycles h) (signEl h (fun x => x ^^^ signMask w)) ∧
  Computes (.fcmpEq h l) h l out (fpCycles h) (fcmpEl h (fun c => c == 0) false false) ∧
  Computes (.fcmpNe h l) h l out (fpCycles h) (fcmpEl h (fun c => c != 0) true false) ∧
  Computes (.fcmpLt h l) h l out (fpCycles h) (fcmpEl h (fun c => c < 0) false true) ∧
  Computes (.fcmpLe h l) h l out (fpCycles h) (fcmpEl h (fun c => c ≤ 0) false true) ∧
  Computes (.fcmpGt h l) h l out (fpCycles h) (fcmpEl h (fun c => 0 < c) false true) ∧
  Computes (.fcmpGe h l) h l out (fpCycles h) (fcmpEl h (fun c => 0 ≤ c) false true) ∧
  Computes (.fcmpUn h l) h l out (fpCycles h) (fcmpEl h (fun _ => false) true false)

/-- R127: the special functions occupy S6 for the cycles of Table 1 of R121; FEXP2, FLOG2, FTANH, FSIGM and FERF convert a
16-bit operand exactly to FP32, run their algorithm and round once, and FRSQ raises no rounding flag but INX. -/
def Claims.SpecialFunctions : Prop := ∀ (h : Hdr),
  let w := h.fmt.width
  let F := fmtOf h.fmt
  Computes (.frcp h) h noLit h.fmt (cyclesOf 4) (fun x _ _ => codeEl w (F.rcp x.toNat)) ∧
  Computes (.frsq h) h noLit h.fmt (cyclesOf 4) (fun x _ _ => codeEl w ((F.rsq x.toNat).1, (F.rsq x.toNat).2 &&& 25)) ∧
  Computes (.fexp2 h) h noLit h.fmt (cyclesOf 2) (fun x _ _ => codeEl w (viaF32 h.fmt (fun v => (fexp2 v, 0)) x.toNat)) ∧
  Computes (.flog2 h) h noLit h.fmt (cyclesOf 2) (fun x _ _ => codeEl w (viaF32 h.fmt flog2 x.toNat)) ∧
  Computes (.ftanh h) h noLit h.fmt (cyclesOf 4) (fun x _ _ => codeEl w (viaF32 h.fmt (fun v => (ftanh v, 0)) x.toNat)) ∧
  Computes (.fsigm h) h noLit h.fmt (cyclesOf 4) (fun x _ _ => codeEl w (viaF32 h.fmt (fun v => (fsigm v, 0)) x.toNat)) ∧
  Computes (.ferf h) h noLit h.fmt (cyclesOf 2) (fun x _ _ => codeEl w (viaF32 h.fmt (fun v => (ferf v, 0)) x.toNat))

/-- R122, R126: sums, products and multiply-adds of numbers are exact before they are rounded, raise no flag of their own,
and values compare as the numbers they stand for. -/
def Obligations.ExactFloatValues : Prop := ∀ (a b c : FVal) (p q r : Rat), a.rat = some p → b.rat = some q → c.rat = some r →
  (exAdd a b).1.rat = some (p + q) ∧ (exAdd a b).2 = 0 ∧
  (exMul a b).1.rat = some (p * q) ∧ (exMul a b).2 = 0 ∧
  (exFma a b c).1.rat = some (p * q + r) ∧ (exFma a b c).2 = 0 ∧
  a.neg.rat = some (-p) ∧
  (cmpVal a b < 0 ↔ p < q) ∧ (cmpVal a b = 0 ↔ p = q)

/-- R77, R79: a number rounded to BF16, FP16, FP32 or FP64 by RNE is a nearest value of the type, the one with an even last
bit where two are as near, and INX is raised exactly when it differs; a number that gives an infinity lies at or beyond the
largest finite value, and raises OVF and INX. -/
def Obligations.RoundingIsNearestEven : Prop := ∀ (ty : Ty) (neg : Bool) (n : Nat) (e : Int) (x : Rat),
  ty.isFloat = true → (FVal.fin neg n e).rat = some x →
  let F := fmtOf ty
  let r := F.round .rne neg n e false
  (∀ v, (F.val r.1).rat = some v →
    (∀ c y, c < 2 ^ ty.width → (F.val c).rat = some y → |v - x| ≤ |y - x| ∧ (|v - x| = |y - x| → y ≠ v → r.1 % 2 = 0)) ∧
    (r.2 &&& 1 = 1 ↔ v ≠ x)) ∧
  ((F.val r.1).rat = none → F.val r.1 = .inf neg ∧ r.2 = 5 ∧
    ∀ c y, c < 2 ^ ty.width → (F.val c).rat = some y → |y| ≤ |x|)

namespace Sys2Proof.Machine

/-- A lane instruction: one token on both targets, all ports consumed, with the tag of the firing. -/
def LaneSends (i : Instr) (h : Hdr) (n : Firing → Nat) (flags : State → Firing → Nat) (P : State → Firing → Tok → Prop) :
    Prop :=
  Sends i (fun _ => [h.t0, h.t1]) (fun _ _ => List.range h.arity) n flags (fun _ f => f.tagOf) (fun _ _ => True) P

/-- No flag. -/
def noFlags (_ : State) (_ : Firing) : Nat := 0

/-- The token of a vector result that carries A's LMASK with lpass (R50, R94). -/
def vecTok (f : Firing) (h : Hdr) (fmt : Ty) (d : Payload) : Tok := newTok f h (f.first h.arity) (some (f.op 0)) fmt true d

/-- A scalar token of a new value (R94). -/
def newScalar (f : Firing) (h : Hdr) (fmt : Ty) (d : Payload) : Tok := newTok f h (f.first h.arity) none fmt false d

/-- The active positions of a token's `w`-bit elements, in order (R92). -/
def actives (f : Firing) (w : Nat) : List Nat := (List.range (nElems (f.op 0).vec w)).filter (active f w)

/-- The active elements of A, in order. -/
def activeBits (f : Firing) (w : Nat) : List (BitVec w) := (actives f w).map ((f.op 0).bits w)

/-- REDUCE's integer operations on a list of elements (R193, R194). -/
def redInt {w : Nat} (op : RedOp) (sg sat : Bool) (xs : List (BitVec w)) : BitVec w × Nat :=
  let lo : BitVec w := if sg then BitVec.intMin w else 0
  let hi : BitVec w := if sg then BitVec.intMax w else BitVec.allOnes w
  match op with
  | .add =>
    let v := (xs.map (elInt sg)).sum
    if sat then satEl w sg v else plainEl (BitVec.ofInt w v)
  | .min => plainEl (xs.foldl (fun m x => if elLe sg m x then m else x) hi)
  | .max => plainEl (xs.foldl (fun m x => if elLe sg x m then m else x) lo)
  | .and => plainEl (xs.foldl (fun m x => m &&& x) (BitVec.allOnes w))
  | .or => plainEl (xs.foldl (fun m x => m ||| x) 0)
  | .xor => plainEl (xs.foldl (fun m x => m ^^^ x) 0)

/-- REDUCE of a float type (R194): the sum in the order of R82 in the accumulation type, rounded once, or a fold of FMIN or
FMAX. -/
def redFloat (op : RedOp) (ty : Ty) (f : Firing) : BitVec ty.width × Nat :=
  let w := ty.width
  let pos := List.range (nElems (f.op 0).vec w)
  if actives f w = [] then codeEl w (redIdentity op ty, 0)
  else if op = .add then
    codeEl w (fromAcc ty (sumR82 (accFmt ty).addF (0, 0) (pos.length + 1) none
      (pos.map (fun j => if active f w j then toAcc ty ((f.op 0).bits w j).toNat else (0, 0)))))
  else codeEl w (foldRed op ty ((activeBits f w).map BitVec.toNat))

/-- Element `j` that a SCAN of an integer type writes at an active position (R195). -/
def scanInt (c : RedCtl) (sg : Bool) (f : Firing) (w j : Nat) : BitVec w × Nat :=
  redInt c.op sg c.sat ((((List.range (if c.excl then j else j + 1))).filter (active f w)).map ((f.op 0).bits w))

/-- The element width that PACK and UNPACK use (R197). -/
def packElWidth (s : State) (f : Firing) (h : Hdr) (freg : Nat) : Nat :=
  if h.fmt = .nf then (nfOf ((s.ctx f.ent.ctx).fmt.getD freg 0x000507C3)).cont else h.fmt.width

end Sys2Proof.Machine

/-- R191, R192, R197: SHUF moves whole lanes, a source lane read whether active or not; BCAST writes one value into every
active position, and its token is always a vector; PACK compacts the active elements to the low positions, and UNPACK
spreads the low elements over the active ones, with the count in SIDE. A scalar A of SHUF, PACK and UNPACK is sent
unchanged. -/
def Claims.LaneMovement : Prop := ∀ (h : Hdr) (pattern : Option W64) (side : Bool) (idx freg : Nat),
  LaneSends (.shuf h pattern) h oneCycle noFlags (fun _ f k =>
    let a := f.op 0
    if a.vec then ∃ d, k = vecTok f h h.fmt d ∧ ∀ j, j < 16 → d.extractLsb' (32 * j) 32 =
      (if a.lmask.getLsbD j then
        (match pattern with
         | some p => a.bits 32 (p.extractLsb' (4 * j) 4).toNat
         | none => if ((f.op 1).bits 32 j).msb then 0 else a.bits 32 (((f.op 1).bits 32 j).extractLsb' 0 4).toNat)
       else a.bits 32 j)
    else k = newScalar f h h.fmt a.data) ∧
  LaneSends (.bcast h side idx) h oneCycle noFlags (fun _ f k =>
    let w := h.fmt.width
    let a := f.op 0
    ∃ d, k = vecTok f h h.fmt d ∧ ∀ j, j < 512 / w → d.extractLsb' (w * j) w =
      (if active f w j then (if side then a.side.setWidth w else if a.vec then a.bits w idx else a.bits w 0)
       else a.bits w j)) ∧
  LaneSends (.pack h freg) h oneCycle noFlags (fun s f k =>
    let w := packElWidth s f h freg
    let a := f.op 0
    let on := actives f w
    if a.vec then ∃ d m, k = { newTok f h (f.first h.arity) none h.fmt true d with
        lmask := m, side := BitVec.ofNat 32 on.length } ∧
      (∀ j, j < 512 / w → a.lmask ≠ 0 → d.extractLsb' (w * j) w = (if h : j < on.length then a.bits w on[j] else 0)) ∧
      (a.lmask = 0 → d = a.data) ∧
      (∀ lane, lane < 16 → (m.getLsbD lane = true ↔ ∃ j, j < on.length ∧ (laneOf w j = lane ∨ w = 64 ∧ laneOf w j + 1 = lane)))
    else k = { newScalar f h h.fmt a.data with lmask := 1, side := 1 }) ∧
  LaneSends (.unpack h freg) h oneCycle noFlags (fun s f k =>
    let w := packElWidth s f h freg
    let a := f.op 0
    if a.vec then ∃ d, k = { newTok f h (f.first h.arity) none h.fmt true d with
        lmask := a.lmask, side := BitVec.ofNat 32 (actives f w).length } ∧
      (∀ j, j < 512 / w → a.lmask ≠ 0 → d.extractLsb' (w * j) w =
        (if active f w j then a.bits w ((List.range j).filter (active f w)).length else 0)) ∧
      (a.lmask = 0 → d = a.data)
    else k = { newScalar f h h.fmt a.data with lmask := 1, side := 1 })

/-- R194, R195, R196: REDUCE combines the active elements into one scalar; SCAN writes each active position with the
combination of the active positions up to it, or before it with EXCL; DOT16 sums the products of the active positions. -/
def Obligations.ReduceScanAndDot : Prop := ∀ (h : Hdr) (c : RedCtl),
  let ty := h.fmt
  let w := ty.width
  let sg := ty.isSigned
  (LaneSends (.reduce h c) h
    (fun f => if !(f.op 0).vec || passThrough f then 1 else if ty = .fp64 then 4 else 2)
    (fun _ f => if ty.isInt then (redInt c.op sg c.sat (activeBits f w)).2 else (redFloat c.op ty f).2)
    (fun _ f k => ∃ d, k = newScalar f h ty d ∧ Holds false ty w d
      (fun _ => if ty.isInt then (redInt c.op sg c.sat (activeBits f w)).1 else (redFloat c.op ty f).1))) ∧
  (ty.isInt = true → LaneSends (.scan h c) h
    (fun f => if !(f.op 0).vec || passThrough f then 1 else 4)
    (fun _ f => ((actives f w).map (fun j => (scanInt c sg f w j).2)).foldl (fun a b => a ||| b) 0)
    (fun _ f k => ∃ d, k = newTok f h (f.first h.arity) (some (f.op 0)) ty (f.op 0).vec d ∧ Holds (f.op 0).vec ty w d
      (fun j => if active f w j then (scanInt c sg f w j).1 else (f.op 0).bits w j))) ∧
  (ty.isInt = false → LaneSends (.scan h c) h
    (fun f => if !(f.op 0).vec || passThrough f then 1 else if ty = .fp64 then 8 else 4)
    (fun _ f => if passThrough f then 0 else
      (scanFold c ty (active f w) ((f.op 0).elem w) (List.range (nElems (f.op 0).vec w)) .none).2)
    (fun _ f k => ∃ d, k = newTok f h (f.first h.arity) (some (f.op 0)) ty (f.op 0).vec d ∧ Holds (f.op 0).vec ty w d
      (fun j => BitVec.ofNat w ((scanFold c ty (active f w) ((f.op 0).elem w) (List.range (nElems (f.op 0).vec w)) .none).1.getD j 0)))) ∧
  (ty.isInt = true → LaneSends (.dot16 h) h oneCycle noFlags (fun _ f k =>
    let out : Ty := if ty = .s8 then .s32 else .s64
    let on := (List.range (nElems (f.vec 2) w)).filter (active f w)
    ∃ d, k = newScalar f h out d ∧ Holds false out out.width d (fun _ => BitVec.ofInt out.width
      (on.map (fun j => ((f.op 0).bits w j).toInt * ((f.op 1).bits w j).toInt)).sum))) ∧
  (ty.isInt = false →
    let prod (f : Firing) (j : Nat) : Nat × Nat := (fmtOf .fp32).rnd .rne
      (exMul ((fmtOf ty).val ((f.op 0).bits w j).toNat) ((fmtOf ty).val ((f.op 1).bits w j).toNat))
    let sum (f : Firing) : Nat × Nat :=
      if passThrough f then (0, 0)
      else if f.vec 2 then sumR82 (fmtOf .fp32).addF (0, 0) (512 / w + 1) none
        ((List.range (512 / w)).map (fun j => if active f w j then prod f j else (0, 0)))
      else prod f 0
    LaneSends (.dot16 h) h (fun f => if !passThrough f && (ty = .bf16 || ty = .fp16) then 2 else 1) (fun _ f => (sum f).2)
      (fun _ f k => ∃ d, k = newScalar f h .fp32 d ∧ Holds false .fp32 32 d (fun _ => BitVec.ofNat 32 (sum f).1)))

/-- R198: LMSET, LMAND, LMOR, LMNOT and LMPRED send A with another LMASK, and LMGET sends A's as a new scalar; a scalar A is
sent with LMASK 1, and gives 1. -/
def Claims.LaneMasks : Prop := ∀ (h : Hdr) (mask : BitVec 16),
  let masked (f : Firing) (k : Tok) (m : BitVec 16) : Prop :=
    k = { fwdTok f h (f.first h.arity) (f.op 0) false with lmask := if (f.op 0).vec then m else 1 }
  let b (f : Firing) : BitVec 16 := if h.arity = 2 then (f.op 1).lmask else mask
  LaneSends (.lmset h mask) h oneCycle noFlags (fun _ f k => masked f k mask) ∧
  LaneSends (.lmand h mask) h oneCycle noFlags (fun _ f k => masked f k ((f.op 0).lmask &&& b f)) ∧
  LaneSends (.lmor h mask) h oneCycle noFlags (fun _ f k => masked f k ((f.op 0).lmask ||| b f)) ∧
  LaneSends (.lmnot h) h oneCycle noFlags (fun _ f k => masked f k (~~~(f.op 0).lmask)) ∧
  LaneSends (.lmpred h) h oneCycle noFlags (fun _ f k => ∃ m : BitVec 16, masked f k m ∧
    ∀ j, j < 16 → m.getLsbD j = ((f.op 1).bits 32 j).getLsbD 0) ∧
  LaneSends (.lmget h) h oneCycle noFlags (fun _ f k => k = newScalar f h .z32
    (if (f.op 0).vec then (f.op 0).lmask.setWidth 512 else 1))

namespace Sys2Proof.Machine

/-- Where the source element of a destination position stands in a vector conversion (R129): none outside the part. -/
def convSource (ws wd part p : Nat) : Option Nat :=
  if wd ≤ ws then (if part * (512 / ws) ≤ p ∧ p < part * (512 / ws) + 512 / ws then some (p - part * (512 / ws)) else none)
  else some (part * (512 / wd) + p)

/-- A source element is active (R92, R129). -/
def convActive (a : Tok) (ws q : Nat) : Bool := a.lmask.getLsbD (laneOf ws q)

/-- The flags that the converted elements raise. -/
def convFlags (a : Tok) (ws wd part : Nat) (conv : BitVec ws → BitVec wd × Nat) : Nat :=
  if a.vec then (List.range (512 / wd)).foldl (fun m p => m ||| (match convSource ws wd part p with
    | some q => if convActive a ws q then (conv (a.bits ws q)).2 else 0
    | none => 0)) 0
  else (conv (a.bits ws 0)).2

/-- The token of a conversion (R129): each destination position holds the converted source element, A's own bits where that
element is inactive, or zero outside the part; with lpass a destination lane is on exactly when it holds a converted active
element, and LMASK is A's where the widths are equal. -/
def convTok (f : Firing) (h : Hdr) (ws wd part : Nat) (dst : Ty) (conv : BitVec ws → BitVec wd × Nat) (k : Tok) : Prop :=
  let a := f.op 0
  if a.vec then ∃ d m, k = { vecTok f h dst d with lmask := m } ∧
    (a.lmask = 0 → d = a.data) ∧
    (a.lmask ≠ 0 → ∀ p, p < 512 / wd → d.extractLsb' (wd * p) wd = (match convSource ws wd part p with
      | some q => if convActive a ws q then (conv (a.bits ws q)).1 else a.bits wd p
      | none => 0)) ∧
    (if !h.ofl.lpass then m = 0xFFFF
     else if ws = wd then m = a.lmask
     else ∀ lane, lane < 16 → (m.getLsbD lane = true ↔ ∃ p q, p < 512 / wd ∧ convSource ws wd part p = some q ∧
       convActive a ws q = true ∧ (laneOf wd p = lane ∨ wd = 64 ∧ laneOf wd p + 1 = lane)))
  else ∃ d, k = newTok f h (f.first h.arity) (some a) dst false d ∧ Holds false dst wd d (fun _ => (conv (a.bits ws 0)).1)

/-- conv of R130: an integer to an integer type keeps its value, wraps or clamps; the rest rounds under the record's mode. -/
def cvtEl (src : Ty) (c : CvtCtl) (x : BitVec src.width) : BitVec c.dtype.width × Nat :=
  if src.isInt && c.dtype.isInt then
    (if c.dtype.width < src.width && c.sati then satEl _ c.dtype.isSigned (elInt src.isSigned x)
     else plainEl (if src.isSigned then x.signExtend _ else x.setWidth _))
  else codeEl _ (convElem src c.dtype c.sati c.rmode x.toNat)

/-- The NF format that a CVTNF reads (R132). -/
def nfRead (s : State) (f : Firing) (c : CvtNfCtl) : FFmt := nfOf ((s.ctx f.ent.ctx).fmt.getD c.freg 0x000507C3)

/-- The element conversion of CVTNF, decoding (R132): container bits above the code are ignored, and a NaN code gives the
canonical NaN with no flag. -/
def nfDecEl (nf : FFmt) (c : CvtNfCtl) (x : BitVec nf.cont) : BitVec c.other.width × Nat :=
  match nf.val (x.toNat % 2 ^ nf.width) with
  | .nan _ => codeEl _ ((fmtOf c.other).nan.1, 0)
  | v => codeEl _ ((fmtOf c.other).put c.rmode v)

/-- The element conversion of CVTNF, encoding (R132). -/
def nfEncEl (nf : FFmt) (c : CvtNfCtl) (x : BitVec c.other.width) : BitVec nf.cont × Nat :=
  codeEl _ (nf.put c.rmode ((fmtOf c.other).val x.toNat))

end Sys2Proof.Machine

/-- R128 to R132: CVT and CVTNF convert each active element under the record's mode and place it by PART, with the cycles of
R121; CVTNF reads its format register once, and its part counts modulo the ratio of the widths. Clauses on which the spec is
silent follow the model's choices (assumptions 26, 81, 87, 92). -/
def Obligations.Conversions : Prop := ∀ (h : Hdr) (c : CvtCtl) (e : CvtNfCtl),
  LaneSends (.cvt h c) h
    (fun f => if (h.fmt.width = 64 ∨ c.dtype.width = 64) ∧ (f.op 0).vec ∧ ¬ passThrough f then 2 else 1)
    (fun _ f => convFlags (f.op 0) h.fmt.width c.dtype.width c.part (cvtEl h.fmt c))
    (fun _ f k => convTok f h h.fmt.width c.dtype.width c.part c.dtype (cvtEl h.fmt c) k) ∧
  (e.enc = false → LaneSends (.cvtnf h e) h oneCycle
    (fun s f => convFlags (f.op 0) (nfRead s f e).cont e.other.width (e.part % (e.other.width / (nfRead s f e).cont))
      (nfDecEl (nfRead s f e) e))
    (fun s f k => convTok f h (nfRead s f e).cont e.other.width (e.part % (e.other.width / (nfRead s f e).cont)) e.other
      (nfDecEl (nfRead s f e) e) k)) ∧
  (e.enc = true → LaneSends (.cvtnf h e) h oneCycle
    (fun s f => convFlags (f.op 0) e.other.width (nfRead s f e).cont (e.part % (e.other.width / (nfRead s f e).cont))
      (nfEncEl (nfRead s f e) e))
    (fun s f k => convTok f h e.other.width (nfRead s f e).cont (e.part % (e.other.width / (nfRead s f e).cont)) .nf
      (nfEncEl (nfRead s f e) e) k))

namespace Sys2Proof.Machine

/-- A firing that no STREAM_END makes alone (R107). -/
def notAlone (_ : State) (f : Firing) : Prop := f.ent.alone = none

/-- A received token sent on (R102), the operands at `ports` consumed. -/
def sentOn (f : Firing) (h : Hdr) (ports : List Nat) (a : Tok) (req : Bool) : Tok := fwdTok f h (ports.map f.op) a req

/-- A flow instruction that sends a received token on. -/
def FlowSends (i : Instr) (h : Hdr) (ts : Firing → List Target) (req : Bool) (port : State → Firing → Nat)
    (more : List Nat) (ok : State → Firing → Prop) : Prop :=
  Sends i ts (fun s f => port s f :: more) oneCycle noFlags (fun _ f => f.tagOf) ok
    (fun s f k => k = sentOn f h (port s f :: more) (f.op (port s f)) req)

/-- The place in the order of arrivals of an instance's own token at a port (R103). -/
def arrivedAt (s : State) (f : Firing) (p : Nat) : Option Nat := s.arrival f p

/-- The port whose token arrived first is `p` (R103). -/
def arrivedFirst (p : Nat) (s : State) (f : Firing) : Prop :=
  f.ent.alone = none ∧ (match arrivedAt s f p, arrivedAt s f (1 - p) with
    | some a, some b => a < b
    | some _, none => True
    | none, _ => False)

/-- The level that a record's LEVEL names (R110, R199, R202). -/
def levelOf (f : Firing) (level : Nat) : Nat := if level = 0 then f.ent.depth else level

/-- A tag instruction: A sent on with the tag that `r` gives, if it gives one (R108 to R110). -/
def TagSends (i : Instr) (h : Hdr) (r : State → Firing → Option (W64 × Nat)) : Prop :=
  Sends i (fun _ => [h.t0, h.t1]) (fun _ _ => List.range h.arity) oneCycle noFlags
    (fun s f => (r s f).getD f.tagOf) (fun s f => (r s f).isSome = true)
    (fun s f k => ∃ q, r s f = some q ∧
      k = { fwdTok f h (f.first h.arity) (f.op 0) false with tag := q.1, depth := q.2 })

end Sys2Proof.Machine

/-- R102 to R106, R101, R112: STEER sends A on the target that bit 0 of B selects, and only that target's tag action counts;
MERGE sends the token that arrived first, MERGE.ORD the one that C selects, and each leaves the other port alone; MOV sends
A, or a literal; MOV4 sends A on four targets; NULL and PURGE send a token of their kind with no data. -/
def Claims.FlowInstructionsSend : Prop := ∀ (h : Hdr) (l : Lit) (t2 t3 : Target),
  let both (_ : Firing) : List Target := [h.t0, h.t1]
  FlowSends (.steer h) h (fun f => [if (f.op 1).data.getLsbD 0 then h.t0 else h.t1]) false (fun _ _ => 0) [1] notAlone ∧
  FlowSends (.merge h) h both false (fun _ _ => 0) [] (arrivedFirst 0) ∧
  FlowSends (.merge h) h both false (fun _ _ => 1) [] (arrivedFirst 1) ∧
  FlowSends (.mergeOrd h) h both false (fun _ f => if (f.op 2).data.getLsbD 0 then 1 else 0) [2] notAlone ∧
  (h.arity = 1 → FlowSends (.mov h l) h both true (fun _ _ => 0) [] notAlone) ∧
  (h.arity = 0 → Sends (.mov h l) both (fun _ _ => []) oneCycle noFlags (fun _ f => f.tagOf) notAlone (fun _ f k =>
    ∃ d, k = newTok f h [] none h.fmt false d ∧
      Holds false h.fmt h.fmt.width d (fun _ => (litBits h.fmt l).setWidth _))) ∧
  FlowSends (.mov4 h t2 t3) h (fun _ => [h.t0, h.t1, t2, t3]) true (fun _ _ => 0) [] notAlone ∧
  LaneSends (.null h) h oneCycle noFlags (fun _ f k =>
    k = { newScalar f h .s4 0 with flags := (newScalar f h .s4 0).flags ||| 32 }) ∧
  LaneSends (.purge h) h oneCycle noFlags (fun _ f k => k = { newScalar f h .s4 0 with ma := .purge })

/-- R107: a STREAM_END that fires MOV, MOV4, STEER, MERGE, MERGE.ORD or LCARRY alone is sent on every target, its level
following the tag action's change of DEPTH, and consumes nothing else. -/
def Claims.StreamEndsPassFlowNodes : Prop := ∀ (h : Hdr) (l : Lit) (t2 t3 : Target) (level : Nat),
  let sends (ts : List Target) (_ : State) (f : Firing) : List Send :=
    ts.map (fun g => .marker g (fwdTok f h [f.ent.alone.getD {}] (f.ent.alone.getD {}) false))
  let ok (_ : State) (f : Firing) : Prop := f.ent.alone.isSome = true
  let none_ (_ : State) (_ : Firing) : List Nat := []
  Issues (.mov h l) (sends [h.t0, h.t1]) none_ ok ∧
  Issues (.mov4 h t2 t3) (sends [h.t0, h.t1, t2, t3]) none_ ok ∧
  Issues (.steer h) (sends [h.t0, h.t1]) none_ ok ∧
  Issues (.merge h) (sends [h.t0, h.t1]) none_ ok ∧
  Issues (.mergeOrd h) (sends [h.t0, h.t1]) none_ ok ∧
  Issues (.lcarry h level) (sends [h.t0, h.t1]) none_ ok ∧
  ∀ (tl : BitVec 96) (x : Site) (g : Target) (t : Tok),
    let lv : Int := (fld t.side.toNat 0 4 : Nat) + depthChange (tgtAct g) t.depth
    (lv = 0 → markerOn tl x g t = some []) ∧
    (lv ≠ 0 → markerOn tl x g t = (onTarget tl x g t).map (fun r => r.map (fun u => { u with side := BitVec.ofInt 32 lv })))

/-- R108 to R111: TAGPUSH, TAGPOP, TAGINC and TAGSET send A with the changed tag, before its targets' tag actions; TAGGET
sends the tag, a level of it or DEPTH in a new scalar token. -/
def Claims.TagInstructionsSend : Prop := ∀ (h : Hdr) (l : Lit) (sel : TagSel) (level : Nat),
  let tl (s : State) (f : Firing) : BitVec 96 := (s.ctx f.ent.ctx).tl
  TagSends (.tagpush h l) h (fun s f =>
    tagPush (tl s f) f.tagOf (if h.arity = 2 then ((f.op 1).data.extractLsb' 0 32).toNat else l.lo.toNat)) ∧
  TagSends (.tagpop h) h (fun s f => tagPop (tl s f) f.tagOf) ∧
  TagSends (.taginc h) h (fun s f => tagIncBy (tl s f) f.tagOf 1) ∧
  TagSends (.tagset h level) h (fun s f =>
    let k := levelOf f level
    let v := ((f.op 1).data.extractLsb' 0 32).toNat
    if 1 ≤ k ∧ k ≤ f.ent.depth ∧ v < 2 ^ lvlWidth (tl s f) k then some (setLvl (tl s f) f.ent.tag k v, f.ent.depth)
    else none) ∧
  LaneSends (.tagget h sel level) h oneCycle noFlags (fun s f k =>
    let n := levelOf f level
    match sel with
    | .tagv => k = newScalar f h .tag (f.ent.tag.setWidth 512)
    | .lvl => k = newScalar f h .z32
        (if 1 ≤ n ∧ n ≤ f.ent.depth then BitVec.ofNat 512 (lvl (tl s f) f.ent.tag n) else 0)
    | .dep => k = newScalar f h .z32 (BitVec.ofNat 512 f.ent.depth))

/-- R13, R56: what the tag actions do to the levels of a tag whose levels fit 64 bits, and when they raise TAG_OVERFLOW. -/
def Claims.TagActionsChangeLevels : Prop := ∀ (tl : BitVec 96) (tag : W64) (d v : Nat),
  lvlLo tl (nlev tl) ≤ 64 → d ≤ nlev tl → nlev tl ≤ 15 →
  ((tagPush tl (tag, d) v).isSome = true ↔ d < nlev tl ∧ v < 2 ^ lvlWidth tl (d + 1)) ∧
  (∀ r, tagPush tl (tag, d) v = some r → r.2 = d + 1 ∧ lvl tl r.1 (d + 1) = v ∧
    ∀ k, 1 ≤ k → k ≤ nlev tl → k ≠ d + 1 → lvl tl r.1 k = lvl tl tag k) ∧
  ((tagPop tl (tag, d)).isSome = true ↔ 0 < d) ∧
  (∀ r, tagPop tl (tag, d) = some r → r.2 = d - 1 ∧ lvl tl r.1 d = 0 ∧
    ∀ k, 1 ≤ k → k ≤ nlev tl → k ≠ d → lvl tl r.1 k = lvl tl tag k) ∧
  ((tagIncBy tl (tag, d) v).isSome = true ↔ 0 < d ∧ lvl tl tag d + v < 2 ^ lvlWidth tl d) ∧
  (∀ r, tagIncBy tl (tag, d) v = some r → r.2 = d ∧ lvl tl r.1 d = lvl tl tag d + v ∧
    ∀ k, 1 ≤ k → k ≤ nlev tl → k ≠ d → lvl tl r.1 k = lvl tl tag k) ∧
  ((tagSetCur tl (tag, d) v).isSome = true ↔ 0 < d ∧ v < 2 ^ lvlWidth tl d) ∧
  (∀ r, tagSetCur tl (tag, d) v = some r → r.2 = d ∧ lvl tl r.1 d = v ∧
    ∀ k, 1 ≤ k → k ≤ nlev tl → k ≠ d → lvl tl r.1 k = lvl tl tag k) ∧
  ((tagAct tl (.popto v) (tag, d)).isSome = true ↔ v ≤ d) ∧
  (∀ r, tagAct tl (.popto v) (tag, d) = some r → r.2 = v ∧
    ∀ k, 1 ≤ k → k ≤ nlev tl → lvl tl r.1 k = if k ≤ v then lvl tl tag k else 0)

/-- R199, R202: LCARRY passes its port 0 in iteration 0 and its port 1 in any other, and stops its context with LOOP_ORDER
otherwise, its token kept; MARK sends a marker that closes the level, behind A on each target with PASS. -/
def Claims.LoopCarryAndMark : Prop := ∀ (h : Hdr) (level : Nat) (pass : Bool),
  let at_ (s : State) (f : Firing) : Nat := lvl (s.ctx f.ent.ctx).tl f.ent.tag (levelOf f level)
  let inRange (f : Firing) : Prop := 1 ≤ levelOf f level ∧ levelOf f level ≤ f.ent.depth
  FlowSends (.lcarry h level) h (fun _ => [h.t0, h.t1]) false (fun _ _ => 0) []
    (fun s f => arrivedFirst 0 s f ∧ inRange f ∧ at_ s f = 0) ∧
  FlowSends (.lcarry h level) h (fun _ => [h.t0, h.t1]) false (fun _ _ => 1) []
    (fun s f => arrivedFirst 1 s f ∧ inRange f ∧ at_ s f ≠ 0) ∧
  (∀ s f, s.cur = some f → f.ent.alone = none →
    (¬ inRange f ∨ arrivedFirst 0 s f ∧ at_ s f ≠ 0 ∨ arrivedFirst 1 s f ∧ at_ s f = 0) →
    exec (.lcarry h level) s = .next (State.refuse { s with cur := none } f .loopOrder 0 0)) ∧
  (let a (f : Firing) : Tok := fwdTok f h (f.first h.arity) (f.op 0) false
   let m (s : State) (f : Firing) : Tok :=
    { ctx := f.ent.ctx, depth := levelOf f level - 1, tag := tagUpTo (s.ctx f.ent.ctx).tl f.ent.tag (levelOf f level - 1),
      ma := outMa h, pri := outPri f h, side := BitVec.ofNat 32 (levelOf f level), flags := 2 }
   Issues (.mark h level pass)
    (fun s f => [h.t0, h.t1].flatMap (fun g => (if pass then [Send.tok g (a f)] else []) ++ [.marker g (m s f)]))
    (fun _ _ => List.range h.arity)
    (fun s f => inRange f ∧ ∀ g ∈ [h.t0, h.t1], (tagAct (s.ctx f.ent.ctx).tl (tgtAct g) f.tagOf).isSome = true))

namespace Sys2Proof.Machine

/-- The state in which a firing of `h` has consumed its operands. -/
def consumedBy (s : State) (f : Firing) (h : Hdr) : State := s.consume f (List.range h.arity)

/-- Poisoned tokens among some (R100). -/
def poisoned (l : List Tok) : Nat := (l.filter (fun t => t.flag .poison)).length

end Sys2Proof.Machine

/-- R100: EXIT consumes its operands, counts poisoned ones in PSNDROP and adds one to XFIRED; the instance retires at once
when XFIRED then equals EXITS, its masked stores have performed and no firing that makes an exit of it has tokens left to send,
and lives on otherwise. At a site whose context is
configured twice it goes through the comparator as a token for the exit sink (R371). -/
def Claims.ExitCountsAndRetires : Prop := ∀ (h : Hdr) (s : State) (f : Firing) (u : Nat) (e : DirEnt) (b : Blk),
  WellFormed (.exit h) = true → Clear s f [] f.tagOf 0 1 → s.dualSite f.x f.ent.ctx = false →
  f.ent.uid = some u → ((consumedBy s f h).cell f.x).ent u = some e → e.bind = false → e.dying = false →
  (s.cell f.x).blkAt e.ctx e.blk = some b →
  ∃ t, exec (.exit h) s = .next t ∧
    (t.cell f.x).ctr.psndrop = (if poisoned (f.first h.arity) = 0 then (s.cell f.x).ctr.psndrop
      else satAdd 48 (s.cell f.x).ctr.psndrop (poisoned (f.first h.arity))) ∧
    (t.cell f.x).pipe.deps = (s.cell f.x).pipe.deps ∧ (t.ctx f.ent.ctx).aflags = (s.ctx f.ent.ctx).aflags ∧
    (e.xfired + 1 = b.exits ∧ b.stores &&& ~~~e.sdone = 0 ∧ s.exitsLeft f.x u = false → (t.cell f.x).ent u = none) ∧
    (¬ (e.xfired + 1 = b.exits ∧ b.stores &&& ~~~e.sdone = 0 ∧ s.exitsLeft f.x u = false) →
      ∃ r, (t.cell f.x).ent u = some { e with xfired := e.xfired + 1, ready := r })

/-- R100, R371: an EXIT at a site that is compared sends a token for the exit sink, which counts its own poison there, and counts every
further poisoned operand in PSNDROP at once. -/
def Claims.ExitOfComparedSite : Prop := ∀ (h : Hdr),
  Sends (.exit h) (fun _ => [.special .none .exit]) (fun _ _ => List.range h.arity) oneCycle noFlags (fun _ f => f.tagOf)
    (fun s f => s.dualSite f.x f.ent.ctx = true ∧ poisoned (f.first h.arity) ≤ 1) (fun _ f k => k = newScalar f h .s4 0) ∧
  ∀ s f, WellFormed (.exit h) = true → s.dualSite f.x f.ent.ctx = true → Clear s f [.special .none .exit] f.tagOf 0 0 →
    ∃ t, exec (.exit h) s = .next t ∧
      Emits s t f 1 0 (List.range h.arity) (onTargets (s.ctx f.ent.ctx).tl f.x [.special .none .exit] (newScalar f h .s4 0)) ∧
      (t.cell f.x).ctr.psndrop = (if poisoned (f.first h.arity) ≤ 1 then (s.cell f.x).ctr.psndrop
        else satAdd 48 (s.cell f.x).ctr.psndrop (poisoned (f.first h.arity) - 1))

/-- R163, R200: LBOUND sends a start token whose iteration lies within K of its window's base, on both targets, and admits it;
holds any other start token as a spilled one; marks a completion in the window that awaits it; counts a stray completion in
NULLMISS; and forwards a marker whose window holds no start token and awaits none from the spill area, closing the window, or holds it in
its window otherwise; a marker of no open window goes on alone. Clauses on which the spec is silent
follow the model's choices (assumptions 22, 76). -/
def Obligations.LoopBoundAdmitsAndCompletes : Prop :=
  ∀ (h : Hdr) (km1 : Nat) (s : State) (f : Firing) (tok : Tok), f.ent.alone = some tok → s.cur = some f →
  let c := s.cell f.x
  let tl := (s.ctx f.ent.ctx).tl
  let lv := tok.depth
  let i := lvl tl tok.tag lv
  let pfx := tagUpTo tl tok.tag (lv - 1)
  let both (t : Tok) : List Send := [.tok h.t0 t, .tok h.t1 t]
  -- a start token within the bound of an open window that holds no marker
  (∀ w toks, tok.port = 0 → tok.flag .streamEnd = false → 1 ≤ lv → c.openWin f.ent.ctx f.ent.node lv pfx = some w →
    w.mkh = none → w.base ≤ i → i < w.base + (km1 + 1) → sendList tl f.x (both (fwdTok f h [tok] tok false)) = some toks →
    s.exitExcess f (toks.filter Tok.isExit).length = false →
    ∃ t, exec (.lbound h km1) s = .next t ∧ Emits s t f 1 0 [] toks ∧
      (t.cell f.x).openWin f.ent.ctx f.ent.node lv pfx = some { w with adm := w.adm ||| BitVec.ofNat 64 (2 ^ (i - w.base)) }) ∧
  -- a completion of an admitted iteration, and a stray one
  (tok.port = 1 → 1 ≤ lv → ∃ t, exec (.lbound h km1) s = .next t ∧
    (t.cell f.x).pipe.deps = (s.cell f.x).pipe.deps ∧
    match iterComplete f.ent.ctx f.ent.node lv pfx i c.lbs with
    | some l => (t.cell f.x).lbs = l
    | none => (t.cell f.x).lbs = c.lbs ∧ (t.cell f.x).ctr.nullmiss = satAdd 48 c.ctr.nullmiss 1) ∧
  -- a marker whose window holds no start token
  (∀ w toks, tok.port = 0 → tok.flag .streamEnd = true → c.openWin f.ent.ctx f.ent.node (fld tok.side.toNat 0 4) tok.tag = some w →
    w.held = 0 → s.startsSpilled f.x f.ent.ctx f.ent.node (fld tok.side.toNat 0 4) tok.tag = false →
    sendList tl f.x [.marker h.t0 (fwdTok f h [tok] tok false), .marker h.t1 (fwdTok f h [tok] tok false)] = some toks →
    s.exitExcess f (toks.filter Tok.isExit).length = false →
    ∃ t, exec (.lbound h km1) s = .next t ∧ Emits s t f 1 0 [] toks ∧
      (t.cell f.x).openWin f.ent.ctx f.ent.node (fld tok.side.toNat 0 4) tok.tag =
        (c.lbs.filter (fun v => v.is f.ent.ctx f.ent.node (fld tok.side.toNat 0 4) tok.tag && !v.closed)).dropLast.getLast?) ∧
  -- a marker whose window holds a start token, or has one to come from the spill area, waits there
  (∀ w, tok.port = 0 → tok.flag .streamEnd = true → c.openWin f.ent.ctx f.ent.node (fld tok.side.toNat 0 4) tok.tag = some w →
    w.held > 0 ∨ s.startsSpilled f.x f.ent.ctx f.ent.node (fld tok.side.toNat 0 4) tok.tag = true →
    ∃ t, exec (.lbound h km1) s = .next t ∧ Emits s t f 1 0 [] [] ∧
      (t.cell f.x).openWin f.ent.ctx f.ent.node (fld tok.side.toNat 0 4) tok.tag = some { w with mkh := some tok }) ∧
  -- a marker of no open window
  (∀ toks, tok.port = 0 → tok.flag .streamEnd = true → c.openWin f.ent.ctx f.ent.node (fld tok.side.toNat 0 4) tok.tag = none →
    s.startsSpilled f.x f.ent.ctx f.ent.node (fld tok.side.toNat 0 4) tok.tag = false →
    sendList tl f.x [.marker h.t0 (fwdTok f h [tok] tok false), .marker h.t1 (fwdTok f h [tok] tok false)] = some toks →
    s.exitExcess f (toks.filter Tok.isExit).length = false →
    ∃ t, exec (.lbound h km1) s = .next t ∧ Emits s t f 1 0 [] toks ∧ (t.cell f.x).lbs = c.lbs)


namespace Sys2Proof.Machine

/-- An access has taken its place in its wave buffer between `s`, in which it passed its checks, and `t` (R258, R272, R274,
R276): its operands are consumed, nothing has left S6, no byte of memory has changed, and a store is marked in SPEND. A replayed one
keeps the place it took when it issued (R252). -/
structure Waits (s t : State) (f : Firing) (h : Hdr) (q : Ask) (l : Loc) (toks : List Tok) (b c : Nat) : Prop where
  acc : ∃ a, (match s.checking f with
      | none => t.msys.accs = s.msys.accs ++ [a] ∧ t.msys.nextId = a.id + 1 ∧ a.id = s.msys.nextId
      | some o => t.msys.accs = lmap (fun b => b.id == o.id) (fun _ => a) s.msys.accs ∧ a.id = o.id ∧ a.prior = o.prior) ∧ a.st = .wait ∧
    a.x = f.x ∧ a.ctx = f.ent.ctx ∧ a.uid = f.ent.uid ∧ a.pos = f.pos ∧ a.tag = f.ent.tag ∧ a.depth = f.ent.depth ∧
    a.kind = q.kind ∧ a.store = q.store ∧ a.vec = q.vec ∧ a.fmt = h.fmt ∧ a.space = l.space ∧ a.die = l.die ∧ a.mtr = l.mtr ∧
    a.addr = l.addr ∧ a.size = q.size ∧ a.region = q.c.region ∧ a.wpred = q.c.wpred ∧ a.wsucc = q.c.wsucc ∧
    a.scope = q.c.scope ∧ a.acq = q.c.acq ∧ a.rel = q.c.rel ∧ a.b = f.op b ∧ a.c = f.op c ∧ a.outs = toks ∧
    a.poison = (q.store && ((f.op b).flag .poison || (f.op c).flag .poison))
  bytes : ∀ a, t.byte a = s.byte a
  slots : (t.cell f.x).slots = ((s.consume f (List.range h.arity)).cell f.x).slots
  deps : (t.cell f.x).pipe.deps = (s.cell f.x).pipe.deps
  ctxs : ∀ c, t.ctx c = (s.progress f.ent.ctx).ctx c
  spend : ∀ u e, f.ent.uid = some u → (s.cell f.x).ent u = some e → (∀ d ∈ (s.cell f.x).dir, d.uid = u → d.bind = false) →
    ∃ r, (t.cell f.x).ent u = some { e with ready := r, spend := if q.store then setBit e.spend f.pos else e.spend }
  cur : t.cur = none

/-- The instruction `i` is a memory access: every firing of it that meets `ok`, whose A is not poisoned and whose checks at
issue succeed in `s1` (R274), takes its place in its wave buffer with its result tokens, their tag actions applied. -/
def Accesses (i : Instr) (h : Hdr) (q : Firing → Ask) (out : Firing → Loc → List Send) (b c : Nat)
    (ok : State → Firing → Prop) : Prop :=
  ∀ s f l s1 toks, WellFormed i = true → ok s f → s.cur = some f → (f.op 0).flag .poison = false →
    State.place { s with cur := none } f (q f) (f.op 0).w64 = (.ok l, s1) →
    sendList (s1.ctx f.ent.ctx).tl f.x (out f l) = some toks → s1.exitExcess f (toks.filter Tok.isExit).length = false →
    ∃ t, exec i s = .next t ∧ Waits s1 t f h (q f) l toks b c

/-- A token on both targets. -/
def onBoth (h : Hdr) (t : Tok) : List Send := [.tok h.t0 t, .tok h.t1 t]

/-- The token of a load, an atomic or a LDR, before its bytes are read (R275). -/
def resultTok (f : Firing) (h : Hdr) (fmt : Ty) (vec : Bool) : Tok := newTok f h (f.first h.arity) (some (f.op 0)) fmt vec 0

/-- A completion token (R275): a scalar with no data, flag bit 7 set. -/
def completion (f : Firing) (h : Hdr) : Tok :=
  let t := newTok f h (f.first h.arity) none .s4 false 0
  { t with flags := t.flags ||| 128 }

/-- The size of an access and its alignment (R273): a vector is 64 bytes aligned to 4, a scalar its own size. -/
def askOf (h : Hdr) (c : MemCtl) (kind : AccKind) (store vec : Bool) : Ask :=
  ⟨h, c, kind, store, vec, if vec then 64 else scalarBytes h.fmt, if vec then 4 else scalarBytes h.fmt⟩

/-- The request token of LDM or STM (R278, R279). -/
def requestTok (f : Firing) (h : Hdr) (c : MemCtl) (st : Bool) (l : Loc) : Tok :=
  let v := if st then (f.op 1).vec else c.vec
  let n := if v then 64 else scalarBytes h.fmt
  { newTok f h (f.first h.arity) none h.fmt (st && v) (if st then (f.op 1).data else 0) with
    lmask := if st && v then (f.op 1).lmask else 1
    req := some (reqExt st.toNat c.scope.code (Nat.log2 n) l.addr (respDest f.x h.t1) (!st || !h.t1.isNone)
      (if st then c.rel else c.acq)) }

end Sys2Proof.Machine

/-- R274 to R279, R288: loads, stores, the request nodes and LDR take their place in their wave buffer, with the size,
alignment, data and result tokens the spec gives them; no byte of memory changes then. A vector store whose LMASK is zero
writes nothing and has performed at once (R277). -/
def Claims.LoadsAndStoresIssue : Prop := ∀ (h : Hdr) (c : MemCtl),
  let any (_ : State) (_ : Firing) : Prop := True
  let some_ (_ : State) (f : Firing) : Prop := ¬ ((f.op 1).vec = true ∧ (f.op 1).lmask = 0)
  let ld (i : Instr) : Prop :=
    Accesses i h (fun _ => askOf h c .load false c.vec) (fun f _ => onBoth h (resultTok f h h.fmt c.vec)) 1 3 any
  let st (i : Instr) : Prop :=
    Accesses i h (fun f => askOf h c .store true (f.op 1).vec) (fun f _ => onBoth h (completion f h)) 1 3 some_
  ld (.ld h c) ∧ ld (.ldG h c) ∧ st (.st h c) ∧ st (.stG h c) ∧
  Accesses (.ldr h c) h (fun _ => ⟨h, c, .ldr, false, true, 64, 64⟩) (fun f _ => onBoth h (resultTok f h .z32 true)) 3 3 any ∧
  Accesses (.ldm h c) h (fun _ => askOf h c (.mem 0) false c.vec) (fun f l => [.tok h.t0 (requestTok f h c false l)]) 1 3 any ∧
  Accesses (.stm h c) h (fun f => askOf h c (.mem 1) true (f.op 1).vec) (fun f l => [.tok h.t0 (requestTok f h c true l)]) 1 3 any ∧
  ∀ s f l s1 toks, WellFormed (.st h c) = true ∨ WellFormed (.stG h c) = true → s.cur = some f →
    (f.op 0).flag .poison = false → (f.op 1).vec = true → (f.op 1).lmask = 0 →
    State.place { s with cur := none } f (askOf h c .store true true) (f.op 0).w64 = (.ok l, s1) →
    sendList (s1.ctx f.ent.ctx).tl f.x (onBoth h (completion f h)) = some toks →
    s1.exitExcess f (toks.filter Tok.isExit).length = false →
    ∃ t, exec (.st h c) s = .next t ∧ exec (.stG h c) s = .next t ∧ (∀ a, t.byte a = s1.byte a) ∧
      t.answersTo f.x = s1.answersTo f.x ++ (if toks.isEmpty then [] else
        [⟨f.ent.ctx, f.ent.uid, f.ent.node, s1.cycle + 1, s1.waveId f, 600000 + siteKey f.x, toks.any Tok.isExit, toks⟩])

/-- R284, R289, R290: atomics and CMLS take their place in their wave buffer; a CMLS whose descriptor uses no line performs
at once, and one whose lines meet at equal offsets is refused with CMLS_SPAN. -/
def Claims.AtomicsIssue : Prop := ∀ (h : Hdr) (c : MemCtl),
  let any (_ : State) (_ : Firing) : Prop := True
  let rmw (i : Instr) (op k : Nat) : Prop :=
    Accesses i h (fun _ => ⟨h, c, .rmw op, true, false, scalarBytes h.fmt, scalarBytes h.fmt⟩)
      (fun f _ => onBoth h (resultTok f h h.fmt false)) 1 k any
  let word (f : Firing) : Tok := newTok f h (f.first h.arity) none .z32 false 0
  let q : Ask := ⟨h, c, .cmls, true, false, 128, 128⟩
  rmw (.aadd h c) 0 3 ∧ rmw (.afadd h c) 1 3 ∧ rmw (.amin h c) 2 3 ∧ rmw (.amax h c) 3 3 ∧ rmw (.aand h c) 4 3 ∧
  rmw (.aor h c) 5 3 ∧ rmw (.axor h c) 6 3 ∧ rmw (.axchg h c) 7 3 ∧ rmw (.acas h c) 8 2 ∧
  (∀ s f l s1 toks, WellFormed (.cmls h c) = true → s.cur = some f → (f.op 0).flag .poison = false → (f.op 0).vec = true →
    State.cmlsCheck { s with cur := none } f q (cmlsLines (f.op 0)) = (.ok (some l), s1) →
    ((cmlsLines (f.op 0)).map (fun p => p.2)).Nodup →
    sendList (s1.ctx f.ent.ctx).tl f.x (onBoth h (word f)) = some toks →
    s1.exitExcess f (toks.filter Tok.isExit).length = false →
    ∃ t, exec (.cmls h c) s = .next t ∧ Waits s1 t f h q l toks 1 2) ∧
  (∀ s f toks, s.cur = some f → (f.op 0).flag .poison = false → (f.op 0).vec = true → (f.op 0).lmask &&& 15 = 0 →
    sendList (s.ctx f.ent.ctx).tl f.x (onBoth h (word f)) = some toks →
    s.exitExcess f (toks.filter Tok.isExit).length = false →
    ∃ t, exec (.cmls h c) s = .next t ∧ (∀ a, t.byte a = s.byte a) ∧
      t.answersTo f.x = s.answersTo f.x ++ (if toks.isEmpty then [] else
        [⟨f.ent.ctx, f.ent.uid, f.ent.node, s.cycle + 1, s.waveId f, 600000 + siteKey f.x, toks.any Tok.isExit, toks⟩])) ∧
  (∀ s f l s1, s.cur = some f → (f.op 0).flag .poison = false → (f.op 0).vec = true →
    State.cmlsCheck { s with cur := none } f q (cmlsLines (f.op 0)) = (.ok (some l), s1) →
    ¬ ((cmlsLines (f.op 0)).map (fun p => p.2)).Nodup →
    exec (.cmls h c) s = .next (s1.refuse f .cmlsSpan 0 0)) ∧
  (∀ s f, s.cur = some f → (f.op 0).flag .poison = false → (f.op 0).vec = false →
    exec (.cmls h c) s = .next (State.refuse { s with cur := none } f .cmlsSpan 0 0))

/-- R263, R281, R282: ORDTOK and FENCE take their place in their wave buffer; the join form and FENCE hold a completion, the
port form of ORDTOK a request. -/
def Claims.OrderingInstructionsIssue : Prop := ∀ (h : Hdr) (c : MemCtl) (s : State) (f : Firing) (toks : List Tok),
  let l : Loc := ⟨.virt, f.x.die, 0, 0, 0, 0, 0⟩
  let port : Prop := ∃ a m, h.t0 = .special a (.memnode m)
  let req : Tok := { newTok f h (f.first h.arity) none .s4 false 0 with
    req := some (reqExt 2 c.scope.code 0 0 (respDest f.x h.t1) true false) }
  let enters (i : Instr) (kind : AccKind) (sends : List Send) : Prop :=
    WellFormed i = true → s.cur = some f → sendList (s.ctx f.ent.ctx).tl f.x sends = some toks →
    s.exitExcess f (toks.filter Tok.isExit).length = false →
    ∃ t, exec i s = .next t ∧ Waits s t f h ⟨h, c, kind, false, false, 0, 1⟩ l toks 3 3
  (¬ port → enters (.ordtok h c) .ord (onBoth h (completion f h))) ∧
  (port → enters (.ordtok h c) .ord [.tok h.t0 req]) ∧
  enters (.fence h c) .fence (onBoth h (completion f h))

/-- R94, R274, R361: a memory instruction whose A is poisoned is refused with POISON_ADDR and the offset, and one whose
checks fail parks with what failed, its operands consumed, and keeps the place in its wave that it took as it issued (R252, R258). -/
def Claims.MemoryChecksStopAccess : Prop := ∀ (h : Hdr) (c : MemCtl) (s : State) (f : Firing),
  s.cur = some f →
  let s0 : State := { s with cur := none }
  let o := (f.op 0).w64
  let stops (i : Instr) (q : Ask) : Prop :=
    ((f.op 0).flag .poison = true → exec i s = .next (s0.refuse f .poisonAddr o 0)) ∧
    (∀ b s1, (f.op 0).flag .poison = false → s0.place f q o = (.error b, s1) →
      exec i s = .next (s1.parkAsk f q b) ∧
      (s1.checking f = none → ∃ a ∈ (s1.parkAsk f q b).msys.accs, a.id = s1.msys.nextId ∧ a.st = .check ∧ a.x = f.x ∧
        a.uid = f.ent.uid ∧ a.pos = f.pos ∧ a.store = q.store ∧ a.region = q.c.region ∧ a.wpred = q.c.wpred ∧ a.wsucc = q.c.wsucc))
  let v := (f.op 1).vec
  stops (.ld h c) (askOf h c .load false c.vec) ∧ stops (.ldG h c) (askOf h c .load false c.vec) ∧
  stops (.st h c) (askOf h c .store true v) ∧ stops (.stG h c) (askOf h c .store true v) ∧
  stops (.ldr h c) ⟨h, c, .ldr, false, true, 64, 64⟩ ∧
  stops (.ldm h c) (askOf h c (.mem 0) false c.vec) ∧ stops (.stm h c) (askOf h c (.mem 1) true v) ∧
  stops (.aadd h c) ⟨h, c, .rmw 0, true, false, scalarBytes h.fmt, scalarBytes h.fmt⟩ ∧
  stops (.acas h c) ⟨h, c, .rmw 8, true, false, scalarBytes h.fmt, scalarBytes h.fmt⟩

/-- R237, R239, R274: where an access goes, and the fault that a failed check gives: a generic address outside every aperture,
a byte in no region, a region of a mode that takes no access, SDM that another tenant owns, an offset beyond the bound, and an
address that is not aligned. -/
def Claims.AccessChecks : Prop := ∀ (s : State) (f : Firing) (q : Ask) (o : Nat),
  let c := f.ent.ctx
  (q.c.region = none → genericOf f.x.die o = none → s.place f q o = (.error (.fault .aperture o), s)) ∧
  (∀ d b, q.c.region = none → genericOf f.x.die o = some (.mt, d, b) → (s.cell f.x).mt.regionAt b = none →
    s.place f q o = (.error (.fault .mtMode o), s)) ∧
  (∀ d a, q.c.region = none → genericOf f.x.die o = some (.virt, d, a) → (∀ m, q.kind ≠ .mem m) →
    s.place f q o = (if a % q.align = 0 then (.ok ⟨.virt, d, 0, a, 0, 0, o⟩, s) else (.error (.fault .align o), s))) ∧
  (∀ d a, q.c.region = none → genericOf f.x.die o = some (.sdm, d, a) → q.kind ≠ .ldr → q.kind ≠ .cmls →
    s.place f q o = (if s.sdmOwned d a q.size (s.ctx c).tenant = false then (.error (.fault .prot o), s)
      else if a % q.align = 0 then (.ok ⟨.sdm, d, 0, a, 0, 0, o⟩, s) else (.error (.fault .align o), s))) ∧
  (∀ hd, q.c.region = some hd → (s.ctx c).htlast < hd →
    s.place f q o = (.error (.fault .handleInvalid o), s)) ∧
  (∀ hd e s1, q.c.region = some hd → hd ≤ (s.ctx c).htlast → s.handleEntry f.x c hd = (.ok e, s1) → e.valid = false →
    s.place f q o = (.error (.fault .handleInvalid o), s1)) ∧
  (∀ hd e s1, q.c.region = some hd → hd ≤ (s.ctx c).htlast → s.handleEntry f.x c hd = (.ok e, s1) → e.valid = true →
    e.space = 0 → ¬ (12 ≤ e.pclass ∧ e.pclass ≤ 14) → e.res = 0 → e.bound ≠ 0 → e.base + e.bound ≤ 2 ^ 57 → (∀ m, q.kind ≠ .mem m) →
    s.place f q o = (if e.bound < o + q.size then (.error (.fault .handleBound (e.base + o)), s1)
      else if (e.base + o) % q.align = 0 then (.ok ⟨.virt, f.x.die, 0, e.base + o, e.policy, e.fmti, e.base + o⟩, s1)
      else (.error (.fault .align (e.base + o)), s1)))

/-- R228, R229, R274: a region takes an access by its mode: an OPSTORE or LINE region bytes of its operand or line, a FIFO one
whole entry, and a key store none. -/
def Claims.RegionModes : Prop := ∀ (m : MTile) (k off n : Nat) (write : Bool),
  (m.mode k = 0 → m.check k off n write = if off + n > m.size k then some .mtRange else none) ∧
  (m.mode k = 1 → m.check k off n write = if off ≠ 0 ∨ n ≠ m.size k then some .mtRange else none) ∧
  (m.mode k = 2 → 0 < m.size k → m.check k off n true = if off + n > m.size k then some .mtRange else none) ∧
  (m.mode k = 2 → 0 < m.size k → m.check k off n false =
    if (m.depth k + 1) * m.size k ≤ off ∨ m.size k < off % m.size k + n then some .mtRange else none) ∧
  (m.mode k = 3 → m.check k off n write = some .mtMode)

/-- R283, R291 to R293: PREF sends A on and raises no fault; GTOH and HTOG convert between a generic address and an offset of a
handle; APTEST tells which aperture a generic address lies in. -/
def Claims.AddressInstructions : Prop := ∀ (h : Hdr) (handle n : Nat) (s : State) (f : Firing),
  s.cur = some f →
  let s0 : State := { s with cur := none }
  let o := (f.op 0).w64
  let number (i : Instr) (s1 : State) (fmt : Ty) (v : Nat) : Prop := WellFormed i = true →
    Clear { s1 with cur := some f } f [h.t0, h.t1] f.tagOf 0 0 →
    ∃ t, exec i s = .next t ∧ Kept s1 t f ∧
      Emits s1 t f 1 0 (List.range h.arity) (onTargets (s1.ctx f.ent.ctx).tl f.x [h.t0, h.t1] (newScalar f h fmt (BitVec.ofNat 512 v)))
  let sent (i : Instr) : Prop := WellFormed i = true → Clear s f [h.t0, h.t1] f.tagOf 0 0 →
    ∃ t, exec i s = .next t ∧ t.latches = s.latches ∧ t.parked = s.parked ∧
      (t.cell f.x).slots = ((s.consume f (List.range h.arity)).cell f.x).slots ∧
      ∃ due, (t.cell f.x).pipe.deps = (s.cell f.x).pipe.deps ++
        (let out := (onTargets (s.ctx f.ent.ctx).tl f.x [h.t0, h.t1] (fwdTok f h (f.first h.arity) (f.op 0) false)).filter
          (fun u => !(s.cell f.x).inward f.x u)
         if out.isEmpty then [] else [⟨f.ent.ctx, f.ent.uid, f.ent.node, due, f.ent.ord, 0,
           (onTargets (s.ctx f.ent.ctx).tl f.x [h.t0, h.t1] (fwdTok f h (f.first h.arity) (f.op 0) false)).any Tok.isExit, out⟩])
  sent (.pref h handle n) ∧ sent (.prefG h n) ∧
  (∀ b s1, s0.checkHandle f.x f.ent.ctx handle 0 0 = (.error b, s1) →
    exec (.gtoh h handle) s = .next (s1.park f (List.range h.arity) b)) ∧
  (∀ b s1, s0.checkHandle f.x f.ent.ctx handle o 1 = (.error b, s1) →
    exec (.htog h handle) s = .next (s1.park f (List.range h.arity) b)) ∧
  (∀ e s1, s0.checkHandle f.x f.ent.ctx handle 0 0 = (.ok e, s1) →
    (∀ a, e.space = 0 → genericOf f.x.die o = some (.virt, f.x.die, a) →
      number (.gtoh h handle) s1 .s64 (if e.base ≤ a ∧ a < e.base + e.bound then a - e.base else 2 ^ 64 - 1)) ∧
    (∀ a, e.space = 1 → genericOf f.x.die o = some (.sdm, f.x.die, a) →
      number (.gtoh h handle) s1 .s64 (if e.base ≤ a ∧ a < e.base + e.bound then a - e.base else 2 ^ 64 - 1)) ∧
    (∀ a, e.space = 2 → genericOf f.x.die o = some (.mt, f.x.die, a) → let b := (s1.cell f.x).mt.base e.base
      number (.gtoh h handle) s1 .s64 (if b ≤ a ∧ a < b + e.bound then a - b else 2 ^ 64 - 1)) ∧
    (genericOf f.x.die o = none → number (.gtoh h handle) s1 .s64 (2 ^ 64 - 1))) ∧
  (∀ e s1, s0.checkHandle f.x f.ent.ctx handle o 1 = (.ok e, s1) →
    (e.space = 0 → number (.htog h handle) s1 .s64 (e.base + o)) ∧
    (e.space = 1 → number (.htog h handle) s1 .s64 (0xFC00000000000000 + f.x.die * 2 ^ 34 + (e.base + o))) ∧
    (e.space = 2 → number (.htog h handle) s1 .s64 (0xFE00000000000000 + ((s1.cell f.x).mt.base e.base + o)))) ∧
  (number (.aptest h 0) s0 .z32 (apCode f.x.die o)) ∧
  (n ≠ 0 → number (.aptest h n) s0 .pred (if apCode f.x.die o = n then 1 else 0)) ∧
  (genericOf f.x.die o = none → apCode f.x.die o = 0) ∧
  (∀ d a, genericOf f.x.die o = some (.virt, d, a) → apCode f.x.die o = 1) ∧
  (∀ d a, genericOf f.x.die o = some (.mt, d, a) → apCode f.x.die o = 2)

namespace Sys2Proof.Machine

/-- The bytes from `a` up that `l` names hold its values; every other byte of memory reads as it did. -/
def Writes (s t : State) (a : Nat) (l : List (Option Byte)) : Prop :=
  ∀ b, t.byte b = match (if a ≤ b then (l[b - a]?).join else none) with
    | some v => v
    | none => s.byte b

/-- An access has performed at its scope: it has ended, and its result tokens, each made from the one issued by `P`, are on their way
back to its cell in one answer (R256, R272), unless that went when its path accepted it. -/
def Answered (s t : State) (a : Access) (P : Tok → Tok → Prop) : Prop :=
  (∀ b, t.acc a.id = some b → b.st = .done) ∧
  (a.ans = true ∨ a.outs = [] → t.answersTo a.x = s.answersTo a.x) ∧
  (a.ans = false → a.outs ≠ [] → ∃ d, t.answersTo a.x = s.answersTo a.x ++ [d] ∧ d.ctx = a.ctx ∧ d.uid = a.uid ∧
    d.node = a.node ∧ List.Forall₂ P a.outs d.toks)

/-- An access has performed at its home: at its scope too, but for a store of SYSTEM scope, which may have to wait there for a line that
the host holds, and answers later (R256 Table 2). -/
def Answers (s t : State) (a : Access) (P : Tok → Tok → Prop) : Prop :=
  Answered s t a P ∨ (a.store = true ∧ a.space = .virt ∧ a.scope = .system ∧ (∀ b, t.acc a.id = some b → b.st = .home) ∧
    t.answersTo a.x = s.answersTo a.x)

/-- A completion is as it was issued, but for its departure time. -/
def asIssued (u v : Tok) : Prop := v = { u with sent := v.sent }

/-- A result token that carries `d` and SIDE, poisoned where `p` says so (R275). -/
def carries (d : Payload) (side : Tok → W32) (p : Bool) (u v : Tok) : Prop :=
  v = { u with data := d, side := side u, flags := if p then u.flags ||| 8 else u.flags, sent := v.sent }

/-- The payload of a load of `n` bytes that read as `v` (R277). -/
def Access.loaded (a : Access) (v : Nat) : Payload := if a.vec then BitVec.ofNat 512 v else scalarData a.fmt a.elw v

/-- What an atomic finds and leaves (R284 Table 5). -/
def Access.newValue (a : Access) (op old : Nat) : Nat :=
  atomicNew op a.fmt old (a.b.elem a.fmt.width 0) (a.c.elem a.fmt.width 0)

/-- An access on its way to its home, whose answer serves no shadow. -/
structure Access.Going (s : State) (a : Access) : Prop where
  here : s.acc a.id = some a
  sent : a.st = .sent
  alone : a.twin = none

end Sys2Proof.Machine

/-- R231, R232, R275, R277, R284: an `sdm` access performs at the head of its port: a store writes its bytes and no other, a
load returns the bytes it read, an atomic returns the old value and writes the new one; poison travels with the bytes. -/
def Obligations.SdmAccessPerforms : Prop := ∀ (s : State) (a : Access) (el : Nat) (evict : List Nat),
  a.Going s → a.space = .sdm → ((s.cell a.x).nodeq.getD 0 []).head? = some a.id → s.portBehind a = false →
  (s.sdmCheck a.die a.addr a.size).1 = .ready →
  let at_ := sdmBase a.die + a.addr
  let old := s.num at_ a.size % 2 ^ a.fmt.width
  let psn := s.poisoned at_ a.size
  let performs (l : List (Option Byte)) (P : Tok → Tok → Prop) : Prop :=
    ∃ t, exec (.accessPerform a.id el evict) s = .next t ∧ Writes s t at_ l ∧ Answers s t a P ∧
      (t.cell a.x).nodeq.getD 0 [] = ((s.cell a.x).nodeq.getD 0 []).tail
  (a.kind = .store → performs a.puts asIssued) ∧
  (a.kind = .load → performs [] (carries (a.loaded (s.num at_ a.size)) (fun _ => a.side) psn)) ∧
  (∀ op, a.kind = .rmw op → performs ((leBytes a.size (a.newValue op old)).map some)
    (carries (scalarData a.fmt a.fmt.width old) (fun u => u.side) psn))

/-- R228 to R230: an `mt` access of an operand store or FIFO performs in the order of its region: a store writes the bytes of
its place and no other, a load returns them, and the region's counts and pointers advance. -/
def Claims.MtAccessPerforms : Prop := ∀ (s : State) (a : Access) (el at_ : Nat) (evict : List Nat),
  a.Going s → a.space = .mt → (∀ m, a.kind ≠ .mem m) → (s.cell a.x).mt.mode a.mtr < 2 → s.mtBehind a = false →
  s.mtSpot a.x a.mtr a.addr a.store = some at_ → s.bankCheck a.x (s.bankByte a.x at_) a.size = (.ready, s) →
  let performs (l : List (Option Byte)) (n : Nat) (P : Tok → Tok → Prop) : Prop :=
    ∃ t, exec (.accessPerform a.id el evict) s = .next t ∧ Writes s t at_ l ∧ Answers s t a P ∧
      (t.cell a.x).mt = ((s.mtAdvance a.x a.mtr n a.store).cell a.x).mt
  (a.store = true → performs a.puts a.size asIssued) ∧
  (a.store = false → performs [] a.size (carries (a.loaded (s.num at_ a.size)) (fun _ => a.side) (s.poisoned at_ a.size)))

/-- R228, R229: a FIFO region gives its entries in the order they were put in, and takes none when full; an operand store
becomes full once all its bytes are written, empty once all are read, and turns to its next operand then. -/
def Claims.RegionOrder : Prop := ∀ (s : State) (x : Site) (k off n : Nat), k < 4 → k < (s.cell x).mt.regs.length →
  let m := (s.cell x).mt
  let r := m.regs.getD k {}
  let cap := m.rsize k / m.size k
  let after (w : Bool) : MtReg := (((s.mtAdvance x k n w).cell x).mt).regs.getD k {}
  (m.mode k = 1 → s.mtSpot x k off true = if r.cnt < cap then some (mtBase x + m.base k + (r.head + r.cnt) % cap * m.size k) else none) ∧
  (m.mode k = 1 → s.mtSpot x k off false = if r.cnt = 0 then none else some (mtBase x + m.base k + r.head * m.size k)) ∧
  (m.mode k = 1 → (after true).cnt = r.cnt + 1 ∧ (after true).head = r.head) ∧
  (m.mode k = 1 → (after false).cnt = r.cnt - 1 ∧ (after false).head = (r.head + 1) % cap) ∧
  (m.mode k = 0 → s.mtSpot x k off true = if r.full.getD r.wp false then none else some (mtBase x + m.base k + r.wp * m.size k + off)) ∧
  (m.mode k = 0 → s.mtSpot x k off false = if r.full.getD r.rp false then some (mtBase x + m.base k + r.rp * m.size k + off) else none) ∧
  (m.mode k = 0 → m.size k ≤ r.wc.getD r.wp 0 + n →
    (after true).full.getD r.wp false = true ∧ (after true).wp = (r.wp + 1) % (m.depth k + 1)) ∧
  (m.mode k = 0 → r.wc.getD r.wp 0 + n < m.size k → (after true).full = r.full ∧ (after true).wp = r.wp ∧
    (after true).wc.getD r.wp 0 = r.wc.getD r.wp 0 + n) ∧
  (m.mode k = 0 → m.size k ≤ r.rc.getD r.rp 0 + n →
    (after false).full.getD r.rp false = false ∧ (after false).rp = (r.rp + 1) % (m.depth k + 1))

/-- R256, R257, R273, R275, R277, R284, R288: a `virt` access performs at its home, element by element: each element of a store
writes its bytes and no other, each of a load reads them; LDR returns the line's version; an atomic returns the old value and
writes the new one. What reaching a home counts (R247, R395) is `reachVa`, once for each line of the access, which at HBM changes no
byte. Clauses on which the spec
is silent follow the model's choices (assumptions 8, 75, 90). -/
def Obligations.VirtualAccessPerforms : Prop := ∀ (s : State) (a : Access) (el : Nat) (evict : List Nat),
  a.Going s → a.space = .virt → el < a.nEls → el ∉ a.els → s.elBlocked a el = false →
  let n := a.elSize
  let pa := (paOf a.pages (a.addr + el * n)).getD 0
  let s0 := if (a.lineMates el).any (fun e => a.els.contains e) then s else s.reachVa a.x a.pages (a.addr + el * n)
  let last : Bool := (List.range a.nEls).all (fun e => e == el || a.els.contains e)
  let psn := s.poisoned pa n
  let old := s0.num pa n % 2 ^ a.fmt.width
  let got := splice a.got a.size (el * n) (s0.bytes pa n)
  let v := leNat got
  (∃ d, (paKind s.host.cxl pa = .hbm d ∨ paKind s.host.cxl pa = .cxl d) ∧ (s.die d).power.on = true) →
  (∀ k, k < n → isRemote (pa + k) = false) → (∀ p ∈ a.pages, isRemote p.pa = false) → s.cutOff pa = false → barAt pa = none →
  (∀ d, paKind s.host.cxl pa = .hbm d → ∀ b, s0.byte b = s.byte b) ∧
  (a.kind = .store → ∃ t, exec (.accessPerform a.id el evict) s = .next t ∧
    Writes s0 t pa ((a.puts.drop (el * n)).take n) ∧
    (if last then Answers s t a asIssued else t.acc a.id = some { a with els := el :: a.els })) ∧
  (a.kind = .load → ∃ t, exec (.accessPerform a.id el evict) s = .next t ∧ Writes s0 t pa [] ∧
    (if last then Answers s t a (carries (a.loaded v) (fun _ => 0) (a.poison || psn))
     else t.acc a.id = some { a with els := el :: a.els, got := got, poison := a.poison || psn, side := 0 })) ∧
  (a.kind = .ldr → last = true → ∃ t, exec (.accessPerform a.id el evict) s = .next t ∧ Writes s0 t pa [] ∧
    Answers s t a (carries (a.loaded v) (fun _ => BitVec.ofNat 32 (t.version pa)) (a.poison || psn))) ∧
  (∀ op, a.kind = .rmw op → ∃ t, exec (.accessPerform a.id el evict) s = .next t ∧
    Writes s0 t pa ((leBytes n (a.newValue op old)).map some) ∧
    Answers s t a (carries (scalarData a.fmt a.fmt.width old) (fun u => u.side) psn))

/-- R285, R286, R419: at a barrier counter, LD reads COUNT or TARGET, ST writes one, AADD adds to COUNT; with TARGET 0 the old
count returns at once, else it is held until COUNT reaches TARGET, which sets COUNT to 0; any other operation is held and stops
its context. Clauses on which the spec is silent follow the model's choice (assumption 74). -/
def Obligations.BarrierCounters : Prop := ∀ (s : State) (a : Access) (d sl c count target el : Nat) (evict : List Nat),
  let pa := (paOf a.pages (a.addr + el * a.elSize)).getD 0
  let k := (d * 288 + sl) * 64 + c
  let word := pa % 16 / 4
  let v := a.b.elem 32 0
  let sum := (count + v) % 2 ^ 32
  a.Going s → a.space = .virt → el = 0 → a.nEls = 1 → a.els = [] → s.elBlocked a 0 = false → s.cutOff pa = false →
  a.kind ≠ .cmls → (∀ m, a.kind ≠ .mem m) → isRemote pa = false → (∀ p ∈ a.pages, isRemote p.pa = false) → paKind s.host.cxl pa = .barrier →
  (s.die (paDie s.host.cxl pa)).power.on = true → barAt pa = some (d, sl, c) →
  (tget k s.msys.bars).getD (0, 0) = (count, target) →
  let performs (bars : Table (Nat × Nat)) (P : Tok → Tok → Prop) : Prop :=
    ∃ t, exec (.accessPerform a.id el evict) s = .next t ∧ t.msys.bars = bars ∧ Answers s t a P ∧ ∀ b, t.byte b = s.byte b
  let shape : Prop := a.fmt = .z32 ∧ a.size = 4
  (shape → a.opc = 0x200 → performs s.msys.bars
    (carries (a.loaded (if word = 0 then count else if word = 1 then target else 0)) (fun _ => a.side) false)) ∧
  (shape → a.opc = 0x201 → word = 1 → v = 0 ∨ count < v → performs (tput k (count, v) s.msys.bars) asIssued) ∧
  (shape → a.opc = 0x201 → word = 0 → target = 0 ∨ v < target → performs (tput k (v, target) s.msys.bars) asIssued) ∧
  (shape → a.opc = 0x240 → target = 0 → performs (tput k (sum, 0) s.msys.bars)
    (fun u v => v = { u with data := scalarData .z32 32 count, sent := v.sent })) ∧
  (shape → a.opc = 0x240 → target ≠ 0 → sum < target → s.heldAt (d * 288 + sl) < 1024 →
    ∃ t b, exec (.accessPerform a.id el evict) s = .next t ∧ tget k t.msys.bars = some (sum, target) ∧
      t.acc a.id = some b ∧ b.st = .barrier ∧ t.answersTo a.x = s.answersTo a.x) ∧
  (shape → a.opc = 0x240 → target ≠ 0 → target ≤ sum →
    ∃ t, exec (.accessPerform a.id el evict) s = .next t ∧ tget k t.msys.bars = some (0, target)) ∧
  (¬ shape ∨ a.opc ≠ 0x200 ∧ a.opc ≠ 0x201 ∧ a.opc ≠ 0x240 →
    ∃ t, exec (.accessPerform a.id el evict) s = .next t ∧ t.msys.bars = s.msys.bars ∧
      ∀ b, t.acc a.id = some b → b.st = .held)

/-- R287, R289, R290: a CMLS compares the version of each line its descriptor uses with the one expected: at the first that
differs it returns one plus the line's number and the version found, and writes nothing; else it returns 0 and writes its words,
in its lines alone. Clauses on which the spec is silent follow the model's choices (assumptions 75, 77). -/
def Obligations.CmlsComparesVersions : Prop := ∀ (s : State) (a : Access) (el : Nat) (evict : List Nat),
  let ls := a.lines.map (fun p => (p.1, (paOf a.pages p.2).getD 0))
  let reached (s : State) : State := a.lines.foldl (fun t p => (t.touch ((paOf a.pages p.2).getD 0) 0).reachVa a.x a.pages p.2) s
  let s1 := reached (s.modMem (fun m => { m with lines := m.lines.filter (fun l => !evict.contains l.1 || l.2.policy == 3) }))
  let bad := ls.find? (fun p => s1.version p.2 ≠ a.desc.lane (4 + p.1))
  a.Going s → a.space = .virt → a.kind = .cmls → el = 0 → a.els = [] → s.elBlocked a 0 = false →
  (∀ p ∈ a.pages, isRemote p.pa = false) →
  (∀ p ∈ ls, s.cutOff p.2 = false ∧ s.homeFault p.2 = none ∧ isRemote p.2 = false ∧ barAt p.2 = none) → (s.elPaths a 0).eraseDups.length ≤ 1 →
  (∀ p, bad = some p → ∃ t, exec (.accessPerform a.id el evict) s = .next t ∧ (∀ b, t.byte b = s1.byte b) ∧
    Answers s t a (fun u v => v = { u with data := BitVec.ofNat 512 (p.1 + 1), side := BitVec.ofNat 32 (s1.version p.2), sent := v.sent })) ∧
  (bad = none → ∃ t, exec (.accessPerform a.id el evict) s = .next t ∧
    (∀ b, (∀ p ∈ ls, ¬ (p.2 ≤ b ∧ b < p.2 + 128)) → t.byte b = s1.byte b) ∧
    Answers s t a (fun u v => v = { u with data := 0, side := 0, sent := v.sent }))

/-- R258, R261, R263, R281, R282: an access leaves its wave buffer when its chain lets it, and not before: an ordering token and
a fence end, a memory-node request leaves as a token, an `mt` or `sdm` access goes to its tile or port and a `virt` one to its
translation. Clauses on which the spec is silent follow the model's choices (assumptions 71, 72, 91). -/
def Obligations.WaveBufferSends : Prop := ∀ (s : State) (a : Access) (useTlb : Bool),
  s.acc a.id = some a → a.st = .wait → (s.ctx a.ctx).st ≠ .saved →
  let ch := s.chainOf a
  let ready := s.sendable a ch.1 (s.accsOf ch.2) && !s.missHeld a
  let gone (st : AccSt) : Access := { a with st := st, sseq := s.msys.sseq, before := ch.2 }
  let plain : Prop := ¬ (a.kind = .store ∧ a.scope = .site)
  (ready = false → exec (.waveSend a.id useTlb) s = .next s) ∧
  (ready = true → s.dualOf a.x a.ctx = none →
    (a.kind = .ord → ∃ t, exec (.waveSend a.id useTlb) s = .next t ∧ t.acc a.id = some { gone .done with ans := true } ∧
      ((t.cell a.x).pipe.deps.map (fun d => d.toks)).flatten = ((s.cell a.x).pipe.deps.map (fun d => d.toks)).flatten ++ a.outs) ∧
    (a.kind = .fence → ∃ t, exec (.waveSend a.id useTlb) s = .next t ∧ t.acc a.id = some { gone .done with ans := true } ∧
      ((t.answersTo a.x).map (fun d => d.toks)).flatten = ((s.answersTo a.x).map (fun d => d.toks)).flatten ++ a.outs) ∧
    (∀ m, a.kind = .mem m → ∃ t, exec (.waveSend a.id useTlb) s = .next t ∧ t.acc a.id = some (gone .leaving) ∧
      ((t.cell a.x).pipe.deps.map (fun d => d.toks)).flatten = ((s.cell a.x).pipe.deps.map (fun d => d.toks)).flatten ++ a.outs) ∧
    (a.kind ≠ .ord → a.kind ≠ .fence → (∀ m, a.kind ≠ .mem m) → plain →
      (a.space = .mt → ∃ t, exec (.waveSend a.id useTlb) s = .next t ∧ t.acc a.id = some (gone .sent)) ∧
      (a.space = .sdm → ((s.cell a.x).nodeq.getD 0 []).length < 8 → 0 < (s.cell a.x).nodeq.length →
        ∃ t, exec (.waveSend a.id useTlb) s = .next t ∧ t.acc a.id = some (gone .sent) ∧
          (t.cell a.x).nodeq.getD 0 [] = (s.cell a.x).nodeq.getD 0 [] ++ [a.id]) ∧
      (a.space = .virt → useTlb = false → s.missFull a.x.die (s.accMisses a) = false →
        ∃ t, exec (.waveSend a.id useTlb) s = .next t ∧ t.acc a.id = some (gone .walk))) ∧
    -- a store of SITE scope, which has performed once its path accepts it (R256)
    (a.kind = .store → a.scope = .site → a.ans = false → a.space = .mt →
      ∃ t, exec (.waveSend a.id useTlb) s = .next t ∧ t.acc a.id = some { gone .sent with ans := true } ∧
        ((t.answersTo a.x).map (fun d => d.toks)).flatten = ((s.answersTo a.x).map (fun d => d.toks)).flatten ++ a.outs))

/-- R246, R248, R250, R252, R256: the walk of an access sends it on with its pages, a store of SITE scope with its answer; parks it and
records the fault that it meets; begins the copy of a page that a write finds shared; or leaves it waiting on a page in migration, or for
its page walker. -/
def Claims.PageWalkOfAccess : Prop := ∀ (s : State) (a : Access),
  s.acc a.id = some a → a.st = .walk → (s.ctx a.ctx).st ≠ .saved →
  let again : Act := .event (.pageWalk a.id)
  (∀ ps s1, s.lookAll a false a.ranges [] = (.ok ps, s1) → a.kind = .store → a.scope = .site → a.ans = false →
    ∃ t, exec (.pageWalk a.id) s = .next t ∧ t.acc a.id = some { a with st := .sent, pages := ps, ans := true } ∧
      ((t.answersTo a.x).map (fun d => d.toks)).flatten = ((s1.answersTo a.x).map (fun d => d.toks)).flatten ++ a.outs) ∧
  (∀ va s1, s.lookAll a false a.ranges [] = (.error (.held, va), s1) → exec (.pageWalk a.id) s = .next s1) ∧
  (∀ e at_ va s1, s.lookAll a false a.ranges [] = (.error (.copy e at_, va), s1) →
    let cow := s1.beginCow a.x.die (s.ctx a.ctx).tenant a.ctx va e at_ (some again) (lastSent (a.ops ++ a.outs))
    exec (.pageWalk a.id) s = .next (if cow.1 then cow.2.accMigr a else cow.2.accFault a .cow)) ∧
  (∀ ps s1, s.lookAll a false a.ranges [] = (.ok ps, s1) → ¬ (a.kind = .store ∧ a.scope = .site ∧ a.ans = false) →
    ∃ t, exec (.pageWalk a.id) s = .next t ∧ t.acc a.id = some { a with st := .sent, pages := ps } ∧ ∀ b, t.byte b = s1.byte b) ∧
  (∀ c va s1, s.lookAll a false a.ranges [] = (.error (.fault c, va), s1) → exec (.pageWalk a.id) s = .next (s1.accFault a c)) ∧
  (∀ va s1, s.lookAll a false a.ranges [] = (.error (.migr, va), s1) →
    ∃ t b, exec (.pageWalk a.id) s = .next t ∧ t.acc a.id = some b ∧ b.st = .migr ∧ b.addr = a.addr ∧ b.outs = a.outs)

/-- R245, R246: what a translation meets: a leaf that is not valid faults, one that is not resident faults, one in migration
makes the access wait, a write to a page without W faults; a page found sets ACC, and DIRTY for a write. -/
def Claims.TranslationMeets : Prop := ∀ (s s1 : State) (die place col tenant va : Nat) (write : Bool) (e : Pte) (at_ : Nat),
  s.walk die tenant va = (.ok (e, at_), s1) →
  let page : Page := ⟨va / pageBytes (pteSize e) * pageBytes (pteSize e), pteSize e, ptePa e, pteState e⟩
  (pteState e = 2 → s.lookup die place col tenant va write = (.fault .nonres, s1)) ∧
  (pteState e = 3 → s.lookup die place col tenant va write = (.migr, s1)) ∧
  (pteState e < 2 → write = false → ∃ t, s.lookup die place col tenant va write = (.ok page, t) ∧
    ∀ b, t.byte b = (s1.orPte at_ 4).byte b) ∧
  (pteState e < 2 → write = true → pteW e = false → s.lookup die place col tenant va write = (.fault .prot, s1)) ∧
  (pteState e < 2 → write = true → pteW e = true → pteCow e = false →
    ∃ t, s.lookup die place col tenant va write = (.ok page, t) ∧ ∀ b, t.byte b = (s1.orPte at_ 12).byte b) ∧
  (pteState e < 2 → write = true → pteW e = true → pteCow e = true → barAt (ptePa e) = none → s1.refcnt (ptePa e) ≠ 1 →
    s.lookup die place col tenant va write = (if 21 < pageLog (pteSize e) then .fault .cow else .copy e at_, s1))

/-- R248, R252: a copied page holds the bytes of the old one, outside the metadata and page-table entry that the copy itself writes,
and its resolution is over; the copy of a context that is being saved or is saved waits. -/
def Claims.CopiedPageHoldsBytes : Prop := ∀ (s : State) (k : Nat) (w : CowCopy), s.msys.cows[k]? = some w →
  let apart (a n b m : Nat) : Prop := a + n ≤ b ∨ b + m ≤ a
  let waits : Prop := w.init.isSome = true ∧ ((s.ctx w.ctx).st = .saved ∨ (s.ctx w.ctx).pre.phase = 1)
  (waits → exec (.cowCopyDone k) s = .next s) ∧
  (¬ waits → ∃ t l, exec (.cowCopyDone k) s = .next t ∧ t.msys.cows = s.msys.cows.take k ++ s.msys.cows.drop (k + 1) ++ l ∧
    (s.refcnt w.old ≠ 1 → w.old / 4096 ≠ w.new / 4096 → apart (s.metaAt w.old) 4 w.new (pageBytes (pteSize w.pte)) →
      apart (s.metaAt w.old) 4 w.ptePa 8 → l = [] ∧ ∀ j, j < pageBytes (pteSize w.pte) → isRemote (w.new + j) = false →
      ¬ (s.metaAt w.new ≤ w.new + j ∧ w.new + j < s.metaAt w.new + 4) →
      ¬ (s.metaAt w.old ≤ w.new + j ∧ w.new + j < s.metaAt w.old + 4) →
      ¬ (w.ptePa ≤ w.new + j ∧ w.new + j < w.ptePa + 8) → t.byte (w.new + j) = s.byte (w.old + j)))

/-- R280: a request at the head of a memory-node port performs: a read sends the bytes to its destination and changes none, a
write writes its bytes and no other, and completes unless it did so when the port accepted it; an ordering request sends a completion,
but waits at a wider scope for what reached the port before it and has faulted; one that is not valid is DEST_INVALID. -/
def Claims.MemoryNodePerforms : Prop := ∀ (s : State) (x : Site) (port id : Nat) (q : NodeReq) (r : BitVec 128),
  ((s.cell x).nodeq.getD port []).head? = some id → s.msys.reqs.find? (fun r => r.id == id) = some q → q.tok.req = some r →
  let op := reqField r 1 30 2
  let lsz := reqField r 1 24 3
  let n := 2 ^ lsz
  let addr := reqField r 0 0 32 + reqField r 1 0 2 * 2 ^ 32
  let at_ := sdmBase q.x.die + addr
  let rsp := reqField r 1 23 1 = 1
  let granted : Prop := s.sdmOwned q.x.die addr n (s.ctx q.tok.ctx).tenant = true ∧
    (s.sdmCheck q.x.die addr n).1 = .ready ∧ s.reqBehind q = false
  let replies (t : State) (P : Tok → Prop) : Prop :=
    ∃ p u, (t.die q.x.die).net.mesh = (s.die q.x.die).net.mesh ++ [p] ∧ p.body = .tok u ∧ u.ctx = q.tok.ctx ∧
      u.tag = q.tok.tag ∧ u.depth = q.tok.depth ∧ destWord u.kind u.die u.site u.node u.port = reqField r 2 3 29 * 8 ∧ P u
  let v := q.tok.data.toNat
  let puts : List (Option Byte) := if lsz = 6 then
      (List.range 64).map (fun k => if q.tok.lmask.getLsbD (k / 4) || !q.tok.vec then some (BitVec.ofNat 8 (fld v (8 * k) 8)) else none)
    else (leBytes n (q.tok.elem (s.reqWidth q n) 0)).map some
  (reqOk r = true → op = 0 → granted → ∃ t, exec (.memnodeRequest x port) s = .next t ∧ (∀ b, t.byte b = s.byte b) ∧
    replies t (fun u => u.data = if lsz = 6 then BitVec.ofNat 512 (leNat (s.bytes at_ n))
      else scalarData q.tok.fmt (s.reqWidth q n) (leNat (s.bytes at_ n)))) ∧
  (reqOk r = true → op = 1 → granted → ∃ t, exec (.memnodeRequest x port) s = .next t ∧ Writes s t at_ puts ∧
    (rsp → q.ans = false → replies t (fun u => u.flag .complete = true))) ∧
  (reqOk r = true → op = 2 → reqField r 1 27 3 ≠ 0 ∧ s.portOwes q = true → exec (.memnodeRequest x port) s = .next s) ∧
  (reqOk r = true → op = 2 → ¬ (reqField r 1 27 3 ≠ 0 ∧ s.portOwes q = true) → ∃ t, exec (.memnodeRequest x port) s = .next t ∧ (∀ b, t.byte b = s.byte b) ∧
    (rsp → replies t (fun u => u.flag .complete = true))) ∧
  (reqOk r = false → ∃ s1 : State, exec (.memnodeRequest x port) s = .next (s1.destInvalid q.x q.tok) ∧ ∀ b, s1.byte b = s.byte b)

/-- R242, R363, R414: a bank takes a new power state once the accesses it waits for have performed, and loses its bytes when it
turns off, and a wake-up under way ends where it turns off or to retention; a waking bank, or a gibibyte that an access waits for, is on
after its wake; the oldest latched record of a context enters its queue when it can. -/
def Claims.PowerOfMemory : Prop := ∀ (s : State) (x : Site) (bank die gib k : Nat),
  (∀ p v, (s.cell x).mt.pend.find? (fun p => p.1 == bank && p.2.1.isSome) = some p → p.2.1 = some v → v < 4 →
    p.2.2 = [] → (s.cell x).mt.power bank ≠ v →
    ∃ t, exec (.bankPowerEffect x bank) s = .next t ∧
      (v = 0 → (t.cell x).mt.waking bank = true ∧ ∀ b, t.byte b = s.byte b) ∧
      (v ≠ 0 → (t.cell x).mt.waking bank = false) ∧
      (v = 1 → (t.cell x).mt.power bank = 1 ∧ ∀ b, t.byte b = s.byte b) ∧
      (v = 2 → (t.cell x).mt.power bank = 2 ∧ t.mem = s.mem.filter (fun e =>
        !(mtBase x + bank * 8192 ≤ e.1 && e.1 < mtBase x + bank * 8192 + 8192)))) ∧
  ((s.cell x).mt.waking bank = true →
    ∃ t, exec (.bankWake x bank) s = .next t ∧ (t.cell x).mt.power bank = 0 ∧ (t.cell x).mt.waking bank = false ∧
      (∀ j, j ≠ bank → (t.cell x).mt.power j = (s.cell x).mt.power j) ∧ ∀ b, t.byte b = s.byte b) ∧
  ((s.die die).power.wakes.contains gib = false → exec (.sdmWake die gib) s = .next s) ∧
  ((s.die die).power.wakes.contains gib = true →
    ∃ t, exec (.sdmWake die gib) s = .next t ∧ (tget gib (t.die die).power.sdm).getD 0 = 0 ∧ ∀ b, t.byte b = s.byte b) ∧
  (∀ l s1, s.latches[k]? = some l → (∀ m ∈ s.latches.take k, m.fr.ctx ≠ l.fr.ctx) → s.putRecord l.fr l.what = .done s1 →
    ∃ t, exec (.faultLatchDrain k) s = .next t ∧ t.latches = s1.latches.take k ++ s1.latches.drop (k + 1))

/-- R284 Table 5: what each atomic writes: AADD wraps at the type's width, AMIN and AMAX compare as the type says, AXCHG writes
its data, and ACAS its new value where the old one equals the compare value. -/
def Claims.AtomicNewValues : Prop := ∀ (t : Ty) (old b c : Nat),
  let w := t.width
  old < 2 ^ w → b < 2 ^ w → c < 2 ^ w →
  (atomicNew 0 t old b c = (old + b) % 2 ^ w) ∧
  (t = .fp32 ∨ t = .fp64 → atomicNew 1 t old b c = ((fmtOf t).add old b).1) ∧
  (t = .z32 → atomicNew 2 t old b c = min old b ∧ atomicNew 3 t old b c = max old b) ∧
  (t = .s32 ∨ t = .s64 →
    (BitVec.ofNat w (atomicNew 2 t old b c)).toInt = min (BitVec.ofNat w old).toInt (BitVec.ofNat w b).toInt ∧
    (BitVec.ofNat w (atomicNew 3 t old b c)).toInt = max (BitVec.ofNat w old).toInt (BitVec.ofNat w b).toInt) ∧
  (∀ j, (atomicNew 4 t old b c).testBit j = (old.testBit j && b.testBit j)) ∧
  (∀ j, (atomicNew 5 t old b c).testBit j = (old.testBit j || b.testBit j)) ∧
  (∀ j, (atomicNew 6 t old b c).testBit j = (old.testBit j ^^ b.testBit j)) ∧
  (atomicNew 7 t old b c = b) ∧ (atomicNew 8 t old b c = if old = b then c else old)

namespace Sys2Proof.Machine

/-- A store holds the entries `new` and the numbers that `g` gives it; what changes of a store in a region of memory is written at the
places `w`, found before (R135, R137, R151). -/
structure StoreChanged (s t : State) (f : Firing) (v : View) (new : List KEnt) (w : List (List Spot × List Byte))
    (g : KStore → KStore) : Prop where
  store : ∀ k, (s.cell f.x).store v.k.ctx v.k.node = some k →
    (t.cell f.x).store v.k.ctx v.k.node = some (g { k with ents := if v.c.res = .frame then new else [], fresh := k.fresh && new == v.ents })
  bytes : ∀ b, t.byte b = (w.foldl (fun u p => u.writeSpots p.1 p.2) s).byte b

/-- A firing changes its cell's store, as it stood in `s1`, and sends one token on both targets. -/
def ChangesStore (i : Instr) (h : Hdr) (s s1 : State) (f : Firing) (v : View) (new : List KEnt) (g : KStore → KStore)
    (tok : Tok) : Prop :=
  ∀ w s2, WellFormed i = true → s1.plan f.x f.ent.ctx v new = (.ok w, s2) →
    Clear { s2 with cur := some f } f [h.t0, h.t1] f.tagOf 0 0 →
    ∃ t, exec i s = .next t ∧ StoreChanged s2 t f v new w g ∧
      Emits s2 t f 1 0 (List.range h.arity) (onTargets (s2.ctx f.ent.ctx).tl f.x [h.t0, h.t1] tok)

/-- The tokens that a query sends (R144), in order, for the winners `ws` with their weights. -/
def querySends (tl : BitVec 96) (f : Firing) (h : Hdr) (poison : Bool) (ws : List (KEnt × Nat)) : List Send :=
  let base : Tok := { newTok f h (f.first h.arity) none .z32 false 0 with flags := if poison then 8 else 0 }
  let side (n : Nat) : W32 := BitVec.ofNat 32 n
  if ws = [] then [.tok h.t1 { base with flags := base.flags ||| 4 }]
  else
    (ws.zipIdx.map (fun p => Send.tok h.t0 { base with
      fmt := p.1.1.vfmt, vec := p.1.1.vec, lmask := (if p.1.1.vec then 0xFFFF else 1), data := p.1.1.value, side := side p.1.2
      tag := setLvl tl f.ent.tag (f.ent.depth + 1) p.2, depth := f.ent.depth + 1
      flags := if poison || p.1.1.poison then 8 else 0 }))
    ++ [.tok h.t1 { base with side := side ws.length },
        .marker h.t1 { base with side := side (f.ent.depth + 1), flags := base.flags ||| 2 }]

/-- Tokens have left for S6, one a cycle (R145). -/
def Leave (s t : State) (x : Site) (toks : List Tok) : Prop :=
  ((t.cell x).pipe.deps.map (fun d => d.toks)).flatten =
    ((s.cell x).pipe.deps.map (fun d => d.toks)).flatten ++ toks.filter (fun u => !(s.cell x).inward x u)

/-- Winners with their weights (R141). -/
def weighted (c : KmCtl) (fmt : Ty) (win : List Cand) : List (KEnt × Nat) :=
  (win.map (fun w => w.2)).zip (weightsOf c.wmode fmt (betaOf c) (win.map (fun w => w.1)))

end Sys2Proof.Machine

/-- R149, R150: KDEL removes the entries of a value or of a SEQ and returns how many; KPURGE removes all; KGEN returns G, after
READ, ADV or SET, and removes what has expired; ADV at the greatest G and SET to a smaller one are refused with KEY_GEN. -/
def Claims.KeyStoreChanges : Prop := ∀ (h : Hdr) (store : Nat) (byVal : Bool) (s s1 : State) (f : Firing) (v : View),
  s.cur = some f → State.view { s with cur := none } f.x f.ent.ctx store = (.ok (some v), s1) → v.c.sh = false →
  let a := (f.op 0).w64
  let n := a % 2 ^ 32
  let number (k : Nat) : Tok := newScalar f h .z32 (BitVec.ofNat 512 k)
  let alive (g : Nat) : List KEnt := v.ents.filter (fun e => e.gout == 0xFFFFFFFF || g < e.gout)
  let left := v.ents.filter (fun e => if byVal then e.value.toNat % 2 ^ 64 != a else e.seq != a % 2 ^ 40)
  ChangesStore (.kdel h byVal store) h s s1 f v left id (number (v.ents.length - left.length)) ∧
  ChangesStore (.kpurge h store) h s s1 f v [] id (number v.ents.length) ∧
  ChangesStore (.kgenRead h store) h s s1 f v (alive v.k.g) (fun k => { k with g := v.k.g }) (number v.k.g) ∧
  (v.k.g ≠ 0xFFFFFFFF →
    ChangesStore (.kgenAdv h store) h s s1 f v (alive (v.k.g + 1)) (fun k => { k with g := v.k.g + 1 }) (number (v.k.g + 1))) ∧
  (v.k.g = 0xFFFFFFFF → exec (.kgenAdv h store) s = .next ((s1.back f.x v).refuse f .keyGen 0 0)) ∧
  (v.k.g ≤ n → ChangesStore (.kgenSet h store) h s s1 f v (alive n) (fun k => { k with g := n }) (number n)) ∧
  (n < v.k.g → exec (.kgenSet h store) s = .next ((s1.back f.x v).refuse f .keyGen 0 0))

/-- R147: KINS adds an entry with the next SEQ, its life and generations, its norm, the value of B and the key of A, and returns
the SEQ in a completion; a store with no room is refused with KEY_FULL, a value of the other shape with KEY_OP, a key width that
no longer fits with KEY_FMT. Which of several refusals holds, and the place of an entry in a region, are the model's choices
(assumptions 86, 89). -/
def Claims.KeyInsertion : Prop := ∀ (h : Hdr) (c : KinsCtl) (s s1 s2 : State) (f : Firing) (v : View) (key : List Nat) (bad : Bool),
  s.cur = some f → State.view { s with cur := none } f.x f.ent.ctx c.store = (.ok (some v), s1) → v.c.sh = false →
  let a := f.op 0
  let b := f.op 1
  let fits : Prop := (c.kref = true → a.flag .poison = false) ∧ b.vec = v.c.vvec ∧ keyWidth v.h.fmt v.reg = v.k.kw ∧
    s1.readKey f a c.kref v.c.d v.k.kw = (.ok (key, bad), s2)
  let e (i : Nat) : KEnt :=
    { seq := v.k.seq, life := c.life, gin := v.k.g, gout := if c.expg = 0 then 0xFFFFFFFF else v.k.g + c.expg,
      norm := BitVec.ofNat 32 (keyNorm v.h.fmt v.reg key), poison := a.flag .poison || b.flag .poison || bad,
      vfmt := b.fmt, vec := b.vec, value := b.data, key := key, slot := i }
  let t := newScalar f h .s64 (BitVec.ofNat 512 v.k.seq)
  (c.kref = true → a.flag .poison = true → exec (.kins h c) s = .next ((s1.back f.x v).refuse f .poisonAddr a.w64 0)) ∧
  ((c.kref = true → a.flag .poison = false) → b.vec ≠ v.c.vvec → exec (.kins h c) s = .next ((s1.back f.x v).refuse f .keyOp 0 0)) ∧
  ((c.kref = true → a.flag .poison = false) → b.vec = v.c.vvec → keyWidth v.h.fmt v.reg ≠ v.k.kw →
    exec (.kins h c) s = .next ((s1.back f.x v).refuse f .keyFmt 0 0)) ∧
  (fits → s2.entryPlace f.x v = none → exec (.kins h c) s = .next ((s2.back f.x v).refuse f .keyFull 0 0)) ∧
  (∀ i, fits → s2.entryPlace f.x v = some i → 2 ^ 40 ≤ v.k.seq → exec (.kins h c) s = .next ((s2.back f.x v).refuse f .keyFull 0 0)) ∧
  (∀ i, fits → s2.entryPlace f.x v = some i → v.k.seq < 2 ^ 40 → c.expg ≠ 0 → 2 ^ 32 - 1 ≤ v.k.g + c.expg →
    exec (.kins h c) s = .next ((s2.back f.x v).refuse f .keyGen 0 0)) ∧
  (∀ i, fits → s2.entryPlace f.x v = some i → v.k.seq < 2 ^ 40 → (c.expg = 0 ∨ v.k.g + c.expg < 2 ^ 32 - 1) →
    ChangesStore (.kins h c) h s s2 f v (v.ents ++ [e i]) (fun k => { k with seq := k.seq + 1 })
      { t with flags := t.flags ||| 128 })

/-- R140 to R145: a query sends its winners' values in rank order, with their weights in SIDE and the rank pushed on the tag,
then their count and a marker that closes their level, or a MISS token; LIFE falls by one for each winner that has one, and an
entry whose LIFE reaches 0 goes; NaN scores count in KNAN. The scan of a STREAM store takes a copy slot, and the query waits for one
(R306; assumption 70). -/
def Claims.QuerySendsWinners : Prop := ∀ (h : Hdr) (c : KmCtl) (s s1 s2 s3 : State) (f : Firing) (v : View) (q : List Nat)
    (bad : Bool) (w : List (List Spot × List Byte)) (toks : List Tok),
  s.cur = some f → State.view { s with cur := none } f.x f.ent.ctx f.ent.node = (.ok (some v), s1) → c.sh = false → v.c.sh = false →
  let a := f.op 0
  let poison := a.flag .poison || bad
  let all := scoreAll h.fmt v.reg v.c q v.k.g v.ents
  let win := winners h.fmt v.c all
  let new := v.ents.filterMap (fun e => if win.any (fun u => u.2.seq == e.seq) && e.life > 0 then
    (if e.life = 1 then none else some { e with life := e.life - 1 }) else some e)
  let tl := (s2.ctx f.ent.ctx).tl
  (c.qref = true → a.flag .poison = false) → keyWidth h.fmt v.reg = v.k.kw →
  s1.readKey f a c.qref c.d v.k.kw = (.ok (q, bad), s2) →
  (win ≠ [] → f.ent.depth < nlev tl ∧ win.length - 1 < 2 ^ lvlWidth tl (f.ent.depth + 1)) →
  h.arity = 1 → sendList tl f.x (querySends tl f h poison (weighted v.c h.fmt win)) = some toks →
  (v.c.res = .stream → s2.freeScan f.x.die = none →
    exec (.kmatch h c) s = .next ((s2.back f.x v).park f (List.range h.arity) .wait)) ∧
  ((v.c.res = .stream → (s2.freeScan f.x.die).isSome = true) → s2.plan f.x f.ent.ctx v new = (.ok w, s3) → s3.ctx f.ent.ctx = s2.ctx f.ent.ctx →
  s3.exitExcess f (toks.filter Tok.isExit).length = false →
  ∃ t, exec (.kmatch h c) s = .next t ∧ StoreChanged s3 t f v new w id ∧ Leave s3 t f.x toks ∧
    (t.cell f.x).ctr.knan = satAdd 48 (s3.cell f.x).ctr.knan (all.filter (fun e => scoreNan h.fmt e.1)).length)

/-- R139, R140: scores of S8 keys are exact; the winners are the first K candidates by score, equal scores by SEQ, none below
FLOOR. -/
def Claims.WinnersOfIntegerKeys : Prop := ∀ (c : KmCtl) (reg : W32) (q k : List Nat) (norm : Nat) (l : List Cand),
  let s8 (v : Nat) : Int := (BitVec.ofNat 8 v).toInt
  let num (s : Nat) : Int := (BitVec.ofNat 32 s).toInt
  let dot := ((q.zip k).map (fun p => s8 p.1 * s8 p.2)).sum
  let gap := ((q.zip k).map (fun p => (s8 p.1 - s8 p.2) * (s8 p.1 - s8 p.2))).sum
  let W := winners .s8 c l
  let before (a b : Cand) : Prop := num b.1 < num a.1 ∨ num a.1 = num b.1 ∧ a.2.seq < b.2.seq
  let atFloor (a : Cand) : Prop := ∀ x b fl, c.ext = some (x, b, fl) → fl.toInt ≤ num a.1
  (q.length ≤ 256 → (∀ v ∈ q, v < 256) → (∀ v ∈ k, v < 256) →
    num (scoreOf .s8 reg .ip q k norm) = dot ∧ num (scoreOf .s8 reg .l2 q k norm) = -gap) ∧
  W.length ≤ c.k ∧ W.Pairwise (fun a b => ¬ before b a) ∧ (∀ a ∈ W, a ∈ l ∧ atFloor a) ∧
  (∀ b ∈ l, b ∉ W → atFloor b → W.length = c.k ∧ ∀ a ∈ W, ¬ before b a)

/-- R205: an operation of an entry shard on a logical store goes to the store's home, with its tag actions checked, and its
operands are consumed; nothing is sent yet. -/
def Claims.LogicalStoreOperationsQueue : Prop := ∀ (h : Hdr) (store : Nat) (byVal : Bool) (s s1 : State) (f : Firing) (v : View),
  s.cur = some f → State.view { s with cur := none } f.x f.ent.ctx store = (.ok (some v), s1) → v.c.sh = true →
  let queues (i : Instr) (fmt : Ty) (kind : LKind) : Prop := WellFormed i = true →
    Clear { s1 with cur := some f } f [h.t0, h.t1] f.tagOf 0 0 →
    ∃ t o, exec i s = .next t ∧ (t.die f.x.die).eng.lops = (s1.die f.x.die).eng.lops ++ [o] ∧ o.kind = kind ∧ o.x = f.x ∧
      o.ctx = f.ent.ctx ∧ o.node = store ∧ o.on = none ∧ o.merged = false ∧ o.cands = [] ∧
      o.dep.toks = onTargets (s1.ctx f.ent.ctx).tl f.x [h.t0, h.t1] (newScalar f h fmt 0) ∧
      (t.cell f.x).slots = ((s1.consume f (List.range h.arity)).cell f.x).slots ∧
      (t.cell f.x).pipe.deps = (s1.cell f.x).pipe.deps
  queues (.kdel h byVal store) .z32 (.del byVal (f.op 0).w64) ∧ queues (.kpurge h store) .z32 .purge ∧
  queues (.kgenRead h store) .z32 (.gen 0 0) ∧ queues (.kgenAdv h store) .z32 (.gen 1 0) ∧
  queues (.kgenSet h store) .z32 (.gen 2 ((f.op 0).w64 % 2 ^ 32)) ∧
  (∀ (c : KinsCtl) key bad s2, c.store = store → WellFormed (.kins h c) = true → (c.kref = true → (f.op 0).flag .poison = false) →
    (f.op 1).vec = v.c.vvec → keyWidth v.h.fmt v.reg = v.k.kw → s1.readKey f (f.op 0) c.kref v.c.d v.k.kw = (.ok (key, bad), s2) →
    Clear { s2 with cur := some f } f [h.t0, h.t1] f.tagOf 0 0 →
    ∃ t o e, exec (.kins h c) s = .next t ∧ (t.die f.x.die).eng.lops = (s2.die f.x.die).eng.lops ++ [o] ∧ o.kind = .ins c e ∧
      o.node = store ∧ o.on = none ∧ e.key = key ∧ e.value = (f.op 1).data ∧ e.life = c.life) ∧
  (∀ (c : KmCtl) q bad s2 toks, store = f.ent.node → WellFormed (.kmatch h c) = true → c.sh = true →
    (c.qref = true → (f.op 0).flag .poison = false) → keyWidth h.fmt v.reg = v.k.kw →
    s1.readKey f (f.op 0) c.qref c.d v.k.kw = (.ok (q, bad), s2) →
    (matchCheck (s2.ctx f.ent.ctx).tl f h c.k).bind (sendList (s2.ctx f.ent.ctx).tl f.x) = some toks →
    ∃ t o, exec (.kmatch h c) s = .next t ∧ (t.die f.x.die).eng.lops = (s2.die f.x.die).eng.lops ++ [o] ∧
      o.kind = .query c h.fmt v.reg q ((f.op 0).flag .poison || bad) ∧ o.node = store ∧ o.on = none)

/-- R206 to R208: the sequencer gives an operation of a logical store its order number and sends it to its shards; a shard
performs it in its turn; the merger sends the winners of all shards from the entry shard; a commit takes one LIFE from each. -/
def Claims.LogicalStoreSteps : Prop :=
  (∀ (die k : Nat) (s : State) (o : LOp) (l : LStore), (s.die die).eng.lops[k]? = some o → s.lstore o.x o.ctx o.node = some l → o.x.die = die →
    o.on = none → (∀ p ∈ (s.die die).eng.lops.take k, p.on = none → ¬ (p.x = o.x ∧ p.ctx = o.ctx ∧ p.node = o.node)) →
    let goes (l1 : LStore) (kind : LKind) (todo : List Nat) : Prop :=
      ∃ t p, exec (.storeOpSequence die k) s = .next t ∧ (t.die die).eng.lops.find? (fun p => p.id == o.id) = some p ∧
        p.on = some l.on ∧ p.kind = kind ∧ p.todo = todo ∧ t.lstore o.x o.ctx o.node = some { l1 with on := (l.on + 1) % 2 ^ 32 }
    (∀ c e, o.kind = .ins c e → l.seq < 2 ^ 40 → c.expg = 0 ∨ l.g + c.expg < 2 ^ 32 - 1 →
      goes { l with seq := l.seq + 1 } (.ins c { e with seq := l.seq, gin := l.g, gout := if c.expg = 0 then 0xFFFFFFFF else l.g + c.expg })
        [o.x.res]) ∧
    (∀ b n, o.kind = .del b n → goes l (.del b n) l.shards) ∧ (o.kind = .purge → goes l .purge l.shards) ∧
    (o.kind = .gen 0 0 → goes l (.gen 3 l.g) l.shards) ∧
    (o.kind = .gen 1 0 → l.g ≠ 0xFFFFFFFF → goes { l with g := l.g + 1 } (.gen 3 (l.g + 1)) l.shards) ∧
    (∀ n, o.kind = .gen 2 n → l.g ≤ n → goes { l with g := n } (.gen 3 n) l.shards) ∧
    (∀ c fmt reg q b, o.kind = .query c fmt reg q b → goes l (.query c fmt reg q b) l.shards)) ∧
  (∀ (x : Site) (s s1 : State) (k : KStore) (o : LOp) (e : ShardOp) (rest : List ShardOp) (v v1 : View),
    (∀ j ∈ (s.cell x).stores, j.hold = none) → s.swapping x = false →
    (s.cell x).stores.find? (fun k => !k.queue.isEmpty && s.worksOn k.ctx) = some k → k.queue = e :: rest →
    (s.cell x).store k.ctx k.node = some k → (s.die x.die).eng.lops.find? (fun o => o.id == e.op) = some o →
    s.viewOf x k.ctx k.node = some v → s.region x k.ctx v = (.ok v1, s1) →
    let holds (new : List KEnt) (g : Nat) : Prop := ∀ w s2, s1.plan x k.ctx v1 new = (.ok w, s2) →
      ∃ t u, exec (.shardPerform x) s = .next t ∧ (t.cell x).store k.ctx k.node = some u ∧
        u.ents = (if v1.c.res = .frame then new else []) ∧ u.g = g ∧ u.queue = rest ∧
        ∀ b, t.byte b = (w.foldl (fun u p => u.writeSpots p.1 p.2) s2).byte b
    (∀ b n, o.kind = .del b n → holds (v1.ents.filter (fun e => if b then e.value.toNat % 2 ^ 64 != n else e.seq != n % 2 ^ 40)) k.g) ∧
    (o.kind = .purge → holds [] k.g) ∧
    (∀ g, o.kind = .gen 3 g → holds (v1.ents.filter (fun e => e.gout == 0xFFFFFFFF || g < e.gout)) g)) ∧
  (∀ (die k : Nat) (s : State) (o : LOp) (c : KmCtl) (fmt : Ty) (reg : W32) (q : List Nat) (poison : Bool) (h : Hdr) (km : KmCtl)
      (toks : List Tok), (s.die die).eng.lops[k]? = some o → o.kind = .query c fmt reg q poison → o.on.isSome = true → o.todo = [] →
    o.merged = false → s.latched (siteUnit o.x) < 4 → (s.cell o.x).kmatchAt o.ctx o.node = some (h, km) →
    let tl := (s.ctx o.ctx).tl
    let win := winners fmt c (o.cands.map (fun e => (e.2.1, e.2.2)))
    (win ≠ [] → o.f.ent.depth < nlev tl ∧ win.length - 1 < 2 ^ lvlWidth tl (o.f.ent.depth + 1)) →
    sendList tl o.x (querySends tl o.f h poison (weighted c fmt win)) = some toks → o.f.x = o.x →
    s.exitExcess o.f (toks.filter Tok.isExit).length = false →
    ∃ t, exec (.lensMerge die k) s = .next t ∧ Leave s t o.x toks) ∧
  (∀ (x : Site) (s s1 s2 : State) (k : KStore) (o : LOp) (v v1 : View) (w : List (List Spot × List Byte)),
    (s.cell x).stores.find? (fun k => k.hold.isSome) = some k →
    (s.cell x).store k.ctx k.node = some k → (s.die x.die).eng.lops.find? (fun o => k.hold == some o.id) = some o → o.merged = true →
    let new := deliverLife ((o.cands.filter (fun e => e.1 == x.res)).map (fun e => e.2.2.seq)) v1.ents
    s.viewOf x k.ctx k.node = some v → s.region x k.ctx v = (.ok v1, s1) → s1.plan x k.ctx v1 new = (.ok w, s2) →
    ∃ t u, exec (.shardCommit x) s = .next t ∧ (t.cell x).store k.ctx k.node = some u ∧ u.hold = none ∧
      u.ents = (if v1.c.res = .frame then new else []) ∧ ∀ b, t.byte b = (w.foldl (fun u p => u.writeSpots p.1 p.2) s2).byte b)

namespace Sys2Proof.Machine

/-- Result tokens of a firing are on their way back to its cell, over the mesh (R182, R272). -/
def AnswersFiring (s t : State) (x : Site) (toks : List Tok) : Prop :=
  ((t.answersTo x).map (fun d => d.toks)).flatten = ((s.answersTo x).map (fun d => d.toks)).flatten ++ toks

/-- The operands of a firing are consumed. -/
def Consumed (s t : State) (f : Firing) (h : Hdr) : Prop :=
  (t.cell f.x).slots = ((s.consume f (List.range h.arity)).cell f.x).slots

/-- A firing of `i` whose checks succeeded in `s1` sends a number on both targets. -/
def SendsNumber (i : Instr) (h : Hdr) (s s1 : State) (f : Firing) (n : Nat) (more : State → Prop) : Prop :=
  WellFormed i = true → Clear { s1 with cur := some f } f [h.t0, h.t1] f.tagOf 0 0 →
    ∃ t, exec i s = .next t ∧ more t ∧
      Emits s1 t f 1 0 (List.range h.arity) (onTargets (s1.ctx f.ent.ctx).tl f.x [h.t0, h.t1] (newScalar f h .z32 (BitVec.ofNat 512 n)))

/-- A firing of `i` that performs later: issued in `s1`, its completion held or sent as `more` says. -/
def PerformsLater (i : Instr) (h : Hdr) (s s1 : State) (f : Firing) (more : State → List Tok → Prop) : Prop :=
  WellFormed i = true → Clear { s1 with cur := some f } f [h.t0, h.t1] f.tagOf 0 0 →
    ∃ t, exec i s = .next t ∧ Consumed s1 t f h ∧ (t.cell f.x).pipe.deps = (s1.cell f.x).pipe.deps ∧
      more t (onTargets (s1.ctx f.ent.ctx).tl f.x [h.t0, h.t1] (completion f h))

end Sys2Proof.Machine

/-- R297, R307, R308, R313, R314: STRM asks for a copy of the descriptor it reads; ARM installs its descriptor in an idle slot
and binds its queue, and leaves it pending in one that is not; a poisoned offset, a descriptor that is invalid or poisoned, and
a busy queue are refused. Clauses on which the spec is silent follow the model's choices (assumptions 56, 57). -/
def Obligations.StrmAndArm : Prop := ∀ (h : Hdr) (handle st slot : Nat) (scope : Option Scope) (queue : Option Nat) (s : State) (f : Firing),
  s.cur = some f →
  let s0 : State := { s with cur := none }
  let o := (f.op 0).w64
  let bad (i : Instr) : Prop :=
    ((f.op 0).flag .poison = true → exec i s = .next (s0.refuse f .poisonAddr o 0)) ∧
    ((f.op 0).flag .poison = false →
      (∀ b s1, s0.readDesc f.x f.ent.ctx handle o = (.error b, s1) → exec i s = .next (s1.park f (List.range h.arity) b)) ∧
      (∀ s1, s0.readDesc f.x f.ent.ctx handle o = (.ok none, s1) → exec i s = .next ((s1.regsOf s f.x).refuse f .strmDesc 0 0)))
  bad (.strm h handle st scope) ∧ bad (.arm h handle st slot queue) ∧
  ∀ d s1, (f.op 0).flag .poison = false → s0.readDesc f.x f.ent.ctx handle o = (.ok (some d), s1) →
    (descOk d false = false → exec (.strm h handle st scope) s = .next ((s1.regsOf s f.x).refuse f .strmDesc 0 0)) ∧
    (descOk d true = false → exec (.arm h handle st slot queue) s = .next ((s1.regsOf s f.x).refuse f .strmDesc 0 0)) ∧
    (descOk d true = true → s1.armBusy f.x f.ent.ctx st slot queue d = true →
      exec (.arm h handle st slot queue) s = .next ((s1.regsOf s f.x).refuse f .strmBusy 0 0)) ∧
    (descOk d false = true → WellFormed (.strm h handle st scope) = true →
      ∃ t r, exec (.strm h handle st scope) s = .next t ∧ Consumed s1 t f h ∧
        (t.die f.x.die).eng.creqs = (s1.die f.x.die).eng.creqs ++ [r] ∧ r.st = st ∧ r.ctx = f.ent.ctx ∧ r.x = f.x ∧ r.desc = d ∧
        r.queue = none ∧ r.direct = some (f, h) ∧ r.scope = scope.getD (scopeOfCode (fld (descW d 3) 10 3))) ∧
    (descOk d true = true → s1.armBusy f.x f.ent.ctx st slot queue d = false →
      (s1.tmpl f.x.die f.ent.ctx st slot = none ∨ s1.slotIdle f.x.die f.ent.ctx st slot = true →
        PerformsLater (.arm h handle st slot queue) h s s1 f (fun t toks => AnswersFiring s1 t f.x toks ∧
          t.tmpl f.x.die f.ent.ctx st slot = some ⟨f.ent.ctx, st, slot, f.x, d, none⟩ ∧
          ∀ q, queue = some q → (t.queue f.x.die q).bind = some (f.ent.ctx, st, slot))) ∧
      (∀ m, s1.tmpl f.x.die f.ent.ctx st slot = some m → s1.slotIdle f.x.die f.ent.ctx st slot = false →
        PerformsLater (.arm h handle st slot queue) h s s1 f (fun t toks => t.answersTo f.x = s1.answersTo f.x ∧
          ∃ l, t.tmpl f.x.die f.ent.ctx st slot = some { m with pend := some l } ∧ l.desc = d ∧ l.x = f.x ∧ l.queue = queue ∧
            l.dep.toks = toks)))

/-- R299, R313: QPOST.POST puts A on a bound queue of its context, or waits for room; on any other it consumes A and stops the
context. UNBIND unbinds an empty queue, and waits for one that is not. STAT sends the number of tokens waiting. -/
def Claims.QueueInstructions : Prop := ∀ (h : Hdr) (queue : Nat) (s : State) (f : Firing), s.cur = some f →
  let s0 : State := { s with cur := none }
  let q := s.queue f.x.die queue
  let a := fwdTok f h (f.first h.arity) (f.op 0) false
  (s.queueTakes f.x.die queue f.ent.ctx = true → q.toks.length < 32 → q.posts = [] →
    PerformsLater (.qpostPost h queue) h s s0 f (fun t toks => AnswersFiring s t f.x toks ∧
      t.queue f.x.die queue = { q with toks := q.toks ++ [a] })) ∧
  (s.queueTakes f.x.die queue f.ent.ctx = true → (32 ≤ q.toks.length ∨ q.posts ≠ []) →
    PerformsLater (.qpostPost h queue) h s s0 f (fun t toks => t.answersTo f.x = s.answersTo f.x ∧
      ∃ d, t.queue f.x.die queue = { q with posts := q.posts ++ [(a, f.x, d)] } ∧ d.toks = toks)) ∧
  (s.queueTakes f.x.die queue f.ent.ctx = false → ∃ s1 : State, (s1.cell f.x).slots = ((s0.consume f (List.range h.arity)).cell f.x).slots ∧
    s1.queue f.x.die queue = q ∧ exec (.qpostPost h queue) s = .next (s1.takeFault (siteUnit f.x)
      ((s1.cellRec f.x f.ent.ctx f.ent.node f.ent.tag f.ent.depth .hqUnbound 0).by [a]) .none)) ∧
  (s.queueOther f.x.die queue f.ent.ctx = true → exec (.qpostUnbind h queue) s = .next (s0.refuse f .hqUnbound 0 0)) ∧
  (s.queueOther f.x.die queue f.ent.ctx = false → q.toks = [] → q.posts = [] →
    PerformsLater (.qpostUnbind h queue) h s s0 f (fun t toks => AnswersFiring s t f.x toks ∧ t.queue f.x.die queue = { q with bind := none })) ∧
  (s.queueOther f.x.die queue f.ent.ctx = false → (q.toks ≠ [] ∨ q.posts ≠ []) →
    PerformsLater (.qpostUnbind h queue) h s s0 f (fun t toks =>
      ∃ d, t.queue f.x.die queue = { q with unb := q.unb ++ [(f.x, d)] } ∧ d.toks = toks)) ∧
  SendsNumber (.qpostStat h queue) h s s0 f q.toks.length (fun t => t.queue f.x.die queue = q)

/-- R300, R301, R308: the token at the head of a bound queue leaves it, once no firing of the queue waits for a copy slot: a data token
asks for a copy of the slot's template, NULL does nothing, POISON stops the context; a STREAM_END leaves behind the queue's last copy, to the descriptor's CDEST. -/
def Claims.QueueSteps : Prop := ∀ (die q ctx st slot : Nat) (s : State) (m : Tmpl) (t : Tok) (rest : List Tok),
  (s.queue die q).bind = some (ctx, st, slot) → (s.queue die q).toks = t :: rest → (s.queue die q).posts = [] → (s.queue die q).unb = [] →
  s.tmpl die ctx st slot = some m → s.portal die q = none → s.startable m.x ctx = true →
  ((∃ r ∈ (s.die die).eng.creqs, r.queue = some q) → exec (.hqToken die q) s = .next s) ∧
  (t.flag .streamEnd = false → (s.die die).draining m.x ctx = false → (∀ r ∈ (s.die die).eng.creqs, r.queue ≠ some q) →
    (t.flag .null = true → ∃ u, exec (.hqToken die q) s = .next u ∧ (u.queue die q).toks = rest ∧
      (u.die die).eng.creqs = (s.die die).eng.creqs) ∧
    (t.flag .null = false → t.flag .poison = true → ∃ s1 : State, (s1.queue die q).toks = rest ∧ exec (.hqToken die q) s = .next
      (s1.takeFault (engUnit die 1 (st * 4)) (strmRec die st 0 ctx t .poisonAddr 0) .none)) ∧
    (t.flag .null = false → t.flag .poison = false →
      ∃ u r, exec (.hqToken die q) s = .next u ∧ (u.queue die q).toks = rest ∧ (u.die die).eng.creqs = (s.die die).eng.creqs ++ [r] ∧
        r.st = st ∧ r.ctx = ctx ∧ r.x = m.x ∧ r.queue = some q ∧ r.tmpl = some slot ∧ r.tok = t ∧ r.desc = m.desc ∧ r.direct = none)) ∧
  (t.flag .streamEnd = true → s.queueWorks die q = false → m.pend = none →
    ∃ u p v, exec (.hqStreamEnd die q) s = .next u ∧ (u.queue die q).toks = rest ∧ (u.die die).net.mesh = (s.die die).net.mesh ++ [p] ∧
      p.body = .tok v ∧ v.flags = t.flags ∧ v.tag = t.tag ∧ v.depth = t.depth ∧
      destWord v.kind v.die v.site v.node v.port = fld (descW m.desc 14) 3 29 * 8)

/-- R301, R302, R303, R306: a waiting firing takes a copy slot that no scan of a key store occupies, has its ranges checked and entered in the scoreboard, and runs; a copy
sends its next sector out, and a sector that performs writes the bytes of its source, or zeros, in its destination and nowhere
else. Clauses on which the spec is silent follow the model's choice (assumption 58). -/
def Obligations.CopySteps : Prop :=
  (∀ (die st k : Nat) (s s1 : State) (r : CopyReq) (es : List Score), k < 4 →
    (s.die die).eng.copies.find? (fun c => c.st == st && c.k == k) = none →
    (∀ c ∈ (s.die die).eng.scans, c.1 = st → c.2.1 = k → c.2.2 ≤ s.cycle) →
    (s.die die).eng.creqs.find? (fun r => r.st == st && s.startable r.x r.ctx) = some r →
    let id := (s.die die).eng.nextId
    let c : Copy := { id := id, st := st, k := k, ctx := r.ctx, x := r.x, queue := r.queue, tmpl := r.tmpl, tok := r.tok, desc := r.desc
                      scope := r.scope, direct := r.direct, state := .start, began := false, cursor := 0, perf := [], flight := []
                      pend := [], tile := 0 }
    s.copyHeld die c = false → descClvl r.desc + 1 = descNdim r.desc →
    (s.modEng die (fun e => { e with nextId := id + 1, creqs := ldrop (fun q => q == r) e.creqs, copies := e.copies ++ [c] })).copyRanges c
      = (.ok es, s1) → (s1.cell r.x).score.length + 2 ≤ 16 →
    ∃ t, exec (.copyStart die st k) s = .next t ∧ (t.cell r.x).score = (s1.cell r.x).score ++ es ∧
      (t.die die).eng.copies = lmap (fun u => u.id == id) (fun u => { u with state := .run, began := true })
        ((s.die die).eng.copies ++ [c])) ∧
  (∀ (id die k : Nat) (s s1 : State) (c : Copy), s.copyOf id = some (die, c) →
    s.copyRuns c = true → s.copyHeld die c = false → c.nextSector = some k → s.sectorIssue c k = some (.ok (), s1) →
    ∃ t u, exec (.sectorIssue id) s = .next t ∧ (t.die die).eng.copies.find? (fun q => q.id == c.id) = some u ∧
      u.flight = c.flight ++ [(k, s1.msys.sseq)] ∧
      u.pend = c.pend.filter (fun j => j != k) ∧ u.cursor = c.cursor ∧ u.perf = c.perf ∧ t.msys.sseq = s1.msys.sseq + 1) ∧
  (∀ (id die k n : Nat) (s s1 : State) (c : Copy) (place : Nat) (src : List Spot) (p : Spot) (ps : List Spot),
    s.copyOf id = some (die, c) → c.flight.find? (fun f => f.1 == k) = some (k, place) →
    s.sectorEnds c place k = some (.ok (src, p :: ps, n), s1) →
    c.direct = none → descClvl c.desc + 1 = descNdim c.desc →
    (∀ pa, .phys pa ∈ src ++ p :: ps → isRemote pa = false) →
    let bs : List Byte := if descZero c.desc then List.replicate n 0 else src.map (fun q => s1.byte q.addr)
    (∀ j, j < bs.length → isRemote (p.addr + j) = false) →
    ∃ t, exec (.sectorPerform id k) s = .next t ∧ Writes s1 t p.addr (bs.map some))

/-- R309, R313, R314: PLANE answers with its status: not its tenant's, bound, not a plane image, not signed, absent, or done; LOAD
puts the image's plane in its place, EVICT removes it. -/
def Claims.PlaneInstructions : Prop := ∀ (h : Hdr) (handle index : Nat) (s : State) (f : Firing), s.cur = some f →
  let s0 : State := { s with cur := none }
  let x := f.x
  let o := (f.op 0).w64
  let mine := s.planeOwned f index
  let same (t : State) : Prop := (t.die x.die).tab.planes = (s.die x.die).tab.planes
  let all : List (Instr) := [.planeLoad h handle index, .planeEvict h handle index]
  ((f.op 0).flag .poison = false → mine = false → ∀ i ∈ all, SendsNumber i h s s0 f 4 same) ∧
  ((f.op 0).flag .poison = false → mine = true → s.planeBound x.die index = true → ∀ i ∈ all, SendsNumber i h s s0 f 5 same) ∧
  (mine = false → SendsNumber (.planeQuery h handle index) h s s0 f 4 same) ∧
  (mine = true → SendsNumber (.planeQuery h handle index) h s s0 f (if (s.planeAt x.die index).isSome then 0 else 1) same) ∧
  (mine = true → s.planeBound x.die index = false → SendsNumber (.planeEvict h handle index) h s s0 f 0 (fun t =>
    (t.die x.die).tab.planes = (s.die x.die).tab.planes.filter (fun q => q.idx != index))) ∧
  (∀ l s1, (f.op 0).flag .poison = false → mine = true → s.planeBound x.die index = false →
    s0.spots x f.ent.ctx handle o 64 false = (.ok l, s1) →
    let hd := s1.readSpots l
    (hd.2 = true ∨ headOk index hd.1 = false → SendsNumber (.planeLoad h handle index) h s s1 f 2
      (fun t => (t.die x.die).tab.planes = (s1.die x.die).tab.planes)) ∧
    ∀ l2 s2, hd.2 = false → headOk index hd.1 = true →
      s1.spots x f.ent.ctx handle o (wordAt hd.1 8 + sigBytes) false = (.ok l2, s2) → (s2.readSpots l2).2 = false →
      let image := (s2.readSpots l2).1.take (wordAt hd.1 8)
      let signature := (s2.readSpots l2).1.drop (wordAt hd.1 8)
      ∀ p, planeOf index image = some p →
        (Config.sigOk s2.mgmt.planeKey image signature = false → SendsNumber (.planeLoad h handle index) h s s2 f 3
          (fun t => (t.die x.die).tab.planes = (s2.die x.die).tab.planes)) ∧
        (Config.sigOk s2.mgmt.planeKey image signature = true → SendsNumber (.planeLoad h handle index) h s s2 f 0
          (fun t => (t.die x.die).tab.planes = (s2.die x.die).tab.planes.filter (fun q => q.idx != index) ++ [p])))

/-- R312, R313: RECFG sends a token to each of its sites and is answered when all have reloaded; a site reached drains; one
whose work is done and whose channels are EMPTY accepts no more, reloads once nothing keeps its blocks, and the last one sends the
answer. -/
def Claims.Reconfiguration : Prop :=
  (∀ (h : Hdr) (plane : Nat) (rect : Option Rect) (site : Bool) (s : State) (f : Firing), s.cur = some f →
    let i : Instr := if site then .recfgSite h plane rect else .recfgBlocks h plane rect
    let todo := s.recfgSites f.x rect
    let s0 : State := { s with cur := none }
    ((f.op 0).flag .poison = true → site = false → exec i s = .next (s0.refuse f .poisonAddr (f.op 0).w64 0)) ∧
    ((f.op 0).flag .poison = false ∨ site = true → todo ≠ [] → PerformsLater i h s s0 f (fun t toks =>
      ∃ r, (t.die f.x.die).recfgs = (s.die f.x.die).recfgs ++ [r] ∧ r.ctx = f.ent.ctx ∧ r.plane = plane ∧ r.site = site ∧
        r.first = fld (f.op 0).w64 0 10 ∧ r.last = fld (f.op 0).w64 10 10 ∧ r.todo = todo.map (fun n => (n, false)) ∧ r.shut = [] ∧ r.x = f.x ∧
        r.dep.toks = toks ∧ ∃ l, (t.die f.x.die).net.mesh = (s.die f.x.die).net.mesh ++ l ∧ l.map (fun p => p.res) = todo ∧
          ∀ p ∈ l, p.body = .recfg r.id ∧ p.cls = 0))) ∧
  (∀ (k id : Nat) (s : State) (p : Packet), (s.die (k % 4)).net.mesh[k / 4]? = some p → p.body = .recfg id → p.due ≤ s.cycle →
    p.hop (k % 4) = none → s.flHeld p = false → s.packetBlocked (k % 4) p ((s.die (k % 4)).net.mesh.take (k / 4)) = false → s.swapping ⟨k % 4, p.res⟩ = false →
    s.pos ⟨k % 4, p.res⟩ = (p.col, p.row) →
    ∃ t, exec (.recfgArrival k) s = .next t ∧ (t.die (k % 4)).recfgs = lmap (fun r => r.id == id)
      (fun r => { r with todo := lmap (fun e => e.1 == p.res) (fun e => (e.1, true)) r.todo }) (s.die (k % 4)).recfgs ∧
      (t.die (k % 4)).net.mesh = (s.die (k % 4)).net.mesh.take (k / 4) ++ (s.die (k % 4)).net.mesh.drop (k / 4 + 1)) ∧
  (∀ (k : Nat) (s : State) (r : Recfg), (s.die (k % 4)).recfgs.find? (fun r => r.id == k / 4 / 8192) = some r →
    let res := k / 4 % 8192
    let left := r.todo.filter (fun e => e.1 != res)
    (r.todo.contains (res, true) = false ∨ s.recfgIdle r res = false → exec (.siteReload k) s = .next s) ∧
    (r.todo.contains (res, true) = true → s.recfgIdle r res = true → res ∉ r.shut →
      (s.channelsEmpty ⟨k % 4, res⟩ = false → exec (.siteReload k) s = .next s) ∧
      (s.channelsEmpty ⟨k % 4, res⟩ = true → ∃ t, exec (.siteReload k) s = .next t ∧ t.cells = s.cells ∧
        (t.die (k % 4)).recfgs = lmap (fun q => q.id == r.id) (fun q => { q with shut := res :: r.shut }) (s.die (k % 4)).recfgs)) ∧
    (r.todo.contains (res, true) = true → s.recfgIdle r res = true → res ∈ r.shut → s.recfgFree r res = false →
      exec (.siteReload k) s = .next s) ∧
    (r.todo.contains (res, true) = true → s.recfgIdle r res = true → res ∈ r.shut → s.recfgFree r res = true → left = [] → ∃ t, exec (.siteReload k) s = .next t ∧
      AnswersFiring (s.reloadSite r res) t r.x r.dep.toks ∧ ∀ q ∈ (t.die (k % 4)).recfgs, q.id ≠ r.id) ∧
    (r.todo.contains (res, true) = true → s.recfgIdle r res = true → res ∈ r.shut → s.recfgFree r res = true → left ≠ [] → ∃ t, exec (.siteReload k) s = .next t ∧
      t.cells = (s.reloadSite r res).cells ∧ ∀ q ∈ (t.die (k % 4)).recfgs, q.id = r.id → q.todo = left))

/-- R318, R326: an MXOP, an MXTAB and a MXDRAIN send a notice or a drain request to their island, behind those sent before, and
are answered when it has acted; a STREAM_END at a TILE form goes as a notice too. What fails at issue is refused or parks. -/
def Claims.IslandSends : Prop := ∀ (h : Hdr) (isl cs reg handle : Nat) (cmd : MxCmd) (c : MxTabCtl) (scope : Scope)
    (s : State) (f : Firing), s.cur = some f →
  let s0 : State := { s with cur := none }
  let o := (f.op 0).w64
  let noted (s1 : State) (isl cs : Nat) (kind : NoticeKind) (poison : Bool) (t : State) (toks : List Tok) : Prop :=
    ∃ n, (t.island f.x.die isl).notices = (s1.island f.x.die isl).notices ++ [n] ∧ n.x = f.x ∧ n.ctx = f.ent.ctx ∧ n.cslot = cs ∧
      n.tag = f.ent.tag ∧ n.depth = f.ent.depth ∧ n.poison = poison ∧ n.kind = kind ∧ n.parked = false ∧ n.spilt = none ∧ n.dep.toks = toks
  let notes (i : Instr) (kind : NoticeKind) : Prop := PerformsLater i h s s0 f (noted s0 isl cs kind ((f.op 0).flag .poison))
  notes (.mxopArm h isl cs cmd) (.arm cmd) ∧
  (f.ent.alone = none → notes (.mxopTileA h isl cs reg) (.tile false reg) ∧ notes (.mxopTileB h isl cs reg) (.tile true reg)) ∧
  (∀ m toks, f.ent.alone = some m → WellFormed (.mxopTileA h isl cs reg) = true →
    sendList (s.ctx f.ent.ctx).tl f.x ([h.t0, h.t1].map (fun g => .marker g (fwdTok f h [m] m false))) = some toks →
    s.exitExcess f (toks.filter Tok.isExit).length = false →
    ∃ t n, exec (.mxopTileA h isl cs reg) s = .next t ∧ exec (.mxopTileB h isl cs reg) s = .next t ∧
      (t.island f.x.die isl).notices = (s.island f.x.die isl).notices ++ [n] ∧ n.kind = .streamEnd m ∧ n.x = f.x ∧ n.cslot = cs ∧ n.dep.toks = toks) ∧
  ((f.op 0).flag .poison = true → exec (.mxtab h c) s = .next (s0.refuse f .poisonAddr o 0)) ∧
  (∀ l s1, (f.op 0).flag .poison = false → s0.cellSpots f.x f.ent.ctx c.handle o (if c.tbl = 0 then 2048 else 512) false = (.ok l, s1) →
    (s1.readSpots l).2 = false → (∀ p, p < h.arity → (f.op p).flag .poison = false) →
    PerformsLater (.mxtab h c) h s s1 f (noted s1 c.isl c.cslot (.table c.tbl c.bank (s1.readSpots l).1) false)) ∧
  (let n := 128 * 128 * (match (s.island f.x.die isl).slot cs with | some k => k.outBits | none => 8) / 8
   (∀ b s1, (f.op 0).flag .poison = false → s0.checkHandle f.x f.ent.ctx handle o n = (.error b, s1) →
     exec (.mxdrain h isl cs scope handle) s = .next (s1.park f (List.range h.arity) b)) ∧
   (∀ e s1, (f.op 0).flag .poison = false → s0.checkHandle f.x f.ent.ctx handle o n = (.ok e, s1) →
     (e.space = 1 → s1.sdmOwned f.x.die (s1.baseOf f.x e + o) n (s1.ctx f.ent.ctx).tenant = true) →
     (if e.space = 2 then o else s1.baseOf f.x e + o) % 64 = 0 →
     PerformsLater (.mxdrain h isl cs scope handle) h s s1 f (fun t toks =>
       ∃ d, (t.island f.x.die isl).drains = (s1.island f.x.die isl).drains ++ [d] ∧ d.x = f.x ∧ d.ctx = f.ent.ctx ∧ d.cslot = cs ∧
         d.tag = f.ent.tag ∧ d.depth = f.ent.depth ∧ d.handle = handle ∧ d.off = o ∧ d.scope = scope ∧ d.bank = none ∧ d.row = 0 ∧ d.piece = 0 ∧ d.parked = false ∧ d.spilt = none ∧
         d.clamps = 0 ∧ d.dep.toks = toks)))

/-- R323: SCL sends a scalar BF16 scale token, with the operand in SIDE and the island and command slot in its destination, and A's
tag; an island number above 23 is MX_CMD. -/
def Claims.SclSendsScale : Prop := ∀ (h : Hdr) (l : Lit) (s : State) (f : Firing), s.cur = some f →
  let a := (f.op 0).data.toNat
  let isl := a % 32
  (23 < isl → exec (.scl h l) s = .next (State.refuse { s with cur := none } f .mxCmd 0 0)) ∧
  (isl ≤ 23 → WellFormed (.scl h l) = true → Clear s f [h.t0] ((f.op 0).tag, (f.op 0).depth) 0 0 →
    ∃ t k, exec (.scl h l) s = .next t ∧ Kept s t f ∧
      Emits s t f 1 0 (List.range h.arity) ((onTargets (s.ctx f.ent.ctx).tl f.x [h.t0] k).map
        (fun u => { u with die := f.x.die, site := isl + 32 * (a / 32 % 16) })) ∧
      k.fmt = .bf16 ∧ k.vec = false ∧ k.side = BitVec.ofNat 32 (a / 512 % 2) ∧ k.tag = (f.op 0).tag ∧ k.depth = (f.op 0).depth ∧
      k.flag .scale = true ∧ k.flag .poison = ((f.first h.arity).any (fun t => t.flag .poison)) ∧
      k.data = (if h.arity = 2 then (f.op 1).bits 16 0 else (litBits .bf16 l).setWidth 16).setWidth 512)

/-- R316 to R319, R324, R326: an island handles its first notice: ARM installs a command in an empty slot; TILE reads its region
and stages the tile; MXTAB writes the bank that is not in use; a STREAM_END swaps the banks where a table has been written.
Clauses on which the spec is silent follow the model's choice (assumption 62). -/
def Obligations.IslandNotices : Prop := ∀ (die isl : Nat) (s : State) (n : Notice) (rest : List Notice),
  (s.island die isl).notices = n :: rest → n.parked = false → ((s.ctx n.ctx).st = .running ∨ (s.ctx n.ctx).st = .stopped) →
  n.parkAt = none → n.spilt = none →
  let i := s.island die isl
  let m := (s.cell n.x).mt
  let handled (t : State) : Prop := exec (.mxNotice die isl) s = .next t ∧ (t.island die isl).notices = (s.island die isl).notices.filter (fun m => m.id != n.id)
  (∀ cmd, n.kind = .arm cmd → i.slot n.cslot = none →
    let fmts := [s.fmtReg n.ctx cmd.afreg, s.fmtReg n.ctx cmd.bfreg, s.fmtReg n.ctx cmd.ofreg]
    mxWidth cmd.atype (fmts.getD 0 0) = mxWidth cmd.btype (fmts.getD 1 0) →
    ∃ t, handled t ∧ AnswersFiring s t n.x n.dep.toks ∧ (t.island die isl).slot n.cslot = some
      { n := n.cslot, ctx := n.ctx, x := n.x, cmd := cmd, fmts := fmts, rearm := false, banks := [{}, {}], tabs := [{}, {}], active := 0, pend := false }) ∧
  (∀ opB reg k p ps s1, n.kind = .tile opB reg → i.slot n.cslot = some k → k.ctx = n.ctx → 0 < n.depth →
    lvl (s.ctx n.ctx).tl n.tag 1 ≤ k.cmd.ksm1 → m.valid reg = true → m.mode reg = 0 → m.size reg = 8192 → i.tiles.length < 64 →
    (∀ t ∈ i.tiles, ¬ (t.ctx = n.ctx ∧ t.cslot = n.cslot ∧ t.opB = opB ∧ t.tag = n.tag ∧ t.depth = n.depth)) →
    s.tileSpots s.msys.sseq n.x reg 0 8192 false = (.ok (p :: ps), s1) →
    ∃ t u, handled t ∧ AnswersFiring s t n.x n.dep.toks ∧ (t.island die isl).tiles = i.tiles ++ [u] ∧ u.ctx = n.ctx ∧ u.cslot = n.cslot ∧
      u.opB = opB ∧ u.tag = n.tag ∧ u.depth = n.depth ∧ u.poison = (n.poison || s1.poisoned p.addr 8192) ∧
      u.rows = (List.range 128).map (fun r => leNat (s1.bytes (p.addr + 64 * r) 64)) ∧
      (t.cell n.x).mt = (s1.cell n.x).mt) ∧
  (∀ tbl bank bs k, n.kind = .table tbl bank bs → i.slot n.cslot = some k → k.ctx = n.ctx → bank ≠ some k.active →
    k.tabBusy (1 - k.active) = false → ∃ t, handled t ∧ AnswersFiring s t n.x n.dep.toks ∧
      (t.island die isl).slot n.cslot = some (k.write tbl (1 - k.active) bs)) ∧
  (∀ m k, n.kind = .streamEnd m → i.slot n.cslot = some k → k.ctx = n.ctx → ∃ t, handled t ∧ AnswersFiring s t n.x n.dep.toks ∧
    (t.island die isl).slot n.cslot = some (if k.pend then { k with active := 1 - k.active, pend := false } else k)) ∧
  (∀ cmd, n.kind = .arm cmd → i.slot n.cslot = none →
    mxWidth cmd.atype (s.fmtReg n.ctx cmd.afreg) ≠ mxWidth cmd.btype (s.fmtReg n.ctx cmd.bfreg) →
    exec (.mxNotice die isl) s = .next (s.parkNote die isl n .mxCmd 0)) ∧
  (∀ opB reg, n.kind = .tile opB reg → i.slot n.cslot = none → exec (.mxNotice die isl) s = .next (s.parkNote die isl n .mxBusy 0))

/-- R84, R320, R321, R322: a scale token enters the scale store; a pair fires: its bank holds, for integers, the exact sums of its
products added to what the bank held, wrapped to 32 bits, is done after the last pair of its command, and its tiles leave. -/
def Claims.PairsAndScales : Prop :=
  (∀ (die isl : Nat) (s : State) (t : Tok) (rest : List Tok), (s.island die isl).sspill = [] → (s.island die isl).scaleq = t :: rest →
    s.gone t.ctx = false → (s.island die isl).takes t = true →
    ∃ u, exec (.scaleArrival die isl) s = .next u ∧ (u.island die isl).scaleq = rest ∧
      (u.island die isl).scales = (s.island die isl).scales ++
        [⟨t.ctx, t.site / 32, t.side.getLsbD 0, t.tag, t.depth, t.data.toNat % 2 ^ 16, t.flag .poison, t.sent, 0⟩]) ∧
  (∀ (die isl : Nat) (s : State) (p : Pair), firstPair (s.pairsOf die isl) = some p → (s.island die isl).slot p.slot.n = some p.slot →
    p.slot.banks.length = 2 → s.pairHeld die isl p = false →
    let old := p.slot.banks.getD p.bank {}
    let el (t : Tile) (r kk : Nat) : BitVec p.slot.width := BitVec.ofNat _ (fld (t.rows.getD r 0) (p.slot.width * kk) p.slot.width)
    ∃ t k, exec (.pairFire die isl) s = .next t ∧ (t.island die isl).slot p.slot.n = some k ∧
      (k.banks.getD p.bank {}).st = (if p.k = p.slot.cmd.ksm1 then .done else .acc) ∧ (k.banks.getD p.bank {}).next = p.k + 1 ∧
      (t.island die isl).tiles = (s.island die isl).tiles.filter (fun u => u.ord != p.a.ord && u.ord != p.b.ord) ∧
      (p.slot.cmd.atype = .s8 → p.slot.cmd.btype = .s8 → ∀ r c, r < 128 → c < 128 →
        BitVec.ofNat 32 ((k.banks.getD p.bank {}).vals.getD (128 * r + c) 0) =
          BitVec.ofInt 32 (((List.range 64).map (fun kk => (el p.a r kk).toInt * (el p.b c kk).toInt)).sum
            + (if p.k = 0 then 0 else (old.vals.getD (128 * r + c) 0 : Nat)))))

/-- R325, R326: a drain takes the done bank of its key; each of its steps computes and writes one row, in ascending order; with no
stage of the epilogue an integer is saturated to the output type. -/
def Claims.DrainsWriteRows : Prop :=
  (∀ (die isl : Nat) (s : State) (d : Drain) (k : CSlot), s.queueDrains die isl = (false, s) →
    (s.island die isl).drains.find? (fun d => !d.parked && d.spilt.isNone) = some d → s.startable d.x d.ctx = true →
    (s.ctx d.ctx).pre.phase ≠ 1 → (s.die die).loupe.waits (unitIsland isl) = false → d.trace = false → d.parkAt = none → (s.island die isl).slot d.cslot = some k → k.ctx = d.ctx →
    let key := outKey (s.ctx d.ctx).tl d.tag
    let n := k.outBits / 4
    let o := d.off + d.row * 64 * n
    (∀ b, d.bank = none → (List.range 2).find? (fun b => (k.banks.getD b {}).st == .done && (k.banks.getD b {}).tag == key
        && (k.banks.getD b {}).depth == d.depth) = some b → b < k.banks.length →
      ∃ t j, exec (.islandDrain die isl d.cslot) s = .next t ∧
        (t.island die isl).drains = lmap (fun e => e.id == d.id) (fun e => { e with bank := some b }) (s.island die isl).drains ∧ (t.island die isl).slot d.cslot = some j ∧ (j.banks.getD b {}).st = .drain ∧
        (j.banks.getD b {}).vals = (k.banks.getD b {}).vals) ∧
    (∀ b m s2, d.bank = some b →
      s.rowWrite d o (k.banks.getD b {}).poison d.piece ((pieces n (k.row (k.banks.getD b {}) d.row).1).drop d.piece) = (none, m, s2) →
      d.row < 127 →
      ∃ t, exec (.islandDrain die isl d.cslot) s = .next t ∧ (∀ a, t.byte a = s2.byte a) ∧
        (t.island die isl).drains = lmap (fun e => e.id == d.id)
          (fun e => { e with row := d.row + 1, piece := 0, clamps := d.clamps + (k.row (k.banks.getD b {}) d.row).2 })
          (s.island die isl).drains)) ∧
  (∀ (k : CSlot) (t : MxTabs) (v j : Nat), k.cmd.bias = false → k.cmd.act = false → k.cmd.rq = false → k.cmd.atype = .s8 → k.cmd.otype = .s8 →
    let x := (BitVec.ofNat 32 v).toInt
    (BitVec.ofNat 8 (k.epilogue t v j).1).toInt = max (-128) (min 127 x) ∧
    (k.epilogue t v j).2 = decide (x < -128 ∨ 127 < x))

/-- R334 to R339: AWALK, AINS and ADEL send a request to the walkers of their site's quad, their operands standing in the frame; AINS
and ADEL count as stores; an
idle walker takes the oldest request; results go to the issuing cell as memory answers, the walker then idle. A query by
reference with a poisoned A is POISON_ADDR. Clauses on which the spec is silent follow the model's choices (assumptions 63, 77).
-/
def Obligations.IndexWalker : Prop :=
  (∀ (h : Hdr) (c : AwCtl) (d : AinsCtl) (handle : Nat) (scope : Scope) (s : State) (f : Firing), s.cur = some f →
    let s0 : State := { s with cur := none }
    let asks (s1 t : State) (kind : WalkKind) (toks : List Tok) : Prop :=
      ∃ w, (t.die f.x.die).eng.walks = (s1.die f.x.die).eng.walks ++ [w] ∧ w.kind = kind ∧ w.f = f ∧ w.h = h ∧ w.walker = none ∧
        w.state = .seed ∧ w.quad = quadOf (s.pos f.x) ∧ w.dep.toks = toks ∧ (t.cell f.x).slots = (s.cell f.x).slots
    let stores (t : State) : Prop := ∀ u e, f.ent.uid = some u → (s.cell f.x).ent u = some e →
      ∃ e2, (t.cell f.x).ent u = some e2 ∧ e2.spend = setBit e.spend f.pos
    let z32 : Tok := let t := newTok f h (f.first h.arity) none .z32 false 0
      { t with flags := t.flags ||| 128 }
    (c.qref = true → (f.op 0).flag .poison = true → exec (.awalk h c) s = .next (s0.refuse f .poisonAddr (f.op 0).w64 0)) ∧
    (d.kref = true → (f.op 0).flag .poison = true → exec (.ains h d) s = .next (s0.refuse f .poisonAddr (f.op 0).w64 0)) ∧
    (∀ toks, (c.qref = true → (f.op 0).flag .poison = false) → WellFormed (.awalk h c) = true →
      (matchCheck (s.ctx f.ent.ctx).tl f h c.k).bind (sendList (s.ctx f.ent.ctx).tl f.x) = some toks →
      ∃ t, exec (.awalk h c) s = .next t ∧ asks s0 t (.walk c) []) ∧
    ((d.kref = true → (f.op 0).flag .poison = false) → WellFormed (.ains h d) = true → Clear s f [h.t0, h.t1] f.tagOf 0 0 →
      ∃ t, exec (.ains h d) s = .next t ∧ asks s0 t (.ins d) (onTargets (s.ctx f.ent.ctx).tl f.x [h.t0, h.t1] z32) ∧ stores t) ∧
    (WellFormed (.adel h handle scope) = true → Clear s f [h.t0, h.t1] f.tagOf 0 0 →
      ∃ t, exec (.adel h handle scope) s = .next t ∧ asks s0 t (.del handle scope) (onTargets (s.ctx f.ent.ctx).tl f.x [h.t0, h.t1] z32) ∧
        stores t)) ∧
  (∀ (die quad k : Nat) (s : State) (w : Walk), s.queueWalks die quad = (false, s) →
    (List.range 4).find? (fun k => !(s.die die).eng.walks.any (fun w => w.quad == quad && w.walker == some k)) = some k →
    (s.waitingWalks die quad).find? (fun w => s.startable w.f.x w.f.ent.ctx && w.state != .fpark && w.spilt.isNone) = some w →
    s.walkHeld die { w with walker := some k } 0x45 = false →
    ∃ t u, exec (.walkRequest die quad) s = .next t ∧ (t.die die).eng.walks.find? (fun v => v.id == w.id) = some u ∧ u = { w with walker := some k }) ∧
  (∀ (die quad walker : Nat) (s : State) (w : Walk), (s.die die).eng.walks.find? (fun w => w.quad == quad && w.walker == some walker) = some w →
    ((s.ctx w.f.ent.ctx).st = .running ∨ (s.ctx w.f.ent.ctx).st = .stopped) → s.walkHeld die w 0x46 = false → w.parkAt = none → w.state = .finish →
    (∀ c, w.kind ≠ .walk c) → w.poison = false → w.dep.toks ≠ [] →
    ∃ t, exec (.walkResult die quad walker) s = .next t ∧ AnswersFiring s t w.f.x w.dep.toks ∧ ∀ v ∈ (t.die die).eng.walks, v.id ≠ w.id)

/-- R329, R331: a node is visible at a generation where it is in use, was born at or before it and dies after it; a walk keeps its
candidates and results in order of score, then id, no more than L and K of them. -/
def Claims.WalkKeepsBest : Prop := ∀ (w : Walk) (i score : Nat) (n : NodeHead), w.ktype = .s8 →
  let num (s : Nat) : Int := (BitVec.ofNat 32 s).toInt
  let before (a b : Nat × Nat) : Prop := num b.2 < num a.2 ∨ num a.2 = num b.2 ∧ a.1 < b.1
  let cs (w : Walk) : List (Nat × Nat) := w.cands.map (fun c => (c.1, c.2.1))
  (n.visible w.q = true ↔ n.used = true ∧ n.gin ≤ w.q ∧ w.q < n.gout) ∧
  (w.cands.length ≤ w.l → (w.offer i score n).cands.length ≤ w.l) ∧ (w.res.length ≤ w.k → (w.offer i score n).res.length ≤ w.k) ∧
  ((cs w).Pairwise (fun a b => ¬ before b a) → (cs (w.offer i score n)).Pairwise (fun a b => ¬ before b a)) ∧
  (w.res.Pairwise (fun a b => ¬ before b a) → (w.offer i score n).res.Pairwise (fun a b => ¬ before b a)) ∧
  (n.visible w.q = false → (w.offer i score n).res = w.res)

/-- R336, R337: an ADEL answers 2 for a node that is not in use or is as young, and goes on to its deletion for any other, writing
nothing; that writes GOUT of a node not yet deleted, and nothing else of memory, and answers 0; it answers 1 for one already deleted,
writing nothing. -/
def Claims.DeletionWritesOnce : Prop := ∀ (s s1 : State) (die : Nat) (w : Walk) (handle id gen : Nat) (scope : Scope) (bs : List Byte) (p : Bool),
  w.kind = .del handle scope → id = fld (w.f.op 0).data.toNat 0 32 → gen = fld (w.f.op 0).data.toNat 32 32 →
  let answers (t : State) (v : Nat) : Prop := ∀ u ∈ (t.die die).eng.walks, u.id = w.id →
    u.state = .finish ∧ u.dep.toks = w.dep.toks.map (fun k => { k with data := BitVec.ofNat 512 v })
  (s.walkRead w 0 64 = (.ok (bs, p), s1) →
    let desc : List W32 := (List.range 16).map (fun k => BitVec.ofNat 32 (wordAt bs (4 * k)))
    let v := { w with desc := desc, reg := s1.fmtReg w.f.ent.ctx (fld (desc.getD 0 0).toNat 24 4), poison := p || w.poison }
    ∀ n s2, id < v.nslot → v.g < gen → gen ≠ 0xFFFFFFFF → s1.nodeHead v id = (.ok n, s2) →
      let t := s.seed die w
      (∀ b, t.byte b = s2.byte b) ∧ (n.used = false ∨ gen ≤ n.gin → answers t 2) ∧
      (n.used = true → n.gin < gen → ∀ u ∈ (t.die die).eng.walks, u.id = w.id → u.state = w.state ∧ u.step = 2)) ∧
  (s.walkRead w (w.at id + 4) 4 = (.ok (bs, p), s1) →
    let t := s.deleteNode die w
    (leNat bs ≠ 0xFFFFFFFF → answers t 1 ∧ ∀ b, t.byte b = s1.byte b) ∧
    (∀ s2, leNat bs = 0xFFFFFFFF → s1.walkWrite w (w.at id + 4) (leBytes 4 gen) ((w.f.op 0).flag .poison) = (.ok (), s2) →
      (∀ b, t.byte b = s2.byte b) ∧ (scope ≠ .system → answers t 0) ∧
      (scope = .system → ∀ u ∈ (t.die die).eng.walks, u.id = w.id → u.step = 3) ∧ (w.step = 3 → answers (s.seeding die w) 0)))

/-- R341, R355, R356: TREV sends A on and leaves one record; RDTIME sends a scalar S64 token that the time is written into when
it takes its last stage, or as it fires where it goes to a latch of its own cell. Clauses on which the spec is silent follow the model's choice (assumption 66). -/
def Obligations.TraceInstructions : Prop := ∀ (h : Hdr) (c : TrevCtl),
  Sends (.trev h c) (fun _ => [h.t0, h.t1]) (fun _ _ => List.range h.arity) oneCycle noFlags (fun _ f => f.tagOf) (fun _ _ => True)
    (fun _ f k => k = fwdTok f h (f.first h.arity) (f.op 0) false) ∧
  (∀ s f, WellFormed (.rdtime h) = true → Clear s f [h.t0, h.t1] f.tagOf 0 0 →
    ∃ t k, exec (.rdtime h) s = .next t ∧ k.fmt = .s64 ∧ k.vec = false ∧ k.data = BitVec.ofNat 512 ((s.die f.x.die).loupe.time % 2 ^ 64) ∧
      let all := onTargets (s.ctx f.ent.ctx).tl f.x [h.t0, h.t1] k
      let out := all.filter (fun u => !(s.cell f.x).inward f.x u)
      (t.cell f.x).slots = ((s.consume f (List.range h.arity)).cell f.x).slots ∧
      (t.cell f.x).spat.inner = (s.cell f.x).spat.inner ++ (all.filter ((s.cell f.x).inward f.x)).map (fun u => (u.node, u.port, u)) ∧
      (out = [] → (t.cell f.x).pipe.deps = (s.cell f.x).pipe.deps) ∧
      (out ≠ [] → ∃ d, (t.cell f.x).pipe.deps = (s.cell f.x).pipe.deps ++ [d] ∧ d.home = 1 ∧ d.toks = out)) ∧
  (∀ (l : Loupe) (d : Dep), d.home = 1 → (d.stamped l).toks = d.toks.map (timeTok l))

/-- R341 to R343: the first lock steps the clocks of the dies that are up forward to master time and never back, a later one slews
them, within 200 parts in a million; the loss of the master leaves HOLDOVER; a clock that has no lock takes state 1 from a
measurement. -/
def Claims.ClocksNeverGoBack : Prop := ∀ (s : State) (time d : Nat) (offset : BitVec 16), d < 4 → (s.die d).power.on = true →
  let l := (s.die d).loupe
  let all : Prop := ∀ e, e < 4 → (s.die e).power.on = true → (s.die e).loupe.locked = true
  (∃ t, exec (.ptpMessage time offset false) s = .next t ∧ (t.die d).loupe.time = l.time ∧ (t.die d).loupe.offs = offset ∧
    (t.die d).loupe.state = (if l.state = 0 then 1 else l.state)) ∧
  (¬ all → l.time < 2 ^ 64 → time < 2 ^ 64 → ∃ t, exec (.ptpMessage time offset true) s = .next t ∧
    (t.die d).loupe.time = max l.time time ∧ (t.die d).loupe.state = 2 ∧ (t.die d).loupe.locked = true) ∧
  (all → ∃ t, exec (.ptpMessage time offset true) s = .next t ∧ (t.die d).loupe.time = l.time ∧
    (t.die d).loupe.state = 2 ∧ 40000000 - 8000 ≤ (t.die d).loupe.rate ∧ (t.die d).loupe.rate ≤ 40000000 + 8000) ∧
  (∃ t, exec .ptpMasterLoss s = .next t ∧ (t.die d).loupe.time = l.time ∧ (t.die d).loupe.state = (if l.state = 0 then 0 else 3))

/-- R349 to R351: a die's watermark rises to what it can promise and never falls; a tenant's next record is written once every
watermark has passed it, and waits before. -/
def Claims.TraceStream : Prop :=
  (∀ (die : Nat) (s : State), (s.die die).power.on = true → ∃ t, exec (.traceWatermark die) s = .next t ∧
    (t.die die).loupe.wmark = max (s.die die).loupe.wmark (s.die die).loupe.low ∧ (t.die die).loupe.queue = (s.die die).loupe.queue) ∧
  (∀ (tenant : Nat) (s : State) (r : TRec), let b := s.ten tenant
    firstRec ((s.die b.home).loupe.fwd.filter (fun r => r.tenant == tenant)) = some r →
    (b.en = false → ∃ t, exec (.traceWrite tenant) s = .next t ∧ (∀ a, t.byte a = s.byte a) ∧
      (t.die b.home).loupe.fwd = ldrop (fun q => q == r) (s.die b.home).loupe.fwd) ∧
    (b.en = true → 20 ≤ b.sizel → b.sizel ≤ 36 → s.passed r.time = false → exec (.traceWrite tenant) s = .next s) ∧
    (b.en = true → 20 ≤ b.sizel → b.sizel ≤ 36 → s.passed r.time = true → b.stopMode = false → b.lost = false →
      b.epoch = some (r.time / 2 ^ 48 % 2 ^ 16) → r.ws.length = 4 → b.w.length = 8 →
      ∃ t, exec (.traceWrite tenant) s = .next t ∧ (t.ten tenant).word 4 = (b.word 4 + 1) % 2 ^ 32 ∧
        (∀ d j, paKind s.host.cxl (b.base + 16 * (b.word 4 % b.room)) = .hbm d → j < 16 →
          isRemote (b.base + 16 * (b.word 4 % b.room) + j) = false →
          t.byte (b.base + 16 * (b.word 4 % b.room) + j) = (wordBytes r.ws).getD j 0)))

/-- R212 to R220: a swap instant halves every traffic count and sets the next instant; the map version advances once its
exchanges are complete, and a router that installs it flushes every moved resident it has sent to; HPIN counts a pin of its context, up to 65,535 and for eight contexts, and HUNPIN takes one off. Clauses
on which the spec is silent follow the model's choice (assumption 79). -/
def Obligations.HerdPlacement : Prop :=
  (∀ (die exLen : Nat) (s : State), (s.die die).herd.nextAt ≤ (s.die die).loupe.time → (s.die die).herd.busy = [] →
    (s.die die).power.on = true → let h := (s.die die).herd
    ∃ t, exec (.swapInstant die exLen) s = .next t ∧ (t.die die).herd.inst = h.inst + 1 ∧
      (t.die die).herd.nextAt = h.nextAt + 4000 * h.period ∧ (h.en = false → (t.die die).herd.busy = [] ∧ (t.die die).moved = (s.die die).moved) ∧
      ((s.die die).net.fls ≠ [] → (t.die die).herd.busy = [] ∧ (t.die die).herd.skips = satAdd 48 h.skips 1)) ∧
  (∀ (die : Nat) (s : State), die < 4 → (s.die die).herd.busy ≠ [] → (s.die die).herd.done ≤ s.cycle →
    ∃ t, exec (.mapVersionAdvance die) s = .next t ∧ (t.die die).herd.mapver = ((s.die die).herd.mapver + 1) % 2 ^ 32 ∧
      (t.die die).herd.busy = [] ∧ (t.die die).net.sent = (s.die die).net.sent ∧
      (t.die die).herd.swaps = satAdd 48 (s.die die).herd.swaps (s.die die).herd.busy.length) ∧
  (∀ (die r : Nat) (s : State), die < 4 → (s.die die).herd.busy = [] → (s.die die).net.prev ≠ [] → r ∉ (s.die die).net.inst →
    ∃ t, exec (.mapVersionAdvance (die + 4 * (r + 1))) s = .next t ∧ r ∈ (t.die die).net.inst ∧
      (t.die die).net.sent = (s.die die).net.sent.filter (fun e => e.1 != r) ∧
      ∀ e ∈ (s.die die).net.prev, (r, e.1) ∈ (s.die die).net.sent → (r, e.1) ∈ (t.die die).net.fls ∧
        ∀ cls ∈ [0, 1, 3], ∃ p ∈ (t.die die).net.mesh, p.cls = cls ∧ p.body = .flush r e.1 ∧ p.res = e.1 ∧ (p.dcol, p.drow) = e.2) ∧
  (∀ (h : Hdr) (s : State) (f : Firing), s.cur = some f →
    let pins := (s.cell f.x).herd.pins
    let mine := pins.find? (fun p => p.ctx == f.ent.ctx)
    let s0 : State := { s with cur := none }
    let toks := onTargets (s.ctx f.ent.ctx).tl f.x [h.t0, h.t1] (fwdTok f h (f.first h.arity) (f.op 0) false)
    let sent (i : Instr) (after : List Pin) (fresh : Prop) : Prop := WellFormed i = true → Clear s f [h.t0, h.t1] f.tagOf 0 0 →
      ∃ t, exec i s = .next t ∧ (t.cell f.x).herd.pins = after ∧ (toks ≠ [] ∨ ¬ fresh → Emits s t f 1 0 (List.range h.arity) toks) ∧
        (toks = [] → fresh → (t.cell f.x).slots = ((s.consume f (List.range h.arity)).cell f.x).slots ∧
          (t.cell f.x).pipe.deps = (s.cell f.x).pipe.deps ++ [⟨f.ent.ctx, f.ent.uid, f.ent.node, s.cycle + 6, f.ent.ord, 0, false, []⟩])
    (∀ p, mine = some p → p.count = 65535 → exec (.hpin h) s = .next (s0.refuse f .herdPin 0 0)) ∧
    (mine = none → 8 ≤ pins.length → exec (.hpin h) s = .next (s0.refuse f .herdPin 0 0)) ∧
    (∀ p, mine = some p → p.count ≠ 65535 →
      sent (.hpin h) (lmap (fun q => q.ctx == f.ent.ctx) (fun q => { q with count := q.count + 1 }) pins) False) ∧
    (mine = none → pins.length < 8 → sent (.hpin h) (pins ++ [⟨f.ent.ctx, 1, f.ent.ord, false⟩]) True) ∧
    (mine = none → exec (.hunpin h) s = .next (s0.refuse f .herdPin 0 0)) ∧
    (mine ≠ none → sent (.hunpin h) ((pins.map (fun q => if q.ctx = f.ent.ctx then { q with count := q.count - 1 } else q)).filter
      (fun q => 0 < q.count)) False))

namespace Sys2Proof.Machine

/-- A firing of `i` whose checks succeeded in `s1` issues: its operands are consumed, nothing leaves S6 yet, and its tokens, made
from `tok`, go as `more` tells. -/
def PerformsWith (i : Instr) (h : Hdr) (s s1 : State) (f : Firing) (tok : Tok) (more : State → List Tok → Prop) : Prop :=
  WellFormed i = true → Clear { s1 with cur := some f } f [h.t0, h.t1] f.tagOf 0 0 →
    ∃ t, exec i s = .next t ∧ Consumed s1 t f h ∧ (t.cell f.x).pipe.deps = (s1.cell f.x).pipe.deps ∧
      more t (onTargets (s1.ctx f.ent.ctx).tl f.x [h.t0, h.t1] tok)

/-- A trap that fires: its operands are consumed, its record is taken as a fault, and its tokens are owed to the record's answer. -/
def Traps (i : Instr) (h : Hdr) (code : FCode) (eng : Nat) (ok : State → Firing → Prop) : Prop :=
  ∀ s f, ok s f → f.taken = false → s.latched (siteUnit f.x) < 4 → WellFormed i = true → Clear s f [h.t0, h.t1] f.tagOf 0 0 →
    ∃ s1 r w, exec i s = .next (s1.takeFault (siteUnit f.x) r (.toks f.x f.ent.uid w)) ∧ Consumed s s1 f h ∧
      (∀ a, s1.byte a = s.byte a) ∧ (s1.cell f.x).pipe.deps = (s.cell f.x).pipe.deps ∧
      w.toks = onTargets (s.ctx f.ent.ctx).tl f.x [h.t0, h.t1] (fwdTok f h (f.first h.arity) (f.op 0) false) ∧
      r.code = code ∧ r.eng = eng ∧ r.arg = BitVec.ofNat 64 (f.op 0).w64 ∧ r.src = 0 ∧ r.node = f.ent.node ∧
      r.ctx = f.ent.ctx ∧ r.tag = f.ent.tag ∧ r.depth = f.ent.depth ∧ r.die = f.x.die ∧ (r.col, r.row) = s.pos f.x

end Sys2Proof.Machine

/-- R381, R382, R384: TRAP and BRKPT send A on where their condition is not met, and BRKPT where TRAP.FSTAT.DBG is 0; else they
consume A and take a USER or BREAK fault with A's payload and CODE, their tokens owed to its answer. HALT ends its context. SYS
enters the host's service queue, and the host's answer leaves as a memory answer does. Clauses on which the spec is silent
follow the model's choices (assumptions 20, 49). -/
def Obligations.TrapsServicesAndHalt : Prop :=
  (∀ (h : Hdr) (code : Nat) (cond : Bool),
    let off (f : Firing) : Prop := cond = true ∧ (f.op 0).data.getLsbD 0 = false
    let dbg (s : State) (f : Firing) : Bool := (s.ctx f.ent.ctx).trap.dbg
    let on (i : Instr) (ok : State → Firing → Prop) : Prop :=
      Sends i (fun _ => [h.t0, h.t1]) (fun _ _ => List.range h.arity) oneCycle noFlags (fun _ f => f.tagOf) ok
        (fun _ f k => k = fwdTok f h (f.first h.arity) (f.op 0) false)
    on (.trap h code cond) (fun _ f => off f) ∧ on (.brkpt h code cond) (fun s f => off f ∨ dbg s f = false) ∧
    Traps (.trap h code cond) h .user code (fun _ f => ¬ off f) ∧
    Traps (.brkpt h code cond) h .break_ code (fun s f => ¬ off f ∧ dbg s f = true)) ∧
  (∀ (h : Hdr) (s : State) (f : Firing), WellFormed (.halt h) = true → Clear s f [] f.tagOf 0 0 →
    ((s.ctx f.ent.ctx).st = .running ∨ (s.ctx f.ent.ctx).st = .stopped) →
    ∃ t, exec (.halt h) s = .next t ∧ (t.ctx f.ent.ctx).st = .ended ∧ (∀ a, t.byte a = s.byte a) ∧
      (∀ c, c ≠ f.ent.ctx → t.ctx c = s.ctx c) ∧
      ∀ x, (∀ e ∈ (t.cell x).dir, e.ctx ≠ f.ent.ctx) ∧ (∀ e ∈ (t.cell x).ready, e.ctx ≠ f.ent.ctx) ∧
        (∀ d ∈ (t.cell x).pipe.deps, d.ctx ≠ f.ent.ctx) ∧ (t.cell x).blks = (s.cell x).blks) ∧
  (∀ (h : Hdr) (svc : Nat) (s : State) (f : Firing), s.cur = some f →
    PerformsWith (.sys h svc) h s { s with cur := none } f (newScalar f h .s64 0) (fun t toks =>
      ∃ r, t.host.service = s.host.service ++ [r] ∧ t.host.nextReq = s.host.nextReq + 1 ∧ r.k = s.host.nextReq ∧ r.svc = svc ∧
        r.ctx = f.ent.ctx ∧ r.tag = f.ent.tag ∧ r.pay = BitVec.ofNat 64 (f.op 0).w64 ∧ r.x = f.x ∧ r.dep.toks = toks)) ∧
  (∀ (k : Nat) (v : W64) (s : State) (r : Service), s.host.service.find? (fun r => r.k == k) = some r →
    ∃ t, exec (.sysAnswer k v) s = .next t ∧ t.host.service = s.host.service.filter (fun q => q.k != k) ∧
      AnswersFiring s t r.x (r.dep.toks.map (fun u => { u with data := v.setWidth 512 })) ∧ ∀ a, t.byte a = s.byte a)

/-- R157, R383: LAUNCH reads the descriptor at A's offset; a poisoned offset is POISON_ADDR and a failed check parks it. A launch
that is refused answers with its status in bits 19:16; one that passes makes its context, LOADING, and owes its number to the
firing. The drop's end sets the context RUNNING and pays it. -/
def Claims.LaunchMakesContext : Prop :=
  (∀ (h : Hdr) (handle : Nat) (die : Option Nat) (s : State) (f : Firing), s.cur = some f →
    let s0 : State := { s with cur := none }
    let o := (f.op 0).w64
    let i : Instr := .launch h handle die
    ((f.op 0).flag .poison = true → exec i s = .next (s0.refuse f .poisonAddr o 0)) ∧
    (∀ b s1, (f.op 0).flag .poison = false → s0.cellSpots f.x f.ent.ctx handle o 64 false = (.error b, s1) →
      exec i s = .next (s1.park f (List.range h.arity) b)) ∧
    (∀ l s1, (f.op 0).flag .poison = false → s0.cellSpots f.x f.ent.ctx handle o 64 false = (.ok l, s1) →
      let d := (s1.readSpots l).1
      let n := Nat.min 32 (fld (wordAt d 0) 5 6)
      let more := if n = 0 then (.ok [], s1) else s1.cellSpots f.x f.ent.ctx handle (o + 64) (4 * n) false
      (∀ b s2, more = (.error b, s2) → exec i s = .next ((s2.regsOf s0 f.x).park f (List.range h.arity) b)) ∧
      ∀ l2 s2, more = (.ok l2, s2) →
      let srcs : List W32 := (List.range n).map (fun k => BitVec.ofNat 32 (wordAt (s2.readSpots l2).1 (4 * k)))
      let checked := s2.launchCheck d ((s1.readSpots l).2 || (s2.readSpots l2).2) (o % 64 = 0) srcs (some f.ent.ctx) die
      (∀ b s3, checked = (.wait b, s3) → exec i s = .next ((s3.regsOf s0 f.x).park f (List.range h.arity) b)) ∧
      (∀ code s3, checked = (.refused code, s3) → PerformsWith i h s s3 f (newScalar f h .z32 0) (fun t toks =>
        AnswersFiring s3 t f.x (toks.map (fun u => { u with data := BitVec.ofNat 512 (code * 2 ^ 16) })))) ∧
      (∀ p s3, checked = (.pass p, s3) → WellFormed i = true → Clear { s3 with cur := some f } f [h.t0, h.t1] f.tagOf 0 0 →
        ∃ t w, exec i s = .next t ∧ (t.ctx p.c).st = .loading ∧ (t.ctx p.c).tenant = p.k.tenant ∧ (t.ctx p.c).prio = p.k.prio ∧
          (t.ctx p.c).tl = p.k.tl ∧ (t.ctx p.c).fmt = p.k.fmt ∧ (t.ctx p.c).inj = p.k.inj ∧ (t.ctx p.c).owed = [(f.x, w)] ∧
          w.toks = (onTargets (s3.ctx f.ent.ctx).tl f.x [h.t0, h.t1] (newScalar f h .z32 0)).map
            (fun u => { u with data := BitVec.ofNat 512 p.c })))) ∧
  (∀ (descPa : Nat) (s : State), s.mgmt.recovery = false →
    let d := (s.physRead descPa 64).1
    let n := Nat.min 32 (fld (wordAt d 0) 5 6)
    let more := if n = 0 then ([], false) else s.physRead (descPa + 64) (4 * n)
    let srcs : List W32 := (List.range n).map (fun k => BitVec.ofNat 32 (wordAt more.1 (4 * k)))
    let checked := s.launchCheck d ((s.physRead descPa 64).2 || more.2) (descPa % 64 = 0) srcs none none
    (∀ code s1, checked = (.refused code, s1) → exec (.hostLaunch descPa) s = .next (s1.launchDone descPa code 0)) ∧
    (∀ p s1, checked = (.pass p, s1) → ∃ t, exec (.hostLaunch descPa) s = .next t ∧ (t.ctx p.c).st = .loading ∧
      (t.ctx p.c).desc = some descPa ∧ (t.ctx p.c).tl = p.k.tl ∧ t.host.launch = s1.host.launch)) ∧
  (∀ (ctx : Nat) (s : State), (s.ctx ctx).st = .loading → (s.ctx ctx).owed.length ≤ 1 →
    ∃ t, exec (.dropComplete ctx) s = .next t ∧ (t.ctx ctx).st = (if s.stopCause ctx then .stopped else .running) ∧
      (t.ctx ctx).owed = [] ∧ (∀ p, (s.ctx ctx).desc = some p → t.host.launch = s.host.launch ++ [(p, 0, ctx)]) ∧
      ∀ x w, (s.ctx ctx).owed = [(x, w)] → AnswersFiring s t x w.toks)

/-- R160, R161, R384: an injection sends the next record of the token list to its source port, one of a die in a cycle; the host may end a context; an ENDED
context that is quiescent is FREE, its blocks, key stores and route entries gone. -/
def Claims.ContextInjectsAndEnds : Prop :=
  (∀ (ctx : Nat) (s : State) (t : Tok) (rest : List Tok) (w : W32), (s.ctx ctx).st = .running → s.stopped ctx = false →
    (s.ctx ctx).since < s.cycle → (s.die (ctxDie ctx)).injAt ≤ s.cycle → (s.ctx ctx).inj = t :: rest → (s.ctx ctx).srcs[t.site]? = some w →
    ∃ u p v, exec (.tokenInjection ctx) s = .next u ∧ (u.ctx ctx).inj = rest ∧ (u.die (ctxDie ctx)).injAt = s.cycle + 1 ∧
      (u.die (ctxDie ctx)).net.mesh = (s.die (ctxDie ctx)).net.mesh ++ [p] ∧ p.body = .tok v ∧ p.cls = 3 ∧
      v.data = t.data ∧ v.tag = t.tag ∧ v.depth = t.depth ∧ v.ctx = ctx ∧ v.node = fld w.toNat 2 10 ∧ v.port = fld w.toNat 0 2 ∧
      v.site = s.residentAt (ctxDie ctx) (rankOf (fld w.toNat 23 7) (fld w.toNat 16 7))) ∧
  (∀ (ctx : Nat) (s : State), ((s.ctx ctx).st = .running ∨ (s.ctx ctx).st = .stopped ∨ (s.ctx ctx).st = .saved) →
    ∃ t, exec (.hostTerminate ctx) s = .next t ∧ (t.ctx ctx).st = .ended ∧ (∀ c, c ≠ ctx → t.ctx c = s.ctx c) ∧
      (∀ a, t.byte a = s.byte a) ∧ (∀ p ∈ t.parked, p.f.ent.ctx ≠ ctx) ∧ ∀ l ∈ t.latches, l.fr.ctx ≠ ctx) ∧
  (∀ (ctx : Nat) (s : State), (s.ctx ctx).st = .free ∨ (s.ctx ctx).st = .loading ∨ (s.ctx ctx).st = .ended →
    exec (.hostTerminate ctx) s = .next s) ∧
  (∀ (ctx : Nat) (s : State), (s.ctx ctx).st = .ended → s.quiescent ctx = true →
    ∃ t, exec (.contextRelease ctx) s = .next t ∧ (t.ctx ctx).st = .free ∧ (∀ c, c ≠ ctx → t.ctx c = s.ctx c) ∧
      (∀ a, t.byte a = s.byte a) ∧ (∀ x, (∀ b ∈ (t.cell x).blks, b.ctx ≠ ctx) ∧ ∀ k ∈ (t.cell x).stores, k.ctx ≠ ctx) ∧
      ∀ d, ∀ e ∈ (t.die d).net.routes, fld e.w.w2.toNat 17 14 ≠ ctx) ∧
  (∀ (ctx : Nat) (s : State), ¬ ((s.ctx ctx).st = .ended ∧ s.quiescent ctx = true) → exec (.contextRelease ctx) s = .next s)

/-- R361 to R363, R365: taking a fault writes the record and then WP, numbers it, keeps it open, and stops its context where it is a
stopping one; a full queue, and a write that faults, leave it in a latch of its unit, with the context stopped. -/
def Claims.TakingAFault : Prop := ∀ (s : State) (u : Nat) (r : FRec) (what : Resume),
  (s.ctx r.ctx).pre.phase ≠ 1 → (∀ m ∈ s.latches, m.fr.ctx ≠ r.ctx) →
  let k := s.ctx r.ctx
  let t := s.takeFault u r what
  let latched (host : Bool) : Prop := t.latches = s.latches ++ [⟨u, r, what, host⟩] ∧ (∀ a, t.byte a = s.byte a) ∧
    (k.st = .running → (t.ctx r.ctx).st = .stopped) ∧ (t.ctx r.ctx).trap = k.trap
  (∀ n s1 v s2, s.ctxBound r.ctx k.fqh = (.ok n, s1) → s1.ctxRead r.ctx k.fqh 0 8 = (.ok v, s2) →
    let nrec := (n - 64) / 32
    let wp := v % 2 ^ 32
    (nrec = 0 ∨ nrec ≤ (wp + 2 ^ 32 - v / 2 ^ 32) % 2 ^ 32 → latched false) ∧
    (∀ l s3 lw s4, 0 < nrec → (wp + 2 ^ 32 - v / 2 ^ 32) % 2 ^ 32 < nrec →
      s2.spots (homeSite r.ctx) r.ctx k.fqh (64 + 32 * (wp % nrec)) 32 true = (.ok l, s3) →
      s3.spots (homeSite r.ctx) r.ctx k.fqh 0 4 true = (.ok lw, s4) →
      (∀ a, t.byte a = ((s4.writeSpots l (wordBytes (r.words k.trap.seq))).writeSpots lw (leBytes 4 ((wp + 1) % 2 ^ 32))).byte a) ∧
      (t.ctx r.ctx).trap = { k.trap with seq := (k.trap.seq + 1) % 2 ^ 32, last := r.code.code, opens := k.trap.opens ++ [⟨k.trap.seq, r.code.kind, r.code, what⟩] } ∧
      t.latches = s.latches ∧ (k.st = .running → r.code.kind = 0 → (t.ctx r.ctx).st = .stopped) ∧
      (k.st = .running → r.code.kind ≠ 0 → s.stopCause r.ctx = false → (t.ctx r.ctx).st = .running))) ∧
  (∀ c arg s1, s.ctxBound r.ctx k.fqh = (.error (.fault c arg), s1) → latched true ∧
    t.host.notices = s.host.notices ++ [(0, r.ctx)]) ∧
  (∀ va s1, s.ctxBound r.ctx k.fqh = (.error (.migr va), s1) → latched false)

/-- R362: the layout of a fault record, whose fields are within their widths. -/
def Claims.FaultRecordLayout : Prop := ∀ (r : FRec) (seq : Nat),
  r.node < 2 ^ 10 → r.src < 4 → r.die < 4 → r.col < 2 ^ 7 → r.row < 2 ^ 7 → r.ctx < 2 ^ 14 → r.eng < 2 ^ 16 → r.depth < 16 → seq < 2 ^ 32 →
  let w (k : Nat) : W32 := (r.words seq).getD k 0
  (r.words seq).length = 8 ∧
  (w 0).extractLsb' 26 6 = 0 ∧ ((w 0).extractLsb' 16 10).toNat = r.node ∧ (w 0).extractLsb' 12 4 = 0 ∧
  ((w 0).extractLsb' 10 2).toNat = r.src ∧ ((w 0).extractLsb' 8 2).toNat = r.code.kind ∧ ((w 0).extractLsb' 0 8).toNat = r.code.code ∧
  ((w 1).extractLsb' 30 2).toNat = r.die ∧ ((w 1).extractLsb' 23 7).toNat = r.col ∧ ((w 1).extractLsb' 16 7).toNat = r.row ∧
  (w 1).extractLsb' 14 2 = 0 ∧ ((w 1).extractLsb' 0 14).toNat = r.ctx ∧ (w 3) ++ (w 2) = r.tag ∧
  ((w 4).extractLsb' 16 16).toNat = r.eng ∧ (w 4).extractLsb' 4 12 = 0 ∧ ((w 4).extractLsb' 0 4).toNat = r.depth ∧
  (w 6) ++ (w 5) = r.arg ∧ (w 7).toNat = seq

/-- R365, R386: FAULTRET answers PROT to a context that may not, INVALID to ACTION 3, and NOREC where no record of that number
is open; else OK, and the record is closed: END ends its context, RESUME and SKIP let what it held go on or abandon it, and a
context with nothing more to stop it runs again; the answer to a SAVED context is kept for its restore, and so is one to a memory record whose work a STOP keeps parked (R389). Clauses on
which the spec is silent follow the model's choices (assumptions 41, 49, 50). -/
def Obligations.FaultReturns : Prop := ∀ (h : Hdr) (s : State) (f : Firing), s.cur = some f →
  let s0 : State := { s with cur := none }
  let c := fld (f.op 0).w64 0 14
  let seq := fld (f.op 0).w64 32 32
  let action := fld (f.op 0).w64 14 2
  let k := s.ctx c
  let find := k.trap.opens.find? (fun o => o.seq == seq && !k.trap.acks.any (fun a => a.1 == seq))
  let may : Prop := (s.ctx c).hctx = f.ent.ctx ∨ (s.ctx f.ent.ctx).tenant = 0
  let forms : List (Instr × Nat) := [(.faultretResume h, 0), (.faultretSkip h, 1), (.faultretEnd h, 2)]
  let tells (i : Instr) (n : Nat) : Prop := SendsNumber i h s s0 f n (fun t => t.ctx c = k ∨ c = f.ent.ctx)
  (¬ may → ∀ p ∈ forms, tells p.1 2) ∧
  (may → action = 3 → ∀ p ∈ forms, tells p.1 3) ∧
  (may → action ≠ 3 → find = none → ∀ p ∈ forms, tells p.1 1) ∧
  (∀ o, may → action ≠ 3 → find = some o → o.what = .ecc → ∀ p ∈ forms, p.2 ≠ 2 → tells p.1 3) ∧
  (∀ o, may → action ≠ 3 → find = some o → ∀ p ∈ forms, s.keepsAnswer c o p.2 = true → o.what ≠ .ecc ∨ p.2 = 2 →
    SendsNumber p.1 h s s0 f 0 (fun t => (t.ctx c).trap.acks = k.trap.acks ++ [(seq, p.2)])) ∧
  (∀ o, may → action ≠ 3 → find = some o → ∀ p ∈ forms, s.keepsAnswer c o p.2 = false → o.what ≠ .ecc ∨ p.2 = 2 → WellFormed p.1 = true →
    Clear s f [h.t0, h.t1] f.tagOf 0 0 →
    ∃ s1 t, exec p.1 s = .next t ∧ Kept s s1 f ∧ Consumed s s1 f h ∧
      let u := s1.answerRec c o p.2
      (∀ c, t.ctx c = u.ctx c) ∧ (∀ a, t.byte a = u.byte a) ∧ t.parked = u.parked ∧ t.agenda = u.agenda ∧
        Leave u t f.x (onTargets (s.ctx f.ent.ctx).tl f.x [h.t0, h.t1] (newScalar f h .z32 0))) ∧
  (∀ (t : State) (o : OpenRec) (act : Nat), (t.ctx c).st = .stopped →
    (act = 2 → o.kind ≠ 2 → ((t.answerRec c o act).ctx c).st = .ended) ∧
    (o.kind = 0 → o.what = .none → act < 2 →
      ((t.answerRec c o act).ctx c).trap = { (t.ctx c).trap with opens := (t.ctx c).trap.opens.filter (fun p => p.seq != o.seq) } ∧
      (((t.ctx c).trap.opens.filter (fun p => p.seq != o.seq)).filter (fun p => p.kind == 0) = [] → t.stopped c = false →
        (∀ l ∈ t.latches, l.fr.ctx ≠ c) → ((t.answerRec c o act).ctx c).st = .running)) ∧
    (∀ x uid d, o.kind = 0 → o.what = .toks x uid d → act = 0 → AnswersFiring t (t.answerRec c o act) x d.toks))

namespace Sys2Proof.Machine

/-- The registers that the context itself, or another with OTHER, may use (R385). -/
def SysCtl.own (c : SysCtl) : Prop := c.family = 0 ∨ c.family = 1 ∨ c.family = 6

/-- Who may use a register (R385): of the families CTX, FMT and TRAP the context itself, its handler and tenant 0; of the others any
context reads and tenant 0 writes. -/
def Rights (s : State) (by_ ctx : Nat) (c : SysCtl) (write : Bool) : Prop :=
  if c.family = 0 ∨ c.family = 1 ∨ c.family = 6 then
    by_ = ctx ∨ c.other = true ∧ ((s.ctx ctx).hctx = by_ ∨ (s.ctx by_).tenant = 0)
  else write = true → (s.ctx by_).tenant = 0

/-- The firing's status of a register write (R385), COMPLETE set. -/
def statusTok (f : Firing) (h : Hdr) (n : Nat) : Tok :=
  let t := newScalar f h .z32 (BitVec.ofNat 512 n)
  { t with flags := t.flags ||| 128 }

end Sys2Proof.Machine

/-- R385 and the registers' own rules: SYSRD sends the register's 64 bits as an S64, and 0 with PROT in SIDE where its context
may not read it, and changes nothing; what each register reads as. Clauses on which the spec is silent follow the model's choice
(assumption 30). -/
def Obligations.RegisterReads : Prop := ∀ (h : Hdr) (c : SysCtl),
  let ctx (f : Firing) : Nat := if c.other then fld (f.op 0).w64 0 14 else f.ent.ctx
  (∀ s f, c.family ≠ 4 → ¬ (c.family = 0 ∧ c.index = 7) → (s.mayReg f.ent.ctx (ctx f) c false = true ↔ Rights s f.ent.ctx (ctx f) c false)) ∧
  Sends (.sysrd h c) (fun _ => [h.t0, h.t1]) (fun _ _ => List.range h.arity) oneCycle noFlags (fun _ f => f.tagOf) (fun _ _ => True)
    (fun s f k => k = (if s.mayReg f.ent.ctx (ctx f) c false
      then newScalar f h .s64 (BitVec.ofNat 512 (s.regRead f.x (ctx f) (some f.ent.ctx) c))
      else { newScalar f h .s64 0 with side := 1 })) ∧
  (∀ (s : State) (x : Site) (n : Nat) (b : Option Nat),
    let r (family index part : Nat) : Nat := s.regRead x n b ⟨family, index, part, false⟩
    let k := s.ctx n
    let d := s.die x.die
    r 0 2 0 = k.aflags.toNat ∧ r 0 3 0 = k.amask.toNat ∧ r 0 4 0 = k.prio ∧ r 0 5 0 = 0 ∧ r 0 6 0 = 0 ∧
    (r 0 1 0 = (k.tl.extractLsb' 0 64).toNat ∧ r 0 1 1 = (k.tl.extractLsb' 64 32).toNat) ∧
    (k.tenant < 256 → k.prio < 32 → fld (r 0 0 0) 29 3 = k.st.code ∧ fld (r 0 0 0) 20 8 = k.tenant ∧ fld (r 0 0 0) 15 5 = k.prio) ∧
    (∀ j, j < 16 → r 1 j 0 = (k.fmt.getD j 0).toNat) ∧ r 2 0 0 = (s.cell x).ctr.dangle ∧ r 2 1 0 = (s.cell x).ctr.nullmiss ∧
    r 2 6 0 = (s.cell x).ctr.psndrop ∧ r 2 9 0 = (s.cell x).escape.length ∧ r 3 5 0 = d.herd.mapver ∧ r 4 0 0 = d.loupe.time ∧
    (k.trap.last < 256 → fld (r 6 0 0) 31 1 = (s.latches.any (fun l => l.fr.ctx == n)).toNat ∧ fld (r 6 0 0) 30 1 = k.trap.dbg.toNat ∧
      fld (r 6 0 0) 8 8 = k.trap.sopen ∧ fld (r 6 0 0) 0 8 = k.trap.last) ∧
    r 6 1 0 = k.trap.fport.toNat ∧ r 6 2 0 = k.trap.wdog ∧ r 7 0 0 = d.rej.toNat ∧ r 7 1 0 = d.rejcnt)

/-- R385: SYSWR writes B's 64 bits where its context may and the value is one the register takes, and sends the status with COMPLETE
set: PROT, FMT_RANGE, BUSY or MISMATCH leave the register as it was. A write of CTX.TLBINV, which drops
the writer's tenant's translations, or of CTX.PRE answers later. -/
def Claims.ContextRegisterWrites : Prop := ∀ (h : Hdr) (c : SysCtl) (s : State) (f : Firing), s.cur = some f →
  let ctx : Nat := if c.other then fld (f.op 0).w64 0 14 else f.ent.ctx
  let v := (f.op 1).w64
  let s0 : State := { s with cur := none }
  let may := s.mayReg f.ent.ctx ctx c true
  let live : Prop := (s.ctx ctx).st = .running ∨ (s.ctx ctx).st = .stopped
  let slow : Prop := c.family = 0 ∧ (c.index = 6 ∨ c.index = 7 ∧ (v % 4 = 2 ∨ v % 4 = 1 ∧ live))
  (c.family ≠ 4 → ¬ (c.family = 0 ∧ c.index = 7) → (may = true ↔ Rights s f.ent.ctx ctx c true)) ∧
  (∀ n, n = (if may then (s.regStatus ctx c v).code else 1) → n ≠ 0 → WellFormed (.syswr h c) = true → Clear s f [h.t0, h.t1] f.tagOf 0 0 →
    ∃ t, exec (.syswr h c) s = .next t ∧ Kept s t f ∧
      Emits s t f 1 0 (List.range h.arity) (onTargets (s.ctx f.ent.ctx).tl f.x [h.t0, h.t1] (statusTok f h n))) ∧
  (may = true → s.regStatus ctx c v = .ok → ¬ slow → WellFormed (.syswr h c) = true → Clear s f [h.t0, h.t1] f.tagOf 0 0 →
    ∃ s1 t, exec (.syswr h c) s = .next t ∧ Kept s s1 f ∧ Consumed s s1 f h ∧ let u := s1.regWrite f.x ctx c v
      (∀ c, t.ctx c = u.ctx c) ∧ (∀ d, t.die d = u.die d) ∧ t.tens = u.tens ∧ t.host = u.host ∧ (∀ a, t.byte a = u.byte a) ∧
        Leave u t f.x (onTargets (s.ctx f.ent.ctx).tl f.x [h.t0, h.t1] (statusTok f h 0))) ∧
  (may = true → c.family = 0 → c.index = 6 → PerformsWith (.syswr h c) h s s0 f (statusTok f h 0) (fun t toks =>
    ∃ w, t.host.tlbinv = s.host.tlbinv ++ [w] ∧ w.1 = ctx ∧ w.2.1 = (s.ctx f.ent.ctx).tenant ∧ ∃ o, w.2.2.2 = some (f.x, o) ∧ o.toks = toks)) ∧
  (may = true → c.family = 0 → c.index = 7 → v % 4 = 1 → (s.ctx ctx).pre.phase = 0 → (s.ctx ctx).pre.owed = [] →
    live → PerformsWith (.syswr h c) h s s0 f (statusTok f h 0) (fun t toks =>
      ∃ o, (t.ctx ctx).pre.owed = [(f.x, o)] ∧ o.toks = toks ∧ (s.covered ctx = false → (t.ctx ctx).pre.phase = 1 ∧ (t.ctx ctx).pre.marks = (s.ctx ctx).srcs))) ∧
  (may = true → c.family = 0 → c.index = 7 → v % 4 = 2 → (s.ctx ctx).pre.phase = 2 → (s.ctx ctx).pre.owed = [] → (s.ctx ctx).st = .saved →
    s.covered ctx = true → (∃ p ∈ (s.die (ctxDie ctx)).tab.planes, p.idx = (s.ctx ctx).plane ∧ ((s.ctx ctx).slot, ctx) ∈ p.bound) →
    PerformsWith (.syswr h c) h s s0 f (statusTok f h 0) (fun t toks => (t.ctx ctx).pre.phase = 3 ∧
      ∃ o, (t.ctx ctx).pre.owed = [(f.x, o)] ∧ o.toks = toks)) ∧
  (∀ (x : Site) (n : Nat) (u : State) (j : Nat), let w (family index part : Nat) : State := u.regWrite x n ⟨family, index, part, false⟩ v
    ((w 0 2 0).ctx n).aflags.toNat = v % 128 ∧ ((w 0 3 0).ctx n).amask.toNat = v % 128 ∧ ((w 0 4 0).ctx n).prio = v % 32 ∧
    (j < 16 → (u.ctx n).fmt.length = 16 → ((w 1 j 0).ctx n).fmt.getD j 0 = BitVec.ofNat 32 (v % 2 ^ 20)) ∧
    (w 0 0 0 = u) ∧ (w 2 9 0 = u) ∧ (w 3 5 0 = u) ∧ (w 4 0 0 = u) ∧
    ((w 3 1 0).die x.die).herd.period = (if v % 2 ^ 16 = 0 then (u.die x.die).herd.period else v % 2 ^ 16) ∧
    ((w 6 0 0).ctx n).trap = { (u.ctx n).trap with dbg := v.testBit 30 } ∧ ((w 6 1 0).ctx n).trap.fport = BitVec.ofNat 32 v &&& 0xFFFFFFF8 ∧
    ((w 2 0 0).cell x).ctr.dangle = v % 2 ^ 48 ∧ ((w 7 1 0).die x.die).rejcnt = v % 2 ^ 32 ∧
    ((w 7 0 0).die x.die).rej = if v.testBit 31 then (u.die x.die).rej else 0)

/-- R73, R238, R254, R66, R242, R347, R370, R385, R409: the same writes by the host: what each leaves, and that a refused one changes
nothing. A module in RECOVERY takes no table write. -/
def Claims.HostRegisterWrites : Prop := ∀ (s : State) (ctx k : Nat) (x : Site),
  (∀ (v : W32), fmtValid (fmtWord v.toNat) = true → k < 16 → (s.ctx ctx).fmt.length = 16 → ∃ t, exec (.fmtWrite ctx k v .host) s = .next t ∧
    (t.ctx ctx).fmt = (s.ctx ctx).fmt.set k (v &&& 0xFFFFF) ∧ (∀ c, c ≠ ctx → t.ctx c = s.ctx c) ∧ ∀ a, t.byte a = s.byte a) ∧
  (∀ (v : W32), fmtValid (fmtWord v.toNat) = false → exec (.fmtWrite ctx k v .host) s = .next s) ∧
  (∀ b v, ¬ Rights s b ctx (regOf 1 k) true → exec (.fmtWrite ctx k v (.ctx b)) s = .next s) ∧
  (∃ t, exec (.ctxHinv ctx .host) s = .next t ∧ (∀ h, h ∈ t.msys.hcache ↔ h ∈ s.msys.hcache ∧ h.ctx ≠ ctx) ∧ (∀ a, t.byte a = s.byte a)) ∧
  (∀ v : W64, ∃ t, exec (.ctxTlbinv ctx v .host) s = .next t ∧ (v.getLsbD 63 = true → ∀ e ∈ t.msys.tlb, e.tenant ≠ (s.ctx ctx).tenant) ∧
    (∀ e, e.tenant ≠ (s.ctx ctx).tenant → (e ∈ t.msys.tlb ↔ e ∈ s.msys.tlb)) ∧ (∀ a, t.byte a = s.byte a)) ∧
  (∀ v : W64, k < 8 → s.regStatus ctx (regOf 6 (16 + k)) v.toNat = .ok → ∃ t, exec (.trapDualWrite (ctxDie ctx) k v ctx .host) s = .next t ∧
    (v.getLsbD 31 = true → ∃ d ∈ (t.die (ctxDie ctx)).duals, d.ctx = ctx ∧ d.prim = (v.extractLsb' 13 13).toNat ∧ d.shad = (v.extractLsb' 0 13).toNat ∧
      d.spare = (if v.getLsbD 63 then some (v.extractLsb' 32 13).toNat else none) ∧ d.outP = [] ∧ d.outS = [] ∧ d.held = false) ∧
    (v.getLsbD 31 = false → ∀ d ∈ (t.die (ctxDie ctx)).duals, d.k ≠ ctx * 8 + k)) ∧
  (∀ v : W64, k < 8 → s.regStatus ctx (regOf 6 (16 + k)) v.toNat ≠ .ok → exec (.trapDualWrite (ctxDie ctx) k v ctx .host) s = .next s) ∧
  (∀ v : W32, ∃ t, exec (.planeRejClear x.die v .host) s = .next t ∧ (t.die x.die).rej = (if v.getLsbD 31 then (s.die x.die).rej else 0) ∧
    (t.die x.die).rejcnt = (s.die x.die).rejcnt) ∧
  (∀ v : W32, ∃ t, exec (.cellMtpwrWrite x v .host) s = .next t ∧ ((t.cell x).mt.pend.drop (s.cell x).mt.pend.length).map (fun p => (p.1, p.2.1)) =
      ((List.range 8).filter (fun j => fld v.toNat (2 * j) 2 ≠ 3)).map (fun j => (j, some (fld v.toNat (2 * j) 2))) ∧
    ∀ a, t.byte a = s.byte a) ∧
  (∀ (tenant : Nat) (v : W32), let b := s.ten tenant
    b.w.length = 8 → ¬ (b.lossless = true ∧ b.stopMode = true ∧ b.sizel < 26) → ∃ t, exec (.loupeTenWrite tenant 3 v .host) s = .next t ∧
      (t.ten tenant).word 3 = v.toNat ∧ (∀ j, j ≠ 3 → (t.ten tenant).word j = b.word j) ∧ ∀ j, j ≠ tenant → t.ten j = s.ten j) ∧
  (∀ (tenant word c : Nat) (v : W32), (s.ctx c).tenant ≠ tenant ∨ word ≠ 3 → exec (.loupeTenWrite tenant word v (.ctx c)) s = .next s) ∧
  (∀ (c : SysCtl) (v : W64), regSpecial c = false → s.regStatus ctx c v.toNat = .ok → exec (.registerWrite x ctx c v .host) s = .next (s.regWrite x ctx c v.toNat)) ∧
  (∀ (w : TableWrite), (s.mgmt.recovery = true → exec (.bar0TableWrite w) s = .next s) ∧ (s.mgmt.recovery = false →
    ∃ t, exec (.bar0TableWrite w) s = .next t ∧ (∀ a, t.byte a = s.byte a) ∧ (∀ y, t.cell y = s.cell y) ∧ (∀ c, t.ctx c = s.ctx c) ∧
      (∀ die tenant pa, w = .ptroot die tenant pa → die < 4 → tenant < 256 → tget tenant (t.die die).tab.ptroot = some pa) ∧
      (∀ die g o, w = .sdmOwner die g o → die < 4 → g < 12288 → tget g (t.die die).tab.sdmOwn = o) ∧
      (∀ die p o, w = .planeOwner die p o → die < 4 → p < 64 → tget p (t.die die).tab.plOwn = o) ∧
      (∀ pa, w = .metaBase pa → t.host.meta_ = pa) ∧ (∀ n, w = .deviceNumber n → t.host.dev = if n < 2 ^ 19 then n else s.host.dev) ∧
      (∀ n, w = .powerCap n → t.host.cap = if 1200 ≤ n ∧ n ≤ 3000 then n else s.host.cap)))

namespace Sys2Proof.Machine

/-- A token of class `k` is the next that a cell may take (R153, R184): it is there, its context runs, is not frozen and no STOP
covers it, no reload has sealed the channel it comes by, and it names a port of a node of a block `b` that stands in node memory.
Entries of the directory have their own names. -/
structure Comes (s : State) (x : Site) (k : Arrival) (src : Source) (t : Tok) (b : Blk) : Prop where
  next : ∃ n, (s.cell x).nextTok = some (src, { t with came := n })
  came : t.came = 0
  shut : s.sealedAt x = true → 4 ≤ src
  kind : arrivalOf ((s.cell x).opcAt t) t = k
  plain : (s.cell x).spat.on = false
  time : (s.cell x).pipe.matchAt ≤ s.cycle
  free : s.halted x t.ctx = false ∧ s.gone t.ctx = false ∧ (s.cell x).frz.units.contains t.ctx = false
  blk : (s.cell x).blkOf t.ctx t.node = some b
  here : b.present = true
  port : b.isNode (t.node - b.hdr - 1) = true ∧ t.port < (b.recAt (t.node - b.hdr - 1)).arity
  single : s.dualOf x t.ctx = none
  names : ((s.cell x).dir.map (fun e => e.uid)).Nodup

/-- A token fills its port's slot of an entry `e`, with count `n`; its node is ready then if every port it needs has a value (R15, R17,
R19, R20). -/
def Fills (s t : State) (x : Site) (e : DirEnt) (b : Blk) (k : Tok) (n : Nat) : Prop :=
  let c := s.cell x
  let pos := k.node - b.hdr - 1
  let full : Cell := { c with slots := tput (e.base + b.off pos k.port) ⟨k, n, c.uids⟩ c.slots }
  (t.cell x).slots = full.slots ∧ (t.cell x).dir.map (fun d => (d.uid, d.tag, d.base)) = c.dir.map (fun d => (d.uid, d.tag, d.base)) ∧
  (e.bind = false → full.nodeReady e b pos = false → (t.cell x).ready = c.ready) ∧
  (e.bind = false → full.nodeReady e b pos = true → e.ready.getLsbD pos = false →
    ∃ q, (t.cell x).ready = c.ready ++ [q] ∧ q.node = k.node ∧ q.uid = some e.uid ∧ q.tag = e.tag ∧ q.depth = e.depth ∧
      q.level = k.pri ∧ q.time = s.cycle ∧ q.alone = none)

/-- The router port of a pair has room for `n` more tokens of each class (R186). -/
def PortRoom (s : State) (x : Site) (n : Nat) : Prop :=
  ∀ cls, ((s.die x.die).net.mesh.filter (fun e => e.cls == cls && e.col == (s.pos x).1 && e.row == (s.pos x).2
    && e.src == routerOf (s.pos x))).length + n ≤ portRoom

/-- Tokens on their way: a token to the site's own cell goes to its self queue, others enter the mesh in order, each in its class
(R54, R97, R182). -/
def Travels (s t : State) (x : Site) (toks : List Tok) : Prop :=
  let own (k : Tok) : Bool := k.kind == 0 && k.die == x.die && k.site == x.res
  (t.cell x).pipe.selfq = (s.cell x).pipe.selfq ++ (toks.filter own).map (fun k => { k with came := s.cycle }) ∧
  ∃ ps, (t.die x.die).net.mesh = (s.die x.die).net.mesh ++ ps ∧ List.Forall₂ (fun k (p : Packet) =>
    p.cls = tokClass k ∧ p.res = k.site ∧ p.ddie = k.die ∧ ∃ u, p.body = .tok u ∧ u = { k with sent := u.sent }) (toks.filter (fun k => !own k)) ps

end Sys2Proof.Machine

/-- R15 to R20, R23, R98, R107: what an arriving token does: a matched one fills its slot, in its instance or a new one, and may make
its node ready, and one whose port is taken goes to the spill area; at an LBOUND port it fires its node alone (R200); a STICKY or COUNT
one binds its port; PURGE clears a binding; NULL retires its instance, or counts; STREAM_END retires the instances it closes, and fires
a node that takes it. -/
def Claims.TokensArrive : Prop := ∀ (s : State) (x : Site) (src : Source) (t : Tok) (b : Blk),
  let c := s.cell x
  let pos := t.node - b.hdr - 1
  let opc := (b.recAt pos).opc
  let took : State := s.modCell x (fun c => { c.takeTok src with pipe := { (c.takeTok src).pipe with matchAt := s.cycle + 1 } })
  (Comes s x .match_ src t b → opc ≠ 0x046 → s.spilledKey x b.hdr t = false → c.binding b pos t.port = none →
    (∀ e, c.inst t.ctx b.hdr t.tag t.depth = some e → c.slotOf e b pos t.port = none →
      ∃ u, exec (.tokenMatch x) s = .next u ∧ Fills took u x e b t 0) ∧
    (∀ base, c.inst t.ctx b.hdr t.tag t.depth = none → c.room b = some base → (∀ e ∈ c.dir, e.uid ≠ c.uids) →
      ∃ u e, exec (.tokenMatch x) s = .next u ∧ (u.cell x).ent c.uids = some e ∧ e.bind = false ∧ e.ctx = b.ctx ∧ e.blk = b.hdr ∧
        e.tag = t.tag ∧ e.depth = t.depth ∧ e.base = base ∧ e.xfired = 0 ∧ (∃ n, (u.cell x).slots = tput (base + b.off pos t.port) ⟨t, 0, n⟩ c.slots)) ∧
    (∀ u, c.inst t.ctx b.hdr t.tag t.depth = none → c.room b = none → took.spill x b.hdr t false = some u → exec (.tokenMatch x) s = .next u) ∧
    (∀ e u, c.inst t.ctx b.hdr t.tag t.depth = some e → (c.slotOf e b pos t.port).isSome = true → took.spill x b.hdr t false = some u →
      exec (.tokenMatch x) s = .next u)) ∧
  (Comes s x .match_ src t b → opc = 0x046 → ∃ u q, exec (.tokenMatch x) s = .next u ∧ (u.cell x).ready = c.ready ++ [q] ∧
    q.alone = some t ∧ q.node = t.node ∧ q.ctx = t.ctx ∧ q.tag = t.tag ∧ q.depth = t.depth ∧ (u.cell x).slots = c.slots ∧
    (u.cell x).dir = c.dir ∧ (u.ctx t.ctx).spill = (s.ctx t.ctx).spill) ∧
  (Comes s x .match_ src t b → opc ≠ 0x046 → (c.binding b pos t.port).isSome = true → ∀ u, took.spill x b.hdr t false = some u →
    exec (.tokenMatch x) s = .next u) ∧
  (Comes s x .binding src t b → s.spilledKey x b.hdr t = false → c.binding b pos t.port = none →
    ∀ e, c.bindEnt b.ctx b.hdr = some e → ∃ u, exec (.bindingArrival x) s = .next u ∧
      Fills took u x e b t (if t.ma = .count then (if t.cnt = 0 then 256 else t.cnt) else 0)) ∧
  (Comes s x .purge src t b → ∀ e, c.bindEnt b.ctx b.hdr = some e → (c.binding b pos t.port).isSome = true →
    ∃ u, exec (.purgeArrival x) s = .next u ∧ let left := tdel (e.base + b.off pos t.port) c.slots
      ((left.any (fun q => e.base ≤ q.1 && q.1 < e.base + e.size)) = true → (u.cell x).slots = left ∧ (u.cell x).dir = c.dir) ∧
      ((left.any (fun q => e.base ≤ q.1 && q.1 < e.base + e.size)) = false → (u.cell x).dir = c.dir.filter (fun d => d.uid != e.uid))) ∧
  (Comes s x .null src t b →
    (c.inst t.ctx b.hdr t.tag t.depth = none → ∃ u, exec (.nullArrival x) s = .next u ∧ (u.cell x).ctr.nullmiss = satAdd 48 c.ctr.nullmiss 1 ∧
      (u.cell x).slots = c.slots ∧ (u.cell x).dir = c.dir) ∧
    (∀ e, c.inst t.ctx b.hdr t.tag t.depth = some e → ∃ u, exec (.nullArrival x) s = .next u ∧ (u.cell x).ctr.dangle = satAdd 48 c.ctr.dangle 1 ∧
      (∀ p ∈ (u.cell x).slots, ¬ (e.base ≤ p.1 ∧ p.1 < e.base + e.size)) ∧ (∀ d ∈ (u.cell x).dir, d.uid = e.uid → d.dying = true) ∧
      ∀ r ∈ (u.cell x).ready, r.uid ≠ some e.uid)) ∧
  (Comes s x .streamEnd src t b → s.spilledKey x b.hdr t = false →
    let fires := streamAware opc t.port = true ∨ (opc = 0x300 ∧ t.port = 0 ∧ fld (b.recAt pos).w0.toNat 21 2 ≠ 0)
    ∃ u, exec (.streamEndArrival x) s = .next u ∧ (∀ e ∈ c.closed (s.ctx t.ctx).tl b t, ∀ d ∈ (u.cell x).dir, d.uid = e.uid → d.dying = true) ∧
      (fires → ∃ l q, (u.cell x).ready = l ++ [q] ∧ q.alone = some t ∧ q.node = t.node ∧ q.ctx = t.ctx ∧ q.tag = t.tag) ∧
      (¬ fires → ∀ q ∈ (u.cell x).ready, q ∈ c.ready))

/-- R16, R20, R164, R311: the oldest spilled token whose key can proceed is matched again and counted; an entry that has waited 4,096
cycles rises one level, its entry time kept; an absent block comes where nothing pinned in shares its range, and what shares it goes. -/
def Claims.QueuesMoveOn : Prop :=
  (∀ (x : Site) (ctx : Nat) (s : State) (p : Spill) (b : Blk) (e : DirEnt), let c := s.cell x
    c.pipe.matchAt ≤ s.cycle → ((s.ctx ctx).st = .running ∨ (s.ctx ctx).st = .stopped) → c.frz.units.contains ctx = false → s.halted x ctx = false →
    s.escapeDue ctx = false → (let l := (s.ctx ctx).spill.toks.filter (fun p => p.hdr < 1024); s.refillable x l [] l) = some p → p.held = false →
    p.tok.ctx = ctx → c.blkOf ctx p.tok.node = some b → let pos := p.tok.node - b.hdr - 1
    b.isNode pos = true → p.tok.port < (b.recAt pos).arity → arrivalOf (b.recAt pos).opc p.tok = .match_ →
    ((b.recAt pos).opc ≠ 0x046 → c.inst ctx b.hdr p.tok.tag p.tok.depth = some e → (c.dir.map (fun e => e.uid)).Nodup →
      ∃ t, exec (.spillRefill x ctx) s = .next t ∧ Fills s t x e b p.tok 0 ∧ (t.cell x).ctr.refills = satAdd 48 c.ctr.refills 1 ∧
        (t.ctx ctx).spill.toks = (s.ctx ctx).spill.toks.filter (fun q => q.ring != p.ring)) ∧
    ((b.recAt pos).opc = 0x046 → ∃ t q, exec (.spillRefill x ctx) s = .next t ∧ (t.cell x).ready = c.ready ++ [q] ∧ q.alone = some p.tok ∧
      (t.ctx ctx).spill.toks = (s.ctx ctx).spill.toks.filter (fun q => q.ring != p.ring))) ∧
  (∀ (x : Site) (s : State), ∃ t, exec (.readyAging x) s = .next t ∧ (t.cell x).ready.length = (s.cell x).ready.length ∧
    List.Forall₂ (fun e d => d.time = e.time ∧ d.node = e.node ∧ d.uid = e.uid ∧ d.ord = e.ord ∧
      d.level = (if 4096 ≤ e.wait ∧ e.level < 31 then e.level + 1 else e.level)) (s.cell x).ready (t.cell x).ready) ∧
  (∀ (x : Site) (ctx node : Nat) (s : State) (b : Blk), (s.cell x).blkOf ctx node = some b →
    let rivals := (s.cell x).blks.filter (fun a => a.present && !(a.ctx == b.ctx && a.hdr == b.hdr) && a.overlaps b)
    (b.present = true ∨ (∃ a ∈ rivals, s.pinnedIn x a = true) → exec (.blockFetch x ctx node) s = .next s) ∧
    (b.present = false → (∀ a ∈ rivals, s.pinnedIn x a = false) → ∃ t, exec (.blockFetch x ctx node) s = .next t ∧
      (∃ a, (t.cell x).blkOf ctx node = some a ∧ a.present = true ∧ { a with pmap := b.pmap, present := false } = b ∧
        (b.pmap.length = 4 * b.recs.length → a.pmap = b.pmap)) ∧ (t.cell x).blks.length = (s.cell x).blks.length ∧
      ∀ a ∈ (t.cell x).blks, ¬ (a.ctx = b.ctx ∧ a.hdr = b.hdr) → a.overlaps b = true → a.present = false))

/-- R54, R55, R96, R97, R100, R272, R356: the tokens of the firing due longest leave S6 in target order, to the mesh or the cell
itself, and their departure is over; those of an RDTIME carry the time of that cycle; an exit counts. An answer leaves the same way. A
stage of a SPATIAL cell whose operands agree consumes them, and its instruction runs next (R170). -/
def Claims.TokensLeave : Prop :=
  (∀ (x : Site) (s : State) (d : Dep), firstDue s.cycle (s.cell x).pipe.deps = some d → (s.cell x).pipe.s6free s.cycle d = true →
    (s.cell x).spat.on = false → PortRoom s x d.toks.length →
    let l := (s.die x.die).loupe
    let toks := if d.home = 1 then d.toks.map (fun k => { k with data := BitVec.ofNat 512 (l.time % 2 ^ 64), side := BitVec.ofNat 32 l.state })
      else d.toks
    ((∀ k ∈ d.toks, k.kind < 2 ∧ k.req = none ∧ s.dualOf x k.ctx = none) →
      ∃ t, exec (.firingTokensLeave x) s = .next t ∧ Travels s t x toks ∧
        (t.cell x).pipe.deps = ldrop (fun e => e == d) (s.cell x).pipe.deps ∧ (t.cell x).pipe.s6 = s.cycle + 1) ∧
    (∀ k u e, d.toks = [k] → d.home = 0 → k.kind = 3 → k.sink.1 = 0 → s.dualOf x k.ctx = none → d.uid = some u → (s.cell x).ent u = some e →
      e.bind = false → e.dying = false → ∃ t, exec (.firingTokensLeave x) s = .next t ∧ Travels s t x [] ∧
        ∀ g, (t.cell x).ent u = some g → g = { e with xfired := e.xfired + 1 })) ∧
  (∀ (x : Site) (s : State), (firstDue s.cycle (s.cell x).pipe.deps = none → exec (.firingTokensLeave x) s = .next s)) ∧
  (∀ (x : Site) (k : Nat) (s : State) (d : Dep), memAnswerTok (s.cell x) k = some d → d.due ≤ s.cycle → (s.cell x).pipe.s6 ≤ s.cycle →
    (s.cell x).spat.on = false → s.swapping x = false → s.gone d.ctx = false → (s.cell x).frz.units.contains d.ctx = false →
    PortRoom s x d.toks.length → (∀ k ∈ d.toks, k.kind < 2 ∧ k.req = none ∧ s.dualOf x k.ctx = none) →
    ∃ t, exec (.memoryAnswer x k) s = .next t ∧ Travels s t x d.toks ∧
      (t.cell x).pipe.ans = (s.cell x).pipe.ans.take k ++ (s.cell x).pipe.ans.drop (k + 1)) ∧
  (∀ (x : Site) (stage pos : Nat) (s : State) (b : Blk) (hs : List Head) (lead : Tok),
    (s.cell x).blks.find? (fun b => b.spatial) = some b →
    (List.range b.recs.length).find? (fun p => b.isNode p && stageOf (b.recAt p).opc = stage) = some pos →
    (s.cell x).spat.on = true → b.present = true → (s.ctx b.ctx).st = .running → s.halted x b.ctx = false →
    s.sealedAt x = false → (s.cell x).frz.units.contains b.ctx = false → (tget stage (s.cell x).spat.busy).getD 0 ≤ s.cycle →
    (∀ g ∈ b.targets pos, ∀ n p, localPort g = some (n, p) → b.internal n p = true →
      stage < stageOf (b.recAt (n - b.hdr - 1)).opc → (s.cell x).latchedAt n p = false) →
    (isAccess (b.recAt pos).opc = true → s.owedAnswers x < 8) → (s.die x.die).loupe.waits x.res = false →
    s.traceBlocked (s.ctx b.ctx).tenant = false → (s.die x.die).loupe.held x.res < unitRoom x.res →
    hs = (List.range (b.recAt pos).arity).filterMap ((s.cell x).stageHead b pos) → hs.length = (b.recAt pos).arity →
    ((hs.filter Head.free).map Head.tok).head? = some lead →
    (∀ q ∈ hs, q.tok.flag .null = false ∧ q.tok.flag .streamEnd = false) →
    (∀ q ∈ hs.filter Head.free, q.tok.tag = lead.tag ∧ q.tok.depth = lead.depth) →
    ∃ t p, exec (.spatialStageFire x stage) s = .next t ∧ t.parked = s.parked ++ [p] ∧ t.agenda = .refire p.id :: s.agenda ∧
      p.f.x = x ∧ p.f.hdr = b.hdr ∧ p.f.pos = pos ∧ p.f.taken = true ∧ p.f.ent.tag = lead.tag ∧ p.f.ent.depth = lead.depth ∧
      (∀ j q, hs[j]? = some q → j < 4 → p.f.ops[j]? = some (some q.tok)) ∧ tget stage (t.cell x).spat.busy = some (s.cycle + 1))

/-- R67, R182 to R184, R186, R218: a packet moves one router on, or enters the input port of its class, or the switch box if it is a
route token's; one for no resident is DEST_INVALID; a token for a resident that has moved follows it. -/
def Claims.MeshCarries : Prop :=
  ∀ (die k : Nat) (s : State) (p : Packet), (s.die die).net.mesh[k]? = some p → p.due ≤ s.cycle →
    s.packetBlocked die p ((s.die die).net.mesh.take k) = false →
    let mesh := (s.die die).net.mesh
    let x : Site := ⟨die, p.res⟩
    let gone : State := s.modDie die (fun d => { d with net := { d.net with mesh := mesh.take k ++ mesh.drop (k + 1) } })
    (∀ col row, p.lost = false → p.hop die = some (die, col, row) → ∃ t sp, exec (.meshPacketHop die k) s = .next t ∧
      (t.die die).net.mesh = mesh.set k { p with col := col, row := row, due := s.cycle + 1, spilt := sp } ∧
      (s.flHeld p = false → sp = p.spilt)) ∧
    (∀ to_ col row, p.lost = false → p.hop die = some (to_, col, row) → to_ ≠ die → ∃ t, exec (.meshPacketHop die k) s = .next t ∧
      (t.die die).net.mesh = mesh.take k ++ mesh.drop (k + 1) ∧
      (t.die to_).net.mesh = (s.die to_).net.mesh ++ [{ p with col := col, row := row, due := s.cycle + 30 }]) ∧
    (∀ u, p.lost = false → p.hop die = none → p.body = .tok u → u.kind ≠ 2 → s.pos x = (p.col, p.row) → s.flHeld p = false →
      (s.cell x).spat.on = false → s.swapping x = false → gone.portTurn x p.cls = true → (s.cell x).pipe.used (classPort p.cls) < 8 →
      ∃ t, exec (.meshPacketHop die k) s = .next t ∧
        (t.cell x).pipe.port (classPort p.cls) = (s.cell x).pipe.port (classPort p.cls) ++ [{ u with came := s.cycle }] ∧
        (t.die die).net.mesh = mesh.take k ++ mesh.drop (k + 1)) ∧
    (∀ y d, p.hop die = none → p.body = .ans y d → s.pos x = (p.col, p.row) → s.flHeld p = false → s.swapping x = false →
      gone.portTurn x 1 = true → (s.cell x).pipe.used 1 < 8 → ∃ t, exec (.meshPacketHop die k) s = .next t ∧
        (t.cell x).pipe.ans = (s.cell x).pipe.ans ++ [{ d with due := s.cycle }] ∧
        (t.die die).net.mesh = mesh.take k ++ mesh.drop (k + 1)) ∧
    (∀ u, p.lost = false → p.hop die = none → p.body = .tok u → u.kind = 2 → routeBehind (mesh.take k) u = false →
      ((s.die die).net.tracks.filter (fun e => e.trk == 97 && e.col == p.col && e.row == p.row)).length < 8 →
      ∃ t, exec (.meshPacketHop die k) s = .next t ∧ (t.die die).net.mesh = mesh.take k ++ mesh.drop (k + 1) ∧
        (t.die die).net.tracks = (s.die die).net.tracks ++ [⟨97, p.col, p.row, s.cycle + 2 + p.body.beats, u⟩]) ∧
    (∀ u, p.lost = true → p.body = .tok u → s.latched (routerUnit die (p.col, p.row)) < 4 → ∃ s1 r,
      (s1.die die).net.mesh = mesh.take k ++ mesh.drop (k + 1) ∧ r.code = .destInvalid ∧ r.ctx = u.ctx ∧
      exec (.meshPacketHop die k) s = .next (State.takeFault s1 (routerUnit die (p.col, p.row)) r .none)) ∧
    (∀ u, p.lost = false → p.hop die = none → p.body = .tok u → u.kind ≠ 2 → s.pos x ≠ (p.col, p.row) →
      (∀ r, rankAt (p.col, p.row) = some r → s.swapping ⟨die, s.residentAt die r⟩ = false) →
      let link := ∃ r, rankAt (p.col, p.row) = some r ∧ (s.cell ⟨die, s.residentAt die r⟩).herd.partner = some p.res
      ∃ t q, exec (.tokenForward die k) s = .next t ∧ (t.die die).net.mesh = mesh.take k ++ mesh.drop (k + 1) ++ [q] ∧ q.body = p.body ∧
        q.cls = p.cls ∧ q.res = p.res ∧ (link → (q.col, q.row) = s.pos x ∧ (q.dcol, q.drow) = s.pos x) ∧
        (¬ link → (q.col, q.row) = (p.col, p.row) ∧ (q.dcol, q.drow) = s.mapPos die (routerOf (p.col, p.row)) die p.res))

/-- R218: a flush beat leaves the old pair behind the tokens that pair has forwarded from its source; at the new pair it is awaited no
more, and what waited for it may go in. -/
def Claims.FlushArrives : Prop :=
  ∀ (die k : Nat) (s : State) (p : Packet) (src res : Nat), (s.die die).net.mesh[k]? = some p → p.due ≤ s.cycle →
    p.body = .flush src res → p.hop die = none →
    let mesh := (s.die die).net.mesh
    let x : Site := ⟨die, res⟩
    (∀ e ∈ mesh.take k, ¬ (e.cls = p.cls ∧ e.res = res ∧ e.src = src ∧ e.hop die = none ∧ e.fl = false ∧ e.col = p.col ∧ e.row = p.row)) →
    (s.pos x = (p.col, p.row) → ∃ t, exec (.flushArrival die k) s = .next t ∧
      (t.cell x).herd.fl = ldrop (fun b => b == (src, p.cls)) (s.cell x).herd.fl ∧
      (t.die die).net.mesh = mesh.take k ++ mesh.drop (k + 1) ∧
      ((∀ b ∈ (t.cell x).herd.fl, b.1 ≠ src) → (src, res) ∉ (t.die die).net.fls)) ∧
    (s.pos x ≠ (p.col, p.row) → ∃ t q, exec (.flushArrival die k) s = .next t ∧ (t.die die).net.mesh = mesh.take k ++ mesh.drop (k + 1) ++ [q] ∧
      q.body = p.body ∧ q.cls = p.cls ∧ (q.col, q.row) = s.pos x)

/-- R177 to R181, R184, R366: the next token of a track is copied on the tracks of its entry, delivered, and sent to another die, once
all of that can be; one without an entry is ROUTE_MISS; an invalidated entry holds it until it is fetched again. -/
def Claims.TracksCarry : Prop :=
  (∀ (die col row trk : Nat) (s : State) (k : TrackTok), row < 128 → (s.die die).net.head (col, row) trk = some k →
    k.due ≤ s.cycle → s.gone k.tok.ctx = false →
    let net := (s.die die).net
    let left := ldrop (fun u => u == k) net.tracks
    let act := exec (.trackRouteEntry die col (row + 128 * trk)) s
    let found := net.routes.find? (fun e => (e.col, e.row) == (col, row) && e.fits k.tok)
    (∀ e l, found = some e → e.bad = false → trackCopies { net with tracks := left } e (col, row) s.cycle k.tok = some l →
      (∀ n, e.xd = false → e.dlv = true → rankAt (col, row) = some n → s.pairOf ⟨die, n⟩ = n →
        let x : Site := ⟨die, n⟩
        (s.cell x).spat.on = false → s.swapping x = false → s.portTurn x 4 = true → (s.cell x).pipe.used 3 < 8 →
        ∃ t, act = .next t ∧ (t.die die).net.tracks = left ++ l.map (fun e => e.2) ∧ (t.cell x).pipe.port 3 = (s.cell x).pipe.port 3 ++
          [{ k.tok with kind := 0, die := die, site := n, node := e.hnode, port := e.hport, came := s.cycle }]) ∧
      (e.xd = false → e.dlv = false → ∃ t, act = .next t ∧ (t.die die).net.tracks = left ++ l.map (fun e => e.2) ∧ (∀ y, t.cell y = s.cell y)) ∧
      (e.xd = true → e.dlv = false → ∃ t q u, act = .next t ∧ (t.die die).net.tracks = left ++ l.map (fun e => e.2) ∧
        (t.die die).net.mesh = net.mesh ++ [q] ∧ q.body = .tok u ∧ q.cls = 3 ∧ q.ddie = e.xdie ∧ q.res = e.xsite ∧
        u = { k.tok with kind := 1, die := e.xdie, site := e.xsite, node := e.hnode, port := e.hport, sent := u.sent })) ∧
    (∀ e, found = some e → e.bad = false → trackCopies { net with tracks := left } e (col, row) s.cycle k.tok = none → act = .next s) ∧
    (∀ e, found = some e → e.bad = true → act = .next s) ∧
    (found = none → s.latched (routerUnit die (col, row)) < 4 → ∃ s1 r, (s1.die die).net.tracks = left ∧ r.code = .routeMiss ∧
      r.ctx = k.tok.ctx ∧ r.tag = k.tok.tag ∧ act = .next (State.takeFault s1 (routerUnit die (col, row)) r .none))) ∧
  (∀ (die col row ctx route ssite : Nat) (s : State) (e : RouteEnt), e ∈ (s.die die).net.routes →
    ∃ t, exec (.routeEntryFetch die col row ctx route ssite) s = .next t ∧
      ((e.col, e.row) = (col, row) → fld e.w.w2.toNat 31 1 = 1 → fld e.w.w2.toNat 17 14 = ctx → fld e.w.w2.toNat 9 8 = route →
        fld e.w.w1.toNat 19 13 = ssite → (s.planeAt die e.plane).isSome = true → { e with bad := false } ∈ (t.die die).net.routes) ∧
      ((e.col, e.row) ≠ (col, row) → e ∈ (t.die die).net.routes))

/-- R67, R177 to R184, R218, R366: the mesh, the flushes and the tracks carry what they hold. -/
def Claims.NetworksCarry : Prop := Claims.MeshCarries ∧ Claims.FlushArrives ∧ Claims.TracksCarry

/-- R366, R369, R396: a soft error that was corrected is counted; an uncorrectable one poisons the word it was in, invalidates an
instruction record or route entry that its plane can give again, and stops the context whose control state it hit. The watchdog stops a
running context that has made no progress for its time. -/
def Claims.ErrorsAndWatchdog : Prop := ∀ (s : State) (x : Site) (die : Nat),
  let counted (t : State) (k : Nat) : Prop := (tget k t.mgmt.live).getD 0 = satAdd 48 ((tget k s.mgmt.live).getD 0) 1
  (∀ n, ∃ t, exec (.softError (.corrected die n)) s = .next t ∧ counted t (lifeCorrected die n) ∧ (∀ a, t.byte a = s.byte a) ∧ t.poison = s.poison) ∧
  (∀ a, a < 2 ^ 56 → ∃ t, exec (.softError (.memory a)) s = .next t ∧ t.poisoned (a / 8 * 8) 8 = true ∧
    (∀ b, ¬ (a / 8 * 8 ≤ b ∧ b < a / 8 * 8 + 8) → t.byte b = s.byte b) ∧ counted t (lifeUncorrected (paDie s.host.cxl a) 8)) ∧
  (∀ k v, tget k (s.cell x).slots = some v → ∃ t w, exec (.softError (.slot x k)) s = .next t ∧ tget k (t.cell x).slots = some w ∧
    w.tok.flag .poison = true ∧ w.tok.tag = v.tok.tag ∧ w.cnt = v.cnt ∧ counted t (lifeUncorrected x.die 0)) ∧
  (∀ node b, (s.cell x).blks.find? (fun b => b.present && b.hdr < node && node ≤ b.hdr + b.recs.length) = some b →
    (∃ t, exec (.softError (.block x node false)) s = .next t ∧ (∀ a ∈ (t.cell x).blks, a.ctx = b.ctx → a.hdr = b.hdr → a.present = false) ∧
      t.latches = s.latches ∧ ∀ a, t.byte a = s.byte a) ∧
    ∃ s1 r, exec (.softError (.block x node true)) s = .next (State.takeFault s1 (siteUnit x) r .ecc) ∧ r.code = .eccState ∧ r.ctx = b.ctx ∧
      r.node = node ∧ s1.ctxs = s.ctxs) ∧
  (∀ ctx, ∃ s1 r, exec (.softError (.control x ctx)) s = .next (State.takeFault s1 (siteUnit x) r .ecc) ∧ r.code = .eccState ∧ r.ctx = ctx ∧
    s1.ctxs = s.ctxs) ∧
  (∀ ctx, let k := s.ctx ctx
    (k.trap.wdog = 0 ∨ k.st ≠ .running ∨ k.trap.idle < k.trap.wdog * 4000 → exec (.watchdogExpiry ctx) s = .next s) ∧
    (k.trap.wdog ≠ 0 → k.st = .running → k.trap.wdog * 4000 ≤ k.trap.idle → s.quiescent ctx = false →
      ∃ s1 u r, exec (.watchdogExpiry ctx) s = .next (State.takeFault s1 u r .none) ∧ r.code = .watchdog ∧ r.ctx = ctx ∧ r.arg = 0 ∧ r.src = 3 ∧
        (s1.ctx ctx).trap = { k.trap with idle := 0 } ∧ (s1.ctx ctx).st = .running))

/-- R371, R372: a comparator commits the oldest output of its primary whose twin agrees bit for bit, and drops the shadow's; a mismatch
holds both. Then the spare replays the retained inputs, or without one the context stops with SINK_MISMATCH. -/
def Claims.ComparatorsCommit : Prop := ∀ (die k : Nat) (s : State) (d : Dual), (s.die die).duals.find? (fun d => d.k == k) = some d →
  (d.held = true → exec (.dualCompare die k) s = .next s) ∧
  (∀ p q, d.held = false → d.outP.find? (fun p => d.outS.any (fun q => q.twin p)) = some p → d.outS.find? (fun q => q.twin p) = some q →
    (p.agrees q = false → ∃ t, exec (.dualCompare die k) s = .next t ∧ (t.die die).duals.find? (fun d => d.k == k) = some { d with held := true } ∧
      (∀ y, t.cell y = s.cell y) ∧ (t.die die).net = (s.die die).net) ∧
    (∀ u, p.agrees q = true → p.acc = none → p.tok.kind < 2 → p.tok = u → (u.die, u.site) ≠ (die, d.prim) →
      u.req = none → s.portSends ⟨die, d.prim⟩ (tokClass u) = true →
      ∃ t e v pk, exec (.dualCompare die k) s = .next t ∧ (t.die die).duals.find? (fun d => d.k == k) = some e ∧
        e.outP = ldrop (fun o => o == p) d.outP ∧ e.outS = ldrop (fun o => o == q) d.outS ∧ e.held = false ∧
        (t.die die).net.mesh = (s.die die).net.mesh ++ [pk] ∧ pk.body = .tok v ∧ v = { u with sent := v.sent })) ∧
  (d.held = false ∨ d.mismatch = none → exec (.dualReplay die k) s = .next s) ∧
  (∀ p q, d.held = true → d.mismatch = some (p, q) → d.spare = none →
    (∀ o ∈ (s.ctx d.ctx).trap.opens, o.code ≠ .sinkMismatch) → (∀ l ∈ s.latches, l.fr.ctx ≠ d.ctx) →
    ∃ r, exec (.dualReplay die k) s = .next (s.takeFault (siteUnit ⟨die, d.prim⟩) r .none) ∧ r.code = .sinkMismatch ∧ r.ctx = d.ctx ∧
      r.arg = BitVec.ofNat 64 (d.prim + d.shad * 2 ^ 16)) ∧
  (∀ p q sp, d.held = true → d.mismatch = some (p, q) → d.spare = some sp → (s.die die).herd.busy = [] → (s.die die).flushing = false → d.replay = false →
    ∃ t e, exec (.dualReplay die k) s = .next t ∧ (t.die die).duals.find? (fun d => d.k == k) = some e ∧ e.replay = true ∧ e.outX = [] ∧
      (t.cell ⟨die, sp⟩).pipe.selfq = (s.cell ⟨die, sp⟩).pipe.selfq ++ d.kept.map (fun t => { t with site := sp }))

/-- R373, R374, R377, R378, R390: a request that may pre-empt a RUNNING or STOPPED context begins its save, a marker for every
source, or is held while a STOP covers it; the first marker at a unit freezes it for the context; a context that is not being
saved may not be restored. Clauses on which the spec is silent follow the model's choices (assumptions 53, 54). -/
def Obligations.PreemptionProceeds : Prop :=
  (∀ (ctx : Nat) (who : Actor) (s : State), let k := s.ctx ctx
    (s.mayPre ctx who = true ↔ who = .host ∨ ∃ c, who = .ctx c ∧ c ≠ ctx ∧ (k.hctx = c ∨ (s.ctx c).tenant = 0)) ∧
    (s.mayPre ctx who = false → exec (.ctxPrePreempt ctx who) s = .next s ∧ exec (.ctxPreRestore ctx who) s = .next s) ∧
    (k.pre.phase ≠ 0 ∨ (k.st ≠ .running ∧ k.st ≠ .stopped) → exec (.ctxPrePreempt ctx who) s = .next s) ∧
    (s.mayPre ctx who = true → (k.st = .running ∨ k.st = .stopped) → k.pre.phase = 0 → ∃ t, exec (.ctxPrePreempt ctx who) s = .next t ∧
      (∀ c, c ≠ ctx → t.ctx c = s.ctx c) ∧ (∀ a, t.byte a = s.byte a) ∧ (t.ctx ctx).st = k.st ∧
      (s.covered ctx = false → (t.ctx ctx).pre.phase = 1 ∧ (t.ctx ctx).pre.marks = k.srcs) ∧
      (s.covered ctx = true → (t.ctx ctx).pre.phase = 0 ∧ (t.ctx ctx).pre.held = true)) ∧
    (k.pre.phase ≠ 3 → (k.st ≠ .saved ∨ k.pre.phase ≠ 2) → exec (.ctxPreRestore ctx who) s = .next s) ∧
    (s.mayPre ctx who = true → k.st = .saved → k.pre.phase = 2 → s.covered ctx = true →
      (∃ p ∈ (s.die (ctxDie ctx)).tab.planes, p.idx = k.plane ∧ (k.slot, ctx) ∈ p.bound) →
      ∃ t, exec (.ctxPreRestore ctx who) s = .next t ∧ (t.ctx ctx).pre.phase = 3 ∧ (t.ctx ctx).st = .saved) ∧
    (s.mayPre ctx who = true → k.st = .saved → k.pre = { phase := 2 } → k.trap.opens = [] → k.trap.acks = [] → s.covered ctx = false →
      (∃ p ∈ (s.die (ctxDie ctx)).tab.planes, p.idx = k.plane ∧ (k.slot, ctx) ∈ p.bound) → s.stopCause ctx = false →
      ∃ t, exec (.ctxPreRestore ctx who) s = .next t ∧ (t.ctx ctx).st = .running ∧ (t.ctx ctx).pre = {} ∧ ∀ a, t.byte a = s.byte a)) ∧
  (∀ (x : Site) (s : State) (src : Source) (t : Tok), (s.cell x).nextMarker = some (src, t) → (s.cell x).pipe.matchAt ≤ s.cycle →
    s.halted x t.ctx = false →
    (t.flag .marker = true) ∧
    ((s.ctx t.ctx).pre.phase ≠ 1 → ∃ u, exec (.markerArrival x) s = .next u ∧ (u.cell x).frz = (s.cell x).frz ∧ ∀ c, u.ctx c = s.ctx c) ∧
    ((s.ctx t.ctx).pre.phase = 1 → ∃ u, exec (.markerArrival x) s = .next u ∧ t.ctx ∈ (u.cell x).frz.units ∧
      (t.ctx, t.side.toNat) ∈ (u.cell x).frz.marked ∧ (u.cell x).dir = (s.cell x).dir ∧ (u.cell x).slots = (s.cell x).slots ∧
      ∀ m ∈ (s.cell x).miss, m.ctx = t.ctx → (s.cell x).frz.units.contains t.ctx = false → m ∉ (u.cell x).miss))

namespace Sys2Proof.Machine

/-- A debug request is answered with a status and bytes, and nothing but the host's view changes (R387). -/
def Replies (i : Instr) (s s1 : State) (code : Nat) (bytes : List Byte) : Prop :=
  ∃ t, exec i s = .next t ∧ t.host.debug = s.host.debug ++ [(s.host.nextReq, code, bytes)] ∧ t.host.nextReq = s.host.nextReq + 1 ∧
    (∀ x, t.cell x = s1.cell x) ∧ (∀ c, t.ctx c = s1.ctx c) ∧ (∀ d, t.die d = s1.die d) ∧ ∀ a, t.byte a = s1.byte a

/-- The six kinds of debug request, by OP (R387). -/
def debugKinds (r : DebugReq) : List (Nat × Instr) :=
  [(0, .debugStop r), (1, .debugStopDrain r), (2, .debugResume r), (3, .debugRead r), (4, .debugWrite r)]

end Sys2Proof.Machine

/-- R387 to R390: a request that is not well formed is INVALID, and one on what its tenant does not own PROT, changing nothing; STOP and
RESUME set and release the STOP of a site, a context or a die; a RUNNING context under a STOP is STOPPED and runs again at its release;
STOP+DRAIN is answered DRAINED once nothing that was begun is under way. -/
def Claims.DebugStops : Prop := ∀ (r : DebugReq) (s : State), s.mgmt.recovery = false →
  (dbgFits r = false → ∀ p ∈ debugKinds r, Replies p.2 s s 2 []) ∧
  (dbgFits r = true → ∀ p ∈ debugKinds r, p.1 ≠ dbgOp r → exec p.2 s = .next s) ∧
  (dbgFits r = true → s.dbgSet r = none → ∀ p ∈ debugKinds r, p.1 < 3 → p.1 = dbgOp r → Replies p.2 s s 2 []) ∧
  (∀ d, dbgFits r = true → s.dbgSet r = some d →
    (r.tenant ≠ 0 → (∃ c ∈ s.dbgOwners d, (s.ctx c).tenant ≠ r.tenant) → ∀ p ∈ debugKinds r, p.1 < 3 → p.1 = dbgOp r → Replies p.2 s s 1 []) ∧
    (r.tenant = 0 ∨ (∀ c ∈ s.dbgOwners d, (s.ctx c).tenant = r.tenant) →
      (dbgOp r = 0 → Replies (.debugStop r) s (s.setStop d true) 0 []) ∧
      (dbgOp r = 1 → ∃ t w, exec (.debugStopDrain r) s = .next t ∧ t.host.waits = s.host.waits ++ [w] ∧ w.k = s.host.nextReq ∧ w.req = r ∧
        t.host.debug = s.host.debug ∧ (∀ c, t.ctx c = (s.setStop d true).ctx c) ∧ ∀ x, t.cell x = (s.setStop d true).cell x) ∧
      (dbgOp r = 2 → ∃ t, exec (.debugResume r) s = .next t ∧ t.host.debug = s.host.debug ++ [(s.host.nextReq, 0, [])] ∧
        (∀ c, (t.ctx c).st = ((s.setStop d false).ctx c).st) ∧ (∀ x, t.cell x = (s.setStop d false).cell x) ∧
        ∀ c, d = .ctx c → (s.ctx c).pre.held = true → State.covered (s.setStop d false) c = false → (t.ctx c).pre.phase = 1))) ∧
  (∀ c, (s.ctx c).pre.phase = 0 → (s.ctx c).st = .running → ((s.setStop (.ctx c) true).ctx c).st = .stopped) ∧
  (∀ c, (s.ctx c).st = .stopped → (s.die (ctxDie c)).stop = false → (s.ctx c).trap.sopen = 0 → (∀ l ∈ s.latches, l.fr.ctx ≠ c) →
    ((s.setStop (.ctx c) false).ctx c).st = .running) ∧
  (∀ x, ((s.setStop (.site x) true).cell x).frz.stop = true ∧ ∀ c, (s.setStop (.site x) true).ctx c = s.ctx c) ∧
  (∀ k w d, s.host.waits.find? (fun w => w.k == k) = some w → s.dbgSet w.req = some d →
    (s.isDrained d = false → exec (.drained k) s = .next s) ∧
    (s.isDrained d = true → ∃ t, exec (.drained k) s = .next t ∧ t.host.debug = s.host.debug ++ [(k, 5, [])] ∧
      t.host.waits = s.host.waits.filter (fun v => v.k != k) ∧ ∀ a, t.byte a = s.byte a))

/-- R391 to R394: a read gives the bytes of the object it names, OK where its unit is stopped, LIVE where it runs, zeros with PROT where
another tenant owns it, and changes nothing; a write of MT bytes changes those and no other; CHAMOIS samples a die's counters, and
reports when its window ends. -/
def Claims.DebugReadsAndWrites : Prop := ∀ (r : DebugReq) (s : State), s.mgmt.recovery = false → dbgFits r = true →
  (∀ x d, dbgOp r = 3 → dbgObj r < 0x10 → s.dbgSite r = some x → s.dbgCell x (dbgObj r) (dbgCtx r) r.w2.toNat = some d →
    (s.dbgMay r.tenant d.owners = true → Replies (.debugRead r) s s (if d.dark then 4 else if s.unitStopped x then 0 else 3) d.bytes) ∧
    (s.dbgMay r.tenant d.owners = false → Replies (.debugRead r) s s 1 (d.bytes.map (fun _ => 0)))) ∧
  (∀ x, dbgOp r = 3 → dbgObj r < 0x10 → s.dbgSite r = some x → s.dbgCell x (dbgObj r) (dbgCtx r) r.w2.toNat = none → Replies (.debugRead r) s s 2 []) ∧
  (∀ (x : Site) (i ctx : Nat), i < 384 → (∀ v, tget i (s.cell x).slots = some v → ∃ d, s.dbgCell x 1 ctx i = some d ∧ d.owners = [v.tok.ctx] ∧
    leNat d.bytes = v.tok.data.toNat + 2 ^ 512 + v.cnt % 256 * 2 ^ 513)) ∧
  (∀ x, dbgOp r = 3 → dbgObj r = 0x10 → s.dbgSite r = some x → s.dbgMay r.tenant (s.cell x).ctxs = true →
    0 < r.w3.toNat → r.w2.toNat + r.w3.toNat ≤ 65536 → (∀ b, b < 8 → (s.cell x).mt.power b = 0) →
    Replies (.debugRead r) s s (if s.unitStopped x then 0 else 3) (s.bytes (mtBase x + r.w2.toNat) r.w3.toNat)) ∧
  (∀ x, dbgOp r = 4 → dbgObj r = 0x10 → s.dbgSite r = some x → r.data.length = r.w3.toNat →
    (s.dbgMay r.tenant (s.cell x).ctxs = false → Replies (.debugWrite r) s s 1 []) ∧
    (s.dbgMay r.tenant (s.cell x).ctxs = true → 0 < r.w3.toNat → r.w2.toNat + r.w3.toNat ≤ 65536 → (∀ b, b < 8 → (s.cell x).mt.power b = 0) →
      ∃ t, exec (.debugWrite r) s = .next t ∧ Writes s t (mtBase x + r.w2.toNat) (r.data.map some) ∧
        t.host.debug = s.host.debug ++ [(s.host.nextReq, 0, [])])) ∧
  (∀ x, dbgOp r = 5 → s.dbgSite r = some x → x.die = dbgDie r → (s.die x.die).chamois = [] → r.tenant = 0 → 1024 ≤ r.w3.toNat → dbgObj r ≤ 1 → r.w2.toNat < 40 →
    ∃ t c, exec (.chamois r) s = .next t ∧ (t.die x.die).chamois = [c] ∧ c.x = x ∧ c.pos = r.w2.toNat ∧ c.w = r.w3.toNat ∧
      c.until_ = s.cycle + r.w3.toNat ∧ c.req = s.host.nextReq ∧ t.host.debug = s.host.debug) ∧
  (∀ die c rest, (s.die die).chamois = c :: rest →
    (s.cycle < c.until_ → exec (.chamoisWindowEnd die) s = .next s) ∧
    (c.until_ ≤ s.cycle → ∃ t bs, exec (.chamoisWindowEnd die) s = .next t ∧ (t.die die).chamois = rest ∧
      t.host.debug = s.host.debug ++ [(c.req, 0, bs)] ∧ bs.length % 16 = 4 ∧ 16 * fld (leNat (bs.drop (bs.length - 4))) 0 7 + 4 = bs.length))

/-- R403 to R405: the head of a portal's queue leaves it for its entry's context and node; a marker is consumed; a token for a
module that cannot be reached waits. On arrival it is refused with DEST_INVALID at its sender, or enters the mesh at the link,
or goes to the spill area of a context that is LOADING or SAVED. Clauses on which the spec is silent follow the model's choice
(assumption 43). -/
def Obligations.PortalsCarryTokens : Prop :=
  (∀ (die q : Nat) (s : State) (r : Rec) (t : Tok) (rest : List Tok), s.portal die q = some r → (s.queue die q).toks = t :: rest →
    let dev := fld r.w0.toNat 10 19
    let out := { s.queue die q with toks := rest }
    (t.flag .marker = true → ∃ u, exec (.portalForward die q) s = .next u ∧ u.queue die q = out ∧ u.host.portalq = s.host.portalq) ∧
    (t.flag .marker = false → dev ≠ s.host.dev → dev ∈ s.host.unreach → exec (.portalForward die q) s = .next s) ∧
    (t.flag .marker = false → dev ≠ s.host.dev → dev ∉ s.host.unreach → ∃ u, exec (.portalForward die q) s = .next u ∧ u.queue die q = out) ∧
    (t.flag .marker = false → dev = s.host.dev → ∃ u p, exec (.portalForward die q) s = .next u ∧ u.queue die q = out ∧
      u.host.portalq = s.host.portalq ++ [p] ∧ p.die = die ∧ p.q = q ∧ p.sctx = t.ctx ∧ p.tenant = (s.ctx t.ctx).tenant ∧
      p.ddie = fld r.w0.toNat 8 2 ∧ p.tok.ctx = fld r.w2.toNat 18 14 ∧ p.tok.site = fld r.w1.toNat 19 13 ∧ p.tok.node = fld r.w1.toNat 9 10 ∧
      p.tok.port = fld r.w1.toNat 7 2 ∧ p.tok.data = t.data ∧ p.tok.tag = t.tag ∧ p.tok.depth = t.depth ∧ p.tok.flags = t.flags)) ∧
  (∀ (k : Nat) (s : State) (p : PortalTok), s.host.portalq[k]? = some p → (∀ e ∈ s.host.portalq.take k, ¬ (e.die = p.die ∧ e.q = p.q)) →
    let c := s.ctx p.tok.ctx
    let left := s.host.portalq.take k ++ s.host.portalq.drop (k + 1)
    let bad : Prop := ctxDie p.tok.ctx ≠ p.ddie ∨ c.st = .free ∨ c.st = .ended ∨ c.tenant ≠ p.tenant ∨ tagFits c.tl p.tok = false
    (bad → (s.ctx p.sctx).st ≠ .free → (s.ctx p.sctx).st ≠ .ended → ∃ s1 u r, exec (.portalArrival k) s = .next (State.takeFault s1 u r .none) ∧
      s1.host.portalq = left ∧ r.code = .destInvalid ∧ r.ctx = p.sctx ∧ r.src = 3) ∧
    (bad → ((s.ctx p.sctx).st = .free ∨ (s.ctx p.sctx).st = .ended) → ∃ u, exec (.portalArrival k) s = .next u ∧ u.host.portalq = left ∧ u.latches = s.latches) ∧
    (¬ bad → (c.st = .running ∨ c.st = .stopped) → ∃ u e, exec (.portalArrival k) s = .next u ∧ u.host.portalq = left ∧
      (u.die p.ddie).net.mesh = (s.die p.ddie).net.mesh ++ [e] ∧ e.body = .tok p.tok ∧ e.res = p.tok.site ∧ e.cls = 3) ∧
    (∀ u, ¬ bad → (c.st = .loading ∨ c.st = .saved) →
      State.spill { s with host := { s.host with portalq := left } } ⟨p.ddie, p.tok.site⟩
        (match (s.cell ⟨p.ddie, p.tok.site⟩).blkOf p.tok.ctx p.tok.node with | some b => b.hdr | none => 1023) p.tok false = some u →
      exec (.portalArrival k) s = .next u)) ∧
  (∀ (dev : Nat) (s : State), (∃ t, exec (.unreachableDestination dev false) s = .next t ∧ dev ∈ t.host.unreach ∧
      t.host.notices = s.host.notices ++ [(1, dev)]) ∧
    ∃ t, exec (.unreachableDestination dev true) s = .next t ∧ dev ∉ t.host.unreach ∧ t.host.notices = s.host.notices)

/-- R396, R412, R413: at power-up each image is verified, a bad signature or a version below the fused minimum leaving the module in
RECOVERY; the plane key is taken only before a launch; a quote holds the nonce, the device, the digests and a signature; the lifetime
counters go to flash, and come back from it after an abrupt loss of power. -/
def Claims.BootAndLifetime : Prop := ∀ (s : State),
  (∀ (images : List (Nat × List Byte × List Byte × Bool)), (s.mgmt.up = true → exec (.powerUp images) s = .next s) ∧
    (s.mgmt.up = false → ∃ t, exec (.powerUp images) s = .next t ∧ t.mgmt.up = true ∧ t.mgmt.launched = false ∧
      (t.mgmt.recovery = true ↔ ∃ i im, images[i]? = some im ∧ (Config.sigOk (Config.vendorKey 0) im.2.1 im.2.2.1 = false ∨ im.1 < (tget i s.mgmt.fused).getD 0)) ∧
      (∀ i, (tget i s.mgmt.fused).getD 0 ≤ (tget i t.mgmt.fused).getD 0) ∧ (∀ x, t.cell x = s.cell x) ∧
      (tget lifeCycles t.mgmt.live).getD 0 = satAdd 48 ((tget lifeCycles s.mgmt.live).getD 0) 1)) ∧
  (∀ (key : List Byte), (s.mgmt.recovery = true ∨ s.mgmt.launched = true ∨ key.length ≠ 64 → exec (.planeKeyInstall key) s = .next s) ∧
    (s.mgmt.recovery = false → s.mgmt.launched = false → key.length = 64 →
      ∃ t, exec (.planeKeyInstall key) s = .next t ∧ t.mgmt = { s.mgmt with planeKey := key })) ∧
  (∀ (nonce : List Byte), nonce.length = 32 → s.mgmt.recovery = false → ∃ t b, exec (.attestationQuote nonce) s = .next t ∧
    t.host.quotes = s.host.quotes ++ [b ++ Config.sign b] ∧ b.take 32 = nonce ∧ (b.drop 32).take 4 = leBytes 4 s.host.dev ∧
    (b.drop 36).take 4 = leBytes 4 s.mgmt.version ∧ b.drop (b.length - 8) = leBytes 8 s.mgmt.uncorrectable) ∧
  (∀ o, ∃ t, exec (.lifetimeFlush o) s = .next t ∧ t.mgmt = { s.mgmt with flash := s.mgmt.live }) ∧
  ((s.cells.map (fun e => e.1)).Nodup → (s.dies.map (fun e => e.1)).Nodup → ∃ t, exec .abruptPowerLoss s = .next t ∧ t.mgmt.live = s.mgmt.flash ∧ t.mgmt.fused = s.mgmt.fused ∧ t.mgmt.up = false ∧
    (∀ c, (t.ctx c).st = .free) ∧ (∀ x, (t.cell x).dir = [] ∧ (t.cell x).blks = [] ∧ (t.cell x).frz.wires = (s.cell x).frz.wires) ∧
    ∀ d, (t.die d).tab.retired = (s.die d).tab.retired ∧ (t.die d).tab.planes = []) ∧
  ((∃ e ∈ s.ctxs, e.2.st ≠ .free) → exec .bringUp s = .next s) ∧
  ((∀ e ∈ s.ctxs, e.2.st = .free) → ∃ t, exec .bringUp s = .next t ∧ (∀ a, t.byte a = s.byte a) ∧
    ∀ d, d < 4 → (t.die d).tab.retired = (s.die d).tab.retired.drop (Nat.min (s.sparesLeft d) (s.die d).tab.retired.length))

/-- R310, R341, R408, R414 to R416: the host reads and writes HBM; a link trains; a die powers down only when no context lives on it, and
comes up with no planes; SDM that is turned off is lost; an idle pair's clock stops; heat slows a die or shuts it down, its contexts
ended; a bus with few wires falls back, with fewer its site is retired; a die reset leaves the die as after reset. -/
def Claims.PowerAndHost : Prop := ∀ (s : State) (die : Nat),
  (∀ (pa len : Nat), s.mgmt.recovery = false → pa + len ≤ 2 ^ 39 → 0 < len → (∀ d, d < 4 → (s.die d).power.on = true) →
    ∃ t, exec (.hostMemoryAccess pa none len) s = .next t ∧ t.host.reads = s.host.reads ++ [s.bytes pa len] ∧ ∀ a, t.byte a = s.byte a) ∧
  (∀ (pa : Nat) (bs : List Byte), s.mgmt.recovery = false → pa + bs.length ≤ 2 ^ 39 → 0 < bs.length → (∀ d, d < 4 → (s.die d).power.on = true) →
    (∀ j, j < bs.length → isRemote (pa + j) = false) → ∃ t, exec (.hostMemoryAccess pa (some bs) 0) s = .next t ∧ Writes s t pa (bs.map some)) ∧
  (∀ (w r : Nat), ∃ t, exec (.linkTraining w r) s = .next t ∧ (t.host.width, t.host.rate) =
    if (w = 1 ∨ w = 2 ∨ w = 4 ∨ w = 8 ∨ w = 16) ∧ 1 ≤ r ∧ r ≤ 7 then (w, r) else (s.host.width, s.host.rate)) ∧
  (s.mgmt.recovery = false → (s.die die).power.on = true →
    ((∃ e ∈ s.ctxs, ctxDie e.1 = die ∧ e.2.st ≠ .free) → ∃ t, exec (.diePowerDown die) s = .next t ∧ (t.die die).power.on = true ∧
      t.host.reads = s.host.reads ++ [[4]] ∧ ∀ a, t.byte a = s.byte a) ∧
    ((∀ e ∈ s.ctxs, ctxDie e.1 = die → e.2.st = .free) → ∃ t, exec (.diePowerDown die) s = .next t ∧ (t.die die).power.on = false ∧
      (t.die die).tab.planes = [] ∧ t.host.reads = s.host.reads ++ [[0]] ∧ (∀ d, d ≠ die → t.die d = s.die d) ∧
      ∀ a, a < 2 ^ 56 → t.byte a = s.byte a)) ∧
  (s.mgmt.recovery = false → (s.die die).power.on = false → ∃ t, exec (.diePowerUp die) s = .next t ∧ (t.die die).power.on = true ∧
    (t.die die).tab = (s.die die).tab ∧ ∀ d, d ≠ die → t.die d = s.die d) ∧
  (∀ (gib : Nat), s.mgmt.recovery = false → (s.die die).power.on = true →
    (∃ t, exec (.sdmPowerWrite die gib 0) s = .next t ∧ tget gib (t.die die).power.sdm = none ∧ ∀ a, t.byte a = s.byte a) ∧
    (∃ t, exec (.sdmPowerWrite die gib 1) s = .next t ∧ tget gib (t.die die).power.sdm = some 1 ∧ ∀ a, t.byte a = s.byte a) ∧
    ∃ t, exec (.sdmPowerWrite die gib 2) s = .next t ∧ tget gib (t.die die).power.sdm = some 2 ∧
      ∀ a, ¬ (sdmBase die + gib * 2 ^ 30 ≤ a ∧ a < sdmBase die + (gib + 1) * 2 ^ 30) → t.byte a = s.byte a) ∧
  (∀ (x : Site), let p := (s.cell x).pipe
    ((p.selfq ≠ [] ∨ p.p0 ≠ [] ∨ p.deps ≠ [] ∨ (s.cell x).ready ≠ [] ∨ s.cycle < (s.cell x).frz.lastTok + 64) → exec (.clockGate x) s = .next s) ∧
    (p.selfq = [] → p.p0 = [] → p.p1 = [] → p.p2 = [] → p.p3 = [] → p.deps = [] → p.ans = [] → (s.cell x).ready = [] → (s.cell x).frz.lastTok + 64 ≤ s.cycle →
      ∃ t, exec (.clockGate x) s = .next t ∧ (t.cell x).frz.gated = true ∧ (t.cell x).dir = (s.cell x).dir)) ∧
  (∀ (temp : Nat), (s.die die).power.on = true →
    (∃ t, exec (.thermalThrottle die temp) s = .next t ∧ (t.die die).power.clock ≤ max 1 (s.die die).power.clock ∧ (t.die die).power.temp = temp ∧
      t.host.notices = s.host.notices ++ [(2, die)]) ∧
    (temp < 105 → exec (.thermalShutdown die temp) s = .next s) ∧
    (105 ≤ temp → ∃ t, exec (.thermalShutdown die temp) s = .next t ∧ (t.die die).power.on = false ∧ (∀ c, ctxDie c = die → (t.ctx c).st = .free) ∧
      t.host.notices = s.host.notices ++ [(2, die)])) ∧
  (∃ t, exec (.dieReset die) s = .next t ∧ (t.die die).loupe = {} ∧ (t.die die).herd = {} ∧ (t.die die).eng = {} ∧ (t.die die).tab.ptroot = (s.die die).tab.ptroot ∧
    (∀ c, ctxDie c = die → (t.ctx c).st = .free) ∧ (∀ d, d ≠ die → t.die d = s.die d) ∧ ∀ a, a < 2 ^ 56 → t.byte a = s.byte a) ∧
  (∀ (x : Site) (good : Nat), let was := (s.cell x).frz.wires
    (was ≤ good → exec (.verticalBusFallback x good) s = .next s) ∧
    (good < was → ∃ t, exec (.verticalBusFallback x good) s = .next t ∧ (t.cell x).frz.wires = good ∧
      (good < 32 → 32 ≤ was → x.res ∈ (t.die x.die).tab.retired) ∧ (32 ≤ good → (t.die x.die).tab.retired = (s.die x.die).tab.retired)))

namespace Sys2Proof.Machine

/-- The bits of a node record from its three words as the spec writes them, W2 first. -/
def bits96 (w2 w1 w0 : Nat) : Nat := w2 * 2 ^ 64 + w1 * 2 ^ 32 + w0

/-- The bits of a node record and of the EXT record behind it. -/
def bits192 (w2 w1 w0 e2 e1 e0 : Nat) : Nat := bits96 w2 w1 w0 + 2 ^ 96 * bits96 e2 e1 e0

/-- No output flag. -/
def noOfl : Ofl := ⟨false, false, false, false⟩

/-- A local target without a tag action. -/
def at_ (n p : Nat) : Target := .local .none n p

/-- An instruction that only computes: one of the groups 0x2 to 0x7 of the opcode map (R62). -/
def computes (i : Instr) : Bool := (parts i).any (fun p => 2 ≤ p.opc / 64 && p.opc / 64 ≤ 7)

/-- An operation that a FAULTRET record does not stand for. -/
def Instr.notFaultret : Instr → Bool
  | .faultretResume _ | .faultretSkip _ | .faultretEnd _ => false
  | _ => true

/-- The state in which a fetched firing runs: it is the one under way. -/
def State.running (s : State) (f : Firing) : State := { s with cur := some f }

/-- Every packed firing of a list of what happens next is of one cell. -/
def PackedAt (x : Site) (l : List Act) : Prop := ∀ a ∈ l, ∃ n u, a = .packed x n u

end Sys2Proof.Machine

/-- The records that the spec's worked examples write out, of every group of the opcode map, decode to the instructions that it
says they are. Clauses on which the spec is silent follow the model's choice (assumption 27). -/
def Obligations.SpecRecordsDecode : Prop :=
  decodeTableWord 96 (bits96 0x20190400 0x42100109 0x1) = some (.add ⟨.s32, 1, noOfl, at_ 66 0, at_ 66 1⟩ ⟨1, none⟩) ∧
  decodeTableWord 96 (bits96 0x00C20800 0x00D10004 0x0)
    = some (.steer ⟨.s4, 2, noOfl, .route .none 3, .local .inc 1 0⟩) ∧
  decodeTableWord 192 (bits192 0x01C10400 0x671001A0 0x0 0x0FC00000 0x00300000 0x001001A4)
    = some (.mov4 ⟨.s4, 1, noOfl, at_ 103 0, at_ 104 0⟩ (at_ 105 0) (.special .none .exit)) ∧
  decodeTableWord 96 (bits96 0x11820480 0x09000000 0x3) = some (.lbound ⟨.s4, 2, noOfl, .local (.push 0) 9 0, .none⟩ 3) ∧
  decodeTableWord 96 (bits96 0x361F0440 0x09300000 0x0) = some (.sel ⟨.z32, 3, noOfl, .local .inc 9 0, .special .none .exit⟩) ∧
  decodeTableWord 96 (bits96 0x416D0800 0x00800000 0x0) = some (.fmax ⟨.fp32, 1, noOfl, .route .none 2, .none⟩ ⟨0, none⟩) ∧
  decodeTableWord 96 (bits96 0x602D1400 0x7B000000 0x119)
    = some (.cvt ⟨.fp32, 1, ⟨false, false, false, true⟩, at_ 123 0, .none⟩ ⟨1, false, .rtz, .bf16⟩) ∧
  decodeTableWord 96 (bits96 0x706D0400 0x0A400000 0x100) = some (.bcast ⟨.fp32, 1, noOfl, at_ 10 1, .none⟩ true 0) ∧
  decodeTableWord 96 (bits96 0x901F0400 0x2210008C 0x00028C09)
    = some (.aadd ⟨.z32, 3, noOfl, at_ 34 0, at_ 35 0⟩ ⟨some 2, .none, .none, .die, true, false, false⟩) ∧
  decodeTableWord 96 (bits96 0xA0890400 0xCD100338 0x6202)
    = some (.kmatch ⟨.s8, 1, noOfl, at_ 205 0, at_ 206 0⟩ ⟨false, false, false, 0, 4, .frame, .raw, .ip, 2, none⟩) ∧
  decodeTableWord 192 (bits192 0xB0410400 0x2B000000 0x000142C0 0x0FC00000 0x0 0x11)
    = some (.arm ⟨.s4, 1, noOfl, at_ 43 0, .none⟩ 1 2 5 (some 17)) ∧
  decodeTableWord 96 (bits96 0xC0E50C00 0x40000000 0x3F00)
    = some (.scl ⟨.bf16, 1, noOfl, .special .none .scale, .none⟩ ⟨0x3F00, none⟩) ∧
  decodeTableWord 192 (bits192 0xD0090400 0x35300000 0x00015002 0x0FC00000 0x80000000 0xFF033F80)
    = some (.awalk ⟨.s8, 1, noOfl, at_ 53 0, .special .none .exit⟩ ⟨1, false, true, .raw, 2, some (255, 3, 0x3F80, 0x80000000)⟩) ∧
  decodeTableWord 96 (bits96 0xE0010400 0x2B000000 0x65) = some (.trev ⟨.s4, 1, noOfl, at_ 43 0, .none⟩ ⟨0, 1, true, 5⟩) ∧
  decodeTableWord 96 (bits96 0xF1C10400 0x2B000000 0x0) = some (.faultretResume ⟨.s4, 1, noOfl, at_ 43 0, .none⟩)

/-- R48 to R64: a well-formed instruction's record decodes to it, with every field at every value that its encoding admits.
Clauses on which the spec is silent follow the model's choices (assumptions 28, 29). -/
def Obligations.EncodeDecodeRoundTrip : Prop := ∀ (i : Instr) (r : Rec) (e : Option Rec),
  WellFormed i = true → encode i = some (r, e) → decodeRec r e = .ok i

/-- R48 to R64: what decodes is well-formed, and it is encoded as the record it came from, so no two instructions share a
record; the EXT record of a LAUNCH may say nothing, and that of a QPOST or PLANE says nothing. Clauses on which the spec is silent follow the model's choices
(assumptions 28, 29). -/
def Obligations.DecodedRecordsAreWellFormed : Prop := ∀ (r : Rec) (e : Option Rec) (i : Instr),
  (∀ x, e = some x → x.opc = 0x03F) → decodeRec r e = .ok i →
    WellFormed i = true ∧ i.isOp = true ∧
    (encode i = some (r, e) ∨ (∃ h n, i = .launch h n none ∧ e = some ⟨0x0FC00000, 0, 0⟩ ∧ encode i = some (r, none)) ∨
      ((r.opc = 0x2C2 ∨ r.opc = 0x2C3) ∧ (∃ x, e = some x ∧ fld x.w2.toNat 0 22 = 0) ∧ encode i = some (r, none)))

/-- R164 to R167, R252: a step is what comes next: at the front of the agenda, or else the free choice. An issue runs the
decoded record of the cell's first ready entry that may issue, FAULTRET by the action of its operand, with the packed firings of
the issue next; a packed or replayed firing runs its own record; an event of the table runs as itself, and an operation never
does. Clauses on which the spec is silent follow the model's choice (assumption 1). -/
def Obligations.StepRunsTheDecodedInstruction : Prop := ∀ (s s1 : State),
  (∀ a l, s.agenda = a :: l → s.nextAct = (a, { s with steps := s.steps + 1, agenda := l })) ∧
  (s.agenda = [] → s.nextAct = (Config.nextAct s.steps, { s with steps := s.steps + 1 })) ∧
  (∀ x e f b i, s.nextAct = (.issue x, s1) → (s1.cell x).pipe.issue ≤ s1.cycle → (s1.cell x).pipe.matchAt ≤ s1.cycle → (s1.cell x).spat.on = false →
    s1.swapping x = false → s1.deadPair x = false → (s1.die x.die).loupe.waits x.res = false → firstEnt ((s1.cell x).ready.filter (s1.eligible x)) = some e →
    s1.stalled x e = false → s1.firingOf x e = some f → s1.complete f = true →
    (s1.cell f.x).blkAt f.ent.ctx f.hdr = some b → decodeRec (b.recAt f.pos) (b.ext f.pos) = .ok i →
    ∃ t l, PackedAt x l ∧ t.agenda = l ++ s1.agenda ∧ t.cur = some f ∧ (∀ a, t.byte a = s1.byte a) ∧ (∀ c, t.ctx c = s1.ctx c) ∧
      (∀ y, siteKey y ≠ siteKey x → t.cell y = s1.cell y) ∧ (t.cell x).slots = (s1.cell x).slots ∧
      (t.cell x).pipe.issue = s1.cycle + 1 ∧ (t.cell x).pipe.deps = (s1.cell x).pipe.deps ∧
      (Instr.notFaultret i = true → step s = exec i t) ∧
      (∀ h, i = .faultretResume h → step s = exec (if retAction f = 1 then .faultretSkip h else
        if retAction f = 2 then .faultretEnd h else .faultretResume h) t)) ∧
  (∀ x n u e f i, s.nextAct = (.packed x n u, s1) →
    (s1.cell x).ready.find? (fun e => e.node == n && e.uid == some u) = some e → s1.firingOf x e = some f →
    s1.complete f = true → s1.instrOf f = some i → step s = exec i (s1.running f)) ∧
  (∀ id p i, s.nextAct = (.refire id, s1) → s1.parked.find? (fun p => p.id == id) = some p →
    s1.frozen p.f.x p.f.ent.ctx = false → p.migr = none → s1.owesAnswer p.f.ent.ctx id = false → s1.instrOf p.f = some i →
    step s = exec i { s1.running p.f with parked := s1.parked.filter (fun q => q.id != id) }) ∧
  (∀ i, s.nextAct = (.event i, s1) → i.isOp = false → WellFormed i = true → step s = exec i s1) ∧
  (∀ i, s.nextAct = (.event i, s1) → i.isOp = true → step s = .next s1)

/-- R221, R341: what the spec gives for reset: each die's Loupe time is 0 and free-running, and the herd registers hold their
values. The rest is the model's choice (assumptions 11, 12, 14, 15, 16, 17): no context exists, flags, masks and counters are 0, no
retirement is on record, nothing is under way; memory is in its canonical form, lists nothing, and reads 0 where the module has
memory. -/
def Obligations.ResetState : Prop :=
  State.reset.memWf = true ∧ (∀ a, isRemote a = false → State.reset.byte a = 0) ∧
  (∀ c, (State.reset.ctx c).st = .free ∧ (State.reset.ctx c).amask = 0 ∧ (State.reset.ctx c).aflags = 0) ∧
  (∀ d, (State.reset.die d).loupe.time = 0 ∧ (State.reset.die d).loupe.state = 0 ∧
    (State.reset.die d).herd.en = true ∧ (State.reset.die d).herd.period = 100 ∧ (State.reset.die d).herd.minage = 4 ∧
    (State.reset.die d).herd.cool = 4 ∧ (State.reset.die d).herd.gain = 64 ∧ (State.reset.die d).herd.mapver = 0 ∧
    (State.reset.die d).net.mesh = [] ∧ (State.reset.die d).tab.retired = []) ∧
  (∀ x, (State.reset.cell x).ctr = {} ∧ (State.reset.cell x).blks = [] ∧ (State.reset.cell x).ready = []) ∧
  State.reset.cur = none ∧ State.reset.agenda = [] ∧ State.reset.parked = [] ∧ State.reset.latches = [] ∧ State.reset.poison = []

/-- Every step keeps memory in its one canonical form: addresses rising, and no byte listed that reads so unlisted. Clauses on
which the spec is silent follow the model's choices (assumptions 2, 8, 11). -/
def Obligations.StepKeepsMemoryForm : Prop := ∀ (s t : State), s.memWf = true → step s = .next t → t.memWf = true

/-- R80, R95, R57, R100: an instruction that only computes either is refused, for a trapped flag, a tag that overflows, or an
exit beyond its block's, or leaves as it was all that a firing does not give up or send: memory, the memory system, every other
cell and context, every register of its own but AFLAGS and the watchdog's count. Clauses on which the spec is silent follow the
model's choice (assumption 24). -/
def Obligations.ComputingKeepsTheRest : Prop := ∀ (i : Instr) (s t : State) (f : Firing), computes i = true → s.cur = some f →
  exec i s = .next t →
    Kept s t f ∨ ∃ code arg, (code = .arith ∨ code = .tagOverflow ∨ code = .exitExcess) ∧
      t = ({ s with cur := none } : State).refuse f code arg 0

/-- R57, R80, R95, R361: a DIV whose divisor of zero is trapped, and an ADD whose target's tag action overflows, do not perform: no
token of the firing leaves, its operands stay in their slots, AFLAGS keeps its value, and its context stops. -/
def Obligations.RefusedFiringKeepsOperands : Prop := ∀ (h : Hdr) (l : Lit) (s : State) (f : Firing), s.cur = some f →
  f.taken = false → s.latched (siteUnit f.x) < 4 → (s.ctx f.ent.ctx).st = .running →
  let sg := h.fmt.isSigned
  let fl := flagsOf f h l (fun x y _ => if y = 0 then (BitVec.allOnes _, 32) else plainEl (if sg then x.sdiv y else x.udiv y))
  let refused (i : Instr) (code : FCode) (arg : Nat) : Prop := ∃ t, exec i s = .next t ∧
    t = ({ s with cur := none } : State).refuse f code arg 0 ∧ (∀ y, t.cell y = s.cell y) ∧
    (t.ctx f.ent.ctx).aflags = (s.ctx f.ent.ctx).aflags ∧ (t.ctx f.ent.ctx).st = .stopped ∧ t.parked = s.parked
  (WellFormed (.div h l) = true → fl &&& (s.ctx f.ent.ctx).amask.toNat ≠ 0 → refused (.div h l) .arith fl) ∧
  (WellFormed (.add h l) = true → (∃ g ∈ [h.t0, h.t1], tagAct (s.ctx f.ent.ctx).tl (tgtAct g) f.tagOf = none) →
    refused (.add h l) .tagOverflow 0)

/-- R113, R69: the integer arithmetic instructions but DIV and REM: the wrapped and the saturated results. -/
def Obligations.IntegerArithmetic : Prop := Claims.IntegerArithmeticWraps ∧ Claims.IntegerArithmeticSaturates

/-- R115 to R119: logic, shifts, counts, compares and SEL. -/
def Obligations.LogicCompareAndSelect : Prop :=
  Claims.LogicShiftsAndCounts ∧ Claims.CompareAndSelect ∧ Claims.LogicCompareAndSelectRecords

/-- R122 to R127: the float instructions: each rounds once, with the flags and cycles of its rule. -/
def Obligations.FloatInstructions : Prop :=
  Claims.FloatArithmeticRoundsOnce ∧ Claims.FloatSelectionSignAndCompare ∧ Claims.SpecialFunctions

/-- R191, R192, R197, R198: moving lanes, and the mask instructions. -/
def Obligations.LaneMovementAndMasks : Prop := Claims.LaneMovement ∧ Claims.LaneMasks

/-- R13, R56, R108 to R111, R199, R202: the tag instructions, LCARRY and MARK, and what tag actions do to the levels of a tag. Clauses on which the spec is silent follow the model's
choices (assumptions 24, 88). -/
def Obligations.TagInstructions : Prop := Claims.TagInstructionsSend ∧ Claims.LoopCarryAndMark ∧ Claims.TagActionsChangeLevels

/-- R100 to R107, R112, R371: EXIT and the flow instructions, for data tokens and for a STREAM_END. Clauses on which the spec is
silent follow the model's choice (assumption 52). -/
def Obligations.FlowAndExit : Prop :=
  Claims.FlowInstructionsSend ∧ Claims.StreamEndsPassFlowNodes ∧ Claims.ExitCountsAndRetires ∧ Claims.ExitOfComparedSite

/-- R263, R274 to R293: what issuing a load, a store, an atomic, a CMLS, an ordering or an address instruction does, and what each atomic
writes. Clauses on
which the spec is silent follow the model's choices (assumptions 71, 72, 73, 77). -/
def Obligations.MemoryInstructionsIssue : Prop :=
  Claims.LoadsAndStoresIssue ∧ Claims.AtomicsIssue ∧ Claims.OrderingInstructionsIssue ∧ Claims.AddressInstructions ∧
    Claims.AtomicNewValues

/-- R94, R228, R229, R237, R239, R274, R361: what an access is checked for, and what a failed check leaves. Clauses on which the
spec is silent follow the model's choices (assumptions 40, 71). -/
def Obligations.MemoryChecks : Prop := Claims.MemoryChecksStopAccess ∧ Claims.AccessChecks ∧ Claims.RegionModes

/-- R228 to R230: accesses of M-tile regions, and the order that the regions give them. Clauses on which the spec is silent
follow the model's choices (assumptions 40, 71). -/
def Obligations.MtAccessAndRegions : Prop := Claims.MtAccessPerforms ∧ Claims.RegionOrder

/-- R245 to R252: what a translation meets, what the walk of an access leaves, and what a copied page holds. -/
def Obligations.TranslationAndCopies : Prop := Claims.PageWalkOfAccess ∧ Claims.TranslationMeets ∧ Claims.CopiedPageHoldsBytes

/-- R242, R280, R363, R414: memory-node requests, bank power and the draining of latched records. Clauses on which the spec is
silent follow the model's choices (assumptions 2, 33, 40, 73). -/
def Obligations.MemoryNodesAndPower : Prop := Claims.MemoryNodePerforms ∧ Claims.PowerOfMemory

/-- R147, R149, R150: KINS, KDEL, KPURGE and KGEN. Clauses on which the spec is silent follow the model's choices (assumptions
77, 86, 89). -/
def Obligations.KeyStoreInstructions : Prop := Claims.KeyStoreChanges ∧ Claims.KeyInsertion

/-- R139 to R145: a query's winners, and what is sent for them. Clauses on which the spec is silent follow the model's choices
(assumptions 70, 89). -/
def Obligations.KeyMatching : Prop := Claims.QuerySendsWinners ∧ Claims.WinnersOfIntegerKeys

/-- R205 to R208: operations on logical stores, from the entry shard to the commit. Clauses on which the spec is silent follow
the model's choices (assumptions 70, 89). -/
def Obligations.LogicalStores : Prop := Claims.LogicalStoreOperationsQueue ∧ Claims.LogicalStoreSteps

/-- R299 to R301, R308, R313: QPOST, and what leaves a bound queue. Clauses on which the spec is silent follow the model's
choices (assumptions 56, 59). -/
def Obligations.HardwareQueues : Prop := Claims.QueueInstructions ∧ Claims.QueueSteps

/-- R309, R312 to R314: PLANE, RECFG and the reload of a site. Clauses on which the spec is silent follow the model's choices
(assumptions 4, 60, 61, 85). -/
def Obligations.PlanesAndReconfiguration : Prop := Claims.PlaneInstructions ∧ Claims.Reconfiguration

/-- R318, R323, R326: what the island instructions send. Clauses on which the spec is silent follow the model's choice
(assumption 62). -/
def Obligations.IslandInstructions : Prop := Claims.IslandSends ∧ Claims.SclSendsScale

/-- R84, R320 to R326: pairs, scales and drains of an island. Clauses on which the spec is silent follow the model's choice
(assumption 62). -/
def Obligations.IslandPairsAndDrains : Prop := Claims.PairsAndScales ∧ Claims.DrainsWriteRows

/-- R329, R331, R336, R337: a walk's candidates, and an ADEL's write. Clauses on which the spec is silent follow the model's
choice (assumption 63). -/
def Obligations.WalkersScoreAndDelete : Prop := Claims.WalkKeepsBest ∧ Claims.DeletionWritesOnce

/-- R341 to R343, R349 to R351: the die clocks, and the writing of trace records. Clauses on which the spec is silent follow the
model's choices (assumptions 64, 65). -/
def Obligations.ClocksAndTraceStream : Prop := Claims.ClocksNeverGoBack ∧ Claims.TraceStream

/-- R157, R160, R161, R383, R384: the life of a context. Clauses on which the spec is silent follow the model's choices
(assumptions 14, 67, 68, 84). -/
def Obligations.LaunchAndContexts : Prop := Claims.LaunchMakesContext ∧ Claims.ContextInjectsAndEnds

/-- R361 to R363, R365: taking a fault, and the record it writes. Clauses on which the spec is silent follow the model's choice
(assumption 20). -/
def Obligations.FaultRecords : Prop := Claims.TakingAFault ∧ Claims.FaultRecordLayout

/-- R385 and the registers' own rules: writes by SYSWR and by the host. Clauses on which the spec is silent follow the model's
choices (assumptions 31, 32, 33, 34, 35, 36). -/
def Obligations.RegisterWrites : Prop := Claims.ContextRegisterWrites ∧ Claims.HostRegisterWrites

/-- R387 to R394: stopping, reading and measuring. Clauses on which the spec is silent follow the model's choices (assumptions
37, 38, 39, 41, 42). -/
def Obligations.DebugPort : Prop := Claims.DebugStops ∧ Claims.DebugReadsAndWrites

/-- R310, R341, R396, R408, R412 to R416: boot, lifetime counters, power and the host's accesses. Clauses on which the spec is
silent follow the model's choices (assumptions 4, 6, 44, 45, 46, 47, 48). -/
def Obligations.BootPowerAndHost : Prop := Claims.BootAndLifetime ∧ Claims.PowerAndHost

/-- R366, R369, R371, R372, R396: soft errors, the watchdog and the comparators. Clauses on which the spec is silent follow the
model's choices (assumptions 3, 51, 52). -/
def Obligations.ErrorsAndComparators : Prop := Claims.ErrorsAndWatchdog ∧ Claims.ComparatorsCommit

/-- R15 to R20, R23, R98, R107, R164, R311: arriving tokens, the spill area, the ready queue and block fetches. Clauses on which
the spec is silent follow the model's choices (assumptions 23, 76, 82, 83). -/
def Obligations.MatchingAndQueues : Prop := Claims.TokensArrive ∧ Claims.QueuesMoveOn

/-- R54, R55, R66, R67, R96, R97, R177 to R184, R218, R366: tokens leave a cell, and the networks carry them. Clauses on which
the spec is silent follow the model's choices (assumptions 19, 79, 80). -/
def Obligations.TokensMove : Prop := Claims.TokensLeave ∧ Claims.NetworksCarry


/-- R163, R200, R219, R335 to R337, R355, R356, R386: LBOUND, AWALK, AINS, ADEL, TREV, RDTIME, HPIN, HUNPIN and the three FAULTRETs
complete: LBOUND admits a start token within its bound, and takes a completion; a walk instruction's request stands with the walkers of its
quad; TREV and RDTIME send and give up their operands; a pin is counted on or off; a FAULTRET closes the record it names. -/
def Obligations.OperationsComplete : Prop := ∀ (h : Hdr) (s : State) (f : Firing), s.cur = some f →
  let c := s.cell f.x
  let tl := (s.ctx f.ent.ctx).tl
  let clear : Prop := Clear s f [h.t0, h.t1] f.tagOf 0 0
  -- the instruction completes: the firing is no longer under way, and its operands have left their slots
  let done (i : Instr) (more : State → Prop) : Prop := ∃ t, exec i s = .next t ∧ t.cur = none ∧
    (t.cell f.x).slots = ((s.consume f (List.range h.arity)).cell f.x).slots ∧ more t
  -- a walk instruction completes its issue: its request waits for a walker
  let asks (i : Instr) (kind : WalkKind) : Prop := ∃ t w, exec i s = .next t ∧ t.cur = none ∧ w ∈ (t.die f.x.die).eng.walks ∧ w.f = f ∧ w.kind = kind
  let mine := c.herd.pins.find? (fun p => p.ctx == f.ent.ctx)
  (∀ km1 tok w toks, f.ent.alone = some tok → tok.port = 0 → tok.flag .streamEnd = false → 1 ≤ tok.depth →
    c.openWin f.ent.ctx f.ent.node tok.depth (tagUpTo tl tok.tag (tok.depth - 1)) = some w → w.mkh = none →
    w.base ≤ lvl tl tok.tag tok.depth → lvl tl tok.tag tok.depth < w.base + (km1 + 1) →
    sendList tl f.x [.tok h.t0 (fwdTok f h [tok] tok false), .tok h.t1 (fwdTok f h [tok] tok false)] = some toks →
    s.exitExcess f (toks.filter Tok.isExit).length = false →
    ∃ t, exec (.lbound h km1) s = .next t ∧ t.cur = none ∧ Emits s t f 1 0 [] toks) ∧
  (∀ km1 tok, f.ent.alone = some tok → tok.port = 1 → 1 ≤ tok.depth → ∃ t, exec (.lbound h km1) s = .next t ∧ t.cur = none ∧
    (t.cell f.x).pipe.deps = c.pipe.deps) ∧
  (∀ (k : AwCtl) toks, (k.qref = true → (f.op 0).flag .poison = false) → WellFormed (.awalk h k) = true →
    (matchCheck tl f h k.k).bind (sendList tl f.x) = some toks → asks (.awalk h k) (.walk k)) ∧
  (∀ d : AinsCtl, (d.kref = true → (f.op 0).flag .poison = false) → WellFormed (.ains h d) = true → clear → asks (.ains h d) (.ins d)) ∧
  (∀ handle scope, WellFormed (.adel h handle scope) = true → clear → asks (.adel h handle scope) (.del handle scope)) ∧
  (∀ k, WellFormed (.trev h k) = true → clear → done (.trev h k) (fun _ => True)) ∧
  (WellFormed (.rdtime h) = true → clear → done (.rdtime h) (fun _ => True)) ∧
  (WellFormed (.hpin h) = true → clear → (mine = none → c.herd.pins.length < 8) → (∀ p, mine = some p → p.count ≠ 65535) →
    done (.hpin h) (fun t => ∃ p ∈ (t.cell f.x).herd.pins, p.ctx = f.ent.ctx)) ∧
  (WellFormed (.hunpin h) = true → clear → mine ≠ none →
    done (.hunpin h) (fun t => (t.cell f.x).herd.pins.length ≤ c.herd.pins.length)) ∧
  (∀ o, let v := (f.op 0).w64
    let k := s.ctx (fld v 0 14)
    (k.hctx = f.ent.ctx ∨ (s.ctx f.ent.ctx).tenant = 0) → fld v 14 2 ≠ 3 →
    k.trap.opens.find? (fun o => o.seq == fld v 32 32 && !k.trap.acks.any (fun a => a.1 == fld v 32 32)) = some o →
    o.what ≠ .ecc → (∀ act ∈ [0, 1, 2], s.keepsAnswer (fld v 0 14) o act = false) → k.trap.seq ≠ o.seq → clear →
    ∀ i ∈ [Instr.faultretResume h, .faultretSkip h, .faultretEnd h], WellFormed i = true →
      ∃ t, exec i s = .next t ∧ t.cur = none ∧ ((k.st = .running ∨ k.st = .stopped) → o ∉ (t.ctx (fld v 0 14)).trap.opens))

/-- R205 to R208, R242, R246, R248, R258, R280, R301 to R303, R316 to R326, R339, R363: the events of the memory system, of logical
stores and of the engines complete. -/
def Claims.EngineEventsComplete : Prop :=
  -- an operation of a logical store is numbered, a shard takes a deletion, the winners leave, a shard commits
  (∀ (die k : Nat) (s : State) (o : LOp) (l : LStore), (s.die die).eng.lops[k]? = some o → s.lstore o.x o.ctx o.node = some l →
    o.x.die = die → o.on = none → (∀ p ∈ (s.die die).eng.lops.take k, p.on = none → ¬ (p.x = o.x ∧ p.ctx = o.ctx ∧ p.node = o.node)) →
    o.kind = .purge → ∃ t p, exec (.storeOpSequence die k) s = .next t ∧
      (t.die die).eng.lops.find? (fun p => p.id == o.id) = some p ∧ p.on = some l.on) ∧
  (∀ (x : Site) (s s1 s2 : State) (k : KStore) (o : LOp) (e : ShardOp) (rest : List ShardOp) (v v1 : View) (w : List (List Spot × List Byte)),
    (∀ j ∈ (s.cell x).stores, j.hold = none) → s.swapping x = false →
    (s.cell x).stores.find? (fun k => !k.queue.isEmpty && s.worksOn k.ctx) = some k → k.queue = e :: rest →
    (s.cell x).store k.ctx k.node = some k → (s.die x.die).eng.lops.find? (fun o => o.id == e.op) = some o → o.kind = .purge →
    s.viewOf x k.ctx k.node = some v → s.region x k.ctx v = (.ok v1, s1) → s1.plan x k.ctx v1 [] = (.ok w, s2) →
    ∃ t u, exec (.shardPerform x) s = .next t ∧ (t.cell x).store k.ctx k.node = some u ∧ u.queue = rest) ∧
  (∀ (die k : Nat) (s : State) (o : LOp) (c : KmCtl) (fmt : Ty) (reg : W32) (q : List Nat) (poison : Bool) (h : Hdr) (km : KmCtl)
      (toks : List Tok), (s.die die).eng.lops[k]? = some o → o.kind = .query c fmt reg q poison → o.on.isSome = true → o.todo = [] →
    o.merged = false → s.latched (siteUnit o.x) < 4 → (s.cell o.x).kmatchAt o.ctx o.node = some (h, km) →
    winners fmt c (o.cands.map (fun e => (e.2.1, e.2.2))) = [] →
    sendList (s.ctx o.ctx).tl o.x (querySends (s.ctx o.ctx).tl o.f h poison (weighted c fmt [])) = some toks → o.f.x = o.x →
    s.exitExcess o.f (toks.filter Tok.isExit).length = false → ∃ t, exec (.lensMerge die k) s = .next t ∧ Leave s t o.x toks) ∧
  (∀ (x : Site) (s s1 s2 : State) (k : KStore) (o : LOp) (v v1 : View) (w : List (List Spot × List Byte)),
    (s.cell x).stores.find? (fun k => k.hold.isSome) = some k →
    (s.cell x).store k.ctx k.node = some k → (s.die x.die).eng.lops.find? (fun o => k.hold == some o.id) = some o → o.merged = true →
    s.viewOf x k.ctx k.node = some v → s.region x k.ctx v = (.ok v1, s1) →
    s1.plan x k.ctx v1 (deliverLife ((o.cands.filter (fun e => e.1 == x.res)).map (fun e => e.2.2.seq)) v1.ents) = (.ok w, s2) →
    ∃ t u, exec (.shardCommit x) s = .next t ∧ (t.cell x).store k.ctx k.node = some u ∧ u.hold = none) ∧
  -- an access is sent, walks, and performs; a copied page comes into use
  (∀ (s : State) (a : Access) (useTlb : Bool), s.acc a.id = some a → a.st = .wait → (s.ctx a.ctx).st ≠ .saved →
    s.sendable a (s.chainOf a).1 (s.accsOf (s.chainOf a).2) = true → s.missHeld a = false → s.dualOf a.x a.ctx = none → a.kind = .load →
    a.space = .mt → ∃ t b, exec (.waveSend a.id useTlb) s = .next t ∧ t.acc a.id = some b ∧ b.st = .sent) ∧
  (∀ (s s1 : State) (a : Access) (ps : List Page), s.acc a.id = some a → a.st = .walk → (s.ctx a.ctx).st ≠ .saved → a.kind = .load →
    s.lookAll a false a.ranges [] = (.ok ps, s1) →
    ∃ t b, exec (.pageWalk a.id) s = .next t ∧ t.acc a.id = some b ∧ b.st = .sent ∧ b.pages = ps) ∧
  (∀ (s : State) (a : Access) (el : Nat) (evict : List Nat), a.Going s → a.space = .sdm → a.kind = .load →
    ((s.cell a.x).nodeq.getD 0 []).head? = some a.id → s.portBehind a = false → (s.sdmCheck a.die a.addr a.size).1 = .ready →
    ∃ t, exec (.accessPerform a.id el evict) s = .next t ∧ (t.cell a.x).nodeq.getD 0 [] = ((s.cell a.x).nodeq.getD 0 []).tail ∧
      ∀ b, t.byte b = s.byte b) ∧
  (∀ (s : State) (k : Nat) (w : CowCopy), s.msys.cows[k]? = some w → (s.ctx w.ctx).st ≠ .saved → (s.ctx w.ctx).pre.phase ≠ 1 →
    ∃ t l, exec (.cowCopyDone k) s = .next t ∧ t.msys.cows = s.msys.cows.take k ++ s.msys.cows.drop (k + 1) ++ l) ∧
  -- a read request of a memory node performs; power changes take effect; a latched record enters its queue
  (∀ (s : State) (x : Site) (port id : Nat) (q : NodeReq) (r : BitVec 128), ((s.cell x).nodeq.getD port []).head? = some id →
    s.msys.reqs.find? (fun r => r.id == id) = some q → q.tok.req = some r → reqOk r = true → reqField r 1 30 2 = 0 →
    let n := 2 ^ reqField r 1 24 3
    let addr := reqField r 0 0 32 + reqField r 1 0 2 * 2 ^ 32
    s.sdmOwned q.x.die addr n (s.ctx q.tok.ctx).tenant = true → (s.sdmCheck q.x.die addr n).1 = .ready → s.reqBehind q = false →
    ∃ t p u, exec (.memnodeRequest x port) s = .next t ∧ (t.die q.x.die).net.mesh = (s.die q.x.die).net.mesh ++ [p] ∧ p.body = .tok u ∧
      u.ctx = q.tok.ctx ∧ u.tag = q.tok.tag) ∧
  (∀ (s : State) (x : Site) (bank : Nat) (p : Nat × Option Nat × List Nat),
    (s.cell x).mt.pend.find? (fun p => p.1 == bank && p.2.1.isSome) = some p → p.2.1 = some 1 → p.2.2 = [] → (s.cell x).mt.power bank ≠ 1 →
    ∃ t, exec (.bankPowerEffect x bank) s = .next t ∧ (t.cell x).mt.power bank = 1) ∧
  (∀ (s : State) (x : Site) (bank : Nat), (s.cell x).mt.waking bank = true →
    ∃ t, exec (.bankWake x bank) s = .next t ∧ (t.cell x).mt.power bank = 0) ∧
  (∀ (s : State) (die gib : Nat), (s.die die).power.wakes.contains gib = true →
    ∃ t, exec (.sdmWake die gib) s = .next t ∧ (tget gib (t.die die).power.sdm).getD 0 = 0) ∧
  (∀ (s s1 : State) (k : Nat) (l : Latch), s.latches[k]? = some l → (∀ m ∈ s.latches.take k, m.fr.ctx ≠ l.fr.ctx) →
    s.putRecord l.fr l.what = .done s1 →
    ∃ t, exec (.faultLatchDrain k) s = .next t ∧ t.latches = s1.latches.take k ++ s1.latches.drop (k + 1)) ∧
  -- a copy starts, issues a sector and performs it
  (∀ (die st k : Nat) (s s1 : State) (r : CopyReq) (es : List Score), k < 4 →
    (s.die die).eng.copies.find? (fun c => c.st == st && c.k == k) = none →
    (∀ c ∈ (s.die die).eng.scans, c.1 = st → c.2.1 = k → c.2.2 ≤ s.cycle) →
    (s.die die).eng.creqs.find? (fun r => r.st == st && s.startable r.x r.ctx) = some r →
    let id := (s.die die).eng.nextId
    let c : Copy := { id := id, st := st, k := k, ctx := r.ctx, x := r.x, queue := r.queue, tmpl := r.tmpl, tok := r.tok, desc := r.desc
                      scope := r.scope, direct := r.direct, state := .start, began := false, cursor := 0, perf := [], flight := []
                      pend := [], tile := 0 }
    s.copyHeld die c = false → descClvl r.desc + 1 = descNdim r.desc →
    (s.modEng die (fun e => { e with nextId := id + 1, creqs := ldrop (fun q => q == r) e.creqs, copies := e.copies ++ [c] })).copyRanges c
      = (.ok es, s1) → (s1.cell r.x).score.length + 2 ≤ 16 →
    ∃ t, exec (.copyStart die st k) s = .next t ∧ (t.cell r.x).score = (s1.cell r.x).score ++ es) ∧
  (∀ (id die k : Nat) (s s1 : State) (c : Copy), s.copyOf id = some (die, c) → s.copyRuns c = true → s.copyHeld die c = false →
    c.nextSector = some k → s.sectorIssue c k = some (.ok (), s1) →
    ∃ t u, exec (.sectorIssue id) s = .next t ∧ (t.die die).eng.copies.find? (fun q => q.id == c.id) = some u ∧
      u.flight = c.flight ++ [(k, s1.msys.sseq)]) ∧
  (∀ (id die k n : Nat) (s s1 : State) (c : Copy) (place : Nat) (src : List Spot) (p : Spot) (ps : List Spot),
    s.copyOf id = some (die, c) → c.flight.find? (fun f => f.1 == k) = some (k, place) →
    s.sectorEnds c place k = some (.ok (src, p :: ps, n), s1) → c.direct = none → descClvl c.desc + 1 = descNdim c.desc →
    descZero c.desc = true → (∀ pa, .phys pa ∈ src ++ p :: ps → isRemote pa = false) → (∀ j, j < n → isRemote (p.addr + j) = false) →
    ∃ t, exec (.sectorPerform id k) s = .next t ∧ Writes s1 t p.addr ((List.replicate n (0 : Byte)).map some)) ∧
  -- an island arms a slot, takes a scale, fires a pair and drains a row
  (∀ (die isl : Nat) (s : State) (n : Notice) (rest : List Notice) (cmd : MxCmd), (s.island die isl).notices = n :: rest → n.parked = false →
    ((s.ctx n.ctx).st = .running ∨ (s.ctx n.ctx).st = .stopped) → n.parkAt = none → n.spilt = none → n.kind = .arm cmd →
    (s.island die isl).slot n.cslot = none →
    mxWidth cmd.atype (s.fmtReg n.ctx cmd.afreg) = mxWidth cmd.btype (s.fmtReg n.ctx cmd.bfreg) →
    ∃ t k, exec (.mxNotice die isl) s = .next t ∧ (t.island die isl).slot n.cslot = some k ∧ k.cmd = cmd ∧ k.ctx = n.ctx ∧ k.x = n.x) ∧
  (∀ (die isl : Nat) (s : State) (t : Tok) (rest : List Tok), (s.island die isl).sspill = [] → (s.island die isl).scaleq = t :: rest →
    s.gone t.ctx = false → (s.island die isl).takes t = true →
    ∃ u, exec (.scaleArrival die isl) s = .next u ∧ (u.island die isl).scaleq = rest) ∧
  (∀ (die isl : Nat) (s : State) (p : Pair), firstPair (s.pairsOf die isl) = some p → (s.island die isl).slot p.slot.n = some p.slot →
    p.slot.banks.length = 2 → s.pairHeld die isl p = false →
    ∃ t, exec (.pairFire die isl) s = .next t ∧
      (t.island die isl).tiles = (s.island die isl).tiles.filter (fun u => u.ord != p.a.ord && u.ord != p.b.ord)) ∧
  (∀ (die isl b m : Nat) (s s2 : State) (d : Drain) (k : CSlot), s.queueDrains die isl = (false, s) →
    (s.island die isl).drains.find? (fun d => !d.parked && d.spilt.isNone) = some d → s.startable d.x d.ctx = true →
    (s.ctx d.ctx).pre.phase ≠ 1 → (s.die die).loupe.waits (unitIsland isl) = false → d.trace = false → d.parkAt = none →
    (s.island die isl).slot d.cslot = some k → k.ctx = d.ctx → d.bank = some b → d.row < 127 →
    s.rowWrite d (d.off + d.row * 64 * (k.outBits / 4)) (k.banks.getD b {}).poison d.piece
      ((pieces (k.outBits / 4) (k.row (k.banks.getD b {}) d.row).1).drop d.piece) = (none, m, s2) →
    ∃ t, exec (.islandDrain die isl d.cslot) s = .next t ∧ (∀ a, t.byte a = s2.byte a)) ∧
  -- a walker takes a request, and its result goes to its cell
  (∀ (die quad k : Nat) (s : State) (w : Walk), s.queueWalks die quad = (false, s) →
    (List.range 4).find? (fun k => !(s.die die).eng.walks.any (fun w => w.quad == quad && w.walker == some k)) = some k →
    (s.waitingWalks die quad).find? (fun w => s.startable w.f.x w.f.ent.ctx && w.state != .fpark && w.spilt.isNone) = some w →
    s.walkHeld die { w with walker := some k } 0x45 = false →
    ∃ t u, exec (.walkRequest die quad) s = .next t ∧ (t.die die).eng.walks.find? (fun v => v.id == w.id) = some u ∧ u.walker = some k) ∧
  (∀ (die quad walker : Nat) (s : State) (w : Walk),
    (s.die die).eng.walks.find? (fun w => w.quad == quad && w.walker == some walker) = some w →
    ((s.ctx w.f.ent.ctx).st = .running ∨ (s.ctx w.f.ent.ctx).st = .stopped) → s.walkHeld die w 0x46 = false → w.parkAt = none →
    w.state = .finish → (∀ c, w.kind ≠ .walk c) → w.poison = false → w.dep.toks ≠ [] →
    ∃ t, exec (.walkResult die quad walker) s = .next t ∧ ∀ v ∈ (t.die die).eng.walks, v.id ≠ w.id)

/-- R212, R218, R341 to R343, R349, R350, R366, R369, R371 to R374, R377: herd placement, the clocks and the trace stream, soft errors, the
watchdog, the comparators and pre-emption complete. -/
def Claims.SystemEventsComplete : Prop := ∀ (s : State) (die : Nat),
  (∀ exLen, (s.die die).herd.nextAt ≤ (s.die die).loupe.time → (s.die die).herd.busy = [] → (s.die die).power.on = true →
    ∃ t, exec (.swapInstant die exLen) s = .next t ∧ (t.die die).herd.inst = (s.die die).herd.inst + 1) ∧
  (die < 4 → (s.die die).herd.busy ≠ [] → (s.die die).herd.done ≤ s.cycle →
    ∃ t, exec (.mapVersionAdvance die) s = .next t ∧ (t.die die).herd.busy = [] ∧
      (t.die die).herd.mapver = ((s.die die).herd.mapver + 1) % 2 ^ 32) ∧
  ((s.die die).power.on = true → ∃ t, exec (.traceWatermark die) s = .next t ∧
    (t.die die).loupe.wmark = max (s.die die).loupe.wmark (s.die die).loupe.low) ∧
  (∀ (tenant : Nat) (r : TRec), firstRec ((s.die (s.ten tenant).home).loupe.fwd.filter (fun r => r.tenant == tenant)) = some r →
    (s.ten tenant).en = false → ∃ t, exec (.traceWrite tenant) s = .next t ∧
      (t.die (s.ten tenant).home).loupe.fwd = ldrop (fun q => q == r) (s.die (s.ten tenant).home).loupe.fwd) ∧
  (∀ (time : Nat) (offset : BitVec 16), die < 4 → (s.die die).power.on = true →
    ∃ t, exec (.ptpMessage time offset true) s = .next t ∧ (t.die die).loupe.state = 2 ∧ (t.die die).loupe.offs = offset) ∧
  (die < 4 → (s.die die).power.on = true → ∃ t, exec .ptpMasterLoss s = .next t ∧
    (t.die die).loupe.state = (if (s.die die).loupe.state = 0 then 0 else 3)) ∧
  (∀ n, ∃ t, exec (.softError (.corrected die n)) s = .next t ∧
    (tget (lifeCorrected die n) t.mgmt.live).getD 0 = satAdd 48 ((tget (lifeCorrected die n) s.mgmt.live).getD 0) 1) ∧
  (∀ ctx, (s.ctx ctx).trap.wdog ≠ 0 → (s.ctx ctx).st = .running → (s.ctx ctx).trap.wdog * 4000 ≤ (s.ctx ctx).trap.idle →
    s.quiescent ctx = false → (s.ctx ctx).pre.phase ≠ 1 → ∃ t, exec (.watchdogExpiry ctx) s = .next t ∧ (t.ctx ctx).st = .stopped ∧
      (t.ctx ctx).trap.idle = 0) ∧
  (∀ k d p q, (s.die die).duals.find? (fun d => d.k == k) = some d → d.held = false →
    d.outP.find? (fun p => d.outS.any (fun q => q.twin p)) = some p → d.outS.find? (fun q => q.twin p) = some q → p.agrees q = false →
    ∃ t, exec (.dualCompare die k) s = .next t ∧ (t.die die).duals.find? (fun d => d.k == k) = some { d with held := true }) ∧
  (∀ k d p q sp, (s.die die).duals.find? (fun d => d.k == k) = some d → d.held = true → d.mismatch = some (p, q) → d.spare = some sp →
    (s.die die).herd.busy = [] → (s.die die).flushing = false → d.replay = false →
    ∃ t e, exec (.dualReplay die k) s = .next t ∧ (t.die die).duals.find? (fun d => d.k == k) = some e ∧ e.replay = true) ∧
  (∀ ctx who, s.mayPre ctx who = true → ((s.ctx ctx).st = .running ∨ (s.ctx ctx).st = .stopped) → (s.ctx ctx).pre.phase = 0 →
    s.covered ctx = false → ∃ t, exec (.ctxPrePreempt ctx who) s = .next t ∧ (t.ctx ctx).pre.phase = 1) ∧
  (∀ ctx who, s.mayPre ctx who = true → (s.ctx ctx).st = .saved → (s.ctx ctx).pre = { phase := 2 } → (s.ctx ctx).trap.opens = [] →
    (s.ctx ctx).trap.acks = [] → s.covered ctx = false →
    (∃ p ∈ (s.die (ctxDie ctx)).tab.planes, p.idx = (s.ctx ctx).plane ∧ ((s.ctx ctx).slot, ctx) ∈ p.bound) → s.stopCause ctx = false →
    ∃ t, exec (.ctxPreRestore ctx who) s = .next t ∧ (t.ctx ctx).st = .running) ∧
  (∀ (x : Site) (src : Source) (t : Tok), (s.cell x).nextMarker = some (src, t) → (s.cell x).pipe.matchAt ≤ s.cycle →
    s.halted x t.ctx = false → (s.ctx t.ctx).pre.phase = 1 →
    ∃ u, exec (.markerArrival x) s = .next u ∧ t.ctx ∈ (u.cell x).frz.units)

/-- R310, R341, R387 to R394, R396, R403 to R405, R408, R412 to R416: the debug port, the portals, boot, power and the host's accesses
complete. -/
def Claims.HostEventsComplete : Prop := ∀ (s : State) (die : Nat), s.mgmt.recovery = false →
  (∀ (r : DebugReq) (d : DbgSet), dbgFits r = true → s.dbgSet r = some d → r.tenant = 0 →
    (dbgOp r = 0 → ∃ t, exec (.debugStop r) s = .next t ∧ t.host.debug = s.host.debug ++ [(s.host.nextReq, 0, [])] ∧
      ∀ c, t.ctx c = (s.setStop d true).ctx c) ∧
    (dbgOp r = 1 → ∃ t w, exec (.debugStopDrain r) s = .next t ∧ t.host.waits = s.host.waits ++ [w] ∧ w.req = r) ∧
    (dbgOp r = 2 → ∃ t, exec (.debugResume r) s = .next t ∧ t.host.debug = s.host.debug ++ [(s.host.nextReq, 0, [])])) ∧
  (∀ k w d, s.host.waits.find? (fun w => w.k == k) = some w → s.dbgSet w.req = some d → s.isDrained d = true →
    ∃ t, exec (.drained k) s = .next t ∧ t.host.debug = s.host.debug ++ [(k, 5, [])]) ∧
  (∀ (r : DebugReq) (x : Site) d, dbgFits r = true → dbgOp r = 3 → dbgObj r < 0x10 → s.dbgSite r = some x → r.tenant = 0 →
    s.dbgCell x (dbgObj r) (dbgCtx r) r.w2.toNat = some d → d.dark = false →
    ∃ t, exec (.debugRead r) s = .next t ∧ t.host.debug = s.host.debug ++ [(s.host.nextReq, if s.unitStopped x then 0 else 3, d.bytes)]) ∧
  (∀ (r : DebugReq) (x : Site), dbgFits r = true → dbgOp r = 4 → dbgObj r = 0x10 → s.dbgSite r = some x → r.tenant = 0 →
    r.data.length = r.w3.toNat → 0 < r.w3.toNat → r.w2.toNat + r.w3.toNat ≤ 65536 → (∀ b, b < 8 → (s.cell x).mt.power b = 0) →
    ∃ t, exec (.debugWrite r) s = .next t ∧ Writes s t (mtBase x + r.w2.toNat) (r.data.map some)) ∧
  (∀ (r : DebugReq) (x : Site), dbgFits r = true → dbgOp r = 5 → s.dbgSite r = some x → (s.die (dbgDie r)).chamois = [] → r.tenant = 0 →
    x.die = dbgDie r → 1024 ≤ r.w3.toNat → dbgObj r ≤ 1 → r.w2.toNat < 40 →
    ∃ t c, exec (.chamois r) s = .next t ∧ (t.die x.die).chamois = [c] ∧ c.x = x ∧ c.w = r.w3.toNat) ∧
  (∀ c rest, (s.die die).chamois = c :: rest → c.until_ ≤ s.cycle →
    ∃ t bs, exec (.chamoisWindowEnd die) s = .next t ∧ (t.die die).chamois = rest ∧ t.host.debug = s.host.debug ++ [(c.req, 0, bs)]) ∧
  (∀ q r t rest, s.portal die q = some r → (s.queue die q).toks = t :: rest → t.flag .marker = false → fld r.w0.toNat 10 19 = s.host.dev →
    ∃ u p, exec (.portalForward die q) s = .next u ∧ (u.queue die q).toks = rest ∧ u.host.portalq = s.host.portalq ++ [p] ∧
      p.tok.ctx = fld r.w2.toNat 18 14 ∧ p.tok.data = t.data) ∧
  (∀ (k : Nat) (p : PortalTok), s.host.portalq[k]? = some p → (∀ e ∈ s.host.portalq.take k, ¬ (e.die = p.die ∧ e.q = p.q)) →
    ctxDie p.tok.ctx = p.ddie → (s.ctx p.tok.ctx).st = .running → (s.ctx p.tok.ctx).tenant = p.tenant → tagFits (s.ctx p.tok.ctx).tl p.tok = true →
    ∃ u e, exec (.portalArrival k) s = .next u ∧ (u.die p.ddie).net.mesh = (s.die p.ddie).net.mesh ++ [e] ∧ e.body = .tok p.tok) ∧
  (∀ dev, ∃ t, exec (.unreachableDestination dev false) s = .next t ∧ dev ∈ t.host.unreach) ∧
  (∀ images, s.mgmt.up = false → ∃ t, exec (.powerUp images) s = .next t ∧ t.mgmt.up = true) ∧
  (∀ key, s.mgmt.launched = false → key.length = 64 → ∃ t, exec (.planeKeyInstall key) s = .next t ∧ t.mgmt.planeKey = key) ∧
  (∀ nonce, nonce.length = 32 → ∃ t b, exec (.attestationQuote nonce) s = .next t ∧ t.host.quotes = s.host.quotes ++ [b ++ Config.sign b]) ∧
  (∀ o, ∃ t, exec (.lifetimeFlush o) s = .next t ∧ t.mgmt.flash = s.mgmt.live) ∧
  (∃ t, exec .abruptPowerLoss s = .next t ∧ t.mgmt.live = s.mgmt.flash ∧ ∀ c, (t.ctx c).st = .free) ∧
  ((∀ e ∈ s.ctxs, e.2.st = .free) → ∃ t, exec .bringUp s = .next t ∧ ∀ a, t.byte a = s.byte a) ∧
  (∀ (pa len : Nat), pa + len ≤ 2 ^ 39 → 0 < len → (∀ d, d < 4 → (s.die d).power.on = true) →
    ∃ t, exec (.hostMemoryAccess pa none len) s = .next t ∧ t.host.reads = s.host.reads ++ [s.bytes pa len]) ∧
  (∀ w r, w ∈ [1, 2, 4, 8, 16] → 1 ≤ r → r ≤ 7 → ∃ t, exec (.linkTraining w r) s = .next t ∧ t.host.width = w ∧ t.host.rate = r) ∧
  ((s.die die).power.on = true → (∀ e ∈ s.ctxs, ctxDie e.1 = die → e.2.st = .free) →
    ∃ t, exec (.diePowerDown die) s = .next t ∧ (t.die die).power.on = false) ∧
  ((s.die die).power.on = false → ∃ t, exec (.diePowerUp die) s = .next t ∧ (t.die die).power.on = true) ∧
  (∀ gib, (s.die die).power.on = true → ∃ t, exec (.sdmPowerWrite die gib 1) s = .next t ∧ tget gib (t.die die).power.sdm = some 1) ∧
  (∀ (x : Site), let p := (s.cell x).pipe
    p.selfq = [] → p.p0 = [] → p.p1 = [] → p.p2 = [] → p.p3 = [] → p.deps = [] → p.ans = [] → (s.cell x).ready = [] →
    (s.cell x).frz.lastTok + 64 ≤ s.cycle → ∃ t, exec (.clockGate x) s = .next t ∧ (t.cell x).frz.gated = true) ∧
  (∀ temp, (s.die die).power.on = true → ∃ t, exec (.thermalThrottle die temp) s = .next t ∧ (t.die die).power.temp = temp) ∧
  (∀ temp, (s.die die).power.on = true → 105 ≤ temp → ∃ t, exec (.thermalShutdown die temp) s = .next t ∧ (t.die die).power.on = false) ∧
  (∃ t, exec (.dieReset die) s = .next t ∧ (t.die die).loupe = {}) ∧
  (∀ (x : Site) (good : Nat), good < (s.cell x).frz.wires → ∃ t, exec (.verticalBusFallback x good) s = .next t ∧ (t.cell x).frz.wires = good)

/-- The events of the engines, of the system and of the host complete: each states when one has its own effect, whatever else holds of the
state. Clauses on which the spec is silent follow the model's choices (assumptions 41, 43, 44, 45, 48). -/
def Obligations.EventsComplete : Prop := Claims.EngineEventsComplete ∧ Claims.SystemEventsComplete ∧ Claims.HostEventsComplete
end

