-- ==== Sys2Proof/Laws/Table.lean ====
section
/-! SUPPORT. Laws of the sparse tables: what reading an entry gives after one was set. -/
namespace Sys2Proof.Machine

/-- Reading the entry just set gives its value. -/
@[simp] theorem tget_tput_same {α : Type} (k : Nat) (v : α) (t : Table α) : tget k (tput k v t) = some v := by
  induction t with
  | nil => simp [tput, tget]
  | cons e t ih =>
    obtain ⟨j, w⟩ := e
    unfold tput
    by_cases h1 : k < j
    · simp [h1, tget]
    · by_cases h2 : k = j
      · subst h2; simp [tget]
      · have h3 : (j == k) = false := by simpa using fun h => h2 h.symm
        simpa [h1, h2, tget, h3] using ih

/-- Setting an entry leaves every other entry as it was. -/
theorem tget_tput_ne {α : Type} {j k : Nat} (h : j ≠ k) (v : α) (t : Table α) : tget j (tput k v t) = tget j t := by
  have hkj : (k == j) = false := by simpa using fun e => h e.symm
  induction t with
  | nil => simp [tput, tget, hkj]
  | cons e t ih =>
    obtain ⟨i, w⟩ := e
    unfold tput
    by_cases h1 : k < i
    · simp [h1, tget, hkj]
    · by_cases h2 : k = i
      · subst h2; simp [tget, hkj]
      · by_cases h3 : i = j
        · subst h3; simp [h1, h2, tget]
        · have h4 : (i == j) = false := by simpa using h3
          simpa [h1, h2, tget, h4] using ih

/-- The entry `j` of a table after `k` was set. -/
theorem tget_tput {α : Type} (j k : Nat) (v : α) (t : Table α) :
    tget j (tput k v t) = if j = k then some v else tget j t := by
  by_cases h : j = k
  · subst h; simp
  · simp [h, tget_tput_ne h]

/-- Deleting an entry leaves every other entry as it was. -/
theorem tget_tdel_ne {α : Type} {j k : Nat} (h : j ≠ k) (t : Table α) : tget j (tdel k t) = tget j t := by
  induction t with
  | nil => rfl
  | cons e t ih =>
    obtain ⟨i, w⟩ := e
    by_cases h1 : i = k
    · have h2 : (i == j) = false := by simpa [h1] using fun e => h e.symm
      simpa [tdel, tget, h1, h2, show (k == j) = false by simpa using fun e => h e.symm] using ih
    · by_cases h2 : i = j
      · subst h2; simp [tdel, tget, h1]
      · have h3 : (i == j) = false := by simpa using h2
        simpa [tdel, tget, h1, h3] using ih

/-- A deleted entry is not there. -/
@[simp] theorem tget_tdel_same {α : Type} (k : Nat) (t : Table α) : tget k (tdel k t) = none := by
  induction t with
  | nil => rfl
  | cons e t ih =>
    obtain ⟨i, w⟩ := e
    by_cases h1 : i = k
    · simpa [tdel, tget, h1] using ih
    · have h2 : (i == k) = false := by simpa using h1
      simpa [tdel, tget, h1, h2] using ih

end Sys2Proof.Machine
end

