-- ==== Sys2Proof/Laws/State.lean ====
section
/-! SUPPORT. The laws of the state's updates: one lemma per field per update, and what a cell, a context or a die reads
as after one was set. -/
namespace Sys2Proof.Machine

section Fields
variable (s : State)

@[simp] theorem setCell_cycle (x : Site) (c : Cell) : (s.setCell x c).cycle = s.cycle := rfl
@[simp] theorem setCell_steps (x : Site) (c : Cell) : (s.setCell x c).steps = s.steps := rfl
@[simp] theorem setCell_free (x : Site) (c : Cell) : (s.setCell x c).free = s.free := rfl
@[simp] theorem setCell_agenda (x : Site) (c : Cell) : (s.setCell x c).agenda = s.agenda := rfl
@[simp] theorem setCell_cur (x : Site) (c : Cell) : (s.setCell x c).cur = s.cur := rfl
@[simp] theorem setCell_parked (x : Site) (c : Cell) : (s.setCell x c).parked = s.parked := rfl
@[simp] theorem setCell_latches (x : Site) (c : Cell) : (s.setCell x c).latches = s.latches := rfl
@[simp] theorem setCell_mem (x : Site) (c : Cell) : (s.setCell x c).mem = s.mem := rfl
@[simp] theorem setCell_lost (x : Site) (c : Cell) : (s.setCell x c).lost = s.lost := rfl
@[simp] theorem setCell_poison (x : Site) (c : Cell) : (s.setCell x c).poison = s.poison := rfl
@[simp] theorem setCell_msys (x : Site) (c : Cell) : (s.setCell x c).msys = s.msys := rfl
@[simp] theorem setCell_ctxs (x : Site) (c : Cell) : (s.setCell x c).ctxs = s.ctxs := rfl
@[simp] theorem setCell_dies (x : Site) (c : Cell) : (s.setCell x c).dies = s.dies := rfl
@[simp] theorem setCell_tens (x : Site) (c : Cell) : (s.setCell x c).tens = s.tens := rfl
@[simp] theorem setCell_mgmt (x : Site) (c : Cell) : (s.setCell x c).mgmt = s.mgmt := rfl
@[simp] theorem setCell_host (x : Site) (c : Cell) : (s.setCell x c).host = s.host := rfl

@[simp] theorem modCell_cycle (x : Site) (f : Cell → Cell) : (s.modCell x f).cycle = s.cycle := rfl
@[simp] theorem modCell_steps (x : Site) (f : Cell → Cell) : (s.modCell x f).steps = s.steps := rfl
@[simp] theorem modCell_free (x : Site) (f : Cell → Cell) : (s.modCell x f).free = s.free := rfl
@[simp] theorem modCell_agenda (x : Site) (f : Cell → Cell) : (s.modCell x f).agenda = s.agenda := rfl
@[simp] theorem modCell_cur (x : Site) (f : Cell → Cell) : (s.modCell x f).cur = s.cur := rfl
@[simp] theorem modCell_parked (x : Site) (f : Cell → Cell) : (s.modCell x f).parked = s.parked := rfl
@[simp] theorem modCell_latches (x : Site) (f : Cell → Cell) : (s.modCell x f).latches = s.latches := rfl
@[simp] theorem modCell_mem (x : Site) (f : Cell → Cell) : (s.modCell x f).mem = s.mem := rfl
@[simp] theorem modCell_lost (x : Site) (f : Cell → Cell) : (s.modCell x f).lost = s.lost := rfl
@[simp] theorem modCell_poison (x : Site) (f : Cell → Cell) : (s.modCell x f).poison = s.poison := rfl
@[simp] theorem modCell_msys (x : Site) (f : Cell → Cell) : (s.modCell x f).msys = s.msys := rfl
@[simp] theorem modCell_ctxs (x : Site) (f : Cell → Cell) : (s.modCell x f).ctxs = s.ctxs := rfl
@[simp] theorem modCell_dies (x : Site) (f : Cell → Cell) : (s.modCell x f).dies = s.dies := rfl
@[simp] theorem modCell_tens (x : Site) (f : Cell → Cell) : (s.modCell x f).tens = s.tens := rfl
@[simp] theorem modCell_mgmt (x : Site) (f : Cell → Cell) : (s.modCell x f).mgmt = s.mgmt := rfl
@[simp] theorem modCell_host (x : Site) (f : Cell → Cell) : (s.modCell x f).host = s.host := rfl

@[simp] theorem setCtx_cycle (k : Nat) (v : Ctx) : (s.setCtx k v).cycle = s.cycle := rfl
@[simp] theorem setCtx_steps (k : Nat) (v : Ctx) : (s.setCtx k v).steps = s.steps := rfl
@[simp] theorem setCtx_free (k : Nat) (v : Ctx) : (s.setCtx k v).free = s.free := rfl
@[simp] theorem setCtx_agenda (k : Nat) (v : Ctx) : (s.setCtx k v).agenda = s.agenda := rfl
@[simp] theorem setCtx_cur (k : Nat) (v : Ctx) : (s.setCtx k v).cur = s.cur := rfl
@[simp] theorem setCtx_parked (k : Nat) (v : Ctx) : (s.setCtx k v).parked = s.parked := rfl
@[simp] theorem setCtx_latches (k : Nat) (v : Ctx) : (s.setCtx k v).latches = s.latches := rfl
@[simp] theorem setCtx_mem (k : Nat) (v : Ctx) : (s.setCtx k v).mem = s.mem := rfl
@[simp] theorem setCtx_lost (k : Nat) (v : Ctx) : (s.setCtx k v).lost = s.lost := rfl
@[simp] theorem setCtx_poison (k : Nat) (v : Ctx) : (s.setCtx k v).poison = s.poison := rfl
@[simp] theorem setCtx_msys (k : Nat) (v : Ctx) : (s.setCtx k v).msys = s.msys := rfl
@[simp] theorem setCtx_cells (k : Nat) (v : Ctx) : (s.setCtx k v).cells = s.cells := rfl
@[simp] theorem setCtx_dies (k : Nat) (v : Ctx) : (s.setCtx k v).dies = s.dies := rfl
@[simp] theorem setCtx_tens (k : Nat) (v : Ctx) : (s.setCtx k v).tens = s.tens := rfl
@[simp] theorem setCtx_mgmt (k : Nat) (v : Ctx) : (s.setCtx k v).mgmt = s.mgmt := rfl
@[simp] theorem setCtx_host (k : Nat) (v : Ctx) : (s.setCtx k v).host = s.host := rfl

@[simp] theorem modCtx_cycle (k : Nat) (f : Ctx → Ctx) : (s.modCtx k f).cycle = s.cycle := rfl
@[simp] theorem modCtx_steps (k : Nat) (f : Ctx → Ctx) : (s.modCtx k f).steps = s.steps := rfl
@[simp] theorem modCtx_free (k : Nat) (f : Ctx → Ctx) : (s.modCtx k f).free = s.free := rfl
@[simp] theorem modCtx_agenda (k : Nat) (f : Ctx → Ctx) : (s.modCtx k f).agenda = s.agenda := rfl
@[simp] theorem modCtx_cur (k : Nat) (f : Ctx → Ctx) : (s.modCtx k f).cur = s.cur := rfl
@[simp] theorem modCtx_parked (k : Nat) (f : Ctx → Ctx) : (s.modCtx k f).parked = s.parked := rfl
@[simp] theorem modCtx_latches (k : Nat) (f : Ctx → Ctx) : (s.modCtx k f).latches = s.latches := rfl
@[simp] theorem modCtx_mem (k : Nat) (f : Ctx → Ctx) : (s.modCtx k f).mem = s.mem := rfl
@[simp] theorem modCtx_lost (k : Nat) (f : Ctx → Ctx) : (s.modCtx k f).lost = s.lost := rfl
@[simp] theorem modCtx_poison (k : Nat) (f : Ctx → Ctx) : (s.modCtx k f).poison = s.poison := rfl
@[simp] theorem modCtx_msys (k : Nat) (f : Ctx → Ctx) : (s.modCtx k f).msys = s.msys := rfl
@[simp] theorem modCtx_cells (k : Nat) (f : Ctx → Ctx) : (s.modCtx k f).cells = s.cells := rfl
@[simp] theorem modCtx_dies (k : Nat) (f : Ctx → Ctx) : (s.modCtx k f).dies = s.dies := rfl
@[simp] theorem modCtx_tens (k : Nat) (f : Ctx → Ctx) : (s.modCtx k f).tens = s.tens := rfl
@[simp] theorem modCtx_mgmt (k : Nat) (f : Ctx → Ctx) : (s.modCtx k f).mgmt = s.mgmt := rfl
@[simp] theorem modCtx_host (k : Nat) (f : Ctx → Ctx) : (s.modCtx k f).host = s.host := rfl

@[simp] theorem setDie_cycle (d : Nat) (v : Die) : (s.setDie d v).cycle = s.cycle := rfl
@[simp] theorem setDie_steps (d : Nat) (v : Die) : (s.setDie d v).steps = s.steps := rfl
@[simp] theorem setDie_free (d : Nat) (v : Die) : (s.setDie d v).free = s.free := rfl
@[simp] theorem setDie_agenda (d : Nat) (v : Die) : (s.setDie d v).agenda = s.agenda := rfl
@[simp] theorem setDie_cur (d : Nat) (v : Die) : (s.setDie d v).cur = s.cur := rfl
@[simp] theorem setDie_parked (d : Nat) (v : Die) : (s.setDie d v).parked = s.parked := rfl
@[simp] theorem setDie_latches (d : Nat) (v : Die) : (s.setDie d v).latches = s.latches := rfl
@[simp] theorem setDie_mem (d : Nat) (v : Die) : (s.setDie d v).mem = s.mem := rfl
@[simp] theorem setDie_lost (d : Nat) (v : Die) : (s.setDie d v).lost = s.lost := rfl
@[simp] theorem setDie_poison (d : Nat) (v : Die) : (s.setDie d v).poison = s.poison := rfl
@[simp] theorem setDie_msys (d : Nat) (v : Die) : (s.setDie d v).msys = s.msys := rfl
@[simp] theorem setDie_cells (d : Nat) (v : Die) : (s.setDie d v).cells = s.cells := rfl
@[simp] theorem setDie_ctxs (d : Nat) (v : Die) : (s.setDie d v).ctxs = s.ctxs := rfl
@[simp] theorem setDie_tens (d : Nat) (v : Die) : (s.setDie d v).tens = s.tens := rfl
@[simp] theorem setDie_mgmt (d : Nat) (v : Die) : (s.setDie d v).mgmt = s.mgmt := rfl
@[simp] theorem setDie_host (d : Nat) (v : Die) : (s.setDie d v).host = s.host := rfl

@[simp] theorem modDie_cycle (d : Nat) (f : Die → Die) : (s.modDie d f).cycle = s.cycle := rfl
@[simp] theorem modDie_steps (d : Nat) (f : Die → Die) : (s.modDie d f).steps = s.steps := rfl
@[simp] theorem modDie_free (d : Nat) (f : Die → Die) : (s.modDie d f).free = s.free := rfl
@[simp] theorem modDie_agenda (d : Nat) (f : Die → Die) : (s.modDie d f).agenda = s.agenda := rfl
@[simp] theorem modDie_cur (d : Nat) (f : Die → Die) : (s.modDie d f).cur = s.cur := rfl
@[simp] theorem modDie_parked (d : Nat) (f : Die → Die) : (s.modDie d f).parked = s.parked := rfl
@[simp] theorem modDie_latches (d : Nat) (f : Die → Die) : (s.modDie d f).latches = s.latches := rfl
@[simp] theorem modDie_mem (d : Nat) (f : Die → Die) : (s.modDie d f).mem = s.mem := rfl
@[simp] theorem modDie_lost (d : Nat) (f : Die → Die) : (s.modDie d f).lost = s.lost := rfl
@[simp] theorem modDie_poison (d : Nat) (f : Die → Die) : (s.modDie d f).poison = s.poison := rfl
@[simp] theorem modDie_msys (d : Nat) (f : Die → Die) : (s.modDie d f).msys = s.msys := rfl
@[simp] theorem modDie_cells (d : Nat) (f : Die → Die) : (s.modDie d f).cells = s.cells := rfl
@[simp] theorem modDie_ctxs (d : Nat) (f : Die → Die) : (s.modDie d f).ctxs = s.ctxs := rfl
@[simp] theorem modDie_tens (d : Nat) (f : Die → Die) : (s.modDie d f).tens = s.tens := rfl
@[simp] theorem modDie_mgmt (d : Nat) (f : Die → Die) : (s.modDie d f).mgmt = s.mgmt := rfl
@[simp] theorem modDie_host (d : Nat) (f : Die → Die) : (s.modDie d f).host = s.host := rfl

@[simp] theorem modMem_cycle (f : MemSys → MemSys) : (s.modMem f).cycle = s.cycle := rfl
@[simp] theorem modMem_steps (f : MemSys → MemSys) : (s.modMem f).steps = s.steps := rfl
@[simp] theorem modMem_free (f : MemSys → MemSys) : (s.modMem f).free = s.free := rfl
@[simp] theorem modMem_agenda (f : MemSys → MemSys) : (s.modMem f).agenda = s.agenda := rfl
@[simp] theorem modMem_cur (f : MemSys → MemSys) : (s.modMem f).cur = s.cur := rfl
@[simp] theorem modMem_parked (f : MemSys → MemSys) : (s.modMem f).parked = s.parked := rfl
@[simp] theorem modMem_latches (f : MemSys → MemSys) : (s.modMem f).latches = s.latches := rfl
@[simp] theorem modMem_mem (f : MemSys → MemSys) : (s.modMem f).mem = s.mem := rfl
@[simp] theorem modMem_lost (f : MemSys → MemSys) : (s.modMem f).lost = s.lost := rfl
@[simp] theorem modMem_poison (f : MemSys → MemSys) : (s.modMem f).poison = s.poison := rfl
@[simp] theorem modMem_cells (f : MemSys → MemSys) : (s.modMem f).cells = s.cells := rfl
@[simp] theorem modMem_ctxs (f : MemSys → MemSys) : (s.modMem f).ctxs = s.ctxs := rfl
@[simp] theorem modMem_dies (f : MemSys → MemSys) : (s.modMem f).dies = s.dies := rfl
@[simp] theorem modMem_tens (f : MemSys → MemSys) : (s.modMem f).tens = s.tens := rfl
@[simp] theorem modMem_mgmt (f : MemSys → MemSys) : (s.modMem f).mgmt = s.mgmt := rfl
@[simp] theorem modMem_host (f : MemSys → MemSys) : (s.modMem f).host = s.host := rfl

end Fields

/-- The cell just set. -/
@[simp] theorem cell_setCell_same (s : State) (x : Site) (c : Cell) : (s.setCell x c).cell x = c := by
  simp [State.cell, State.setCell]

/-- Setting a cell leaves every other cell. -/
theorem cell_setCell_ne (s : State) {x y : Site} (h : siteKey y ≠ siteKey x) (c : Cell) :
    (s.setCell x c).cell y = s.cell y := by
  simp [State.cell, State.setCell, tget_tput_ne h]

/-- The cell just changed. -/
@[simp] theorem cell_modCell_same (s : State) (x : Site) (f : Cell → Cell) : (s.modCell x f).cell x = f (s.cell x) := by
  simp [State.modCell]

/-- Changing a cell leaves every other cell. -/
theorem cell_modCell_ne (s : State) {x y : Site} (h : siteKey y ≠ siteKey x) (f : Cell → Cell) :
    (s.modCell x f).cell y = s.cell y := cell_setCell_ne s h _

/-- The context just set. -/
@[simp] theorem ctx_setCtx_same (s : State) (k : Nat) (v : Ctx) : (s.setCtx k v).ctx k = v := by
  simp [State.ctx, State.setCtx]

/-- Setting a context leaves every other context. -/
theorem ctx_setCtx_ne (s : State) {j k : Nat} (h : j ≠ k) (v : Ctx) : (s.setCtx k v).ctx j = s.ctx j := by
  simp [State.ctx, State.setCtx, tget_tput_ne h]

/-- The context just changed. -/
@[simp] theorem ctx_modCtx_same (s : State) (k : Nat) (f : Ctx → Ctx) : (s.modCtx k f).ctx k = f (s.ctx k) := by
  simp [State.modCtx]

/-- Changing a context leaves every other context. -/
theorem ctx_modCtx_ne (s : State) {j k : Nat} (h : j ≠ k) (f : Ctx → Ctx) : (s.modCtx k f).ctx j = s.ctx j :=
  ctx_setCtx_ne s h _

/-- The die just set. -/
@[simp] theorem die_setDie_same (s : State) (d : Nat) (v : Die) : (s.setDie d v).die d = v := by
  simp [State.die, State.setDie]

/-- Setting a die leaves every other die. -/
theorem die_setDie_ne (s : State) {d e : Nat} (h : e ≠ d) (v : Die) : (s.setDie d v).die e = s.die e := by
  simp [State.die, State.setDie, tget_tput_ne h]

/-- The die just changed. -/
@[simp] theorem die_modDie_same (s : State) (d : Nat) (f : Die → Die) : (s.modDie d f).die d = f (s.die d) := by
  simp [State.modDie]

/-- Changing a die leaves every other die. -/
theorem die_modDie_ne (s : State) {d e : Nat} (h : e ≠ d) (f : Die → Die) : (s.modDie d f).die e = s.die e :=
  die_setDie_ne s h _

section Reads
variable (s : State)

@[simp] theorem ctx_setCell (x : Site) (c : Cell) (j : Nat) : (s.setCell x c).ctx j = s.ctx j := rfl
@[simp] theorem die_setCell (x : Site) (c : Cell) (e : Nat) : (s.setCell x c).die e = s.die e := rfl
@[simp] theorem ctx_modCell (x : Site) (f : Cell → Cell) (j : Nat) : (s.modCell x f).ctx j = s.ctx j := rfl
@[simp] theorem die_modCell (x : Site) (f : Cell → Cell) (e : Nat) : (s.modCell x f).die e = s.die e := rfl
@[simp] theorem cell_setCtx (k : Nat) (v : Ctx) (y : Site) : (s.setCtx k v).cell y = s.cell y := rfl
@[simp] theorem die_setCtx (k : Nat) (v : Ctx) (e : Nat) : (s.setCtx k v).die e = s.die e := rfl
@[simp] theorem cell_modCtx (k : Nat) (f : Ctx → Ctx) (y : Site) : (s.modCtx k f).cell y = s.cell y := rfl
@[simp] theorem die_modCtx (k : Nat) (f : Ctx → Ctx) (e : Nat) : (s.modCtx k f).die e = s.die e := rfl
@[simp] theorem cell_setDie (d : Nat) (v : Die) (y : Site) : (s.setDie d v).cell y = s.cell y := rfl
@[simp] theorem ctx_setDie (d : Nat) (v : Die) (j : Nat) : (s.setDie d v).ctx j = s.ctx j := rfl
@[simp] theorem cell_modDie (d : Nat) (f : Die → Die) (y : Site) : (s.modDie d f).cell y = s.cell y := rfl
@[simp] theorem ctx_modDie (d : Nat) (f : Die → Die) (j : Nat) : (s.modDie d f).ctx j = s.ctx j := rfl
@[simp] theorem cell_modMem (f : MemSys → MemSys) (y : Site) : (s.modMem f).cell y = s.cell y := rfl
@[simp] theorem ctx_modMem (f : MemSys → MemSys) (j : Nat) : (s.modMem f).ctx j = s.ctx j := rfl
@[simp] theorem die_modMem (f : MemSys → MemSys) (e : Nat) : (s.modMem f).die e = s.die e := rfl

end Reads

end Sys2Proof.Machine
end

