-- ==== Sys2Proof/Laws/Firing.lean ====
section
/-! SUPPORT. What the operations that a firing shares can do: consuming operands, raising flags, emitting a trace record,
and issuing (R19, R57, R80, R95, R96, R345). -/
namespace Sys2Proof.Machine

/-- A firing under way runs. -/
theorem firing_cur (s : State) (f : Firing) (k : State → Firing → State) (h : s.cur = some f) :
    s.firing k = .next (k { s with cur := none } f) := by
  simp [State.firing, h]

/-- With no firing under way an operation stops. -/
theorem firing_none (s : State) (k : State → Firing → State) (h : s.cur = none) : s.firing k = .fault .noFiring := by
  simp [State.firing, h]

/-- An operation that ends in a next state ran a firing. -/
theorem firing_next (s t : State) (k : State → Firing → State) (h : s.firing k = .next t) :
    ∃ f, s.cur = some f ∧ t = k { s with cur := none } f := by
  unfold State.firing at h
  split at h
  · cases h
  · rename_i f hf
    cases h
    exact ⟨f, hf, rfl⟩

/-- Removing an entry changes only the slots, the directory and the ready queue. -/
theorem freeEnt_rest (c : Cell) (uid : Nat) :
    (c.freeEnt uid).rest = c.rest ∧ (c.freeEnt uid).pipe = c.pipe ∧ (c.freeEnt uid).spat = c.spat := by
  unfold Cell.freeEnt
  split <;> simp [Cell.rest]

/-- A binding that serves a firing changes only the slots, the directory and the ready queue. -/
theorem useBinding_rest (c : Cell) (b : Blk) (pos p : Nat) :
    (c.useBinding b pos p).rest = c.rest ∧ (c.useBinding b pos p).pipe = c.pipe
      ∧ (c.useBinding b pos p).spat = c.spat := by
  unfold Cell.useBinding
  split
  · simp
  · dsimp only
    split
    · simp
    · split
      · simp
      · split
        · simp [Cell.rest]
        · split
          · simp [Cell.rest]
          · simp only [freeEnt_rest]; simp [Cell.rest]

/-- A port that gives up its operand changes only the slots, the directory and the ready queue. -/
theorem consumePort_rest (c : Cell) (uid : Option Nat) (b : Blk) (pos p : Nat) :
    (c.consumePort uid b pos p).rest = c.rest ∧ (c.consumePort uid b pos p).pipe = c.pipe
      ∧ (c.consumePort uid b pos p).spat = c.spat := by
  unfold Cell.consumePort
  split
  · simp [Cell.rest]
  · exact useBinding_rest c b pos p

/-- The ports that give up their operands change only the slots, the directory and the ready queue. -/
theorem consumePorts_rest (ports : List Nat) (c : Cell) (uid : Option Nat) (b : Blk) (pos : Nat) :
    (ports.foldl (fun c p => c.consumePort uid b pos p) c).rest = c.rest
      ∧ (ports.foldl (fun c p => c.consumePort uid b pos p) c).pipe = c.pipe
      ∧ (ports.foldl (fun c p => c.consumePort uid b pos p) c).spat = c.spat := by
  induction ports generalizing c with
  | nil => simp
  | cons p t ih =>
    have h := consumePort_rest c uid b pos p
    simpa [h.1, h.2.1, h.2.2] using ih (c.consumePort uid b pos p)

/-- A node that is ready no more changes only the directory. -/
theorem clearReady_rest (c : Cell) (uid : Option Nat) (pos : Nat) :
    (c.clearReady uid pos).rest = c.rest ∧ (c.clearReady uid pos).pipe = c.pipe ∧ (c.clearReady uid pos).spat = c.spat := by
  cases uid <;> simp [Cell.clearReady, Cell.modEnt, Cell.rest]

/-- A firing that consumes changes only the slots, the directory and the ready queue. -/
theorem cell_consume_rest (c : Cell) (f : Firing) (ports : List Nat) :
    (c.consume f ports).rest = c.rest ∧ (c.consume f ports).pipe = c.pipe ∧ (c.consume f ports).spat = c.spat := by
  have h1 := clearReady_rest { c with ready := c.ready.filter (fun e => e.ord != f.ent.ord) } f.ent.uid f.pos
  have h0 : ({ c with ready := c.ready.filter (fun e => e.ord != f.ent.ord) } : Cell).rest = c.rest := by simp [Cell.rest]
  unfold Cell.consume
  dsimp only
  split
  · simp [h1, h0]
  · split
    · simp [h1, h0]
    · rename_i b _
      have h2 := consumePorts_rest ports
        ({ c with ready := c.ready.filter (fun e => e.ord != f.ent.ord) }.clearReady f.ent.uid f.pos) f.ent.uid b f.pos
      simp [h2, h1, h0]

/-- Nothing happens: everything is kept. -/
theorem Kept.refl (s : State) (f : Firing) : Kept s s f :=
  { byte := fun _ => rfl, poison := rfl, msys := rfl, cells := fun _ _ => rfl, cell := rfl, ctxs := fun _ _ => rfl,
    ctx := ⟨_, _, rfl⟩, dies := fun _ => ⟨_, rfl⟩, tens := rfl, mgmt := rfl, host := rfl, queues := ⟨rfl, rfl, rfl⟩,
    time := ⟨rfl, rfl, rfl⟩ }

/-- What two effects keep in turn, they keep together. -/
theorem Kept.trans {s t u : State} {f : Firing} (h : Kept s t f) (k : Kept t u f) : Kept s u f where
  byte a := (k.byte a).trans (h.byte a)
  poison := k.poison.trans h.poison
  msys := k.msys.trans h.msys
  cells y hy := (k.cells y hy).trans (h.cells y hy)
  cell := k.cell.trans h.cell
  ctxs c hc := (k.ctxs c hc).trans (h.ctxs c hc)
  ctx := by
    obtain ⟨a, n, e⟩ := h.ctx
    obtain ⟨b, m, e2⟩ := k.ctx
    exact ⟨b, m, by rw [e2, e]⟩
  dies d := by
    obtain ⟨l, e⟩ := h.dies d
    obtain ⟨m, e2⟩ := k.dies d
    exact ⟨m, by rw [e2, e]⟩
  tens := k.tens.trans h.tens
  mgmt := k.mgmt.trans h.mgmt
  host := k.host.trans h.host
  queues := ⟨k.queues.1.trans h.queues.1, k.queues.2.1.trans h.queues.2.1, k.queues.2.2.trans h.queues.2.2⟩
  time := ⟨k.time.1.trans h.time.1, k.time.2.1.trans h.time.2.1, k.time.2.2.trans h.time.2.2⟩

/-- The firing under way is no part of what is kept. -/
theorem kept_cur (s : State) (f : Firing) (c : Option Firing) : Kept s { s with cur := c } f :=
  { Kept.refl s f with }

/-- A change of the firing's own cell that leaves its rest. -/
theorem kept_modCell (s : State) (f : Firing) (g : Cell → Cell) (h : (g (s.cell f.x)).rest = (s.cell f.x).rest) :
    Kept s (s.modCell f.x g) f :=
  { Kept.refl s f with
    byte := fun _ => rfl, poison := rfl, msys := rfl
    cells := fun y hy => cell_modCell_ne s hy g
    cell := by rw [cell_modCell_same]; exact h }

/-- Consuming operands keeps the rest. -/
theorem kept_consume (s : State) (f : Firing) (ports : List Nat) : Kept s (s.consume f ports) f := by
  unfold State.consume
  split
  · exact Kept.refl s f
  · exact kept_modCell s f _ (cell_consume_rest _ f ports).1

/-- The flags of a firing enter AFLAGS, and nothing else changes. -/
theorem kept_raise (s : State) (f : Firing) (fl : Nat) : Kept s (s.raise f.ent.ctx fl) f := by
  unfold State.raise
  split
  · exact Kept.refl s f
  · exact { Kept.refl s f with
      byte := fun _ => rfl
      ctxs := fun c hc => ctx_modCtx_ne s hc _
      ctx := ⟨_, _, by rw [ctx_modCtx_same]⟩ }

/-- AFLAGS after a firing's flags entered it. -/
theorem raise_aflags (s : State) (c fl : Nat) :
    ((s.raise c fl).ctx c).aflags = (s.ctx c).aflags ||| BitVec.ofNat 32 fl := by
  unfold State.raise
  split
  · rename_i h; simp [h]
  · simp

/-- A watchdog that starts anew. -/
theorem kept_progress (s : State) (f : Firing) : Kept s (s.progress f.ent.ctx) f := by
  unfold State.progress
  split
  · exact Kept.refl s f
  · exact { Kept.refl s f with
      byte := fun _ => rfl
      ctxs := fun c hc => ctx_modCtx_ne s hc _
      ctx := ⟨_, _, by rw [ctx_modCtx_same]⟩ }

/-- A trace record changes the trace queues of its die alone. -/
theorem trace_spec (s : State) (die u : Nat) (e : Event) :
    s.trace die u e = s ∨ ∃ l, s.trace die u e = s.modDie die (fun d => { d with loupe := l }) := by
  unfold State.trace
  split
  · exact .inl rfl
  · dsimp only
    split
    · exact .inr ⟨_, rfl⟩
    · exact .inr ⟨_, rfl⟩

/-- A state in which only the trace queues of a die have changed. -/
theorem kept_loupe (s : State) (f : Firing) (die : Nat) (l : Loupe) :
    Kept s (s.modDie die (fun d => { d with loupe := l })) f :=
  { Kept.refl s f with
    byte := fun _ => rfl
    dies := fun d => by
      by_cases h : d = die
      · subst h; exact ⟨l, by rw [die_modDie_same]⟩
      · exact ⟨(s.die d).loupe, by rw [die_modDie_ne s h]⟩ }

/-- The FIRE record of a firing keeps the rest, and every cell and context. -/
theorem traceFire_spec (s : State) (f : Firing) (opc : Nat) (used made : List Tok) :
    s.traceFire f opc used made = s ∨
      ∃ l, s.traceFire f opc used made = s.modDie f.x.die (fun d => { d with loupe := l }) := by
  unfold State.traceFire
  split
  · exact trace_spec s f.x.die f.x.res _
  · exact .inl rfl

/-- The FIRE record of a firing keeps the rest. -/
theorem kept_traceFire (s : State) (f : Firing) (opc : Nat) (used made : List Tok) :
    Kept s (s.traceFire f opc used made) f := by
  rcases traceFire_spec s f opc used made with h | ⟨l, h⟩
  · rw [h]; exact Kept.refl s f
  · rw [h]; exact kept_loupe s f _ l

/-- A node that enters the ready queue changes only the directory, the queue and the numbering of its cell. -/
theorem setReady_spec (s : State) (x : Site) (uid node pos : Nat) (tag : W64) (depth pri : Nat) :
    ∃ g : Cell → Cell, s.setReady x uid node pos tag depth pri = s.modCell x g ∧
      (g (s.cell x)).rest = (s.cell x).rest ∧ (g (s.cell x)).pipe = (s.cell x).pipe
        ∧ (g (s.cell x)).spat = (s.cell x).spat ∧ (g (s.cell x)).slots = (s.cell x).slots := by
  refine ⟨_, rfl, ?_⟩
  split
  · simp
  · split
    · simp
    · simp [Cell.rest, Cell.modEnt]

/-- What looking at a node again after its issue changes: nothing, or the directory and the ready queue of its cell. -/
theorem again_spec (s : State) (f : Firing) :
    s.again f = s ∨ ∃ g : Cell → Cell, s.again f = s.modCell f.x g ∧
      (g (s.cell f.x)).rest = (s.cell f.x).rest ∧ (g (s.cell f.x)).pipe = (s.cell f.x).pipe
        ∧ (g (s.cell f.x)).spat = (s.cell f.x).spat ∧ (g (s.cell f.x)).slots = (s.cell f.x).slots := by
  unfold State.again
  split
  · dsimp only
    split
    · exact .inr (setReady_spec s f.x _ _ _ _ _ _)
    · exact .inl rfl
  · exact .inl rfl

/-- The stages of a cell after one of them has been taken up to a cycle, if it is SPATIAL (R170). -/
def SpatSt.taken (u : SpatSt) (st at_ : Nat) : SpatSt := if u.on then { u with busy := tput st at_ u.busy } else u

@[simp] theorem SpatSt.taken_on (u : SpatSt) (st a : Nat) : (u.taken st a).on = u.on := by unfold SpatSt.taken; split <;> rfl
@[simp] theorem SpatSt.taken_inner (u : SpatSt) (st a : Nat) : (u.taken st a).inner = u.inner := by unfold SpatSt.taken; split <;> rfl
@[simp] theorem SpatSt.taken_binds (u : SpatSt) (st a : Nat) : (u.taken st a).binds = u.binds := by unfold SpatSt.taken; split <;> rfl
@[simp] theorem SpatSt.taken_busy (u : SpatSt) (st a : Nat) :
    (u.taken st a).busy = if u.on then tput st a u.busy else u.busy := by unfold SpatSt.taken; split <;> rfl

/-- What a firing that issues has done before its tokens are on their way: its operands are consumed, its flags have
entered AFLAGS, its cell is busy, and the rest is kept. -/
structure Issued (s t : State) (f : Firing) (o : Out) : Prop where
  kept : Kept s t f
  pipe : ∃ b, (t.cell f.x).pipe = { (s.cell f.x).pipe with issue := b } ∧ s.cycle + o.n ≤ b
  spat : (t.cell f.x).spat = (s.cell f.x).spat.taken (stageOf (s.opcOf f)) (s.cycle + o.n)
  slots : (t.cell f.x).slots = ((s.consume f o.ports).cell f.x).slots
  aflags : (t.ctx f.ent.ctx).aflags = (s.ctx f.ent.ctx).aflags ||| BitVec.ofNat 32 o.flags
  cur : t.cur = s.cur

/-- What the FIRE record of a firing changes: nothing where the firing is a replay, or the trace queues of its die. -/
theorem traced_spec (s : State) (f : Firing) (opc : Nat) (used made : List Tok) :
    (if f.taken then s else s.traceFire f opc used made) = s ∨
      ∃ l, (if f.taken then s else s.traceFire f opc used made) = s.modDie f.x.die (fun d => { d with loupe := l }) := by
  split
  · exact .inl rfl
  · exact traceFire_spec s f opc used made

/-- The pipeline, the latches and the slots of a firing's cell after consuming, flags and the FIRE record. -/
theorem issued_spec (s : State) (f : Firing) (o : Out) (toks : List Tok) : Issued s (s.issued f o toks) f o := by
  have e1 := kept_consume s f o.ports
  have e2 := kept_raise (s.consume f o.ports) f o.flags
  have c1 := (cell_consume_rest (s.cell f.x) f o.ports).2
  have spec := traced_spec ((s.consume f o.ports).raise f.ent.ctx o.flags) f (s.opcOf f) o.used toks
  have h0 : (s.consume f o.ports).cur = s.cur := by unfold State.consume; split <;> rfl
  unfold State.issued
  dsimp only
  generalize hs1 : (if f.taken = true then (s.consume f o.ports).raise f.ent.ctx o.flags
    else ((s.consume f o.ports).raise f.ent.ctx o.flags).traceFire f (s.opcOf f) o.used toks) = s1 at *
  have e3 : Kept ((s.consume f o.ports).raise f.ent.ctx o.flags) s1 f := by
    rcases spec with h | ⟨l, h⟩
    · rw [h]; exact Kept.refl _ f
    · rw [h]; exact kept_loupe _ f _ l
  have cells : ∀ y, s1.cell y = (s.consume f o.ports).cell y := by
    intro y
    have h1 : ((s.consume f o.ports).raise f.ent.ctx o.flags).cell y = (s.consume f o.ports).cell y := by
      unfold State.raise; split <;> rfl
    rcases spec with h | ⟨l, h⟩ <;> rw [h] <;> exact h1
  have ctxs : s1.ctx f.ent.ctx = ((s.consume f o.ports).raise f.ent.ctx o.flags).ctx f.ent.ctx := by
    rcases spec with h | ⟨l, h⟩ <;> rw [h] <;> rfl
  have curs : s1.cur = s.cur := by
    have h1 : ((s.consume f o.ports).raise f.ent.ctx o.flags).cur = s.cur := by
      unfold State.raise; split <;> exact h0
    rcases spec with h | ⟨l, h⟩ <;> rw [h] <;> exact h1
  have kept1 : Kept s s1 f := (e1.trans e2).trans e3
  have pipe0 : ((s.consume f o.ports).cell f.x).pipe = (s.cell f.x).pipe ∧
      ((s.consume f o.ports).cell f.x).spat = (s.cell f.x).spat := by
    unfold State.consume
    split
    · exact ⟨rfl, rfl⟩
    · rw [cell_modCell_same]; exact c1
  have ctx0 : (s.consume f o.ports).ctx f.ent.ctx = s.ctx f.ent.ctx := by
    unfold State.consume; split <;> rfl
  have afl : (s1.ctx f.ent.ctx).aflags = (s.ctx f.ent.ctx).aflags ||| BitVec.ofNat 32 o.flags := by
    rw [ctxs, raise_aflags, ctx0]
  let g : Cell → Cell := fun c => { c with
    pipe := { c.pipe with issue := Nat.max c.pipe.issue (s.cycle + o.n) }
    spat := c.spat.taken (stageOf (s.opcOf f)) (s.cycle + o.n) }
  have e4 : Kept s1 (s1.modCell f.x g) f := kept_modCell s1 f g (by
    simp [g, Cell.rest])
  have i2 : Issued s (s1.modCell f.x g) f o :=
    { kept := kept1.trans e4
      pipe := ⟨_, by rw [cell_modCell_same]; simp only [g]; rw [cells, pipe0.1], Nat.le_max_right _ _⟩
      spat := by
        rw [cell_modCell_same]; simp only [g]; rw [cells, pipe0.2]
      slots := by rw [cell_modCell_same]; simp only [g]; rw [cells]
      aflags := by rw [ctx_modCell]; exact afl
      cur := by rw [modCell_cur]; exact curs }
  have i3 : Issued s ((s1.modCell f.x g).again f) f o := by
    rcases again_spec (s1.modCell f.x g) f with h | ⟨q, h, hr, hp, hsp, hsl⟩
    · rw [h]; exact i2
    · rw [h]
      exact
        { kept := i2.kept.trans (kept_modCell _ f q hr)
          pipe := by
            obtain ⟨b, hb, hle⟩ := i2.pipe
            exact ⟨b, by rw [cell_modCell_same, hp, hb], hle⟩
          spat := by rw [cell_modCell_same, hsp, i2.spat]
          slots := by rw [cell_modCell_same, hsl, i2.slots]
          aflags := by rw [ctx_modCell]; exact i2.aflags
          cur := by rw [modCell_cur]; exact i2.cur }
  have hp : ∀ u : State, (u.progress f.ent.ctx).cell f.x = u.cell f.x ∧ (u.progress f.ent.ctx).cur = u.cur
      ∧ ((u.progress f.ent.ctx).ctx f.ent.ctx).aflags = (u.ctx f.ent.ctx).aflags := by
    intro u
    unfold State.progress
    split
    · exact ⟨rfl, rfl, rfl⟩
    · refine ⟨rfl, rfl, ?_⟩; rw [ctx_modCtx_same]
  have hq := hp ((s1.modCell f.x g).again f)
  have fin : Issued s (((s1.modCell f.x g).again f).progress f.ent.ctx) f o :=
    { kept := i3.kept.trans (kept_progress _ f)
      pipe := by rw [hq.1]; exact i3.pipe
      spat := by rw [hq.1]; exact i3.spat
      slots := by rw [hq.1]; exact i3.slots
      aflags := by rw [hq.2.2]; exact i3.aflags
      cur := by rw [hq.2.1]; exact i3.cur }
  exact fin

/-- Issuing a firing: it is refused, with the operands kept, or what follows it runs on the issued state. -/
theorem issue_cases (s : State) (f : Firing) (o : Out) (k : State → List Tok → State) :
    (∃ code arg, s.issue f o k = s.refuse f code arg 0) ∨
      ∃ toks, sendList (s.ctx f.ent.ctx).tl f.x o.sends = some toks ∧ s.issue f o k = k (s.issued f o toks) toks := by
  unfold State.issue
  dsimp only
  split
  · exact .inl ⟨_, _, rfl⟩
  · split
    · exact .inl ⟨_, _, rfl⟩
    · rename_i toks h
      split
      · exact .inl ⟨_, _, rfl⟩
      · exact .inr ⟨toks, h, rfl⟩

/-- A firing that nothing refuses issues. -/
theorem issue_clear (s : State) (f : Firing) (o : Out) (k : State → List Tok → State) (toks : List Tok)
    (trap : o.flags &&& (s.ctx f.ent.ctx).amask.toNat = 0)
    (sent : sendList (s.ctx f.ent.ctx).tl f.x o.sends = some toks)
    (exits : s.exitExcess f (o.exits + (toks.filter Tok.isExit).length) = false) :
    s.issue f o k = k (s.issued f o toks) toks := by
  simp [State.issue, trap, sent, exits]

/-- What a departure adds: the tokens on their way out, and the operands of internal ports in their latches. -/
theorem depart_spec (s : State) (f : Firing) (n : Nat) (all : List Tok) :
    Kept s (s.depart f n all) f ∧ (s.depart f n all).cur = s.cur
      ∧ ((s.depart f n all).ctx f.ent.ctx).aflags = (s.ctx f.ent.ctx).aflags
      ∧ ((s.depart f n all).cell f.x).slots = (s.cell f.x).slots
      ∧ (s.cell f.x).pipe.issue ≤ ((s.depart f n all).cell f.x).pipe.issue
      ∧ ((s.depart f n all).cell f.x).spat = { (s.cell f.x).spat with
          inner := (s.cell f.x).spat.inner ++ (all.filter ((s.cell f.x).inward f.x)).map (fun u => (u.node, u.port, u)) }
      ∧ ∃ due, s.cycle + 5 + n ≤ due ∧ ((s.cell f.x).pipe.packed ≤ 1 → due = s.cycle + 5 + n)
        ∧ ((s.depart f n all).cell f.x).pipe.deps = (s.cell f.x).pipe.deps ++
          (let out := all.filter (fun u => !(s.cell f.x).inward f.x u)
           if out.isEmpty then [] else [⟨f.ent.ctx, f.ent.uid, f.ent.node, due, f.ent.ord, 0, all.any Tok.isExit, out⟩]) := by
  unfold State.depart State.departAs
  dsimp only
  generalize hi : all.filter ((s.cell f.x).inward f.x) = inner
  generalize ho : all.filter (fun u => !(s.cell f.x).inward f.x u) = out
  -- the latches first
  have key : ∀ s1 : State, s1 = (if inner.isEmpty then s else s.modCell f.x (fun c => c.latch inner)) →
      Kept s s1 f ∧ s1.cur = s.cur ∧ (s1.ctx f.ent.ctx).aflags = (s.ctx f.ent.ctx).aflags
        ∧ (s1.cell f.x).slots = (s.cell f.x).slots ∧ (s1.cell f.x).pipe = (s.cell f.x).pipe
        ∧ (s1.cell f.x).spat = { (s.cell f.x).spat with inner := (s.cell f.x).spat.inner ++ inner.map (fun u => (u.node, u.port, u)) }
        ∧ s1.cycle = s.cycle := by
    intro s1 h
    by_cases he : inner.isEmpty = true
    · have : inner = [] := by simpa using he
      subst this
      simp only [List.isEmpty_nil, if_true] at h
      subst h
      exact ⟨Kept.refl _ f, rfl, rfl, rfl, rfl, by simp, rfl⟩
    · simp only [he, Bool.false_eq_true, if_false] at h
      subst h
      refine ⟨kept_modCell s f _ (by simp [Cell.latch, Cell.rest]), rfl, rfl, ?_, ?_, ?_, rfl⟩ <;>
        simp [Cell.latch]
  generalize hs1 : (if inner.isEmpty then s else s.modCell f.x (fun c => c.latch inner)) = s1
  obtain ⟨k1, k2, k3, k4, k5, k6, k7⟩ := key s1 hs1.symm
  by_cases he : out.isEmpty = true
  · simp only [he, if_true, List.append_nil]
    exact ⟨k1, k2, k3, k4, Nat.le_of_eq (by rw [k5]), k6, s.cycle + 5 + n, Nat.le_refl _, fun _ => rfl,
      by rw [k5]⟩
  · simp only [he, Bool.false_eq_true, if_false]
    refine ⟨k1.trans (kept_modCell s1 f _ (by simp [Cell.rest])), k2, k3, ?_, ?_, ?_, ?_⟩
    · simp [k4]
    · simp only [cell_modCell_same, k5]
      exact Nat.le_max_left _ _
    · simp [k6]
    · simp only [cell_modCell_same, k5, k7]
      refine ⟨_, Nat.le_add_right _ _, ?_, rfl⟩
      intro hp
      split <;> omega

/-- A firing that nothing refuses, and that needs nothing but S6, sends its tokens and keeps the rest. -/
theorem fire_clear (s : State) (f : Firing) (o : Out) (toks : List Tok)
    (trap : o.flags &&& (s.ctx f.ent.ctx).amask.toNat = 0)
    (sent : sendList (s.ctx f.ent.ctx).tl f.x o.sends = some toks)
    (exits : s.exitExcess f (o.exits + (toks.filter Tok.isExit).length) = false) (cur : s.cur = none) :
    Emits s (s.fire f o) f o.n o.flags o.ports toks ∧ Kept s (s.fire f o) f := by
  have hi := issued_spec s f o toks
  have h : s.fire f o = (s.issued f o toks).depart f o.n toks :=
    issue_clear s f o (fun s toks => s.depart f o.n toks) toks trap sent exits
  rw [h]
  obtain ⟨d1, d2, d3, d4, d5, d6, d7⟩ := depart_spec (s.issued f o toks) f o.n toks
  have inw : ∀ u, ((s.issued f o toks).cell f.x).inward f.x u = (s.cell f.x).inward f.x u := by
    intro u
    have hr := hi.kept.cell
    have hb : ((s.issued f o toks).cell f.x).blks = (s.cell f.x).blks := by
      simpa [Cell.rest] using congrArg Cell.blks hr
    unfold Cell.inward Cell.blkOf
    rw [hi.spat, hb, SpatSt.taken_on]
  have inwf : ((s.issued f o toks).cell f.x).inward f.x = (s.cell f.x).inward f.x := funext inw
  obtain ⟨b, hb, hle⟩ := hi.pipe
  rw [inwf] at d6 d7
  refine ⟨{ deps := ?_, inner := ?_, stages := ?_, slots := d4.trans hi.slots, aflags := d3.trans hi.aflags, busy := ?_, done := ?_ },
    hi.kept.trans d1⟩
  · obtain ⟨due, h1, h2, h3⟩ := d7
    rw [hi.kept.time.1] at h1 h2
    rw [hb] at h2
    refine ⟨due, h1, h2, ?_⟩
    rw [h3, hb]
  · rw [d6, hi.spat]; simp
  · rw [d6, hi.spat]; simp
  · rw [hb] at d5; exact Nat.le_trans hle d5
  · rw [d2, hi.cur]; exact cur

/-- A firing that needs nothing but S6 is refused or keeps the rest. -/
theorem fire_cases (s : State) (f : Firing) (o : Out) :
    (∃ code arg, s.fire f o = s.refuse f code arg 0) ∨ Kept s (s.fire f o) f := by
  rcases issue_cases s f o (fun s toks => s.depart f o.n toks) with h | ⟨toks, _, h⟩
  · exact .inl h
  · refine .inr ?_
    rw [show s.fire f o = _ from h]
    exact (issued_spec s f o toks).kept.trans (depart_spec _ f o.n toks).1

/-- A token on a target whose tag action applies. -/
theorem onTarget_some (tl : BitVec 96) (x : Site) (g : Target) (t : Tok)
    (h : (tagAct tl (tgtAct g) (t.tag, t.depth)).isSome = true) : ∃ l, onTarget tl x g t = some l := by
  obtain ⟨r, hr⟩ := Option.isSome_iff_exists.mp h
  rcases g with _ | ⟨a, n, p⟩ | ⟨a, n⟩ | ⟨a, k⟩
  · exact ⟨[], rfl⟩
  all_goals simp only [tgtAct] at hr; simp [onTarget, hr]

/-- The exits among the tokens of one target. -/
theorem onTarget_exits (tl : BitVec 96) (x : Site) (g : Target) (t : Tok) (l : List Tok) (h : onTarget tl x g t = some l) :
    (l.filter Tok.isExit).length = exitTargets [g] := by
  rcases g with _ | ⟨a, n, p⟩ | ⟨a, n⟩ | ⟨a, k⟩
  · simp [onTarget] at h; subst h; rfl
  · obtain ⟨r, _, hr⟩ := Option.map_eq_some_iff.mp h
    subst hr; simp [Tok.isExit, exitTargets]
  · obtain ⟨r, _, hr⟩ := Option.map_eq_some_iff.mp h
    subst hr; simp [Tok.isExit, exitTargets]
  · obtain ⟨r, _, hr⟩ := Option.map_eq_some_iff.mp h
    subst hr
    cases k <;> simp [Tok.isExit, Tok.sink, exitTargets, Sink.code] <;> omega

/-- One token on several targets whose tag actions apply (R57, R97): the tokens, and the exits among them. -/
theorem sendList_targets (tl : BitVec 96) (x : Site) (ts : List Target) (t : Tok)
    (h : ∀ g ∈ ts, (tagAct tl (tgtAct g) (t.tag, t.depth)).isSome = true) :
    sendList tl x (ts.map (fun g => .tok g t)) = some (onTargets tl x ts t)
      ∧ ((onTargets tl x ts t).filter Tok.isExit).length = exitTargets ts := by
  induction ts with
  | nil => simp [sendList, onTargets, exitTargets]
  | cons g r ih =>
    obtain ⟨l, hl⟩ := onTarget_some tl x g t (h g (by simp))
    obtain ⟨i1, i2⟩ := ih (fun g hg => h g (by simp [hg]))
    have he := onTarget_exits tl x g t l hl
    constructor
    · simp [sendList, hl, i1, onTargets]
    · have : exitTargets (g :: r) = exitTargets [g] + exitTargets r := by
        unfold exitTargets
        rw [← List.length_append, ← List.filter_append]; rfl
      rw [this, ← he, ← i2]
      simp [onTargets, hl]

/-- A clear firing that sends one token on some targets emits it there and keeps the rest. -/
theorem fire_targets (s : State) (f : Firing) (o : Out) (ts : List Target) (t : Tok)
    (hs : o.sends = ts.map (fun g => .tok g t)) (h : Clear s f ts (t.tag, t.depth) o.flags o.exits) :
    Emits s (State.fire { s with cur := none } f o) f o.n o.flags o.ports (onTargets (s.ctx f.ent.ctx).tl f.x ts t)
      ∧ Kept s (State.fire { s with cur := none } f o) f := by
  obtain ⟨s1, s2⟩ := sendList_targets (s.ctx f.ent.ctx).tl f.x ts t h.tags
  have e := h.exits
  rw [← s2] at e
  have r := fire_clear { s with cur := none } f o (onTargets (s.ctx f.ent.ctx).tl f.x ts t) h.trap
    (by rw [hs]; exact s1) e rfl
  refine ⟨⟨r.1.deps, r.1.inner, ?_, r.1.stages, r.1.aflags, r.1.busy, r.1.done⟩, (kept_cur s f none).trans r.2⟩
  rw [r.1.slots]
  unfold State.consume
  split <;> rfl

/-- A flag that is set or cleared leaves the rest of a token. -/
theorem setFlag_eq (t : Tok) (f : Flag) (b : Bool) : ∃ fl, t.setFlag f b = { t with flags := fl } := by
  unfold Tok.setFlag; split <;> exact ⟨_, rfl⟩

/-- The fields of a produced token (R22, R50, R94). -/
theorem newTok_eq (f : Firing) (h : Hdr) (used : List Tok) (a : Option Tok) (fmt : Ty) (vec : Bool) (d : Payload) :
    newTok f h used a fmt vec d =
      { ctx := f.ent.ctx, depth := f.ent.depth, tag := f.ent.tag, ma := outMa h, pri := outPri f h, fmt := fmt,
        vec := vec, lmask := outMask h vec a, data := d, sent := lastSent used,
        flags := if anyPoison used then 8 else 0 } := by
  unfold newTok Tok.setFlag
  cases anyPoison used <;> simp [Flag.bit]

@[simp] theorem newTok_tag (f : Firing) (h : Hdr) (used : List Tok) (a : Option Tok) (fmt : Ty) (vec : Bool) (d : Payload) :
    (newTok f h used a fmt vec d).tag = f.ent.tag := by rw [newTok_eq]
@[simp] theorem newTok_depth (f : Firing) (h : Hdr) (used : List Tok) (a : Option Tok) (fmt : Ty) (vec : Bool)
    (d : Payload) : (newTok f h used a fmt vec d).depth = f.ent.depth := by rw [newTok_eq]

@[simp] theorem fwdTok_tag (f : Firing) (h : Hdr) (used : List Tok) (a : Tok) (r : Bool) :
    (fwdTok f h used a r).tag = f.ent.tag := by
  unfold fwdTok
  obtain ⟨fl, e⟩ := setFlag_eq
    { a with ctx := f.ent.ctx, depth := f.ent.depth, tag := f.ent.tag, ma := outMa h, cnt := 0, pri := outPri f h,
             lmask := outMask h a.vec (some a), req := (if r then a.req else none), sent := lastSent used }
    .poison (a.flag .poison || anyPoison used)
  rw [e]
@[simp] theorem fwdTok_depth (f : Firing) (h : Hdr) (used : List Tok) (a : Tok) (r : Bool) :
    (fwdTok f h used a r).depth = f.ent.depth := by
  unfold fwdTok
  obtain ⟨fl, e⟩ := setFlag_eq
    { a with ctx := f.ent.ctx, depth := f.ent.depth, tag := f.ent.tag, ma := outMa h, cnt := 0, pri := outPri f h,
             lmask := outMask h a.vec (some a), req := (if r then a.req else none), sent := lastSent used }
    .poison (a.flag .poison || anyPoison used)
  rw [e]

end Sys2Proof.Machine
end

