-- ==== Sys2Proof/Laws/Elements.lean ====
section
/-! SUPPORT. What the mould of the elementwise instructions does (R91 to R95), element by element. -/
namespace Sys2Proof.Machine

/-- The elements of a type fill a vector payload exactly. -/
theorem width_mul (ty : Ty) : ty.width * (512 / ty.width) = 512 := by cases ty <;> rfl

/-- A type has at most 64 bits. -/
theorem width_le (ty : Ty) : ty.width ≤ 64 := by cases ty <;> decide

/-- A type has at least one bit. -/
theorem width_pos (ty : Ty) : 0 < ty.width := by cases ty <;> decide

/-- Bits of a packed list: element `j` stands at bit `w * j`. -/
theorem packElems_elem (w : Nat) (es : List Nat) (j : Nat) (hj : j < es.length) :
    packElems w es / 2 ^ (w * j) % 2 ^ w = es[j] % 2 ^ w := by
  induction es generalizing j with
  | nil => simp at hj
  | cons e t ih =>
    have hp : 0 < 2 ^ w := Nat.two_pow_pos w
    cases j with
    | zero => simp [packElems]
    | succ k =>
      have h1 : (e % 2 ^ w + 2 ^ w * packElems w t) / 2 ^ (w * (k + 1)) = packElems w t / 2 ^ (w * k) := by
        rw [Nat.mul_succ, Nat.add_comm (w * k) w, Nat.pow_add, ← Nat.div_div_eq_div_mul, Nat.add_mul_div_left _ _ hp,
          Nat.div_eq_of_lt (Nat.mod_lt _ hp), Nat.zero_add]
      simp only [packElems, h1, List.getElem_cons_succ]
      exact ih k (by simpa using hj)

/-- A packed list is as long as its elements. -/
theorem packElems_lt (w : Nat) (es : List Nat) : packElems w es < 2 ^ (w * es.length) := by
  induction es with
  | nil => simp [packElems]
  | cons e t ih =>
    have hp : 0 < 2 ^ w := Nat.two_pow_pos w
    have h1 := Nat.mod_lt e hp
    simp only [packElems, List.length_cons, Nat.mul_succ]
    rw [Nat.add_comm (w * t.length) w, Nat.pow_add]
    calc e % 2 ^ w + 2 ^ w * packElems w t < 2 ^ w + 2 ^ w * packElems w t := by omega
      _ = 2 ^ w * (packElems w t + 1) := by rw [Nat.mul_add, Nat.mul_one, Nat.add_comm]
      _ ≤ 2 ^ w * 2 ^ (w * t.length) := Nat.mul_le_mul_left _ ih

/-- Element `j` of a packed payload. -/
theorem packed_extract (w : Nat) (es : List Nat) (j : Nat) (hj : j < es.length) (hl : w * es.length ≤ 512) :
    (BitVec.ofNat 512 (packElems w es)).extractLsb' (w * j) w = BitVec.ofNat w es[j] := by
  apply BitVec.eq_of_toNat_eq
  have hlt : packElems w es < 2 ^ 512 := Nat.lt_of_lt_of_le (packElems_lt w es) (Nat.pow_le_pow_right (by decide) hl)
  rw [BitVec.extractLsb'_toNat, BitVec.toNat_ofNat, Nat.mod_eq_of_lt hlt, Nat.shiftRight_eq_div_pow,
    packElems_elem w es j hj, BitVec.toNat_ofNat]

/-- An element of a token as a number. -/
theorem elem_bits (t : Tok) (w j : Nat) (hw : w ≤ 512) : t.elem w j = (t.bits w j).toNat := by
  unfold Tok.elem Tok.bits
  split
  · simp [fld, BitVec.extractLsb'_toNat, Nat.shiftRight_eq_div_pow]
  · simp

/-- A literal as a number. -/
theorem litVal_bits (ty : Ty) (l : Lit) (w : Nat) (hw : w ≤ 64) : litVal ty l % 2 ^ w = ((litBits ty l).setWidth w).toNat := by
  have h64 : ∀ v : Nat, v % 2 ^ 64 % 2 ^ w = v % 2 ^ w := fun v => Nat.mod_mod_of_dvd v (Nat.pow_dvd_pow 2 hw)
  rw [BitVec.toNat_setWidth]
  congr 1
  unfold litVal litBits
  cases hh : l.hi with
  | some hi =>
    dsimp only
    rw [BitVec.toNat_append, ← Nat.shiftLeft_add_eq_or_of_lt l.lo.isLt, Nat.shiftLeft_eq]
  | none =>
    dsimp only
    cases hs : ty.isSigned with
    | false => simp; omega
    | true =>
      simp only [Bool.true_and, if_true]
      rw [BitVec.toNat_signExtend]
      cases hm : l.lo.msb <;> simp <;> omega

/-- An operand element as a number. -/
theorem opElem_bits (f : Firing) (h : Hdr) (l : Lit) (k j : Nat) :
    opElem f h.arity h.fmt l h.fmt.width k j = (operand f h l k j).toNat := by
  have hw := width_le h.fmt
  unfold opElem operand
  split
  · exact elem_bits _ _ _ (by omega)
  · exact litVal_bits _ _ _ hw

/-- The payload of a scalar element. -/
theorem scalarData_bits (ty : Ty) (w : Nat) (hw : w ≤ 64) (hp : 0 < w) (n : Nat) :
    scalarData ty w n = (if ty.isSigned then (BitVec.ofNat w n).signExtend 64 else (BitVec.ofNat w n).setWidth 64).setWidth 512 := by
  generalize hv0 : BitVec.ofNat w n = v
  have hn : n % 2 ^ w = v.toNat := by rw [← hv0, BitVec.toNat_ofNat]
  have hv := v.isLt
  have h64 : 2 ^ w ≤ 2 ^ 64 := Nat.pow_le_pow_right (by decide) hw
  apply BitVec.eq_of_toNat_eq
  unfold scalarData
  dsimp only
  rw [hn]
  cases hs : ty.isSigned with
  | false =>
    simp only [Bool.false_and, Bool.false_eq_true, if_false, BitVec.toNat_ofNat, BitVec.toNat_setWidth]
    omega
  | true =>
    simp only [Bool.true_and, if_true, BitVec.toNat_setWidth, BitVec.toNat_signExtend]
    have hm : v.msb = decide (2 ^ (w - 1) ≤ v.toNat) := by
      rw [BitVec.msb_eq_decide]
    by_cases hb : 2 ^ (w - 1) ≤ v.toNat
    · by_cases h1 : w < 64
      · simp only [h1, hb, hm, decide_true, Bool.and_self, if_true, BitVec.toNat_ofNat]
        omega
      · have : w = 64 := by omega
        subst this
        simp
        omega
    · simp only [hb, hm, decide_false, Bool.and_false, Bool.false_eq_true, if_false, BitVec.toNat_ofNat]
      omega

/-- A function on numbers is a function on bits, reduced to the element's width. -/
def OnBits {w : Nat} (op : Nat → Nat → Nat → Nat × Nat) (g : ElFn w) : Prop :=
  ∀ a b c : BitVec w, BitVec.ofNat w (op a.toNat b.toNat c.toNat).1 = (g a b c).1
    ∧ (op a.toNat b.toNat c.toNat).2 = (g a b c).2

/-- The flags that a firing of an elementwise instruction raises are those of its function on bits. -/
theorem elements_flags (f : Firing) (h : Hdr) (l : Lit) (op : Nat → Nat → Nat → Nat × Nat) (g : ElFn h.fmt.width)
    (hop : OnBits op g) : (elements f h l h.fmt.width op).2 = flagsOf f h l g := by
  unfold elements flagsOf
  simp only [opElem_bits, List.foldl_map]
  congr 1
  funext a j
  split
  · rw [(hop _ _ _).2]
  · rfl

/-- The elements that a firing of an elementwise instruction computes are those of its function on bits. -/
theorem elements_values (f : Firing) (h : Hdr) (l : Lit) (op : Nat → Nat → Nat → Nat × Nat) (g : ElFn h.fmt.width)
    (hop : OnBits op g) :
    (elements f h l h.fmt.width op).1.length = nElems (f.vec h.arity) h.fmt.width ∧
      ∀ j (hj : j < (elements f h l h.fmt.width op).1.length),
        BitVec.ofNat h.fmt.width (elements f h l h.fmt.width op).1[j] = resultAt f h l g j := by
  unfold elements
  simp only [opElem_bits, List.map_map]
  refine ⟨by simp, ?_⟩
  intro j hj
  simp only [List.getElem_map, List.getElem_range, Function.comp]
  unfold resultAt
  split
  · exact (hop _ _ _).1
  · simp

/-- A payload packed from numbers of a firing's elements holds them. -/
theorem resData_holds (vec : Bool) (out ty : Ty) (l : List Nat) (es : Nat → BitVec ty.width)
    (hlen : l.length = nElems vec ty.width) (hes : ∀ j (hj : j < l.length), BitVec.ofNat ty.width l[j] = es j) :
    Holds vec out ty.width (resData vec out ty.width l) es := by
  unfold Holds resData
  have hp := width_pos ty
  have hm := width_mul ty
  cases vec with
  | true =>
    simp only [if_true]
    have hl : l.length = 512 / ty.width := hlen
    intro j hj
    rw [packed_extract _ _ _ (by omega) (Nat.le_of_eq (by rw [hl, hm]))]
    exact hes j (by omega)
  | false =>
    simp only [Bool.false_eq_true, if_false]
    have hl : l.length = 1 := hlen
    rw [scalarData_bits out ty.width (width_le ty) hp]
    have h0 : l.getD 0 0 = l[0] := by simp [List.getD, hl]
    rw [h0, hes 0 (by omega)]

/-- Where A is a vector with no lane, every result element is A's and no flag is raised (R93). -/
theorem passThrough_spec (f : Firing) (h : Hdr) (l : Lit) (g : ElFn h.fmt.width) (ha : 1 ≤ h.arity)
    (hp : passThrough f = true) :
    f.vec h.arity = true ∧ flagsOf f h l g = 0 ∧ Holds true h.fmt h.fmt.width (f.op 0).data (resultAt f h l g) := by
  simp only [passThrough, Bool.and_eq_true, beq_iff_eq] at hp
  obtain ⟨hv, hm⟩ := hp
  have off : ∀ j, active f h.fmt.width j = false := by intro j; simp [active, hv, hm]
  refine ⟨?_, ?_, ?_⟩
  · simp only [Firing.vec, Firing.first, List.any_map, List.any_eq_true]
    exact ⟨0, by simp; omega, by simpa using hv⟩
  · unfold flagsOf
    simp only [off, Bool.false_eq_true, if_false, Nat.or_zero]
    generalize List.range (nElems (f.vec h.arity) h.fmt.width) = r
    induction r with
    | nil => rfl
    | cons a t ih => simpa using ih
  · simp only [Holds, if_true]
    intro j _
    have h0 : 0 < h.arity := ha
    simp [resultAt, off, operand, h0, Tok.bits, hv]

/-- The mould of the elementwise instructions: an instruction that runs it with a function on numbers computes that
function on bits. -/
theorem runElems_computes (i : Instr) (h : Hdr) (l : Lit) (out : Ty) (n : Firing → Nat)
    (op : Nat → Nat → Nat → Nat × Nat) (g : ElFn h.fmt.width)
    (hexec : ∀ s, exec i s = s.runElems h l out n op) (ha : WellFormed i = true → 1 ≤ h.arity)
    (hop : WellFormed i = true → OnBits op g) : Computes i h l out n g := by
  intro s f hw hc
  have hfl := elements_flags f h l op g (hop hw)
  have hel := elements_values f h l op g (hop hw)
  by_cases hp : passThrough f = true
  · obtain ⟨hv, hfl, hd⟩ := passThrough_spec f h l g (ha hw) hp
    refine ⟨(f.op 0).data, _, by rw [hexec]; exact firing_cur s f _ hc.cur, ?_, ?_⟩
    · rw [hv]; simpa [Holds] using hd
    · have ho : elementwise f h l out (n f) op
          = { sends := both h (newTok f h (usedBy f h) (some (f.op 0)) out (f.vec h.arity) (f.op 0).data), n := 1,
              ports := portsOf h, used := usedBy f h } := by
        unfold elementwise; simp only [hp, if_true]
      rw [ho, hfl]
      simp only [hp, if_true]
      exact fire_targets s f _ [h.t0, h.t1] _ rfl (by rw [hfl] at hc; simpa [Firing.tagOf] using hc)
  · refine ⟨resData (f.vec h.arity) out h.fmt.width (elements f h l h.fmt.width op).1,
      _, by rw [hexec]; exact firing_cur s f _ hc.cur, resData_holds _ _ _ _ _ hel.1 hel.2, ?_⟩
    have ho : elementwise f h l out (n f) op
        = { sends := both h (newTok f h (usedBy f h) (some (f.op 0)) out (f.vec h.arity)
              (resData (f.vec h.arity) out h.fmt.width (elements f h l h.fmt.width op).1)), n := n f,
            ports := portsOf h, used := usedBy f h, flags := flagsOf f h l g } := by
      unfold elementwise; simp only [hp, hfl]; rfl
    rw [ho]
    simp only [hp]
    exact fire_targets s f _ [h.t0, h.t1] _ rfl (by simpa [Firing.tagOf] using hc)

end Sys2Proof.Machine
end

