-- ==== Sys2Proof/Laws/Memory.lean ====
section
/-! SUPPORT. Laws of memory: every operation keeps the canonical form, a read after a write to the same place gives
the value written, and a write leaves every other place alone. -/
namespace Sys2Proof.Machine

/-- A canonical list that is entered at `(a, b)`. -/
theorem memWf_cons {lost : List (Nat × Nat × Nat)} {a : Nat} {b : Byte} {t : List Host.Cell} :
    Memory.wf lost ((a, b) :: t) = true ↔ b ≠ unlisted lost a ∧ (∀ e ∈ t, a < e.1) ∧ Memory.wf lost t = true := by
  simp [Memory.wf, and_assoc]

/-- A byte that is set stands where every lower address stood lower. -/
theorem memPut_lower {a c : Nat} {b d : Byte} {m : List Host.Cell} (hc : c < a) (h : ∀ e ∈ m, c < e.1) :
    ∀ e ∈ memPut a b d m, c < e.1 := by
  induction m with
  | nil =>
    intro e he
    by_cases hb : b = d
    · simp [memPut, hb] at he
    · simp [memPut, hb] at he; simpa [he] using hc
  | cons x t ih =>
    obtain ⟨k, v⟩ := x
    have hk : c < k := h (k, v) (by simp)
    have ht : ∀ e ∈ t, c < e.1 := fun e he => h e (by simp [he])
    intro e he
    unfold memPut at he
    split at he
    · split at he
      · exact h e he
      · rcases List.mem_cons.mp he with rfl | he
        · exact hc
        · exact h e he
    · split at he
      · split at he
        · exact ht e he
        · rcases List.mem_cons.mp he with rfl | he
          · exact hc
          · exact ht e he
      · rcases List.mem_cons.mp he with rfl | he
        · exact hk
        · exact ih ht e he

/-- Setting a byte keeps the canonical form. -/
theorem memPut_wf {lost : List (Nat × Nat × Nat)} (a : Nat) (b : Byte) (m : List Host.Cell)
    (h : Memory.wf lost m = true) : Memory.wf lost (memPut a b (unlisted lost a) m) = true := by
  induction m with
  | nil =>
    by_cases hb : b = unlisted lost a <;> simp [memPut, hb, Memory.wf]
  | cons x t ih =>
    obtain ⟨k, v⟩ := x
    obtain ⟨hv, hlt, ht⟩ := memWf_cons.mp h
    unfold memPut
    split
    · rename_i hak
      split
      · exact h
      · rename_i hb
        refine memWf_cons.mpr ⟨hb, ?_, h⟩
        intro e he
        rcases List.mem_cons.mp he with rfl | he
        · exact hak
        · exact Nat.lt_trans hak (hlt e he)
    · split
      · rename_i hak
        subst hak
        split
        · exact ht
        · rename_i hb
          exact memWf_cons.mpr ⟨hb, hlt, ht⟩
      · rename_i h1 h2
        exact memWf_cons.mpr ⟨hv, memPut_lower (by omega) hlt, ih ht⟩

/-- What is listed at an address that was set. -/
theorem memGet_memPut_same {lost : List (Nat × Nat × Nat)} (a : Nat) (b d : Byte) (m : List Host.Cell)
    (h : Memory.wf lost m = true) : (memGet a (memPut a b d m)).getD d = b := by
  have none_of_lower : ∀ l : List Host.Cell, (∀ e ∈ l, a < e.1) → memGet a l = none := by
    intro l hl
    have : l.find? (fun e => e.1 == a) = none := by
      rw [List.find?_eq_none]
      intro e he
      have := hl e he
      simp; omega
    simp [memGet, this]
  induction m with
  | nil =>
    by_cases hb : b = d <;> simp [memPut, hb, memGet]
  | cons x t ih =>
    obtain ⟨k, v⟩ := x
    obtain ⟨_, hlt, ht⟩ := memWf_cons.mp h
    unfold memPut
    split
    · rename_i hak
      split
      · rename_i hb
        rw [none_of_lower]
        · simp [hb]
        · intro e he
          rcases List.mem_cons.mp he with rfl | he
          · exact hak
          · exact Nat.lt_trans hak (hlt e he)
      · simp [memGet]
    · split
      · rename_i hak
        subst hak
        split
        · rename_i hb
          rw [none_of_lower t hlt]; simp [hb]
        · simp [memGet]
      · rename_i h1 h2
        have h3 : (k == a) = false := by simp; omega
        have := ih ht
        simpa [memGet, h3] using this

/-- Setting a byte leaves what is listed elsewhere. -/
theorem memGet_memPut_ne {a c : Nat} (hc : c ≠ a) (b d : Byte) (m : List Host.Cell) :
    memGet c (memPut a b d m) = memGet c m := by
  have hac : (a == c) = false := by simpa using fun e => hc e.symm
  induction m with
  | nil => by_cases hb : b = d <;> simp [memPut, hb, memGet, hac]
  | cons x t ih =>
    obtain ⟨k, v⟩ := x
    unfold memPut
    split
    · split <;> simp [memGet, hac]
    · split
      · rename_i hak
        subst hak
        split <;> simp [memGet, hac]
      · by_cases hk : k = c
        · subst hk; simp [memGet]
        · have h3 : (k == c) = false := by simpa using hk
          simpa [memGet, h3] using ih

/-- A write of a byte keeps the canonical form. -/
theorem setByte_memWf (s : State) (a : Nat) (b : Byte) (h : s.memWf = true) : (s.setByte a b).memWf = true := by
  unfold State.setByte
  split
  · exact h
  · exact memPut_wf a b s.mem h

/-- A write of bytes keeps the canonical form. -/
theorem setBytes_memWf (s : State) (a : Nat) (l : List Byte) (h : s.memWf = true) : (s.setBytes a l).memWf = true := by
  induction l generalizing s a with
  | nil => exact h
  | cons b t ih => exact ih _ _ (setByte_memWf s a b h)

/-- A write of a number keeps the canonical form. -/
theorem setNum_memWf (s : State) (a n v : Nat) (h : s.memWf = true) : (s.setNum a n v).memWf = true :=
  setBytes_memWf s a _ h

/-- A loss of a range keeps the canonical form: it lists nothing there. -/
theorem lose_memWf (s : State) (a n : Nat) (h : s.memWf = true) : (s.lose a n).memWf = true := by
  have outside : ∀ c : Nat, ¬ (a ≤ c ∧ c < a + n) → unlisted ((a, n, s.free) :: s.lost) c = unlisted s.lost c := by
    intro c hc
    have : (decide (a ≤ c) && decide (c < a + n)) = false := by
      rw [← Bool.decide_and, decide_eq_false_iff_not]; exact hc
    simp [unlisted, List.find?_cons, this]
  have key : ∀ m : List Host.Cell, Memory.wf s.lost m = true →
      Memory.wf ((a, n, s.free) :: s.lost) (m.filter (fun e => !(decide (a ≤ e.1) && decide (e.1 < a + n)))) = true := by
    intro m
    induction m with
    | nil => intro _; rfl
    | cons x t ih =>
      obtain ⟨k, v⟩ := x
      intro hm
      obtain ⟨hv, hlt, ht⟩ := memWf_cons.mp hm
      by_cases hk : a ≤ k ∧ k < a + n
      · simpa [List.filter_cons, hk.1, hk.2] using ih ht
      · have hkb : (decide (a ≤ k) && decide (k < a + n)) = false := by
          rw [← Bool.decide_and, decide_eq_false_iff_not]; exact hk
        rw [List.filter_cons]
        simp only [hkb, Bool.not_false, if_true]
        refine memWf_cons.mpr ⟨?_, ?_, ih ht⟩
        · rw [outside k hk]; exact hv
        · intro e he
          exact hlt e (List.mem_filter.mp he).1
  exact key s.mem h

/-- Reset memory is in its canonical form. -/
theorem reset_memWf : State.reset.memWf = true := rfl

/-- A byte just written reads as written, where it is memory of this module. -/
theorem byte_setByte_same (s : State) (a : Nat) (b : Byte) (hr : isRemote a = false) (h : s.memWf = true) :
    (s.setByte a b).byte a = b := by
  simp only [State.byte, State.setByte, hr, Bool.false_eq_true, if_false]
  exact memGet_memPut_same a b _ s.mem h

/-- A write of a byte leaves every other byte. -/
theorem byte_setByte_ne (s : State) {a c : Nat} (hc : c ≠ a) (b : Byte) : (s.setByte a b).byte c = s.byte c := by
  unfold State.setByte
  split
  · rfl
  · simp [State.byte, memGet_memPut_ne hc]

/-- A write of bytes leaves every byte outside them. -/
theorem byte_setBytes_outside (s : State) (a : Nat) (l : List Byte) (c : Nat) (hc : c < a ∨ a + l.length ≤ c) :
    (s.setBytes a l).byte c = s.byte c := by
  induction l generalizing s a with
  | nil => rfl
  | cons b t ih =>
    simp only [List.length_cons] at hc
    have h1 : c < a + 1 ∨ a + 1 + t.length ≤ c := by omega
    have h2 : c ≠ a := by omega
    rw [State.setBytes, ih _ _ h1, byte_setByte_ne s h2]

end Sys2Proof.Machine
end

