-- ==== Sys2Proof/Laws/PerInstr.lean ====
section
/-! SUPPORT. The fields of a well-formed instruction fit their places in its record, constructor by constructor. -/
namespace Sys2Proof.Laws.Fits

set_option Elab.async false

/-- Every field of the record of a well-formed instruction fits its place: the code, ARITY, both targets, LIT and the EXT words. -/
def Statement (i : Instr) : Prop := WellFormed i = true → ∀ p, parts i = some p →
  (p.opc < 2 ^ 10 ∧ p.hdr.arity < 4 ∧ p.hdr.t0.bits < 2 ^ 22 ∧ p.hdr.t1.bits < 2 ^ 22) ∧ p.lit < 2 ^ 32 ∧
    ∀ e, p.ext = some e → e.1 < 2 ^ 32 ∧ e.2 < 2 ^ 32

theorem act_fits (a : TagAct) (h : a.wf = true) : a.code.1 < 16 ∧ a.code.2 < 16 := by
  cases a <;> simp [TagAct.wf] at h <;> simp [TagAct.code] <;> omega

theorem target_fits (t : Target) (h : t.wf = true) : t.bits < 2 ^ 22 := by
  match t, h with
  | .none, _ => decide
  | .local a n p, h =>
    simp [Target.wf] at h
    have := act_fits a h.1.1
    simp [Target.bits]; omega
  | .route a r, h =>
    simp [Target.wf] at h
    have := act_fits a h.1
    simp [Target.bits]; omega
  | .special a s, h =>
    cases s <;> simp [Target.wf] at h <;> simp [Target.bits, Sink.code]
    · subst h; decide
    · subst h; decide
    · have := act_fits a h; omega
    · have := act_fits a h.1; omega
    · have := act_fits a h.1; omega

theorem row_fits : ∀ r ∈ opRows1 ++ (opRows2 ++ opRows3), r.hi < 1024 ∧ ∀ a ∈ r.ars, a < 4 := by decide

theorem hdr_fits {opc : Nat} {h : Hdr} (w : h.wf opc = true) :
    opc < 2 ^ 10 ∧ h.arity < 4 ∧ h.t0.bits < 2 ^ 22 ∧ h.t1.bits < 2 ^ 22 := by
  unfold Hdr.wf at w
  simp only [Bool.and_eq_true] at w
  obtain ⟨⟨⟨⟨⟨hr, h0⟩, h1⟩, -⟩, -⟩, -⟩ := w
  refine ⟨?_, ?_, target_fits _ h0, target_fits _ h1⟩
  all_goals
    cases ho : opRow opc with
    | none => simp [ho] at hr
    | some row =>
      have hm := row_fits row (List.mem_of_find?_eq_some ho)
      have hp := List.find?_some ho
      simp [ho] at hr hp
      first
        | omega
        | exact hm.2 _ hr.2

theorem fits_event {i : Instr} (h : parts i = none) : Statement i := by
  intro _ p hp; simp [h] at hp

theorem fits_ctl {i : Instr} {opc lit : Nat} {h : Hdr} (hp : parts i = cParts opc h lit)
    (hw : WellFormed i = true → h.wf opc = true ∧ lit < 2 ^ 32) : Statement i := by
  intro w p e
  rw [hp] at e
  cases e
  exact ⟨hdr_fits (hw w).1, (hw w).2, fun e h => by cases h⟩

theorem fits_zero {i : Instr} {opc : Nat} {h : Hdr} (hp : parts i = zParts opc h)
    (hw : WellFormed i = true → h.wf opc = true) : Statement i :=
  fits_ctl (lit := 0) hp (fun w => ⟨hw w, by decide⟩)

theorem fits_ext {i : Instr} {opc lit : Nat} {h : Hdr} {e : Option (Nat × Nat)} (hp : parts i = some ⟨opc, h, lit, e⟩)
    (hw : WellFormed i = true → h.wf opc = true ∧ lit < 2 ^ 32 ∧ ∀ x, e = some x → x.1 < 2 ^ 32 ∧ x.2 < 2 ^ 32) : Statement i := by
  intro w p q
  rw [hp] at q
  cases q
  exact ⟨hdr_fits (hw w).1, (hw w).2⟩

theorem fits_op {i : Instr} {opc : Nat} {h : Hdr} {l : Lit} (hp : parts i = opParts opc h l)
    (hw : WellFormed i = true → litWf opc h l = true) : Statement i :=
  fits_ext hp (fun w => by
    have := hw w
    simp [litWf] at this
    refine ⟨this.1, by omega, ?_⟩
    intro x hx
    cases hh : l.hi <;> simp [hh] at hx
    subst hx
    exact ⟨by omega, by simp⟩)

theorem scope_lt (c : Scope) : c.code < 5 := by cases c <;> decide
theorem rmode_lt (c : RMode) : c.code < 5 := by cases c <;> decide
theorem ty_lt (c : Ty) : c.code < 16 := by cases c <;> decide
theorem red_lt (c : RedOp) : c.code < 6 := by cases c <;> decide
theorem wmode_lt (c : WMode) : c.code < 4 := by cases c <;> decide
theorem dist_lt (c : Dist) : c.code < 3 := by cases c <;> decide
theorem resid_lt (c : Resid) : c.code < 3 := by cases c <;> decide
theorem bool_lt (b : Bool) : b.toNat < 2 := by cases b <;> decide
theorem wave_lt (c : WaveRef) (h : c.wf = true) : c.code < 34 := by
  cases c <;> simp [WaveRef.wf] at h <;> simp [WaveRef.code] <;> omega

theorem mem_fits {lay : Nat} {gen ld : Bool} {c : MemCtl} (h : c.wf lay gen ld = true) : memCtlBits lay c < 2 ^ 32 := by
  unfold MemCtl.wf at h
  simp only [Bool.and_eq_true] at h
  obtain ⟨⟨⟨h1, h2⟩, h3⟩, -⟩ := h
  have w1 := wave_lt _ h1
  have w2 := wave_lt _ h2
  have s := scope_lt c.scope
  have b1 := bool_lt c.rel
  have b2 := bool_lt c.acq
  have b3 := bool_lt c.vec
  have b4 := bool_lt (c.acq || c.rel)
  unfold memCtlBits
  cases hr : c.region <;> simp [hr] at h3 ⊢ <;> split <;> (try simp) <;> omega

theorem rect_fits {r : Rect} (h : r.wf = true) : r.bits < 2 ^ 32 := by
  simp [Rect.wf] at h
  simp [Rect.bits]; omega

/-- Bounds on the codes that control fields are made of. -/
theorem code_lts (s : Scope) (m : RMode) (t u v : Ty) (r : RedOp) : s.code < 5 ∧ m.code < 5 ∧ t.code < 16 ∧ u.code < 16 ∧
    v.code < 16 ∧ r.code < 6 := ⟨scope_lt s, rmode_lt m, ty_lt t, ty_lt u, ty_lt v, red_lt r⟩

theorem sel_lt (s : TagSel) : (match s with | .tagv => 0 | .lvl => 1 | .dep => 2) < 3 := by cases s <;> decide

theorem other_lt (t : Ty) : (match t with | .bf16 => 0 | .fp16 => 1 | _ => 2) < 3 := by cases t <;> decide

theorem sys_lt {c : SysCtl} (h : c.wf = true) : c.family < 16 ∧ c.index < 2 ^ 12 ∧ c.part < 4 := by
  unfold SysCtl.wf sysRegOk at h
  split at h <;> simp at h <;> omega

theorem tokenMatch : ∀ a0, Statement (.tokenMatch a0) := fun _ => fits_event rfl
theorem bindingArrival : ∀ a0, Statement (.bindingArrival a0) := fun _ => fits_event rfl
theorem purgeArrival : ∀ a0, Statement (.purgeArrival a0) := fun _ => fits_event rfl
theorem nullArrival : ∀ a0, Statement (.nullArrival a0) := fun _ => fits_event rfl
theorem streamEndArrival : ∀ a0, Statement (.streamEndArrival a0) := fun _ => fits_event rfl
theorem spillRefill : ∀ a0 a1, Statement (.spillRefill a0 a1) := fun _ _ => fits_event rfl
theorem blockFetch : ∀ a0 a1 a2, Statement (.blockFetch a0 a1 a2) := fun _ _ _ => fits_event rfl
theorem readyAging : ∀ a0, Statement (.readyAging a0) := fun _ => fits_event rfl
theorem firingTokensLeave : ∀ a0, Statement (.firingTokensLeave a0) := fun _ => fits_event rfl
theorem memoryAnswer : ∀ a0 a1, Statement (.memoryAnswer a0 a1) := fun _ _ => fits_event rfl
theorem spatialStageFire : ∀ a0 a1, Statement (.spatialStageFire a0 a1) := fun _ _ => fits_event rfl
theorem exit : ∀ a0, Statement (.exit a0) := fun _ => fits_zero rfl (fun w => w)
theorem null : ∀ a0, Statement (.null a0) := fun _ => fits_zero rfl (fun w => w)
theorem steer : ∀ a0, Statement (.steer a0) := fun _ => fits_zero rfl (fun w => w)
theorem merge : ∀ a0, Statement (.merge a0) := fun _ => fits_zero rfl (fun w => w)
theorem mergeOrd : ∀ a0, Statement (.mergeOrd a0) := fun _ => fits_zero rfl (fun w => w)
theorem mov : ∀ a0 a1, Statement (.mov a0 a1) := fun _ _ => fits_op rfl (fun w => w)
theorem mov4 : ∀ a0 a1 a2, Statement (.mov4 a0 a1 a2) := fun a0 a1 a2 => fits_ext rfl (fun w => by
  simp [WellFormed] at w
  have h1 := target_fits a1 w.1.1.1.2
  have h2 := target_fits a2 w.1.1.2
  exact ⟨w.1.1.1.1, by omega, by rintro x ⟨⟩; exact ⟨by omega, by omega⟩⟩)
theorem tagpush : ∀ a0 a1, Statement (.tagpush a0 a1) := fun _ _ => fits_op rfl (fun w => w)
theorem tagpop : ∀ a0, Statement (.tagpop a0) := fun _ => fits_zero rfl (fun w => w)
theorem taginc : ∀ a0, Statement (.taginc a0) := fun _ => fits_zero rfl (fun w => w)
theorem tagset : ∀ a0 a1, Statement (.tagset a0 a1) := fun a0 a1 => fits_ctl rfl (fun w => by
  simp [WellFormed] at w
  exact ⟨by simp_all, by omega⟩)
theorem tagget : ∀ a0 a1 a2, Statement (.tagget a0 a1 a2) := fun a0 a1 a2 => fits_ctl rfl (fun w => by
  simp [WellFormed] at w
  exact ⟨w.1.1, by cases a1 <;> simp <;> omega⟩)
theorem lcarry : ∀ a0 a1, Statement (.lcarry a0 a1) := fun a0 a1 => fits_ctl rfl (fun w => by
  simp [WellFormed] at w
  exact ⟨by simp_all, by omega⟩)
theorem lbound : ∀ a0 a1, Statement (.lbound a0 a1) := fun a0 a1 => fits_ctl rfl (fun w => by
  simp [WellFormed] at w
  exact ⟨by simp_all, by omega⟩)
theorem mark : ∀ a0 a1 a2, Statement (.mark a0 a1 a2) := fun a0 a1 a2 => fits_ctl rfl (fun w => by
  simp [WellFormed] at w
  have f0 := bool_lt a2
  exact ⟨by simp_all, by omega⟩)
theorem purge : ∀ a0, Statement (.purge a0) := fun _ => fits_zero rfl (fun w => w)
theorem add : ∀ a0 a1, Statement (.add a0 a1) := fun _ _ => fits_op rfl (fun w => w)
theorem addSat : ∀ a0 a1, Statement (.addSat a0 a1) := fun _ _ => fits_op rfl (fun w => w)
theorem sub : ∀ a0 a1, Statement (.sub a0 a1) := fun _ _ => fits_op rfl (fun w => w)
theorem subSat : ∀ a0 a1, Statement (.subSat a0 a1) := fun _ _ => fits_op rfl (fun w => w)
theorem mul : ∀ a0 a1, Statement (.mul a0 a1) := fun _ _ => fits_op rfl (fun w => w)
theorem mulh : ∀ a0 a1, Statement (.mulh a0 a1) := fun _ _ => fits_op rfl (fun w => w)
theorem div : ∀ a0 a1, Statement (.div a0 a1) := fun _ _ => fits_op rfl (fun w => w)
theorem rem : ∀ a0 a1, Statement (.rem a0 a1) := fun _ _ => fits_op rfl (fun w => w)
theorem mad : ∀ a0 a1, Statement (.mad a0 a1) := fun _ _ => fits_op rfl (fun w => w)
theorem madSat : ∀ a0 a1, Statement (.madSat a0 a1) := fun _ _ => fits_op rfl (fun w => w)
theorem min : ∀ a0 a1, Statement (.min a0 a1) := fun _ _ => fits_op rfl (fun w => w)
theorem max : ∀ a0 a1, Statement (.max a0 a1) := fun _ _ => fits_op rfl (fun w => w)
theorem abs : ∀ a0, Statement (.abs a0) := fun _ => fits_zero rfl (fun w => w)
theorem neg : ∀ a0, Statement (.neg a0) := fun _ => fits_zero rfl (fun w => w)
theorem and : ∀ a0 a1, Statement (.and a0 a1) := fun _ _ => fits_op rfl (fun w => w)
theorem or : ∀ a0 a1, Statement (.or a0 a1) := fun _ _ => fits_op rfl (fun w => w)
theorem xor : ∀ a0 a1, Statement (.xor a0 a1) := fun _ _ => fits_op rfl (fun w => w)
theorem not : ∀ a0, Statement (.not a0) := fun _ => fits_zero rfl (fun w => w)
theorem shl : ∀ a0 a1, Statement (.shl a0 a1) := fun _ _ => fits_op rfl (fun w => w)
theorem shr : ∀ a0 a1, Statement (.shr a0 a1) := fun _ _ => fits_op rfl (fun w => w)
theorem sar : ∀ a0 a1, Statement (.sar a0 a1) := fun _ _ => fits_op rfl (fun w => w)
theorem rot : ∀ a0 a1, Statement (.rot a0 a1) := fun _ _ => fits_op rfl (fun w => w)
theorem clz : ∀ a0, Statement (.clz a0) := fun _ => fits_zero rfl (fun w => w)
theorem popc : ∀ a0, Statement (.popc a0) := fun _ => fits_zero rfl (fun w => w)
theorem cmpEq : ∀ a0 a1, Statement (.cmpEq a0 a1) := fun _ _ => fits_op rfl (fun w => w)
theorem cmpNe : ∀ a0 a1, Statement (.cmpNe a0 a1) := fun _ _ => fits_op rfl (fun w => w)
theorem cmpLt : ∀ a0 a1, Statement (.cmpLt a0 a1) := fun _ _ => fits_op rfl (fun w => w)
theorem cmpLe : ∀ a0 a1, Statement (.cmpLe a0 a1) := fun _ _ => fits_op rfl (fun w => w)
theorem cmpGt : ∀ a0 a1, Statement (.cmpGt a0 a1) := fun _ _ => fits_op rfl (fun w => w)
theorem cmpGe : ∀ a0 a1, Statement (.cmpGe a0 a1) := fun _ _ => fits_op rfl (fun w => w)
theorem sel : ∀ a0, Statement (.sel a0) := fun _ => fits_zero rfl (fun w => w)
theorem fadd : ∀ a0 a1, Statement (.fadd a0 a1) := fun _ _ => fits_op rfl (fun w => w)
theorem fsub : ∀ a0 a1, Statement (.fsub a0 a1) := fun _ _ => fits_op rfl (fun w => w)
theorem fmul : ∀ a0 a1, Statement (.fmul a0 a1) := fun _ _ => fits_op rfl (fun w => w)
theorem ffma : ∀ a0 a1, Statement (.ffma a0 a1) := fun _ _ => fits_op rfl (fun w => w)
theorem fmin : ∀ a0 a1, Statement (.fmin a0 a1) := fun _ _ => fits_op rfl (fun w => w)
theorem fmax : ∀ a0 a1, Statement (.fmax a0 a1) := fun _ _ => fits_op rfl (fun w => w)
theorem fdiv : ∀ a0 a1, Statement (.fdiv a0 a1) := fun _ _ => fits_op rfl (fun w => w)
theorem fsqrt : ∀ a0, Statement (.fsqrt a0) := fun _ => fits_zero rfl (fun w => w)
theorem fabs : ∀ a0, Statement (.fabs a0) := fun _ => fits_zero rfl (fun w => w)
theorem fneg : ∀ a0, Statement (.fneg a0) := fun _ => fits_zero rfl (fun w => w)
theorem fcmpEq : ∀ a0 a1, Statement (.fcmpEq a0 a1) := fun _ _ => fits_op rfl (fun w => w)
theorem fcmpNe : ∀ a0 a1, Statement (.fcmpNe a0 a1) := fun _ _ => fits_op rfl (fun w => w)
theorem fcmpLt : ∀ a0 a1, Statement (.fcmpLt a0 a1) := fun _ _ => fits_op rfl (fun w => w)
theorem fcmpLe : ∀ a0 a1, Statement (.fcmpLe a0 a1) := fun _ _ => fits_op rfl (fun w => w)
theorem fcmpGt : ∀ a0 a1, Statement (.fcmpGt a0 a1) := fun _ _ => fits_op rfl (fun w => w)
theorem fcmpGe : ∀ a0 a1, Statement (.fcmpGe a0 a1) := fun _ _ => fits_op rfl (fun w => w)
theorem fcmpUn : ∀ a0 a1, Statement (.fcmpUn a0 a1) := fun _ _ => fits_op rfl (fun w => w)
theorem frcp : ∀ a0, Statement (.frcp a0) := fun _ => fits_zero rfl (fun w => w)
theorem frsq : ∀ a0, Statement (.frsq a0) := fun _ => fits_zero rfl (fun w => w)
theorem fexp2 : ∀ a0, Statement (.fexp2 a0) := fun _ => fits_zero rfl (fun w => w)
theorem flog2 : ∀ a0, Statement (.flog2 a0) := fun _ => fits_zero rfl (fun w => w)
theorem ftanh : ∀ a0, Statement (.ftanh a0) := fun _ => fits_zero rfl (fun w => w)
theorem fsigm : ∀ a0, Statement (.fsigm a0) := fun _ => fits_zero rfl (fun w => w)
theorem ferf : ∀ a0, Statement (.ferf a0) := fun _ => fits_zero rfl (fun w => w)
theorem cvt : ∀ a0 a1, Statement (.cvt a0 a1) := fun a0 a1 => fits_ctl rfl (fun w => by
  simp [WellFormed, CvtCtl.wf] at w
  have f0 := bool_lt a1.sati
  have f1 := rmode_lt a1.rmode
  have f2 := ty_lt a1.dtype
  exact ⟨by simp_all, by omega⟩)
theorem cvtnf : ∀ a0 a1, Statement (.cvtnf a0 a1) := fun a0 a1 => fits_ctl rfl (fun w => by
  obtain ⟨pt, ot, en, rm, fr⟩ := a1
  have f0 := bool_lt en
  have f1 := rmode_lt rm
  simp only [WellFormed, CvtNfCtl.wf, Bool.and_eq_true, decide_eq_true_eq] at w
  exact ⟨w.1, by cases ot <;> simp [Ty.width] at w ⊢ <;> omega⟩)
theorem shuf : ∀ a0 a1, Statement (.shuf a0 a1) := fun a0 a1 => fits_ext rfl (fun w => by
  simp [WellFormed] at w
  refine ⟨w.1, ?_, ?_⟩
  · cases a1 <;> simp [fld]; omega
  · rintro x hx
    cases a1 <;> simp at hx
    subst hx
    simp [fld]; omega)
theorem bcast : ∀ a0 a1 a2, Statement (.bcast a0 a1 a2) := fun a0 a1 a2 => fits_ctl rfl (fun w => by
  simp [WellFormed] at w
  have f0 := bool_lt a1
  exact ⟨by simp_all, by omega⟩)
theorem reduce : ∀ a0 a1, Statement (.reduce a0 a1) := fun a0 a1 => fits_ctl rfl (fun w => by
  simp [WellFormed] at w
  have f0 := bool_lt a1.sat
  have f1 := red_lt a1.op
  exact ⟨by simp_all, by omega⟩)
theorem scan : ∀ a0 a1, Statement (.scan a0 a1) := fun a0 a1 => fits_ctl rfl (fun w => by
  simp [WellFormed] at w
  have f0 := bool_lt a1.sat
  have f1 := bool_lt a1.excl
  have f2 := red_lt a1.op
  exact ⟨by simp_all, by omega⟩)
theorem dot16 : ∀ a0, Statement (.dot16 a0) := fun _ => fits_zero rfl (fun w => w)
theorem pack : ∀ a0 a1, Statement (.pack a0 a1) := fun a0 a1 => fits_ctl rfl (fun w => by
  simp [WellFormed] at w
  exact ⟨by simp_all, by omega⟩)
theorem unpack : ∀ a0 a1, Statement (.unpack a0 a1) := fun a0 a1 => fits_ctl rfl (fun w => by
  simp [WellFormed] at w
  exact ⟨by simp_all, by omega⟩)
theorem lmset : ∀ a0 a1, Statement (.lmset a0 a1) := fun a0 a1 => fits_ctl rfl (fun w => by
  simp [WellFormed] at w
  have f0 := a1.isLt
  exact ⟨by simp_all, by omega⟩)
theorem lmand : ∀ a0 a1, Statement (.lmand a0 a1) := fun a0 a1 => fits_ctl rfl (fun w => by
  simp [WellFormed] at w
  have f0 := a1.isLt
  exact ⟨by simp_all, by omega⟩)
theorem lmor : ∀ a0 a1, Statement (.lmor a0 a1) := fun a0 a1 => fits_ctl rfl (fun w => by
  simp [WellFormed] at w
  have f0 := a1.isLt
  exact ⟨by simp_all, by omega⟩)
theorem lmnot : ∀ a0, Statement (.lmnot a0) := fun _ => fits_zero rfl (fun w => w)
theorem lmget : ∀ a0, Statement (.lmget a0) := fun _ => fits_zero rfl (fun w => w)
theorem lmpred : ∀ a0, Statement (.lmpred a0) := fun _ => fits_zero rfl (fun w => w)
theorem ld : ∀ a0 a1, Statement (.ld a0 a1) := fun _ _ => fits_ctl rfl (fun w => by
  simp only [WellFormed, Bool.and_eq_true] at w
  exact ⟨by simp_all, by first | exact mem_fits w.2 | exact mem_fits w.1.2⟩)
theorem st : ∀ a0 a1, Statement (.st a0 a1) := fun _ _ => fits_ctl rfl (fun w => by
  simp only [WellFormed, Bool.and_eq_true] at w
  exact ⟨by simp_all, by first | exact mem_fits w.2 | exact mem_fits w.1.2⟩)
theorem ldG : ∀ a0 a1, Statement (.ldG a0 a1) := fun _ _ => fits_ctl rfl (fun w => by
  simp only [WellFormed, Bool.and_eq_true] at w
  exact ⟨by simp_all, by first | exact mem_fits w.2 | exact mem_fits w.1.2⟩)
theorem stG : ∀ a0 a1, Statement (.stG a0 a1) := fun _ _ => fits_ctl rfl (fun w => by
  simp only [WellFormed, Bool.and_eq_true] at w
  exact ⟨by simp_all, by first | exact mem_fits w.2 | exact mem_fits w.1.2⟩)
theorem ldm : ∀ a0 a1, Statement (.ldm a0 a1) := fun _ _ => fits_ctl rfl (fun w => by
  simp only [WellFormed, Bool.and_eq_true] at w
  exact ⟨by simp_all, by first | exact mem_fits w.2 | exact mem_fits w.1.2⟩)
theorem stm : ∀ a0 a1, Statement (.stm a0 a1) := fun _ _ => fits_ctl rfl (fun w => by
  simp only [WellFormed, Bool.and_eq_true] at w
  exact ⟨by simp_all, by first | exact mem_fits w.2 | exact mem_fits w.1.2⟩)
theorem pref : ∀ a0 a1 a2, Statement (.pref a0 a1 a2) := fun a0 a1 a2 => fits_ctl rfl (fun w => by
  simp [WellFormed] at w
  exact ⟨by simp_all, by omega⟩)
theorem prefG : ∀ a0 a1, Statement (.prefG a0 a1) := fun a0 a1 => fits_ctl rfl (fun w => by
  simp [WellFormed] at w
  exact ⟨by simp_all, by omega⟩)
theorem gtoh : ∀ a0 a1, Statement (.gtoh a0 a1) := fun a0 a1 => fits_ctl rfl (fun w => by
  simp [WellFormed] at w
  exact ⟨by simp_all, by omega⟩)
theorem htog : ∀ a0 a1, Statement (.htog a0 a1) := fun a0 a1 => fits_ctl rfl (fun w => by
  simp [WellFormed] at w
  exact ⟨by simp_all, by omega⟩)
theorem aptest : ∀ a0 a1, Statement (.aptest a0 a1) := fun a0 a1 => fits_ctl rfl (fun w => by
  simp [WellFormed] at w
  exact ⟨by simp_all, by omega⟩)
theorem aadd : ∀ a0 a1, Statement (.aadd a0 a1) := fun _ _ => fits_ctl rfl (fun w => by
  simp only [WellFormed, Bool.and_eq_true] at w
  exact ⟨by simp_all, by first | exact mem_fits w.2 | exact mem_fits w.1.2⟩)
theorem afadd : ∀ a0 a1, Statement (.afadd a0 a1) := fun _ _ => fits_ctl rfl (fun w => by
  simp only [WellFormed, Bool.and_eq_true] at w
  exact ⟨by simp_all, by first | exact mem_fits w.2 | exact mem_fits w.1.2⟩)
theorem amin : ∀ a0 a1, Statement (.amin a0 a1) := fun _ _ => fits_ctl rfl (fun w => by
  simp only [WellFormed, Bool.and_eq_true] at w
  exact ⟨by simp_all, by first | exact mem_fits w.2 | exact mem_fits w.1.2⟩)
theorem amax : ∀ a0 a1, Statement (.amax a0 a1) := fun _ _ => fits_ctl rfl (fun w => by
  simp only [WellFormed, Bool.and_eq_true] at w
  exact ⟨by simp_all, by first | exact mem_fits w.2 | exact mem_fits w.1.2⟩)
theorem aand : ∀ a0 a1, Statement (.aand a0 a1) := fun _ _ => fits_ctl rfl (fun w => by
  simp only [WellFormed, Bool.and_eq_true] at w
  exact ⟨by simp_all, by first | exact mem_fits w.2 | exact mem_fits w.1.2⟩)
theorem aor : ∀ a0 a1, Statement (.aor a0 a1) := fun _ _ => fits_ctl rfl (fun w => by
  simp only [WellFormed, Bool.and_eq_true] at w
  exact ⟨by simp_all, by first | exact mem_fits w.2 | exact mem_fits w.1.2⟩)
theorem axor : ∀ a0 a1, Statement (.axor a0 a1) := fun _ _ => fits_ctl rfl (fun w => by
  simp only [WellFormed, Bool.and_eq_true] at w
  exact ⟨by simp_all, by first | exact mem_fits w.2 | exact mem_fits w.1.2⟩)
theorem axchg : ∀ a0 a1, Statement (.axchg a0 a1) := fun _ _ => fits_ctl rfl (fun w => by
  simp only [WellFormed, Bool.and_eq_true] at w
  exact ⟨by simp_all, by first | exact mem_fits w.2 | exact mem_fits w.1.2⟩)
theorem acas : ∀ a0 a1, Statement (.acas a0 a1) := fun _ _ => fits_ctl rfl (fun w => by
  simp only [WellFormed, Bool.and_eq_true] at w
  exact ⟨by simp_all, by first | exact mem_fits w.2 | exact mem_fits w.1.2⟩)
theorem ldr : ∀ a0 a1, Statement (.ldr a0 a1) := fun _ _ => fits_ctl rfl (fun w => by
  simp only [WellFormed, Bool.and_eq_true] at w
  exact ⟨by simp_all, by first | exact mem_fits w.2 | exact mem_fits w.1.2⟩)
theorem cmls : ∀ a0 a1, Statement (.cmls a0 a1) := fun _ _ => fits_ctl rfl (fun w => by
  simp only [WellFormed, Bool.and_eq_true] at w
  exact ⟨by simp_all, by first | exact mem_fits w.2 | exact mem_fits w.1.2⟩)
theorem ordtok : ∀ a0 a1, Statement (.ordtok a0 a1) := fun _ _ => fits_ctl rfl (fun w => by
  simp only [WellFormed, Bool.and_eq_true] at w
  exact ⟨by simp_all, by first | exact mem_fits w.2 | exact mem_fits w.1.2⟩)
theorem fence : ∀ a0 a1, Statement (.fence a0 a1) := fun _ _ => fits_ctl rfl (fun w => by
  simp only [WellFormed, Bool.and_eq_true] at w
  exact ⟨by simp_all, by first | exact mem_fits w.2 | exact mem_fits w.1.2⟩)
theorem kins : ∀ a0 a1, Statement (.kins a0 a1) := fun a0 a1 => fits_ctl rfl (fun w => by
  simp [WellFormed] at w
  have f0 := bool_lt a1.kref
  exact ⟨by simp_all, by omega⟩)
theorem kdel : ∀ a0 a1 a2, Statement (.kdel a0 a1 a2) := fun a0 a1 a2 => fits_ctl rfl (fun w => by
  simp [WellFormed] at w
  have f0 := bool_lt a1
  exact ⟨by simp_all, by omega⟩)
theorem kmatch : ∀ a0 a1, Statement (.kmatch a0 a1) := fun a0 a1 => fits_ext rfl (fun w => by
  obtain ⟨sh, vv, qr, fr, d, rs, wm, di, k, ex⟩ := a1
  have f0 := bool_lt sh
  have f1 := bool_lt vv
  have f2 := bool_lt qr
  have f3 := resid_lt rs
  have f4 := wmode_lt wm
  have f5 := dist_lt di
  simp only [WellFormed, KmCtl.wf, Bool.and_eq_true, decide_eq_true_eq] at w
  refine ⟨w.1, by simp only [kmCtlBits]; omega, ?_⟩
  rintro x hx
  cases ex <;> simp at hx
  subst hx
  simp at w
  exact ⟨by simp; omega, by simp; omega⟩)
theorem kpurge : ∀ a0 a1, Statement (.kpurge a0 a1) := fun a0 a1 => fits_ctl rfl (fun w => by
  simp [WellFormed] at w
  exact ⟨by simp_all, by omega⟩)
theorem kgenRead : ∀ a0 a1, Statement (.kgenRead a0 a1) := fun a0 a1 => fits_ctl rfl (fun w => by
  simp [WellFormed] at w
  exact ⟨by simp_all, by omega⟩)
theorem kgenAdv : ∀ a0 a1, Statement (.kgenAdv a0 a1) := fun a0 a1 => fits_ctl rfl (fun w => by
  simp [WellFormed] at w
  exact ⟨by simp_all, by omega⟩)
theorem kgenSet : ∀ a0 a1, Statement (.kgenSet a0 a1) := fun a0 a1 => fits_ctl rfl (fun w => by
  simp [WellFormed] at w
  exact ⟨by simp_all, by omega⟩)
theorem strm : ∀ a0 a1 a2 a3, Statement (.strm a0 a1 a2 a3) := fun a0 a1 a2 a3 => fits_ext rfl (fun w => by
  simp [WellFormed] at w
  refine ⟨w.1.1, by omega, ?_⟩
  rintro x hx
  cases a3 <;> simp at hx
  subst hx
  exact ⟨Nat.lt_trans (scope_lt _) (by decide), by simp⟩)
theorem arm : ∀ a0 a1 a2 a3 a4, Statement (.arm a0 a1 a2 a3 a4) := fun a0 a1 a2 a3 a4 => fits_ext rfl (fun w => by
  have f0 := bool_lt a4.isSome
  simp [WellFormed] at w
  refine ⟨w.1.1.1.1, by omega, ?_⟩
  rintro x hx
  cases a4 <;> simp at hx
  subst hx
  simp at w
  exact ⟨by simp; omega, by simp⟩)
theorem qpostPost : ∀ a0 a1, Statement (.qpostPost a0 a1) := fun a0 a1 => fits_ctl rfl (fun w => by
  simp [WellFormed] at w
  exact ⟨by simp_all, by omega⟩)
theorem qpostUnbind : ∀ a0 a1, Statement (.qpostUnbind a0 a1) := fun a0 a1 => fits_ctl rfl (fun w => by
  simp [WellFormed] at w
  exact ⟨by simp_all, by omega⟩)
theorem qpostStat : ∀ a0 a1, Statement (.qpostStat a0 a1) := fun a0 a1 => fits_ctl rfl (fun w => by
  simp [WellFormed] at w
  exact ⟨by simp_all, by omega⟩)
theorem planeLoad : ∀ a0 a1 a2, Statement (.planeLoad a0 a1 a2) := fun a0 a1 a2 => fits_ctl rfl (fun w => by
  simp [WellFormed] at w
  exact ⟨by simp_all, by omega⟩)
theorem planeEvict : ∀ a0 a1 a2, Statement (.planeEvict a0 a1 a2) := fun a0 a1 a2 => fits_ctl rfl (fun w => by
  simp [WellFormed] at w
  exact ⟨by simp_all, by omega⟩)
theorem planeQuery : ∀ a0 a1 a2, Statement (.planeQuery a0 a1 a2) := fun a0 a1 a2 => fits_ctl rfl (fun w => by
  simp [WellFormed] at w
  exact ⟨by simp_all, by omega⟩)
theorem recfgBlocks : ∀ a0 a1 a2, Statement (.recfgBlocks a0 a1 a2) := fun a0 a1 a2 => fits_ext rfl (fun w => by
  simp [WellFormed] at w
  refine ⟨w.1.1, by omega, ?_⟩
  rintro x hx
  cases a2 <;> simp at hx
  subst hx
  exact ⟨rect_fits w.2, by simp⟩)
theorem recfgSite : ∀ a0 a1 a2, Statement (.recfgSite a0 a1 a2) := fun a0 a1 a2 => fits_ext rfl (fun w => by
  simp [WellFormed] at w
  refine ⟨w.1.1, by omega, ?_⟩
  rintro x hx
  cases a2 <;> simp at hx
  subst hx
  exact ⟨rect_fits w.2, by simp⟩)
theorem mxopArm : ∀ a0 a1 a2 a3, Statement (.mxopArm a0 a1 a2 a3) := fun a0 a1 a2 a3 => fits_ext rfl (fun w => by
  have f0 := ty_lt a3.atype
  have f1 := ty_lt a3.btype
  have f2 := ty_lt a3.otype
  have f3 := rmode_lt a3.rmode
  have f4 := bool_lt a3.sca
  have f5 := bool_lt a3.scb
  have f6 := bool_lt a3.bias
  have f7 := bool_lt a3.act
  have f8 := bool_lt a3.rq
  simp only [WellFormed, MxCmd.wf, Bool.and_eq_true, decide_eq_true_eq] at w
  refine ⟨w.1.1.1, by omega, ?_⟩
  rintro x ⟨⟩
  exact ⟨by simp only [mxCmdBits]; omega, by simp only [mxCmdBits]; omega⟩)
theorem mxopTileA : ∀ a0 a1 a2 a3, Statement (.mxopTileA a0 a1 a2 a3) := fun a0 a1 a2 a3 => fits_ctl rfl (fun w => by
  simp [WellFormed] at w
  exact ⟨by simp_all, by omega⟩)
theorem mxopTileB : ∀ a0 a1 a2 a3, Statement (.mxopTileB a0 a1 a2 a3) := fun a0 a1 a2 a3 => fits_ctl rfl (fun w => by
  simp [WellFormed] at w
  exact ⟨by simp_all, by omega⟩)
theorem mxtab : ∀ a0 a1, Statement (.mxtab a0 a1) := fun a0 a1 => fits_ctl rfl (fun w => by
  obtain ⟨i, c, t, b, hd⟩ := a1
  simp only [WellFormed, Bool.and_eq_true, decide_eq_true_eq] at w
  exact ⟨by simp_all, by cases b <;> simp at w ⊢ <;> omega⟩)
theorem mxdrain : ∀ a0 a1 a2 a3 a4, Statement (.mxdrain a0 a1 a2 a3 a4) := fun a0 a1 a2 a3 a4 => fits_ctl rfl (fun w => by
  simp [WellFormed] at w
  have f0 := scope_lt a3
  exact ⟨by simp_all, by omega⟩)
theorem scl : ∀ a0 a1, Statement (.scl a0 a1) := fun _ _ => fits_op rfl (fun w => w)
theorem awalk : ∀ a0 a1, Statement (.awalk a0 a1) := fun a0 a1 => fits_ext rfl (fun w => by
  obtain ⟨hd, q, sn, wm, k, ex⟩ := a1
  have f0 := bool_lt q
  have f1 := bool_lt sn
  have f2 := wmode_lt wm
  simp only [WellFormed, AwCtl.wf, Bool.and_eq_true, decide_eq_true_eq] at w
  refine ⟨w.1, by simp only; omega, ?_⟩
  rintro x hx
  cases ex <;> simp at hx
  subst hx
  simp at w
  exact ⟨by simp; omega, by simp; omega⟩)
theorem ains : ∀ a0 a1, Statement (.ains a0 a1) := fun a0 a1 => fits_ext rfl (fun w => by
  obtain ⟨hd, kr, sc, ex⟩ := a1
  have f0 := bool_lt kr
  have f1 := scope_lt sc
  simp only [WellFormed, AinsCtl.wf, Bool.and_eq_true, decide_eq_true_eq] at w
  refine ⟨w.1, by simp only; omega, ?_⟩
  rintro x hx
  cases ex <;> simp at hx
  subst hx
  simp at w
  exact ⟨by simp; omega, by simp⟩)
theorem adel : ∀ a0 a1 a2, Statement (.adel a0 a1 a2) := fun a0 a1 a2 => fits_ctl rfl (fun w => by
  simp [WellFormed] at w
  have f0 := scope_lt a2
  exact ⟨by simp_all, by omega⟩)
theorem trev : ∀ a0 a1, Statement (.trev a0 a1) := fun a0 a1 => fits_ctl rfl (fun w => by
  simp [WellFormed] at w
  have f0 := bool_lt a1.xt
  exact ⟨by simp_all, by omega⟩)
theorem rdtime : ∀ a0, Statement (.rdtime a0) := fun _ => fits_zero rfl (fun w => w)
theorem hpin : ∀ a0, Statement (.hpin a0) := fun _ => fits_zero rfl (fun w => w)
theorem hunpin : ∀ a0, Statement (.hunpin a0) := fun _ => fits_zero rfl (fun w => w)
theorem trap : ∀ a0 a1 a2, Statement (.trap a0 a1 a2) := fun a0 a1 a2 => fits_ctl rfl (fun w => by
  simp [WellFormed] at w
  have f0 := bool_lt a2
  exact ⟨by simp_all, by omega⟩)
theorem sys : ∀ a0 a1, Statement (.sys a0 a1) := fun a0 a1 => fits_ctl rfl (fun w => by
  simp [WellFormed] at w
  exact ⟨by simp_all, by omega⟩)
theorem launch : ∀ a0 a1 a2, Statement (.launch a0 a1 a2) := fun a0 a1 a2 => fits_ext rfl (fun w => by
  simp [WellFormed] at w
  refine ⟨w.1.1, by omega, ?_⟩
  rintro x hx
  cases a2 <;> simp at hx
  subst hx
  simp at w
  exact ⟨by simp; omega, by simp⟩)
theorem halt : ∀ a0, Statement (.halt a0) := fun _ => fits_zero rfl (fun w => w)
theorem brkpt : ∀ a0 a1 a2, Statement (.brkpt a0 a1 a2) := fun a0 a1 a2 => fits_ctl rfl (fun w => by
  simp [WellFormed] at w
  have f0 := bool_lt a2
  exact ⟨by simp_all, by omega⟩)
theorem sysrd : ∀ a0 a1, Statement (.sysrd a0 a1) := fun a0 a1 => fits_ctl rfl (fun w => by
  have f0 := bool_lt a1.other
  simp only [WellFormed, Bool.and_eq_true] at w
  have f1 := sys_lt w.2
  exact ⟨w.1, by omega⟩)
theorem syswr : ∀ a0 a1, Statement (.syswr a0 a1) := fun a0 a1 => fits_ctl rfl (fun w => by
  have f0 := bool_lt a1.other
  simp only [WellFormed, Bool.and_eq_true] at w
  have f1 := sys_lt w.2
  exact ⟨w.1, by omega⟩)
theorem faultretResume : ∀ a0, Statement (.faultretResume a0) := fun _ => fits_zero rfl (fun w => w)
theorem faultretSkip : ∀ a0, Statement (.faultretSkip a0) := fun _ => fits_event rfl
theorem faultretEnd : ∀ a0, Statement (.faultretEnd a0) := fun _ => fits_event rfl
theorem trackRouteEntry : ∀ a0 a1 a2, Statement (.trackRouteEntry a0 a1 a2) := fun _ _ _ => fits_event rfl
theorem meshPacketHop : ∀ a0 a1, Statement (.meshPacketHop a0 a1) := fun _ _ => fits_event rfl
theorem hostLaunch : ∀ a0, Statement (.hostLaunch a0) := fun _ => fits_event rfl
theorem dropComplete : ∀ a0, Statement (.dropComplete a0) := fun _ => fits_event rfl
theorem tokenInjection : ∀ a0, Statement (.tokenInjection a0) := fun _ => fits_event rfl
theorem contextRelease : ∀ a0, Statement (.contextRelease a0) := fun _ => fits_event rfl
theorem hostTerminate : ∀ a0, Statement (.hostTerminate a0) := fun _ => fits_event rfl
theorem storeOpSequence : ∀ a0 a1, Statement (.storeOpSequence a0 a1) := fun _ _ => fits_event rfl
theorem shardPerform : ∀ a0, Statement (.shardPerform a0) := fun _ => fits_event rfl
theorem lensMerge : ∀ a0 a1, Statement (.lensMerge a0 a1) := fun _ _ => fits_event rfl
theorem shardCommit : ∀ a0, Statement (.shardCommit a0) := fun _ => fits_event rfl
theorem swapInstant : ∀ a0 a1, Statement (.swapInstant a0 a1) := fun _ _ => fits_event rfl
theorem mapVersionAdvance : ∀ a0, Statement (.mapVersionAdvance a0) := fun _ => fits_event rfl
theorem tokenForward : ∀ a0 a1, Statement (.tokenForward a0 a1) := fun _ _ => fits_event rfl
theorem flushArrival : ∀ a0 a1, Statement (.flushArrival a0 a1) := fun _ _ => fits_event rfl
theorem waveSend : ∀ a0 a1, Statement (.waveSend a0 a1) := fun _ _ => fits_event rfl
theorem accessPerform : ∀ a0 a1 a2, Statement (.accessPerform a0 a1 a2) := fun _ _ _ => fits_event rfl
theorem memnodeRequest : ∀ a0 a1, Statement (.memnodeRequest a0 a1) := fun _ _ => fits_event rfl
theorem pageWalk : ∀ a0, Statement (.pageWalk a0) := fun _ => fits_event rfl
theorem cowCopyDone : ∀ a0, Statement (.cowCopyDone a0) := fun _ => fits_event rfl
theorem faultLatchDrain : ∀ a0, Statement (.faultLatchDrain a0) := fun _ => fits_event rfl
theorem bankPowerEffect : ∀ a0 a1, Statement (.bankPowerEffect a0 a1) := fun _ _ => fits_event rfl
theorem bankWake : ∀ a0 a1, Statement (.bankWake a0 a1) := fun _ _ => fits_event rfl
theorem sdmWake : ∀ a0 a1, Statement (.sdmWake a0 a1) := fun _ _ => fits_event rfl
theorem hqToken : ∀ a0 a1, Statement (.hqToken a0 a1) := fun _ _ => fits_event rfl
theorem hqStreamEnd : ∀ a0 a1, Statement (.hqStreamEnd a0 a1) := fun _ _ => fits_event rfl
theorem copyStart : ∀ a0 a1 a2, Statement (.copyStart a0 a1 a2) := fun _ _ _ => fits_event rfl
theorem sectorIssue : ∀ a0, Statement (.sectorIssue a0) := fun _ => fits_event rfl
theorem sectorPerform : ∀ a0 a1, Statement (.sectorPerform a0 a1) := fun _ _ => fits_event rfl
theorem recfgArrival : ∀ a0, Statement (.recfgArrival a0) := fun _ => fits_event rfl
theorem siteReload : ∀ a0, Statement (.siteReload a0) := fun _ => fits_event rfl
theorem mxNotice : ∀ a0 a1, Statement (.mxNotice a0 a1) := fun _ _ => fits_event rfl
theorem scaleArrival : ∀ a0 a1, Statement (.scaleArrival a0 a1) := fun _ _ => fits_event rfl
theorem pairFire : ∀ a0 a1, Statement (.pairFire a0 a1) := fun _ _ => fits_event rfl
theorem islandDrain : ∀ a0 a1 a2, Statement (.islandDrain a0 a1 a2) := fun _ _ _ => fits_event rfl
theorem walkRequest : ∀ a0 a1, Statement (.walkRequest a0 a1) := fun _ _ => fits_event rfl
theorem walkResult : ∀ a0 a1 a2, Statement (.walkResult a0 a1 a2) := fun _ _ _ => fits_event rfl
theorem traceWatermark : ∀ a0, Statement (.traceWatermark a0) := fun _ => fits_event rfl
theorem traceWrite : ∀ a0, Statement (.traceWrite a0) := fun _ => fits_event rfl
theorem ptpMessage : ∀ a0 a1 a2, Statement (.ptpMessage a0 a1 a2) := fun _ _ _ => fits_event rfl
theorem ptpMasterLoss : Statement .ptpMasterLoss := fits_event rfl
theorem softError : ∀ a0, Statement (.softError a0) := fun _ => fits_event rfl
theorem watchdogExpiry : ∀ a0, Statement (.watchdogExpiry a0) := fun _ => fits_event rfl
theorem dualCompare : ∀ a0 a1, Statement (.dualCompare a0 a1) := fun _ _ => fits_event rfl
theorem dualReplay : ∀ a0 a1, Statement (.dualReplay a0 a1) := fun _ _ => fits_event rfl
theorem ctxPrePreempt : ∀ a0 a1, Statement (.ctxPrePreempt a0 a1) := fun _ _ => fits_event rfl
theorem ctxPreRestore : ∀ a0 a1, Statement (.ctxPreRestore a0 a1) := fun _ _ => fits_event rfl
theorem markerArrival : ∀ a0, Statement (.markerArrival a0) := fun _ => fits_event rfl
theorem debugStop : ∀ a0, Statement (.debugStop a0) := fun _ => fits_event rfl
theorem debugStopDrain : ∀ a0, Statement (.debugStopDrain a0) := fun _ => fits_event rfl
theorem drained : ∀ a0, Statement (.drained a0) := fun _ => fits_event rfl
theorem debugResume : ∀ a0, Statement (.debugResume a0) := fun _ => fits_event rfl
theorem debugRead : ∀ a0, Statement (.debugRead a0) := fun _ => fits_event rfl
theorem debugWrite : ∀ a0, Statement (.debugWrite a0) := fun _ => fits_event rfl
theorem chamois : ∀ a0, Statement (.chamois a0) := fun _ => fits_event rfl
theorem chamoisWindowEnd : ∀ a0, Statement (.chamoisWindowEnd a0) := fun _ => fits_event rfl
theorem fmtWrite : ∀ a0 a1 a2 a3, Statement (.fmtWrite a0 a1 a2 a3) := fun _ _ _ _ => fits_event rfl
theorem ctxHinv : ∀ a0 a1, Statement (.ctxHinv a0 a1) := fun _ _ => fits_event rfl
theorem ctxTlbinv : ∀ a0 a1 a2, Statement (.ctxTlbinv a0 a1 a2) := fun _ _ _ => fits_event rfl
theorem trapDualWrite : ∀ a0 a1 a2 a3 a4, Statement (.trapDualWrite a0 a1 a2 a3 a4) := fun _ _ _ _ _ => fits_event rfl
theorem planeRejClear : ∀ a0 a1 a2, Statement (.planeRejClear a0 a1 a2) := fun _ _ _ => fits_event rfl
theorem cellMtpwrWrite : ∀ a0 a1 a2, Statement (.cellMtpwrWrite a0 a1 a2) := fun _ _ _ => fits_event rfl
theorem loupeTenWrite : ∀ a0 a1 a2 a3, Statement (.loupeTenWrite a0 a1 a2 a3) := fun _ _ _ _ => fits_event rfl
theorem registerWrite : ∀ a0 a1 a2 a3 a4, Statement (.registerWrite a0 a1 a2 a3 a4) := fun _ _ _ _ _ => fits_event rfl
theorem bar0TableWrite : ∀ a0, Statement (.bar0TableWrite a0) := fun _ => fits_event rfl
theorem sysAnswer : ∀ a0 a1, Statement (.sysAnswer a0 a1) := fun _ _ => fits_event rfl
theorem portalForward : ∀ a0 a1, Statement (.portalForward a0 a1) := fun _ _ => fits_event rfl
theorem portalArrival : ∀ a0, Statement (.portalArrival a0) := fun _ => fits_event rfl
theorem powerUp : ∀ a0, Statement (.powerUp a0) := fun _ => fits_event rfl
theorem planeKeyInstall : ∀ a0, Statement (.planeKeyInstall a0) := fun _ => fits_event rfl
theorem attestationQuote : ∀ a0, Statement (.attestationQuote a0) := fun _ => fits_event rfl
theorem diePowerDown : ∀ a0, Statement (.diePowerDown a0) := fun _ => fits_event rfl
theorem diePowerUp : ∀ a0, Statement (.diePowerUp a0) := fun _ => fits_event rfl
theorem sdmPowerWrite : ∀ a0 a1 a2, Statement (.sdmPowerWrite a0 a1 a2) := fun _ _ _ => fits_event rfl
theorem clockGate : ∀ a0, Statement (.clockGate a0) := fun _ => fits_event rfl
theorem thermalThrottle : ∀ a0 a1, Statement (.thermalThrottle a0 a1) := fun _ _ => fits_event rfl
theorem thermalShutdown : ∀ a0 a1, Statement (.thermalShutdown a0 a1) := fun _ _ => fits_event rfl
theorem bringUp : Statement .bringUp := fits_event rfl
theorem lifetimeFlush : ∀ a0, Statement (.lifetimeFlush a0) := fun _ => fits_event rfl
theorem dieReset : ∀ a0, Statement (.dieReset a0) := fun _ => fits_event rfl
theorem hostMemoryAccess : ∀ a0 a1 a2, Statement (.hostMemoryAccess a0 a1 a2) := fun _ _ _ => fits_event rfl
theorem unreachableDestination : ∀ a0 a1, Statement (.unreachableDestination a0 a1) := fun _ _ => fits_event rfl
theorem linkTraining : ∀ a0 a1, Statement (.linkTraining a0 a1) := fun _ _ => fits_event rfl
theorem routeEntryFetch : ∀ a0 a1 a2 a3 a4 a5, Statement (.routeEntryFetch a0 a1 a2 a3 a4 a5) := fun _ _ _ _ _ _ => fits_event rfl
theorem verticalBusFallback : ∀ a0 a1, Statement (.verticalBusFallback a0 a1) := fun _ _ => fits_event rfl
theorem abruptPowerLoss : Statement .abruptPowerLoss := fits_event rfl

end Sys2Proof.Laws.Fits
end

