-- ==== Sys2Proof/Tests/Slice0.lean ====
section
/-! SUPPORT. Tests of the model: ill-formed terms that are refused, records of the spec that decode, single steps, and for each
statement a state and operands that meet its hypotheses. -/
namespace Sys2Proof.Tests
open Sys2Proof Sys2Proof.Machine

set_option Elab.async false


/-! Ill-formed terms, one for each check. -/

/-- A header with two local targets. -/
def hd (ty : Ty) (ar : Nat) : Hdr := ⟨ty, ar, noOfl, at_ 2 0, at_ 3 0⟩
/-- A header without targets. -/
def h0 (ty : Ty) (ar : Nat) : Hdr := ⟨ty, ar, noOfl, .none, .none⟩
/-- No literal. -/
def nl : Lit := ⟨0, none⟩
/-- A memory control. -/
def mc (r : Option Nat) : MemCtl := ⟨r, .none, .none, .site, false, false, false⟩

theorem test_wf_rejects_header : [
    Instr.add (hd .bf16 2) nl, .fadd (hd .s32 2) nl, .add (hd .s32 3) nl, .add (hd .s32 0) nl, .mov (hd .s32 1) nl,
    .add { hd .s32 2 with t0 := .local .none 1024 0 } nl, .add { hd .s32 2 with t0 := .local .none 1 4 } nl,
    .add { hd .s32 2 with t1 := .route .none 256 } nl, .add { hd .s32 2 with t0 := .special .inc .exit } nl,
    .add { hd .s32 2 with t0 := .special .none .scale } nl, .add { hd .s32 2 with t0 := .special .none (.memnode 3) } nl,
    .mov4 (hd .s4 1) (.special .none (.memnode 16)) .none, .add { hd .s32 2 with t0 := .special .none (.hq 256) } nl,
    .add { hd .s32 2 with t0 := .local (.push 16) 1 0 } nl, .add { hd .s32 2 with t0 := .local (.incn 0) 1 0 } nl,
    .add { hd .s32 2 with t0 := .local (.popto 15) 1 0 } nl, .exit (hd .s4 1), .halt (hd .s4 1), .scl (hd .bf16 1) nl,
    .add { hd .s32 2 with ofl := ⟨true, true, false, false⟩ } nl, .add { h0 .s32 2 with ofl := ⟨true, false, false, false⟩ } nl,
    .ldm { hd .s32 1 with t1 := .none } (mc (some 1)), .ordtok { hd .s4 1 with t0 := .special .none (.memnode 1), t1 := .none } (mc (some 1))
  ].map WellFormed = List.replicate 23 false := by decide

theorem test_wf_rejects_literal : [
    Instr.add (hd .s32 2) ⟨1, none⟩, .add (hd .s32 1) ⟨1, some 0⟩, .fadd (hd .fp64 1) ⟨1, none⟩, .fadd (hd .bf16 1) ⟨0x10000, none⟩,
    .mov (hd .nf 0) ⟨0x100, none⟩, .shl (hd .s64 1) ⟨1, some 0⟩, .shuf (hd .s32 1) none, .shuf (hd .s32 2) (some 0),
    .lmand (hd .s4 2) 1
  ].map WellFormed = List.replicate 9 false := by decide

theorem test_wf_rejects_control : [
    Instr.tagset (hd .s4 2) 16, .tagget (hd .tag 1) .tagv 1, .lcarry (hd .s4 2) 16, .lbound (hd .s4 2) 64, .mark (hd .s4 1) 16 false,
    .cvt (hd .s32 1) ⟨0, false, .rne, .nf⟩, .cvt (hd .s32 1) ⟨1, false, .rne, .fp32⟩, .cvt (hd .fp32 1) ⟨0, true, .rne, .bf16⟩,
    .cvt (hd .s32 1) ⟨0, false, .rtz, .s16⟩, .cvtnf (hd .nf 1) ⟨0, .s8, true, .rne, 0⟩, .cvtnf (hd .nf 1) ⟨8, .fp32, true, .rne, 0⟩,
    .bcast (hd .s32 1) false 16, .bcast (hd .s8 1) true 0, .reduce (hd .bf16 1) ⟨false, false, .and⟩,
    .reduce (hd .s32 1) ⟨true, false, .min⟩, .reduce (hd .s32 1) ⟨false, true, .add⟩, .pack (hd .s32 1) 1, .unpack (hd .nf 1) 16
  ].map WellFormed = List.replicate 18 false := by decide

theorem test_wf_rejects_memory : [
    Instr.ld (hd .s32 1) { mc (some 1) with rel := true }, .ld (hd .s32 1) (mc (some 65536)), .ld (hd .s32 1) (mc none),
    .ldG (hd .s32 1) (mc (some 1)), .st (hd .s32 2) { mc (some 1) with acq := true }, .st (hd .s32 2) { mc (some 1) with vec := true },
    .ld (hd .s32 1) { mc (some 1) with wpred := .pos 32 }, .aadd (hd .s32 2) { mc (some 1) with vec := true },
    .fence (hd .s4 1) { mc none with acq := true }, .cmls (hd .s4 2) { mc (some 1) with acq := true }, .acas (hd .s32 2) (mc (some 1)),
    .pref (hd .s4 1) 0 256, .prefG (hd .s4 1) 256, .gtoh (hd .s4 1) 65536, .htog (hd .s4 1) 65536, .aptest (hd .s4 1) 5
  ].map WellFormed = List.replicate 16 false := by decide

/-- A KMATCH control. -/
def kc : KmCtl := ⟨false, false, false, 0, 4, .frame, .raw, .ip, 2, none⟩
/-- An MXOP command word. -/
def mcmd : MxCmd := ⟨.bf16, .bf16, 0, 0, .s8, 0, .rne, false, false, true, true, true, 1⟩
/-- An AWALK control. -/
def aw : AwCtl := ⟨1, false, true, .raw, 2, some (255, 3, 0x3F80, 0x80000000)⟩

theorem test_wf_rejects_engine : [
    Instr.kins (hd .s8 2) ⟨32, false, 1, 0⟩, .kins (hd .s8 2) ⟨0, false, 65536, 0⟩, .kdel (hd .s4 1) false 1024, .kpurge (hd .s4 1) 1024,
    .kgenRead (hd .s4 1) 1024, .kmatch (hd .s8 1) { kc with k := 65 }, .kmatch (hd .s8 1) { kc with d := 257 },
    .kmatch (hd .s8 1) { kc with d := 65 }, .kmatch (hd .s8 1) { kc with freg := 1 }, .kmatch (hd .s8 1) { kc with dist := .cos },
    .kmatch (hd .s8 1) { kc with res := .stream }, .kmatch (hd .s8 1) { kc with sh := true, res := .stream, ext := some (0, 0, 0) },
    .kmatch (hd .s8 1) { kc with ext := some (1, 0, 0) }, .kmatch (hd .s8 1) { kc with ext := some (0, 0x7F80, 0) },
    .strm (hd .s4 1) 1 8 none, .arm (hd .s4 1) 1 0 64 none, .arm (hd .s4 1) 1 0 0 (some 256), .qpostPost (hd .s4 1) 256,
    .planeLoad (hd .s4 1) 1 64, .recfgSite (hd .s4 1) 64 none, .recfgSite (hd .s4 1) 0 (some ⟨2, 0, 1, 0⟩),
    .recfgSite (hd .s4 1) 0 (some ⟨0, 0, 0, 72⟩), .mxopTileA (hd .s4 1) 24 0 0, .mxopTileB (hd .s4 1) 0 16 0, .mxopTileA (hd .s4 1) 0 0 4,
    .mxopArm (hd .s4 1) 0 0 { mcmd with atype := .fp32 }, .mxopArm (hd .s4 1) 0 0 { mcmd with atype := .s8 },
    .mxopArm (hd .s4 1) 0 0 { mcmd with afreg := 1 }, .mxopArm (hd .s4 1) 0 0 { mcmd with otype := .s4 },
    .mxopArm (hd .s4 1) 0 0 { mcmd with atype := .s8, btype := .s8, sca := true }, .mxtab (hd .s4 1) ⟨0, 0, 3, none, 0⟩,
    .mxtab (hd .s4 1) ⟨0, 0, 0, some 2, 0⟩, .mxdrain (hd .s4 1) 24 0 .site 0, .awalk (hd .s8 1) { aw with k := 5 },
    .awalk (hd .s8 1) { aw with ext := some (256, 3, 0, 0) }, .ains (hd .s8 2) ⟨0, false, .site, some (256, 0)⟩, .adel (hd .s4 1) 65536 .site
  ].map WellFormed = List.replicate 37 false := by decide

theorem test_wf_rejects_system : [
    Instr.trev (hd .s4 1) ⟨0, 3, false, 0⟩, .trev (hd .s4 1) ⟨0, 0, false, 31⟩, .trap (hd .s4 1) 256 false, .brkpt (hd .s4 1) 256 false,
    .sys (hd .s4 1) 4096, .launch (hd .s4 1) 0 (some 4), .sysrd (hd .s4 1) ⟨0, 8, 0, false⟩, .syswr (hd .s4 2) ⟨8, 0, 0, false⟩,
    .syswr (hd .s4 2) ⟨4, 6, 0, false⟩, .sysrd (hd .s4 1) ⟨4, 0x100, 4, false⟩,
    .tokenMatch ⟨4, 0⟩, .tokenMatch ⟨0, 3840⟩, .spillRefill ⟨0, 0⟩ 16384, .blockFetch ⟨0, 0⟩ 0 1024, .bankWake ⟨0, 0⟩ 8,
    .trackRouteEntry 0 128 0, .trackRouteEntry 0 0 72, .meshPacketHop 4 0, .sdmWake 0 12, .sdmPowerWrite 0 0 3, .hqToken 0 256,
    .copyStart 0 8 0, .mxNotice 0 24, .islandDrain 0 0 16, .walkRequest 0 4, .walkResult 0 0 4, .dropComplete 16384,
    .fmtWrite 0 16 0 .host, .registerWrite ⟨0, 0⟩ 0 ⟨0, 8, 0, false⟩ 0 .host, .loupeTenWrite 256 0 0 .host, .loupeTenWrite 0 8 0 .host,
    .traceWrite 256, .routeEntryFetch 0 128 0 0 0 0
  ].map WellFormed = List.replicate 33 false := by decide

/-! Records that the spec writes out, or that its layouts give bit by bit, decode to the instructions they stand for. -/

theorem test_decode_flow :
    decodeTableWord 96 (bits96 0x00C20800 0x00D10004 0) = some (.steer ⟨.s4, 2, noOfl, .route .none 3, .local .inc 1 0⟩) ∧
    decodeTableWord 96 (bits96 0x00410000 0 0) = some (.exit ⟨.s4, 1, noOfl, .none, .none⟩) ∧
    decodeTableWord 96 (bits96 0x01810C00 0xC2400000 0)
      = some (.mov ⟨.s4, 1, noOfl, .special .none (.hq 9), .none⟩ ⟨0, none⟩) := by decide

theorem test_decode_tags :
    decodeTableWord 96 (bits96 0x11820480 0x09000000 3) = some (.lbound ⟨.s4, 2, noOfl, .local (.push 0) 9 0, .none⟩ 3) := by decide

theorem test_decode_integer :
    decodeTableWord 96 (bits96 0x20190400 0x42100109 1) = some (.add ⟨.s32, 1, noOfl, at_ 66 0, at_ 66 1⟩ ⟨1, none⟩) ∧
    decodeTableWord 96 (bits96 0x21DE0440 0x86300000 0)
      = some (.rem ⟨.z32, 2, noOfl, .local .inc 134 0, .special .none .exit⟩ ⟨0, none⟩) := by decide

theorem test_decode_logic :
    decodeTableWord 96 (bits96 0x341D0400 0x8950022C 0) = some (.cmpEq ⟨.z32, 1, noOfl, at_ 137 1, at_ 139 0⟩ ⟨0, none⟩) := by decide

theorem test_decode_float :
    decodeTableWord 96 (bits96 0x40EF0400 0x05000000 0) = some (.ffma ⟨.fp32, 3, noOfl, at_ 5 0, .none⟩ ⟨0, none⟩) := by decide

theorem test_decode_convert :
    decodeTableWord 96 (bits96 0x602D1400 0x7B000000 0x119)
      = some (.cvt ⟨.fp32, 1, ⟨false, false, false, true⟩, at_ 123 0, .none⟩ ⟨1, false, .rtz, .bf16⟩) := by decide

theorem test_decode_lanes :
    decodeTableWord 96 (bits96 0x712E0400 0x04000000 0) = some (.dot16 ⟨.fp32, 2, noOfl, at_ 4 0, .none⟩) ∧
    decodeTableWord 96 (bits96 0x72010400 0x03800000 0xFFFF) = some (.lmset ⟨.s4, 1, noOfl, at_ 3 2, .none⟩ 0xFFFF) := by decide

theorem test_decode_memory :
    decodeTableWord 96 (bits96 0x802D0400 0x03000000 0x28C09)
      = some (.ld ⟨.fp32, 1, noOfl, at_ 3 0, .none⟩ ⟨some 2, .none, .none, .die, false, false, true⟩) ∧
    decodeTableWord 96 (bits96 0x92820400 0x2D000000 0x28C0A)
      = some (.cmls ⟨.s4, 2, noOfl, at_ 45 0, .none⟩ ⟨some 2, .none, .none, .die, false, true, false⟩) := by decide

theorem test_decode_keys :
    decodeTableWord 96 (bits96 0xA0890400 0xCD100338 0x6202)
      = some (.kmatch ⟨.s8, 1, noOfl, at_ 205 0, at_ 206 0⟩ kc) := by decide

theorem test_decode_streamer :
    decodeTableWord 192 (bits192 0xB0410400 0x2B000000 0x142C0 0x0FC00000 0 0x11)
      = some (.arm ⟨.s4, 1, noOfl, at_ 43 0, .none⟩ 1 2 5 (some 17)) := by decide

theorem test_decode_island :
    decodeTableWord 192 (bits192 0xC0010400 0x46000000 0x01000000 0x0FC00000 0x00010000 0x99002007)
      = some (.mxopArm ⟨.s4, 1, noOfl, at_ 70 0, .none⟩ 0 2 mcmd) := by decide

theorem test_decode_walker :
    decodeTableWord 192 (bits192 0xD0090400 0x35300000 0x15002 0x0FC00000 0x80000000 0xFF033F80)
      = some (.awalk ⟨.s8, 1, noOfl, at_ 53 0, .special .none .exit⟩ aw) := by decide

theorem test_decode_trace :
    decodeTableWord 96 (bits96 0xE0410400 0x2B000000 0) = some (.rdtime ⟨.s4, 1, noOfl, at_ 43 0, .none⟩) ∧
    (decodeTableWord 96 (bits96 0xE0810000 0 0)).isSome = true ∧ (decodeTableWord 96 (bits96 0xE0C10000 0 0)).isSome = true := by decide

theorem test_decode_system :
    decodeTableWord 96 (bits96 0xF1C10400 0x2B000000 0) = some (.faultretResume ⟨.s4, 1, noOfl, at_ 43 0, .none⟩) := by decide

/-- Unassigned codes, reserved bits and misplaced EXT records are refused, each with its reason (R64 Table 9). -/
theorem test_decode_refuses :
    [decodeRec ⟨0x02000000, 0, 0⟩ none, decodeRec ⟨0x0FC00000, 0, 0⟩ none, decodeRec ⟨0x00410000, 0x00000001, 0⟩ none,
      decodeRec ⟨0x00410000, 0, 1⟩ none, decodeRec ⟨0x20260000, 0, 0⟩ none, decodeRec ⟨0x20180000, 0, 0⟩ none,
      decodeRec ⟨0x00410400, 0x01000000, 0⟩ none, decodeRec ⟨0x20190690, 0x42000000, 0⟩ none, decodeRec ⟨0xF0010000, 0, 0x200⟩ none,
      decodeRec ⟨0x01C10000, 0, 0⟩ none, decodeRec ⟨0x2019C400, 0x42100109, 1⟩ none].map
        (fun r => match r with | .error e => e.code | .ok _ => 0)
      = [1, 1, 2, 2, 3, 4, 5, 7, 8, 9, 11] := by decide

/-! Worked values of the spec. Flags by bit: 0 INX, 1 UNF, 2 OVF, 3 DZ, 4 INV, 5 IDZ, 6 SAT (R80). -/

/-- Table 4, "Borderline results, 8-bit". -/
theorem test_integer_edges :
    elAdd .s8 127 1 0 = (0x80, 0) ∧ elAddSat .s8 127 1 0 = (127, 64) ∧ elSubSat .z8 3 5 0 = (0, 64) ∧
    elMul .s8 0x80 0xFF 0 = (0x80, 0) ∧ elMulh .s8 0x80 0xFF 0 = (0, 0) ∧ elDiv .s8 0x80 0xFF 0 = (0x80, 0) ∧ elDiv .s8 7 0 0 = (0xFF, 32) ∧ elDiv .z8 7 0 0 = (255, 32) ∧ elRem .s8 0xF9 2 0 = (0xFF, 0) ∧ elShl .s8 5 8 0 = (0, 0) ∧
    elSar .s8 0xF0 9 0 = (0xFF, 0) ∧ elRot .z8 0x81 9 0 = (0x03, 0) ∧ elClz .z8 0 0 0 = (8, 0) ∧ elAbs .s8 0x80 0 0 = (0x80, 0) := by
  decide

/-- Table 9, "Borderline results". -/
theorem test_float_borderline :
    elFadd .fp32 0x7F800000 0xFF800000 0 = (0x7FC00000, 16) ∧ elFmul .fp32 0x80000000 0x40A00000 0 = (0x80000000, 0) ∧
    elFfma .fp32 0x3F800001 0x3F7FFFFE 0xBF800000 = (0xA8800000, 0) ∧ elMinMax false .fp32 0x80000000 0 0 = (0x80000000, 0) ∧
    elMinMax true .fp32 0x7FC00000 0x40400000 0 = (0x40400000, 0) ∧ elFdiv .fp32 0xBF800000 0 0 = (0xFF800000, 8) ∧
    elFsqrt .fp64 0x8000000000000000 0 0 = (0x8000000000000000, 0) ∧ elFneg .fp32 0xFFC00000 0 0 = (0x7FC00000, 0) := by decide

/-- Table 9, conversions. -/
theorem test_convert_borderline :
    convElem .fp32 .s32 false .rne 0x40200000 = (2, 1) ∧ convElem .fp32 .s32 false .rne 0x4F32D05E = (0x7FFFFFFF, 64) ∧
    convElem .s32 .s8 false .rne 300 = (44, 0) ∧ convElem .s32 .s8 true .rne 300 = (127, 64) ∧
    convElem .fp32 .z8 false .rne 0x7FC00000 = (0, 16) := by decide

/-- Table 8: encoding FP32 into FMT0 by RNE, and decoding two codes again. -/
theorem test_nf_table :
    let nf := nfOf 0x000507C3
    let enc (x : Nat) : Nat × Nat := nf.put .rne ((fmtOf .fp32).val x)
    enc 0x41B00000 = (0x5B, 0) ∧ enc 0x41B80000 = (0x5C, 1) ∧ enc 0x43FA0000 = (0x7F, 65) ∧ enc 0x7F800000 = (0x7F, 64) ∧
    enc 0x80000000 = (0, 0) ∧ enc 0x3A000000 = (0, 3) ∧ enc 0x7FC00000 = (0x80, 0) := by decide

/-- R76: "500.0 in any rounding mode yields 0x7F and sets SAT and INX". -/
theorem test_nf_saturates : ∀ m ∈ [RMode.rne, .rtz, .rup, .rdn, .rna], (nfOf 0x000507C3).put m ((fmtOf .fp32).val 0x43FA0000) = (0x7F, 65) := by decide

/-- R87: FEXP2 of −1.25 is 0x3ED7_44FD. -/
theorem test_fexp2_example : fexp2 0xBFA00000 = 0x3ED744FD := by decide

/-! Small states, and what they show of the statements' hypotheses. -/

/-- A result that is present has a value. -/
theorem some_of {α : Type} {o : Option α} (h : o.isSome = true) : ∃ v, o = some v := Option.isSome_iff_exists.mp h

/-- A check that passes has a result and a state. -/
def passes {ε α β : Type} (r : Except ε α × β) : Bool := match r.1 with | .ok _ => true | .error _ => false

theorem ok_of {ε α β : Type} {r : Except ε α × β} (h : passes r = true) : ∃ v t, r = (.ok v, t) := by
  obtain ⟨a, b⟩ := r
  cases a with
  | ok v => exact ⟨v, b, rfl⟩
  | error _ => simp [passes] at h

/-- A ready entry of node 1 of a block at 0 of context 0, of tag `tag`. -/
def ent (tag : W64) (depth : Nat) : RdyEnt :=
  { uid := some 0, node := 1, ctx := 0, level := 0, time := 0, wait := 0, ord := 1, tag := tag, depth := depth, pri := 0, alone := none, pass := false }

/-- A firing with given operands. -/
def fire (ops : List Tok) : Firing := ⟨⟨0, 0⟩, ent 0 0, 0, 0, ops.map some ++ List.replicate (4 - ops.length) none, false⟩

/-- A scalar token of a value. -/
def tok (v : Nat) : Tok := { data := BitVec.ofNat 512 v }

/-- A handle word: SPACE, BASE and BOUND. -/
def hword (space base bound : Nat) : BitVec 128 := BitVec.ofNat 128 (base + space * 2 ^ 61 + 2 ^ 63 + bound * 2 ^ 64)

/-- A block at 0 of context 0 with one record. -/
def blk (r : Rec) : Blk :=
  { ctx := 0, plane := 0, slot := 0, hdr := 0, exits := 1, fsize := 4, pmbase := 0, prio := 0, stores := 0, recs := [r],
    pmap := [0, 1, 2, 3], present := true, spatial := false }

/-- A live instance of it. -/
def dirEnt : DirEnt :=
  { uid := 0, bind := false, ctx := 0, blk := 0, tag := 0, depth := 0, base := 0, size := 4, xfired := 0, sdone := 0, spend := 0,
    ready := 1, dying := false }

/-- A cell that holds the block, the instance and four operands, and a tile with an OPSTORE and a FIFO region. -/
def cell : Cell :=
  { slots := (List.range 4).map (fun p => (p, ⟨tok 1, 0, p⟩)), dir := [dirEnt], ready := [ent 0 0], blks := [blk ⟨0x20190400, 0x42100109, 1⟩],
    uids := 8, mt := { mtr := [0x80000008, 0x84200008, 0, 0], regs := [{ full := [false], wc := [0], rc := [0] }, {}, {}, {}] } }

/-- Context 0: running, with tags of two levels of 8 bits, and 16 handles. -/
def ctx : Ctx := { st := .running, tl := 0x2000000000000000000E7, htlast := 15 }

/-- A module with that cell and context: handle 0 names 4 KiB of virtual memory, whose page is known; 1, SDM; 2 and 3, the tile. -/
def world (f : Firing) : State :=
  { State.reset with
    cur := some f
    cells := [(0, cell)]
    ctxs := [(0, ctx)]
    dies := [(0, { tab := { sdmOwn := [(0, 0)] } })]
    msys := { hcache := [⟨0, 0, 0, 0, hword 0 0x10000 4096⟩, ⟨0, 0, 0, 1, hword 1 0 4096⟩, ⟨0, 0, 0, 2, hword 2 0 64⟩, ⟨0, 0, 0, 3, hword 2 1 64⟩],
              tlb := [⟨0, 0, 0, 0x10000, 0, 0x200000, true, false, true, 0⟩] } }

/-- Two local targets without a tag action. -/
def locals : List Target := [at_ 2 0, at_ 3 0]

/-- Nothing refuses a firing on those targets, whatever its flags. -/
theorem clear_world (f : Firing) (hx : f.x = ⟨0, 0⟩) (hc : f.ent.ctx = 0) (he : f.ent.uid = some 0) (flags : Nat) :
    Clear (world f) f locals f.tagOf flags 0 where
  cur := rfl
  trap := by rw [hc]; simp [world, State.ctx, tget, ctx]
  tags := by
    intro g hg
    simp [locals] at hg
    rcases hg with h | h <;> subst h <;> simp [at_, tgtAct, tagAct]
  exits := by
    simp [State.exitExcess, he, exitTargets, locals, at_]

/-- The computing instructions, on targets that `clear_world` covers: each statement of a result has a firing that meets its
hypotheses, at every record here. -/
theorem witness_computing : [
    Instr.add (hd .s32 2) nl, .addSat (hd .s8 1) ⟨5, none⟩, .sub (hd .s64 1) ⟨5, some 1⟩, .subSat (hd .z16 2) nl, .mul (hd .s4 2) nl,
    .mulh (hd .s32 2) nl, .div (hd .z8 2) nl, .rem (hd .s64 2) nl, .mad (hd .s32 3) nl, .madSat (hd .s32 2) ⟨7, none⟩, .min (hd .z4 2) nl,
    .max (hd .s16 2) nl, .abs (hd .s32 1), .neg (hd .z32 1), .and (hd .pred 2) nl, .or (hd .s32 1) ⟨3, none⟩, .xor (hd .z16 2) nl,
    .not (hd .pred 1), .shl (hd .s32 1) ⟨40, none⟩, .shr (hd .z8 2) nl, .sar (hd .s8 2) nl, .rot (hd .s64 2) nl, .clz (hd .s32 1),
    .popc (hd .z8 1), .cmpEq (hd .tag 2) nl, .cmpNe (hd .s32 1) ⟨0, none⟩, .cmpLt (hd .s8 2) nl, .cmpLe (hd .z8 2) nl, .cmpGt (hd .s64 2) nl,
    .cmpGe (hd .z32 2) nl, .sel (hd .nf 3), .fadd (hd .fp32 2) nl, .fsub (hd .bf16 1) ⟨0x3F80, none⟩, .fmul (hd .fp16 2) nl,
    .ffma (hd .fp64 2) ⟨0, some 0x3FF00000⟩, .fmin (hd .fp32 2) nl, .fmax (hd .fp32 1) ⟨0, none⟩, .fdiv (hd .fp64 2) nl, .fsqrt (hd .fp32 1),
    .fabs (hd .bf16 1), .fneg (hd .fp64 1), .fcmpEq (hd .fp32 2) nl, .fcmpNe (hd .fp16 2) nl, .fcmpLt (hd .fp64 2) nl, .fcmpLe (hd .bf16 2) nl,
    .fcmpGt (hd .fp32 2) nl, .fcmpGe (hd .fp32 2) nl, .fcmpUn (hd .fp32 2) nl, .frcp (hd .fp32 1), .frsq (hd .bf16 1), .fexp2 (hd .fp32 1),
    .flog2 (hd .fp16 1), .ftanh (hd .fp32 1), .fsigm (hd .bf16 1), .ferf (hd .fp32 1), .cvt (hd .fp32 1) ⟨1, false, .rtz, .bf16⟩,
    .cvtnf (hd .nf 1) ⟨0, .fp32, true, .rne, 0⟩, .cvtnf (hd .nf 1) ⟨0, .fp32, false, .rne, 3⟩, .shuf (hd .s32 2) none,
    .shuf (hd .fp32 1) (some 0x0123456789ABCDEF), .bcast (hd .fp32 1) true 0, .bcast (hd .s8 1) false 63, .reduce (hd .s8 1) ⟨true, false, .add⟩,
    .reduce (hd .fp64 1) ⟨false, false, .max⟩, .scan (hd .z32 1) ⟨false, true, .xor⟩, .scan (hd .fp32 1) ⟨false, false, .add⟩, .dot16 (hd .s8 2),
    .dot16 (hd .bf16 2), .pack (hd .nf 1) 3, .unpack (hd .fp32 1) 0, .lmset (hd .s4 1) 0xFFFF, .lmand (hd .s4 2) 0, .lmor (hd .s4 1) 5,
    .lmnot (hd .s4 1), .lmget (hd .s4 1), .lmpred (hd .pred 2), .null (hd .s4 1), .purge (hd .s4 1), .tagget (hd .tag 1) .lvl 2
  ].all (fun i => WellFormed i && [(parts i).map (fun p => p.hdr.t0), (parts i).map (fun p => p.hdr.t1)] == locals.map some) = true := by
  decide


/-- A firing of an instance of depth 1 and iteration `i`. -/
def fireAt (i : Nat) (ops : List Tok) : Firing := { fire ops with ent := ent (BitVec.ofNat 64 i) 1 }

/-- A firing that a token makes alone. -/
def fireAlone (t : Tok) : Firing := { fire [] with ent := { ent t.tag t.depth with alone := some t } }

/-- A STREAM_END of level 1. -/
def marker : Tok := { side := 1, flags := 2 }

theorem witness_flow_records : [
    Instr.steer (hd .s4 2), .merge (hd .s4 2), .mergeOrd (hd .s4 3), .mov (hd .s4 1) nl, .mov (hd .fp64 0) ⟨1, some 2⟩, .mov (hd .bf16 0) ⟨0x3F80, none⟩,
    .mov4 (hd .s4 1) (at_ 4 0) .none, .tagpush (hd .s4 2) nl, .tagpush (hd .s4 1) ⟨7, none⟩, .tagpop (hd .s4 1), .taginc (hd .s4 1), .tagset (hd .s4 2) 1,
    .lcarry (hd .s4 2) 0, .mark (hd .s4 1) 1 true, .exit (h0 .s4 2), .lbound (hd .s4 2) 63
  ].all WellFormed = true := by decide

theorem witness_arrived_first :
    notAlone (world (fire [tok 1, tok 2])) (fire [tok 1, tok 2]) ∧ arrivedFirst 0 (world (fire [tok 1, tok 2])) (fire [tok 1, tok 2]) ∧
    ∃ s f, arrivedFirst 1 s f := by
  refine ⟨rfl, ⟨rfl, (by decide : (0 : Nat) < 1)⟩, ?_⟩
  refine ⟨{ world (fire [tok 1, tok 2]) with cells := [(0, { cell with slots := [(0, ⟨tok 1, 0, 9⟩), (1, ⟨tok 2, 0, 4⟩)] })] },
    fire [tok 1, tok 2], rfl, (by decide : (4 : Nat) < 9)⟩

theorem witness_lcarry_mark :
    let f0 := fireAt 0 [tok 1, tok 2]
    arrivedFirst 0 (world f0) f0 ∧ (1 ≤ levelOf f0 1 ∧ levelOf f0 1 ≤ f0.ent.depth) ∧
      lvl ((world f0).ctx 0).tl f0.ent.tag (levelOf f0 1) = 0 ∧
      lvl ((world f0).ctx 0).tl (fireAt 3 []).ent.tag (levelOf (fireAt 3 []) 1) ≠ 0 ∧
      ¬ (1 ≤ levelOf (fire []) 0 ∧ levelOf (fire []) 0 ≤ (fire []).ent.depth) := by
  refine ⟨⟨rfl, (by decide : (0 : Nat) < 1)⟩, ?_, ?_, ?_, ?_⟩ <;> decide

/-- A STREAM_END that fires a node alone, its copies on both targets. -/
theorem witness_stream_end_alone :
    let f := fireAlone marker
    let s := world f
    s.cur = some f ∧ f.ent.alone.isSome = true ∧
      ∃ toks, sendList (s.ctx 0).tl f.x [Send.marker (at_ 2 0) (fwdTok f (hd .s4 1) [marker] marker false),
        .marker (at_ 3 0) (fwdTok f (hd .s4 1) [marker] marker false)] = some toks ∧
      s.exitExcess f (toks.filter Tok.isExit).length = false := by
  refine ⟨rfl, rfl, _, rfl, by decide⟩

theorem witness_tag_ops :
    let tl : BitVec 96 := 0x2000000000000000000E7
    lvlLo tl (nlev tl) ≤ 64 ∧ 2 ≤ nlev tl ∧ nlev tl ≤ 15 ∧ (tagPush tl (5, 1) 255).isSome = true ∧ (tagPop tl (5, 1)).isSome = true ∧
      (tagIncBy tl (254, 1) 1).isSome = true ∧ (tagIncBy tl (255, 1) 1).isSome = false ∧ (tagSetCur tl (5, 1) 255).isSome = true ∧
      (tagAct tl (.popto 1) (5, 1)).isSome = true := by decide

/-- An EXIT that completes its block's count, and one that does not. -/
theorem witness_exit : ∀ n, n = 1 ∨ n = 2 →
    let f := fire [tok 1, tok 2]
    let b := { blk ⟨0x00420000, 0, 0⟩ with exits := n }
    let s := { world f with cells := [(0, { cell with blks := [b] })] }
    let e := { dirEnt with ready := 0 }
    WellFormed (.exit (h0 .s4 2)) = true ∧ Clear s f [] f.tagOf 0 1 ∧ s.dualSite f.x f.ent.ctx = false ∧ f.ent.uid = some 0 ∧
      ((consumedBy s f (h0 .s4 2)).cell f.x).ent 0 = some e ∧ e.bind = false ∧ e.dying = false ∧
      (s.cell f.x).blkAt e.ctx e.blk = some b ∧ s.exitsLeft f.x 0 = false := by
  intro n hn
  rcases hn with h | h <;> subst h <;>
    exact ⟨by decide, ⟨rfl, by decide, by decide, by decide⟩, by decide, by decide, by decide, by decide, by decide, by decide, by decide⟩

/-- A firing of the instance that has an exit and tokens left to send. -/
theorem witness_exits_left : let s : State := { world (fire []) with cells := [(0, { cell with pipe := { deps := [⟨0, some 0, 1, 9, 0, 0, true, [tok 1]⟩] } })] }
    s.exitsLeft ⟨0, 0⟩ 0 = true := by decide

/-- A site whose context is compared, and an EXIT there with no, one and two poisoned operands. -/
theorem witness_exit_compared : ∀ ops ∈ [[tok 1], [{ tok 1 with flags := 8 }], [{ tok 1 with flags := 8 }, { tok 2 with flags := 8 }]],
    let f := fire ops
    let s := { world f with dies := [(0, { duals := [⟨0, 0, 0, 1, none, [], [], [], [], false, false⟩] })] }
    s.dualSite f.x f.ent.ctx = true ∧ Clear s f [.special .none .exit] f.tagOf 0 0 ∧
      (poisoned (f.first ops.length) ≤ 1 ↔ ops.length = 1) := by
  intro ops h
  fin_cases h <;> refine ⟨by decide, ⟨rfl, by decide, by decide, by decide⟩, by decide⟩

/-- LBOUND: a start token within the window, a completion, and a marker whose window is empty, holds a start token, awaits a spilled
one, and is none. -/
theorem witness_lbound :
    let w : LbWin := ⟨0, 1, 1, 0, 0, 1, 0, none, 0, false⟩
    let at1 (t : Tok) : State := { world (fireAlone t) with cells := [(0, { cell with lbs := [w] })] }
    let start : Tok := { tag := 3, depth := 1, port := 0 }
    let mk : Tok := { marker with port := 0 }
    ((at1 start).cell ⟨0, 0⟩).openWin 0 1 1 (tagUpTo 0x2000000000000000000E7 start.tag 0) = some w ∧ w.base ≤ lvl 0x2000000000000000000E7 start.tag 1 ∧
      lvl 0x2000000000000000000E7 start.tag 1 < w.base + (63 + 1) ∧
      (sendList 0x2000000000000000000E7 ⟨0, 0⟩ [.tok (at_ 2 0) (fwdTok (fireAlone start) (hd .s4 2) [start] start false),
        .tok (at_ 3 0) (fwdTok (fireAlone start) (hd .s4 2) [start] start false)]).isSome = true ∧
      iterComplete 0 1 1 0 0 [w] ≠ none ∧ iterComplete 0 1 1 0 5 [w] = none ∧
      ((at1 mk).cell ⟨0, 0⟩).openWin 0 1 (fld mk.side.toNat 0 4) mk.tag = some w ∧ mk.flag .streamEnd = true ∧ start.flag .streamEnd = false ∧
      (at1 mk).startsSpilled ⟨0, 0⟩ 0 1 (fld mk.side.toNat 0 4) mk.tag = false ∧
      ({ at1 mk with ctxs := [(0, { ctx with spill := { toks := [⟨0, ⟨0, 0⟩, 0, { start with node := 1 }, false⟩] } })] } : State).startsSpilled ⟨0, 0⟩ 0 1
        (fld mk.side.toNat 0 4) mk.tag = true ∧
      (({ at1 mk with cells := [(0, cell)] } : State).cell ⟨0, 0⟩).openWin 0 1 (fld mk.side.toNat 0 4) mk.tag = none ∧
      (sendList 0x2000000000000000000E7 ⟨0, 0⟩ [.marker (at_ 2 0) (fwdTok (fireAlone mk) (hd .s4 2) [mk] mk false),
        .marker (at_ 3 0) (fwdTok (fireAlone mk) (hd .s4 2) [mk] mk false)]).isSome = true := by
  decide

/-- A window that holds a start token back. -/
theorem witness_lbound_held : let w : LbWin := ⟨0, 1, 1, 0, 0, 1, 0, none, 1, false⟩
    (({ world (fire []) with cells := [(0, { cell with lbs := [w] })] } : State).cell ⟨0, 0⟩).openWin 0 1 1 0 = some w ∧ 0 < w.held := by decide

/-- A vector token. -/
def vtok (v : Nat) : Tok := { data := BitVec.ofNat 512 v, vec := true, lmask := 0xFFFF }

/-- The world with nothing under way. -/
def idle : State := { world (fire []) with cur := none }

/-- A check that passes with a place. -/
def okSome {ε α β : Type} (r : Except ε (Option α) × β) : Bool := match r.1 with | .ok (some _) => true | _ => false

theorem okSome_of {ε α β : Type} {r : Except ε (Option α) × β} (h : okSome r = true) : ∃ v t, r = (.ok (some v), t) := by
  obtain ⟨a, b⟩ := r
  match a, h with
  | .ok (some v), _ => exact ⟨v, b, rfl⟩

theorem witness_memory_records : [
    Instr.ld (hd .s32 1) (mc (some 0)), .ld (hd .fp32 1) { mc (some 0) with vec := true, acq := true }, .ldG (hd .nf 1) (mc none), .st (hd .s64 2) (mc (some 3)),
    .stG (hd .s8 3) { mc none with rel := true }, .ldr (hd .s4 1) (mc (some 0)), .ldm (hd .s32 1) (mc (some 1)), .stm (hd .s32 2) (mc (some 1)),
    .stm { hd .s32 2 with t1 := .none } (mc (some 1)), .aadd (hd .z32 2) (mc (some 0)), .afadd (hd .fp64 2) (mc (some 0)), .amin (hd .s32 2) (mc (some 1)),
    .amax (hd .s64 3) (mc (some 0)), .aand (hd .z32 2) (mc (some 0)), .aor (hd .s64 2) (mc (some 0)), .axor (hd .z32 2) (mc (some 0)),
    .axchg (hd .s32 2) (mc (some 0)), .acas (hd .s32 3) (mc (some 0)), .cmls (hd .s4 2) (mc (some 0)), .ordtok (hd .s4 1) (mc (some 0)),
    .ordtok { hd .s4 1 with t0 := .special .none (.memnode 3) } (mc none), .fence (hd .s4 1) (mc none), .pref (hd .s4 1) 0 3, .prefG (hd .s4 1) 0,
    .gtoh (hd .s4 1) 0, .htog (hd .s4 1) 2, .aptest (hd .s4 1) 0, .aptest (hd .s4 1) 4
  ].all WellFormed = true := by decide

/-- Every kind of access passes its checks somewhere, and its result tokens leave. -/
theorem witness_access : ∀ p ∈ [(askOf (hd .s32 1) (mc (some 0)) .load false false, 8), (askOf (hd .s32 1) (mc (some 0)) .load false true, 4),
      (askOf (hd .s32 1) (mc none) .load false false, 0x10004), (askOf (hd .s64 2) (mc (some 2)) .store true false, 56), (askOf (hd .s64 2) (mc (some 3)) .store true true, 0),
      (⟨hd .s4 1, mc (some 0), .ldr, false, true, 64, 64⟩, 64), (askOf (hd .s32 1) (mc (some 1)) (.mem 0) false false, 4092),
      (askOf (hd .s32 2) (mc (some 1)) (.mem 1) true true, 4), (⟨hd .z32 2, mc (some 0), .rmw 0, true, false, 4, 4⟩, 4092),
      (⟨hd .s64 3, mc (some 1), .rmw 8, true, false, 8, 8⟩, 0)],
    passes (idle.place (fire [tok p.2]) p.1 p.2) = true ∧
      (sendList ((idle.place (fire [tok p.2]) p.1 p.2).2.ctx 0).tl ⟨0, 0⟩ (onBoth p.1.h (tok 0))).isSome = true ∧
      (idle.place (fire [tok p.2]) p.1 p.2).2.exitExcess (fire [tok p.2]) 0 = false := by decide

/-- A CMLS, and descriptors of two lines: at unequal offsets, at the same one, and one that uses no line. -/
def cmlsAsk : Ask := ⟨hd .s4 2, mc (some 0), .cmls, true, false, 128, 128⟩
def cmlsTok (o : Nat) (used : BitVec 16) : Tok := { vtok (o * 2 ^ 32) with lmask := used }

theorem witness_cmls_distinct : okSome (idle.cmlsCheck (fire [cmlsTok 128 3]) cmlsAsk (cmlsLines (cmlsTok 128 3))) = true ∧
    decide ((cmlsLines (cmlsTok 128 3)).map (fun p => p.2)).Nodup = true := by decide +kernel

theorem witness_cmls_meeting : okSome (idle.cmlsCheck (fire [cmlsTok 0 3]) cmlsAsk (cmlsLines (cmlsTok 0 3))) = true ∧
    decide ((cmlsLines (cmlsTok 0 3)).map (fun p => p.2)).Nodup = false := by decide +kernel

theorem witness_cmls_shape : (cmlsTok 0 0xFFF0).lmask &&& 15 = 0 ∧ (cmlsTok 128 3).flag .poison = false ∧ (tok 0).vec = false := by decide +kernel

/-- An ordering instruction of the join form, and of the port form. -/
theorem witness_ordering :
    (¬ ∃ a m, (hd .s4 1).t0 = .special a (.memnode m)) ∧
    (∃ a m, ({ hd .s4 1 with t0 := .special .none (.memnode 3) } : Hdr).t0 = .special a (.memnode m)) ∧
    (sendList ctx.tl ⟨0, 0⟩ (onBoth (hd .s4 1) (completion (fire [tok 0]) (hd .s4 1)))).isSome = true ∧
    (sendList ctx.tl ⟨0, 0⟩ [.tok (.special .none (.memnode 3)) (tok 0)]).isSome = true := by
  exact ⟨fun ⟨_, _, h⟩ => by simp [hd, at_] at h, ⟨_, _, rfl⟩, by decide, by decide⟩

/-- Each failed check of the statement fails somewhere. -/
theorem witness_checks_fail :
    let q (r : Option Nat) : Ask := askOf (hd .s32 1) (mc r) .load false false
    let at1 (r : Option Nat) (o : Nat) : Option FCode :=
      match (idle.place (fire [tok o]) (q r) o).1 with | .error (.fault c _) => some c | _ => none
    at1 none 0x0200000000000000 = some .aperture ∧ at1 none 0xFE00000000004000 = some .mtMode ∧ at1 none 2 = some .align ∧
      at1 none 0xFD00000000200000 = some .prot ∧ at1 (some 16) 0 = some .handleInvalid ∧ at1 (some 0) 4096 = some .handleBound ∧
      at1 (some 0) 2 = some .align ∧ at1 (some 2) 64 = some .handleBound ∧ ({ tok 0 with flags := 8 } : Tok).flag .poison = true ∧
      at1 none 0xFD00000000000000 = none := by decide

theorem witness_region_modes :
    let m : MTile := { mtr := [0x80000008, 0x84200008, 0x88420008, 0x8C600000] }
    m.mode 0 = 0 ∧ m.mode 1 = 1 ∧ m.mode 2 = 2 ∧ m.mode 3 = 3 ∧ 0 < m.size 2 ∧ m.check 0 60 4 false = none ∧ m.check 0 61 4 false ≠ none ∧
      m.check 2 124 4 false = none ∧ m.check 2 124 4 true ≠ none := by decide

/-- A handle of each space for GTOH and HTOG, with a generic address of its space. -/
theorem witness_address :
    (∀ h ∈ [0, 1, 2], passes (idle.checkHandle ⟨0, 0⟩ 0 h 0 0) = true ∧ passes (idle.checkHandle ⟨0, 0⟩ 0 h 60 1) = true) ∧
    passes (idle.checkHandle ⟨0, 0⟩ 0 9 0 0) = false ∧
    genericOf 0 0x10004 = some (.virt, 0, 0x10004) ∧ genericOf 0 0xFD00000000000004 = some (.sdm, 0, 4) ∧
      genericOf 0 0xFE00000000000004 = some (.mt, 0, 4) ∧ genericOf 0 0x0200000000000000 = none := by decide

/-! Accesses on their way, and the steps of the memory system. -/

/-- Access 1 of the block, with one answer, its page known to lie at 0x200000. -/
def acc (k : AccKind) (sp : Space) (addr size : Nat) (opc : Nat := 0x200) : Access :=
  { id := 1, x := ⟨0, 0⟩, ctx := 0, uid := some 0, hdr := 0, node := 1, pos := 0, opc := opc, tag := 0, depth := 0, kind := k, region := none,
    wpred := .none, wsucc := .none, scope := .module, acq := false, rel := false, vec := false, fmt := .z32,
    store := (k == .store || k == .rmw 0), space := sp, die := 0, mtr := 0, addr := addr, size := size, ew := 4, elw := 32, policy := 0, arg := 0,
    desc := tok 0, b := tok 5, c := tok 0, st := .sent, pages := [⟨0x10000, 0, 0x200000, 0⟩], poison := false, outs := [tok 7] }

/-- The idle world with that access on its way, first at its memory port. -/
def onWay (a : Access) : State :=
  { idle with
    cells := [(0, { cell with nodeq := [[1]] })]
    msys := { idle.msys with accs := [a] } }

theorem witness_sdm : ∀ k ∈ [AccKind.store, .load, .rmw 0], let a := acc k .sdm 16 4
    (onWay a).acc a.id = some a ∧ a.st = .sent ∧ a.twin = none ∧ a.ans = false ∧
      (((onWay a).cell a.x).nodeq.getD 0 []).head? = some a.id ∧ (onWay a).portBehind a = false ∧
      ((onWay a).sdmCheck a.die a.addr a.size).1 = .ready := by decide +kernel

/-- An access that has no place yet, and one that took its place as it issued and is replayed. -/
theorem witness_checking : let a : Access := { acc .load .virt 0x10000 4 with st := .check }
    idle.checking (fire [tok 8]) = none ∧ (onWay a).checking (fire [tok 8]) = some a := by decide +kernel

/-- The operand store of the tile with its operand full, for a load of it. -/
def mtFull (a : Access) : State :=
  { onWay a with cells := [(0, { cell with mt := { cell.mt with regs := [{ full := [true], wc := [0], rc := [0] }, {}, {}, {}] } })] }

theorem witness_mt_store : let a := acc .store .mt 0 4
    (onWay a).acc a.id = some a ∧ ((onWay a).cell a.x).mt.mode a.mtr < 2 ∧ (onWay a).mtBehind a = false ∧
      ((onWay a).mtSpot a.x a.mtr a.addr a.store).isSome = true ∧
      (onWay a).bankCheck a.x ((onWay a).bankByte a.x (((onWay a).mtSpot a.x a.mtr a.addr a.store).getD 0)) a.size = (.ready, onWay a) := by
  decide +kernel

theorem witness_mt_load : let a := acc .load .mt 4 4
    (mtFull a).acc a.id = some a ∧ ((mtFull a).mtSpot a.x a.mtr a.addr a.store).isSome = true ∧ (mtFull a).mtBehind a = false ∧
      (mtFull a).bankCheck a.x ((mtFull a).bankByte a.x (((mtFull a).mtSpot a.x a.mtr a.addr a.store).getD 0)) a.size = (.ready, mtFull a) := by
  decide +kernel

/-- An operand store and a FIFO; a store that fills its operand and one that does not; a load that empties it. -/
theorem witness_region_order : let m := cell.mt
    m.mode 0 = 0 ∧ m.mode 1 = 1 ∧ 1 < m.regs.length ∧ m.size 0 ≤ (m.regs.getD 0 {}).wc.getD 0 0 + m.size 0 ∧ 0 < m.size 0 ∧
      (m.regs.getD 0 {}).wc.getD 0 0 + 0 < m.size 0 ∧ m.size 0 ≤ (m.regs.getD 0 {}).rc.getD 0 0 + m.size 0 := by decide

theorem witness_virtual : ∀ k ∈ [AccKind.store, .load, .ldr, .rmw 0], let a := acc k .virt 0x10010 4; let s := onWay a
    s.acc a.id = some a ∧ 0 < a.nEls ∧ s.elBlocked a 0 = false ∧ (paOf a.pages a.addr).getD 0 = 0x200010 ∧
      paKind s.host.cxl 0x200010 = .hbm 0 ∧ (s.die 0).power.on = true ∧ (∀ k, k < 4 → isRemote (0x200010 + k) = false) ∧
      (∀ p ∈ a.pages, isRemote p.pa = false) ∧ s.cutOff 0x200010 = false ∧ barAt 0x200010 = none ∧
      (List.range a.nEls).all (fun e => e == 0 || a.els.contains e) = true := by decide +kernel

/-- A vector store has sixteen elements; its first is not its last. -/
theorem witness_virtual_vector : let a := { acc .store .virt 0x10000 64 with vec := true }
    a.nEls = 16 ∧ (List.range a.nEls).all (fun e => e == 0 || a.els.contains e) = false ∧ (onWay a).elBlocked a 0 = false := by decide +kernel

/-- An access whose page is the barrier window. -/
def barAcc (k : AccKind) (opc off : Nat) : Access := { acc k .virt (0x10000 + off) 4 opc with pages := [⟨0x10000, 0, 0xFFFFFF0000000, 0⟩] }
/-- The world in which counter 0 holds COUNT and TARGET. -/
def barWorld (a : Access) (n t : Nat) : State := { onWay a with msys := { (onWay a).msys with bars := [(0, (n, t))] } }

/-- Every clause of the statement: a read of each word, a write of TARGET and of COUNT, an AADD with TARGET 0, one below it, one that
reaches it, and another operation. -/
theorem witness_barrier : ∀ p ∈ [(barAcc .load 0x200 0, 3, 9), (barAcc .load 0x200 4, 3, 9), (barAcc .store 0x201 4, 3, 0), (barAcc .store 0x201 0, 3, 9),
      (barAcc (.rmw 0) 0x240 0, 3, 0), (barAcc (.rmw 0) 0x240 0, 3, 9), (barAcc (.rmw 0) 0x240 0, 4, 9), (barAcc (.rmw 1) 0x241 0, 3, 9)],
    let a := p.1; let s := barWorld a p.2.1 p.2.2; let pa := (paOf a.pages (a.addr + 0 * a.elSize)).getD 0
    s.acc a.id = some a ∧ a.nEls = 1 ∧ a.els = [] ∧ s.elBlocked a 0 = false ∧ s.cutOff pa = false ∧ isRemote pa = false ∧
      (∀ p ∈ a.pages, isRemote p.pa = false) ∧ paKind s.host.cxl pa = .barrier ∧ (s.die (paDie s.host.cxl pa)).power.on = true ∧
      barAt pa = some (0, 0, 0) ∧ (tget 0 s.msys.bars).getD (0, 0) = p.2 ∧ s.heldAt 0 < 1024 := by decide +kernel

/-- Operand 5 against the counts above: the clauses' bounds. -/
theorem witness_barrier_values : (tok 5).elem 32 0 = 5 ∧ 3 < 5 ∧ 5 < 9 ∧ (3 + 5) % 2 ^ 32 < 9 ∧ 9 ≤ (4 + 5) % 2 ^ 32 := by decide +kernel

/-- A CMLS of one line whose version is as expected, and one whose version is not. -/
theorem witness_cmls_versions : ∀ v ∈ [0, 1],
    let a := { acc .cmls .virt 0x10000 128 with desc := cmlsTok (v * 2 ^ 96) 1 }; let s := onWay a
    s.acc a.id = some a ∧ s.elBlocked a 0 = false ∧ s.cutOff 0x200000 = false ∧ (paOf a.pages a.addr).getD 0 = 0x200000 ∧
      s.homeFault 0x200000 = none ∧ isRemote 0x200000 = false ∧ barAt 0x200000 = none ∧
      (s.elPaths a 0).eraseDups.length ≤ 1 ∧ a.lines = [(0, 0x10000)] := by decide +kernel

/-- An access that waits in its wave buffer. -/
def waits (a : Access) : Access := { a with st := .wait }

theorem witness_wave_buffer : ∀ a ∈ [waits (acc .ord .virt 0 0), waits (acc .fence .virt 0 0), waits (acc (.mem 0) .sdm 0 4), waits (acc .load .mt 4 4),
      waits (acc .load .sdm 4 4), waits (acc .store .virt 0x10000 4)], let s := onWay a
    s.acc a.id = some a ∧ a.st = .wait ∧ (s.ctx a.ctx).st ≠ .saved ∧ s.sendable a (s.chainOf a).1 (s.accsOf (s.chainOf a).2) = true ∧
      s.dualOf a.x a.ctx = none ∧ ¬ (a.kind = .store ∧ a.scope = .site) ∧ ((s.cell a.x).nodeq.getD 0 []).length < 8 ∧
      0 < (s.cell a.x).nodeq.length ∧ s.missFull a.x.die (s.accMisses a) = false ∧ s.missHeld a = false := by decide +kernel

/-- A store of SITE scope, not yet answered, for the tile. -/
theorem witness_site_store : let a : Access := { waits (acc .store .mt 0 4) with scope := .site }; let s := onWay a
    s.acc a.id = some a ∧ a.st = .wait ∧ s.sendable a (s.chainOf a).1 (s.accsOf (s.chainOf a).2) = true ∧ s.missHeld a = false ∧
      s.dualOf a.x a.ctx = none ∧ a.ans = false := by decide +kernel

/-- A chain whose earlier access has not been sent is not yet let out. -/
theorem witness_wave_buffer_waits : let a := { waits (acc .load .virt 0x10000 4) with wpred := .pos 0 }
    (onWay a).sendable a ((onWay a).chainOf a).1 ((onWay a).accsOf ((onWay a).chainOf a).2) = false := by decide +kernel

/-- Page tables of tenant 0: 1 GiB at virtual 0, with the upper bits of the leaf as given. -/
def paged (a : Access) (top : Nat) : State :=
  { onWay a with
    mem := [(0x1000, 1), (0x1001, 0x20), (0x2000, 1), (0x2001, 0x30), (0x3000, 3), (0x3003, 0x40), (0x3007, BitVec.ofNat 8 top)]
    dies := [(0, { tab := { ptroot := [(0, 0x1000)] } })] }

def missed (k : AccKind) : Access := { acc k .virt 0x10000 4 with st := .walk }

theorem witness_page_walk : let a := missed .load; let s := paged a 0x8A
    s.acc a.id = some a ∧ a.st = .walk ∧ (s.ctx a.ctx).st ≠ .saved ∧
      passes (s.lookAll a false a.ranges []) = true := by decide +kernel

/-- Page tables whose leaf is a shared page of 2 MiB. -/
def sharedPage : List Host.Cell :=
  [(0x1000, 1), (0x1001, 0x20), (0x2000, 1), (0x2001, 0x30), (0x3000, 1), (0x3001, 0x40), (0x4000, 3), (0x4003, 0x40), (0x4007, 0xC5)]

/-- That of a store of SITE scope, and of a write that finds its page shared. -/
theorem witness_page_walk_stores : let a : Access := { missed .store with scope := .site }
    a.ans = false ∧ passes ((paged a 0x8A).lookAll a false a.ranges []) = true ∧
      (match (({ paged a 0 with mem := sharedPage } : State).lookAll a false a.ranges []).1 with | .error (.copy _ _, _) => true | _ => false) = true := by
  decide +kernel

/-- The walk of a page not resident, and of one in migration. -/
theorem witness_page_walk_stops : let a := missed .load
    (match ((paged a 0xAA).lookAll a false a.ranges []).1 with | .error (.fault c, _) => some c | _ => none) = some .nonres ∧
      (match ((paged a 0xBA).lookAll a false a.ranges []).1 with | .error (.migr, _) => true | _ => false) = true := by decide +kernel

/-- Leaves of every state, with and without W and COW. -/
theorem witness_translation : ∀ p ∈ [(0x0A, 0, false, false), (0x8A, 0, true, false), (0xCA, 0, true, true), (0x9A, 1, true, false), (0xAA, 2, true, false), (0xBA, 3, true, false)],
    (match ((paged (missed .load) p.1).walk 0 0 0x10000).1 with
     | .ok (e, _) => some (pteState e, pteW e, pteCow e, decide (barAt (ptePa e) = none), decide ((paged (missed .load) p.1).refcnt (ptePa e) ≠ 1))
     | .error _ => none) = some (p.2.1, p.2.2.1, p.2.2.2, true, true) := by decide +kernel

/-- A copy of one page in progress. -/
theorem witness_copied_page : let w : CowCopy := ⟨0, 0, 0, 0x10000, 0x3000, 0x800000000000000F, 0x200000, 0x400000, 1, none, 0⟩
    let s := { idle with msys := { idle.msys with cows := [w] }, host := { idle.host with meta_ := 0x700000 } }
    s.msys.cows[0]? = some w ∧ s.refcnt w.old ≠ 1 ∧ w.old / 4096 ≠ w.new / 4096 ∧
      (s.metaAt w.old + 4 ≤ w.new ∨ w.new + pageBytes (pteSize w.pte) ≤ s.metaAt w.old) ∧
      (s.metaAt w.old + 4 ≤ w.ptePa ∨ w.ptePa + 8 ≤ s.metaAt w.old) ∧ isRemote (w.new + 0) = false ∧
      (s.ctx w.ctx).st ≠ .saved ∧ (s.ctx w.ctx).pre.phase ≠ 1 := by decide +kernel

/-- A copy for a firing of a context that is saved. -/
theorem witness_copy_waits : let w : CowCopy := ⟨0, 0, 0, 0x10000, 0x3000, 0x800000000000000F, 0x200000, 0x400000, 1, some (.refire 4), 0⟩
    let s : State := { idle with msys := { idle.msys with cows := [w] }, ctxs := [(0, { ctx with st := .saved })] }
    s.msys.cows[0]? = some w ∧ w.init.isSome = true ∧ (s.ctx w.ctx).st = .saved := by decide +kernel

/-- A memory-node request of each operation, at the head of port 1. -/
def nodeWorld (w1 : Nat) : State :=
  let q : NodeReq := ⟨1, ⟨0, 0⟩, 1, { tok 9 with kind := 3, req := some (BitVec.ofNat 128 (0x40 + w1 * 2 ^ 32 + 2 ^ 64)) }, .sent, false⟩
  { idle with cells := [(0, { cell with nodeq := [[], [1]] })], msys := { idle.msys with reqs := [q] } }

theorem witness_memory_node : ∀ p ∈ [(0x02800000, 0), (0x06800000, 0), (0x42800000, 1), (0x82800000, 2)], let s := nodeWorld p.1
    (((s.cell ⟨0, 0⟩).nodeq.getD 1 []).head? = some 1) ∧ (match s.msys.reqs.find? (fun r => r.id == 1) with
      | some q => (match q.tok.req with
        | some r => reqOk r && reqField r 1 30 2 == p.2 && reqField r 1 23 1 == 1 && s.sdmOwned 0 0x40 (2 ^ reqField r 1 24 3) (s.ctx q.tok.ctx).tenant
          && (s.sdmCheck 0 0x40 (2 ^ reqField r 1 24 3)).1 == .ready && !s.reqBehind q && !s.portOwes q && !q.ans
        | none => false)
      | none => false) = true := by decide +kernel

theorem witness_memory_node_invalid : reqOk (BitVec.ofNat 128 (0xC2800000 * 2 ^ 32)) = false ∧ reqOk (BitVec.ofNat 128 (0x02800000 * 2 ^ 32 + 1)) = false := by decide

/-- An ordering request of MODULE scope behind a request of its port that has faulted. -/
theorem witness_memory_node_waits : let r : BitVec 128 := BitVec.ofNat 128 (0x40 + (0x82800000 + 4 * 2 ^ 27) * 2 ^ 32 + 2 ^ 64)
    let q : NodeReq := ⟨1, ⟨0, 0⟩, 1, { tok 9 with kind := 3, req := some r }, .sent, false⟩
    let s : State := { nodeWorld 0 with msys := { idle.msys with reqs := [q, { q with id := 2, st := .parked }] } }
    reqOk r = true ∧ reqField r 1 30 2 = 2 ∧ reqField r 1 27 3 ≠ 0 ∧ s.portOwes q = true := by decide +kernel

/-- A bank that is to change its power, for each state; one that wakes; a gibibyte in retention; a latched record that can enter. -/
theorem witness_power : (∀ v ∈ [0, 1, 2], let m : MTile := { pend := [(3, some v, [])], pwr := if v = 0 then 0x40 else 0 }
      m.pend.find? (fun p => p.1 == 3 && p.2.1.isSome) = some (3, some v, []) ∧ m.power 3 ≠ v) ∧
    ({ pend := [(3, none, [])] } : MTile).waking 3 = true ∧
    (({ idle with dies := [(0, { power := { wakes := [5] } })] } : State).die 0).power.wakes.contains 5 = true ∧
    (idle.die 0).power.wakes.contains 5 = false := by decide +kernel

theorem witness_latched : let l : Latch := ⟨0, { code := .arith }, .none, false⟩; let s := { idle with latches := [l] }
    s.latches[0]? = some l ∧ (∀ m ∈ s.latches.take 0, m.fr.ctx ≠ l.fr.ctx) ∧
      (match s.putRecord l.fr l.what with | .done _ => true | _ => false) = true := by decide +kernel

/-! Key stores. -/

/-- Nothing refuses a firing, as a Boolean. -/
def clear (s : State) (f : Firing) (ts : List Target) (flags exits : Nat) : Bool :=
  s.cur == some f && flags &&& (s.ctx f.ent.ctx).amask.toNat == 0 &&
    ts.all (fun g => (tagAct (s.ctx f.ent.ctx).tl (tgtAct g) f.tagOf).isSome) && !s.exitExcess f (exits + exitTargets ts)

theorem clear_of {s : State} {f : Firing} {ts : List Target} {flags exits : Nat} (h : clear s f ts flags exits = true) :
    Clear s f ts f.tagOf flags exits := by
  simp only [clear, Bool.and_eq_true, beq_iff_eq, List.all_eq_true, Bool.not_eq_true'] at h
  exact ⟨h.1.1.1, h.1.1.2, h.1.2, h.2⟩

/-- The records of an instruction. -/
def recsOf (i : Instr) : List Rec := match encode i with | some (r, some e) => [r, e] | some (r, none) => [r] | none => []

/-- Two entries of S8 keys of four elements. -/
def kent (seq life : Nat) (key : List Nat) : KEnt :=
  { seq := seq, life := life, gin := 0, gout := 0xFFFFFFFF, norm := 0, poison := false, vfmt := .z32, vec := false, value := BitVec.ofNat 512 (100 + seq),
    key := key, slot := seq }
def kstore (width seq g : Nat) : KStore := ⟨1, 0, 8, width, seq, g, [kent 0 1 [1, 2, 3, 4], kent 1 2 [4, 3, 2, 1]], none, [], false⟩

/-- A firing of the block whose first record is a KMATCH, in a world where its store holds the two entries. -/
def keyWorld (i : Instr) (k : KStore) (f : Firing) : State :=
  { world f with cells := [(0, { cell with blks := [{ blk ⟨0, 0, 0⟩ with recs := recsOf i }], stores := [k] })] }

/-- The store is there, the change can be planned, and nothing refuses the firing. -/
def changeable (s : State) (f : Firing) (new : List KEnt) : Bool :=
  match State.view { s with cur := none } f.x f.ent.ctx 1 with
  | (.ok (some v), s1) => passes (s1.plan f.x f.ent.ctx v new) && clear { (s1.plan f.x f.ent.ctx v new).2 with cur := some f } f locals 0 0
  | _ => false

/-- Entries of a store in a frame, and of a STREAM store, whose places are found in memory. -/
theorem witness_key_store : changeable (keyWorld (.kmatch (hd .s8 1) kc) (kstore 1 2 5) (fire [tok 0, tok 1])) (fire [tok 0, tok 1]) [] = true ∧
    changeable (keyWorld (.kmatch (hd .s8 1) { kc with res := .stream, ext := some (0, 0, 0) }) { kstore 1 2 5 with ents := [] } (fire [tok 0, tok 1]))
      (fire [tok 0, tok 1]) [kent 3 0 [1, 1, 1, 1]] = true := by decide +kernel

/-- G at its greatest, and not; a SET to a smaller G and to G itself. -/
theorem witness_key_generations : (kstore 1 2 5).g ≠ 0xFFFFFFFF ∧ (kstore 1 2 0xFFFFFFFF).g = 0xFFFFFFFF ∧ (kstore 1 2 5).g ≤ (tok 5).w64 % 2 ^ 32 ∧
    (tok 4).w64 % 2 ^ 32 < (kstore 1 2 5).g := by decide +kernel

/-- What a view of the store of a world answers for the hypotheses of an insertion: the key reads, a place, room in SEQ. -/
def insertable (s : State) (f : Firing) (c : KinsCtl) : Option (Bool × Bool × Option Nat × Bool) :=
  match State.view { s with cur := none } f.x f.ent.ctx 1 with
  | (.ok (some v), s1) =>
    match s1.readKey f (f.op 0) c.kref v.c.d v.k.kw with
    | (.ok _, s2) => some (v.c.sh, keyWidth v.h.fmt v.reg == v.k.kw, s2.entryPlace f.x v, decide (v.k.seq < 2 ^ 40))
    | _ => none
  | _ => none

theorem witness_key_insertion : let f := fire [tok 0x04030201, tok 9]; let s (k : KStore) := keyWorld (.kmatch (hd .s8 1) kc) k f
    (insertable (s (kstore 1 2 5)) f ⟨0, false, 0, 1⟩).map (fun p => (p.1, p.2.1, p.2.2.1.isSome, p.2.2.2)) = some (false, true, true, true) ∧
    insertable (s (kstore 300 2 5)) f ⟨0, false, 0, 1⟩ = some (false, true, none, true) ∧
    (insertable (s (kstore 1 (2 ^ 40) 5)) f ⟨0, false, 0, 1⟩).map (fun p => (p.2.2.1.isSome, p.2.2.2)) = some (true, false) ∧
    insertable (s { kstore 1 2 5 with kw := 16 }) f ⟨0, false, 0, 1⟩ ≠ none ∧
    (insertable (s { kstore 1 2 5 with kw := 16 }) f ⟨0, false, 0, 1⟩).map (fun p => p.2.1) = some false ∧
    2 ^ 32 - 1 ≤ (kstore 1 2 0xFFFFFFFE).g + 1 ∧ (kstore 1 2 5).g + 1 < 2 ^ 32 - 1 ∧ (f.op 1).vec = kc.vvec ∧ (vtok 0).vec ≠ kc.vvec ∧
    ({ tok 0 with flags := 8 } : Tok).flag .poison = true := by decide +kernel

/-- A query of which both entries win, and one of an empty store. -/
def queried (k : KStore) : Option (Nat × Bool × Bool) :=
  let f := fire [tok 0x04030201]
  match State.view { keyWorld (.kmatch (hd .s8 1) kc) k f with cur := none } f.x 0 1 with
  | (.ok (some v), s1) =>
    match s1.readKey f (f.op 0) false kc.d v.k.kw with
    | (.ok (q, _), s2) =>
      let win := winners .s8 v.c (scoreAll .s8 v.reg v.c q v.k.g v.ents)
      match sendList (s2.ctx 0).tl f.x (querySends (s2.ctx 0).tl f (hd .s8 1) false (weighted v.c .s8 win)) with
      | some toks => some (win.length, decide (f.ent.depth < nlev (s2.ctx 0).tl ∧ win.length - 1 < 2 ^ lvlWidth (s2.ctx 0).tl (f.ent.depth + 1)),
          (s2.exitExcess f (toks.filter Tok.isExit).length))
      | none => none
    | _ => none
  | _ => none

/-- A copy slot for a scan, and none left. -/
theorem witness_scan : (idle.freeScan 0).isSome = true ∧
    ({ idle with dies := [(0, { eng := { scans := ((List.range 7).map (fun st => (List.range 4).map (fun k => (st, k, 9)))).flatten } })] } : State).freeScan 0 = none := by
  decide +kernel

theorem witness_query : queried (kstore 1 2 5) = some (2, true, false) ∧ queried { kstore 1 2 5 with ents := [] } = some (0, true, false) := by decide +kernel

theorem witness_integer_scores : ([1, 2, 3, 255] : List Nat).length ≤ 256 ∧ ∀ v ∈ ([1, 2, 3, 255] : List Nat), v < 256 := by decide

/-- A merge of no candidates. -/
theorem witness_empty_merge : let o : LOp := ⟨1, 0, 1, ⟨0, 0⟩, fire [tok 0], .query { kc with sh := true } .s8 0 [] false, some 7, [], 0, [], false, [], ⟨0, none, 0, 0, 0, 0, false, []⟩⟩
    winners .s8 kc (o.cands.map (fun e => (e.2.1, e.2.2))) = [] ∧
      (sendList ctx.tl o.x (querySends ctx.tl o.f (hd .s8 1) false (weighted kc .s8 []))).isSome = true := by decide +kernel

/-- A store of two shards, and an operation on it. -/
def lcell (q : List ShardOp) : Cell :=
  { cell with blks := [{ blk ⟨0, 0, 0⟩ with recs := recsOf (.kmatch (hd .s8 1) { kc with sh := true }) }], stores := [{ kstore 1 2 5 with queue := q }] }
def lop (k : LKind) : LOp := ⟨1, 0, 1, ⟨0, 0⟩, fire [tok 0], k, none, [], 0, [], false, [], ⟨0, none, 0, 0, 0, 0, false, []⟩⟩
def lWorld (q : List ShardOp) (o : List LOp) (seq g : Nat) (f : Option Firing) : State :=
  { world (fire []) with cur := f, cells := [(0, lcell q)], dies := [(0, { eng := { lstores := [⟨0, 0, 1, 0, [0, 1], seq, g, 7, 0⟩], lops := o } })] }

theorem witness_store_operation_queues : let f := fire [tok 0x04030201, tok 9]; let s := lWorld [] [] 2 5 (some f)
    okSome (State.view { s with cur := none } f.x 0 1) = true ∧ clear s f locals 0 0 = true ∧
    (matchCheck (s.ctx 0).tl f (hd .s8 1) 2).isSome = true ∧
    ((matchCheck (s.ctx 0).tl f (hd .s8 1) 2).bind (sendList (s.ctx 0).tl f.x)).isSome = true ∧
    [Instr.kdel (hd .s4 1) true 1, .kpurge (hd .s4 1) 1, .kgenRead (hd .s4 1) 1, .kgenAdv (hd .s4 1) 1, .kgenSet (hd .s4 1) 1,
      .kins (hd .s8 2) ⟨0, false, 0, 1⟩, .kmatch (hd .s8 1) { kc with sh := true }].all WellFormed = true := by decide +kernel

theorem witness_store_operation_sequence : ∀ k ∈ [LKind.ins ⟨0, false, 0, 1⟩ (kent 0 0 []), .del true 3, .purge, .gen 0 0, .gen 1 0, .gen 2 6,
      .query kc .s8 0 [1, 2, 3, 4] false], let s := lWorld [] [lop k] 2 5 none
    (s.die 0).eng.lops[0]? = some (lop k) ∧ (s.lstore ⟨0, 0⟩ 0 1).isSome = true ∧ (lop k).x.die = 0 ∧ (lop k).on = none := by decide +kernel

/-- The shard's store can be read, and its change planned. -/
def shardReady (s : State) (new : List KEnt) : Bool :=
  match s.viewOf ⟨0, 0⟩ 0 1 with
  | some v => (match s.region ⟨0, 0⟩ 0 v with | (.ok v1, s1) => passes (s1.plan ⟨0, 0⟩ 0 v1 new) | _ => false)
  | none => false

theorem witness_shard : let k := { kstore 1 2 5 with queue := [⟨1, 7⟩] }
    ∀ op ∈ [LKind.del true 3, .purge, .gen 3 6], let s := lWorld [⟨1, 7⟩] [{ lop op with on := some 7 }] 2 5 none
      (∀ j ∈ (s.cell ⟨0, 0⟩).stores, j.hold = none) ∧ s.swapping ⟨0, 0⟩ = false ∧
      (s.cell ⟨0, 0⟩).stores.find? (fun k => !k.queue.isEmpty && s.worksOn k.ctx) = some k ∧ (s.cell ⟨0, 0⟩).store k.ctx k.node = some k ∧
      ((s.die 0).eng.lops.find? (fun o => o.id == 1)).isSome = true ∧ shardReady s [] = true := by decide +kernel

/-- The merging of a query's candidates at its entry shard. -/
theorem witness_merge : let o := { lop (.query { kc with sh := true } .s8 0 [1, 2, 3, 4] false) with on := some 7, cands := [(0, 5, kent 0 1 []), (1, 9, kent 3 1 [])] }
    let s := lWorld [] [o] 2 5 none
    o.todo = [] ∧ s.latched (siteUnit o.x) < 4 ∧ ((s.cell o.x).kmatchAt o.ctx o.node).isSome = true ∧
      o.f.ent.depth < nlev (s.ctx 0).tl ∧ 2 - 1 < 2 ^ lvlWidth (s.ctx 0).tl (o.f.ent.depth + 1) ∧
      (match sendList (s.ctx 0).tl o.x (querySends (s.ctx 0).tl o.f (hd .s8 1) false (weighted kc .s8 (winners .s8 kc (o.cands.map (fun e => (e.2.1, e.2.2)))))) with
       | some toks => !s.exitExcess o.f (toks.filter Tok.isExit).length | none => false) = true := by decide +kernel

/-- The commit of a merged query at a shard that holds for it. -/
theorem witness_commit : let o := { lop (.query kc .s8 0 [1, 2, 3, 4] false) with merged := true }
    let k := { kstore 1 2 5 with hold := some 1 }
    let s := { lWorld [] [o] 2 5 none with cells := [(0, { lcell [] with stores := [k] })] }
    (s.cell ⟨0, 0⟩).stores.find? (fun k => k.hold.isSome) = some k ∧ (s.cell ⟨0, 0⟩).store k.ctx k.node = some k ∧
      (s.die 0).eng.lops.find? (fun o => k.hold == some o.id) = some o ∧ shardReady s [] = true := by decide +kernel

/-! Streamers, queues and planes. -/

/-- The descriptor of a copy of 64 bytes from handle 0 to handle 1, and the memory that holds it where handle 0 begins. -/
def desc : Desc := [1, 0, 0, 0x003F2000, 0, 0, 0, 0, 0, 0, 0, 0, 0, 0, 0, 0]
def descMem : List Host.Cell := [(0x200000, 1), (0x20000D, 0x20), (0x20000E, 0x3F)]
def strmWorld (m : List Host.Cell) (e : Engines) (f : Firing) : State := { world f with mem := m, dies := [(0, { tab := { sdmOwn := [(0, 0)] }, eng := e })] }

/-- What the descriptor read by a firing with offset 0 is. -/
def descRead (s : State) (f : Firing) : Option (Option Desc) :=
  match State.readDesc { s with cur := none } f.x 0 0 0 with | (.ok d, _) => some d | _ => none

theorem witness_descriptor : let f := fire [tok 0]
    descRead (strmWorld descMem {} f) f = some (some desc) ∧ descOk desc false = true ∧ descOk desc true = true ∧
      clear (strmWorld descMem {} f) f locals 0 0 = true ∧ (strmWorld descMem {} f).armBusy f.x 0 0 0 none desc = false := by decide +kernel

/-- A descriptor that cannot be read, one that is poisoned, one that is not valid for either, and one that only STRM takes. -/
theorem witness_descriptor_stops : let f := fire [tok 0]
    (match State.readDesc { strmWorld [] {} f with cur := none } f.x 0 9 0 with | (.error _, _) => true | _ => false) = true ∧
      descRead { strmWorld descMem {} f with poison := [0x10000] } f = some none ∧
      descRead (strmWorld [] {} f) f = some (some (List.replicate 16 0)) ∧ descOk (List.replicate 16 0) false = false ∧
      descOk (List.replicate 16 0) true = false ∧ descOk (desc.set 14 0x80000000) true = false ∧ descOk (desc.set 14 0x80000000) false = true ∧
      (strmWorld descMem { queues := [(5, { bind := some (3, 0, 0) })] } f).armBusy f.x 0 0 0 (some 5) desc = true := by decide +kernel

/-- A template in use by a copy that runs. -/
def tmpl : Tmpl := ⟨0, 0, 0, ⟨0, 0⟩, desc, none⟩
def copy (d : Desc) : Copy := ⟨1, 0, 0, 0, ⟨0, 0⟩, some 5, some 0, tok 0, d, .die, none, .run, true, 0, [], [], [], 0, none⟩

theorem witness_arm_pending : let s := strmWorld descMem { tmpls := [tmpl], copies := [copy desc] } (fire [tok 0])
    s.tmpl 0 0 0 0 = some tmpl ∧ s.slotIdle 0 0 0 0 = false ∧ s.armBusy ⟨0, 0⟩ 0 0 0 none desc = false := by decide +kernel

/-- A queue that the context may post to, with room and without; one of another context; one that is empty. -/
theorem witness_queue : let s (q : HQueue) := strmWorld [] { queues := [(5, q)] } (fire [tok 0])
    (s { bind := some (0, 0, 0) }).queueTakes 0 5 0 = true ∧ ((s { bind := some (0, 0, 0) }).queue 0 5).toks.length < 32 ∧
      32 ≤ ((s { bind := some (0, 0, 0), toks := List.replicate 32 (tok 0) }).queue 0 5).toks.length ∧ (s {}).queueTakes 0 5 0 = false ∧
      (s { bind := some (3, 0, 0) }).queueOther 0 5 0 = true ∧ (s { bind := some (0, 0, 0) }).queueOther 0 5 0 = false ∧
      ((s { bind := some (0, 0, 0), toks := [tok 1] }).queue 0 5).toks ≠ [] ∧ clear (s {}) (fire [tok 0]) locals 0 0 = true := by decide +kernel

theorem witness_queue_step : ∀ t ∈ [tok 1, { tok 1 with flags := 32 }, { tok 1 with flags := 8 }, { tok 1 with flags := 2 }],
    let s := strmWorld [] { queues := [(5, { bind := some (0, 0, 0), toks := [t] })], tmpls := [tmpl] } (fire [])
    (s.queue 0 5).bind = some (0, 0, 0) ∧ s.tmpl 0 0 0 0 = some tmpl ∧ s.portal 0 5 = none ∧ s.startable tmpl.x 0 = true ∧
      (s.die 0).draining tmpl.x 0 = false ∧ s.queueWorks 0 5 = false := by decide +kernel

/-- A request that takes slot 0, its ranges checked. -/
theorem witness_copy_start : let r : CopyReq := { st := 0, ctx := 0, x := ⟨0, 0⟩, queue := some 5, tmpl := some 0, tok := tok 0, desc := desc, scope := .die, direct := none }
    let s := strmWorld [] { creqs := [r] } (fire [])
    let c : Copy := { copy desc with state := .start, began := false }
    (s.die 0).eng.creqs.find? (fun r => r.st == 0 && s.startable r.x r.ctx) = some r ∧ s.copyHeld 0 c = false ∧
      passes ((s.modEng 0 (fun e => { e with nextId := 2, creqs := [], copies := [c] })).copyRanges c) = true ∧
      descClvl r.desc + 1 = descNdim r.desc := by decide +kernel

/-- A copy that can send its sector, and one whose sector can perform: handle to handle, and zeros. -/
theorem witness_sector : let s (c : Copy) := strmWorld [] { copies := [c] } (fire [])
    let fl (d : Desc) : Copy := { copy d with flight := [(0, 3)] }; let zero := desc.set 3 0x003F2100
    (s (copy desc)).copyOf 4 = some (0, copy desc) ∧ (s (copy desc)).copyRuns (copy desc) = true ∧ (copy desc).nextSector = some 0 ∧
      (s (copy desc)).copyHeld 0 (copy desc) = false ∧
      (match (s (copy desc)).sectorIssue (copy desc) 0 with | some (.ok (), _) => true | _ => false) = true ∧
      (fl desc).flight.find? (fun f => f.1 == 0) = some (0, 3) ∧
      (match (s (fl desc)).sectorEnds (fl desc) 3 0 with | some (.ok (.phys a :: _, .sdm 0 b :: _, n), t) => some (a, b, n, t.sdmPower 0 b) | _ => none)
        = some (0x200000, 0, 64, 0) ∧ descZero desc = false ∧ descZero zero = true ∧
      (match (s (fl zero)).sectorEnds (fl zero) 3 0 with | some (.ok (_, _ :: _, n), _) => n | _ => 0) = 64 ∧
      isRemote 0x200000 = false ∧ isRemote (sdmBase 0) = false := by decide +kernel

/-- Plane 0 of the tenant, absent, present, and bound. -/
def planeWorld (b : Option (List (Nat × Nat))) (f : Firing) : State :=
  { world f with
    mem := [(sdmBase 0 + 8, 0x40), (sdmBase 0 + 12, 1)]
    dies := [(0, { tab := { sdmOwn := [(0, 0)], plOwn := [(0, 0)], planes := match b with | none => [] | some l => [⟨0, 1, [], l, []⟩] } })]
    msys := { (world f).msys with hcache := [⟨0, 0, 0, 1, hword 1 0 0x10000⟩] } }

theorem witness_plane : let f := fire [tok 0]
    (planeWorld none f).planeOwned f 0 = true ∧ (planeWorld none f).planeOwned f 1 = false ∧ (planeWorld (some [(0, 0)]) f).planeBound 0 0 = true ∧
      (planeWorld (some []) f).planeBound 0 0 = false ∧ ((planeWorld (some []) f).planeAt 0 0).isSome = true ∧ ((planeWorld none f).planeAt 0 0).isSome = false ∧
      clear (planeWorld none f) f locals 0 0 = true := by decide +kernel

/-- The head of an image of 64 bytes, which its plane can be made of; whether its signature is good is `Config.sigOk`'s. -/
theorem witness_plane_image : let f := fire [tok 0]; let s := { planeWorld none f with cur := none }
    (match s.spots f.x 0 1 0 64 false with
     | (.ok l, s1) =>
       let hd := s1.readSpots l
       !hd.2 && headOk 0 hd.1 && !headOk 1 hd.1 && wordAt hd.1 8 == 64 && (planeOf 0 (hd.1.take 64)).isSome && clear { s1 with cur := some f } f locals 0 0
     | _ => false) = true := by decide +kernel

theorem witness_plane_signature : let f := fire [tok 0]; let s := { planeWorld none f with cur := none }
    (match s.spots f.x 0 1 0 (64 + sigBytes) false with
     | (.ok l, s2) => clear { s2 with cur := some f } f locals 0 0 && !(s2.readSpots l).2
     | _ => false) = true := by decide +kernel

/-- A reconfiguration of two sites, and its token at the first. -/
def recfg (todo : List (Nat × Bool)) (shut : List Nat := []) : Recfg := ⟨1, 0, 0, 0, true, 0, 0, todo, ⟨0, 0⟩, ⟨0, none, 0, 0, 0, 0, false, []⟩, shut⟩
def recfgWorld (todo : List (Nat × Bool)) : State :=
  let p := posOf 3
  { idle with dies := [(0, { recfgs := [recfg todo], net := { mesh := [⟨0, p.1, p.2, 0, p.1, p.2, 3, 0, false, 0, .recfg 1, none⟩] } })] }

theorem witness_recfg : (world (fire [tok 0])).recfgSites ⟨0, 0⟩ none = [0] ∧
    ((world (fire [tok 0])).recfgSites ⟨0, 0⟩ (some ⟨1, 10, 3, 10⟩)).length = 2 ∧ clear (world (fire [tok 0])) (fire [tok 0]) locals 0 0 = true ∧
    WellFormed (.recfgSite (hd .s4 1) 0 none) = true ∧ WellFormed (.recfgBlocks (hd .s4 1) 0 (some ⟨1, 10, 3, 10⟩)) = true := by decide +kernel

theorem witness_recfg_arrival : let s := recfgWorld [(3, false), (4, false)]
    (match (s.die (0 % 4)).net.mesh[0 / 4]? with
     | some p => p.body == .recfg 1 && decide (p.due ≤ s.cycle) && (p.hop 0).isNone && !s.packetBlocked 0 p [] && !s.swapping ⟨0, p.res⟩ && s.pos ⟨0, p.res⟩ == (p.col, p.row)
     | none => false) = true := by decide +kernel

/-- One site left, drained; one of two; and one not yet reached: open, and closed to tokens. -/
theorem witness_reload : ∀ t ∈ [[(3, true)], [(3, true), (4, false)], [(3, false)]], ∀ sh ∈ [([] : List Nat), [3]],
    let s : State := { recfgWorld t with dies := [(0, { recfgs := [recfg t sh] })] }
    (s.die ((1 * 8192 + 3) * 4 % 4)).recfgs.find? (fun r => r.id == (1 * 8192 + 3) * 4 / 4 / 8192) = some (recfg t sh) ∧
      s.recfgIdle (recfg t sh) 3 = true ∧ s.recfgFree (recfg t sh) 3 = true ∧ s.channelsEmpty ⟨0, 3⟩ = true := by decide +kernel

/-- A site with work left, one with a token in a port, and one whose firing pins what it replaces. -/
theorem witness_reload_waits : let r := recfg [(3, true)] [3]; let s (c : Cell) : State := { recfgWorld [] with cells := [(3, c)] }
    (s { pipe := { deps := [⟨0, none, 1, 0, 0, 0, false, [tok 1]⟩] } }).recfgIdle r 3 = false ∧ (s { pipe := { p0 := [tok 1] } }).channelsEmpty ⟨0, 3⟩ = false ∧
      (s { blks := [blk ⟨0x11800000, 0, 0⟩], ready := [ent 0 0] }).recfgFree r 3 = false := by decide +kernel

/-! Islands, walkers, traces and placement. -/

/-- A command of S8 tiles whose last index is 1, without an epilogue. -/
def s8cmd : MxCmd := ⟨.s8, .s8, 0, 0, .s8, 0, .rne, false, false, false, false, false, 1⟩
def cslot (bs : List Bank) : CSlot := ⟨0, 0, ⟨0, 0⟩, s8cmd, [0, 0, 0], false, bs, [{}, {}], 0, true⟩
def islWorld (i : Island) (f : Firing) : State :=
  { planeWorld none f with dies := [(0, { tab := { sdmOwn := [(0, 0)] }, eng := { islands := [(0, i)] } })] }

theorem witness_island_sends : let f := fire [tok 0]; let g : Firing := { f with ent := { f.ent with alone := some { tok 0 with flags := 2 } } }
    let s := islWorld { slots := [cslot [{}, {}]] } f
    clear s f locals 0 0 = true ∧ f.ent.alone = none ∧ g.ent.alone = some { tok 0 with flags := 2 } ∧
      (sendList (s.ctx 0).tl f.x (locals.map (fun t => .marker t (fwdTok g (hd .s4 1) [{ tok 0 with flags := 2 }] { tok 0 with flags := 2 } false)))).isSome = true ∧
      [Instr.mxopArm (hd .s4 1) 0 0 s8cmd, .mxopTileA (hd .s4 1) 0 0 0, .mxopTileB (hd .s4 1) 0 0 3, .mxtab (hd .s4 1) ⟨0, 0, 0, none, 0⟩,
        .mxdrain (hd .s4 1) 0 0 .die 1].all WellFormed = true ∧ ({ tok 0 with flags := 8 } : Tok).flag .poison = true := by decide +kernel

/-- A table that can be read, and a drain whose region can be named, or not. -/
theorem witness_island_reads : let f := fire [tok 0]; let s := { islWorld { slots := [cslot [{}, {}]] } f with cur := none }
    (∀ n ∈ [512, 2048], (match s.cellSpots f.x 0 1 0 n false with | (.ok l, s1) => clear { s1 with cur := some f } f locals 0 0 && !(s1.readSpots l).2 | _ => false) = true) ∧
    (match s.checkHandle f.x 0 1 0 16384 with
     | (.ok e, s1) => e.space == 1 && s1.sdmOwned 0 (s1.baseOf f.x e) 16384 (s1.ctx 0).tenant && s1.baseOf f.x e % 64 == 0 && clear { s1 with cur := some f } f locals 0 0
     | _ => false) = true ∧ passes (s.checkHandle f.x 0 9 0 16384) = false := by decide +kernel

theorem witness_scale : let f (n : Nat) := fire [tok n, tok 0x3F80]
    23 < ((f 24).op 0).data.toNat % 32 ∧ ((f 23).op 0).data.toNat % 32 ≤ 23 ∧ WellFormed (.scl { hd .bf16 2 with t0 := .special .none .scale, t1 := .none } nl) = true ∧
      clear (world (f 23)) (f 23) [.special .none .scale] 0 0 = true ∧ ((f 23).op 0).tag = (f 23).ent.tag ∧ ((f 23).op 0).depth = (f 23).ent.depth := by decide +kernel

/-- A notice of each kind, first at its island. -/
def note (k : NoticeKind) : Notice := ⟨1, ⟨0, 0⟩, 0, 1, 0, 0, 1, false, false, 0, k, none, false, none, ⟨0, none, 0, 0, 0, 0, false, []⟩⟩

theorem witness_notices : ∀ p ∈ [(note (.arm s8cmd), []), (note (.table 0 none []), [cslot [{}, {}]]), (note (.streamEnd (tok 0)), [cslot [{}, {}]]), (note (.tile false 0), [])],
    let s := islWorld { slots := p.2, notices := [p.1] } (fire [])
    (s.island 0 0).notices = p.1 :: [] ∧ (s.ctx 0).st = .running ∧ ((s.island 0 0).slot 0 = none ↔ p.2 = []) ∧
      (cslot [{}, {}]).tabBusy (1 - (cslot [{}, {}]).active) = false := by decide +kernel

/-- Commands whose operand types are equal and unequal in width. -/
theorem witness_notice_widths : mxWidth s8cmd.atype 0 = mxWidth s8cmd.btype 0 ∧ mxWidth .s8 0 ≠ mxWidth .bf16 0 := by decide

/-- A tile of a region of 8 KiB operands, full. -/
def tileWorld : State :=
  let s := islWorld { slots := [cslot [{}, {}]], notices := [note (.tile false 0)] } (fire [])
  { s with cells := [(0, { cell with mt := { mtr := [0x80000400, 0, 0, 0], regs := [{ full := [true], wc := [0], rc := [0] }, {}, {}, {}] } })] }

theorem witness_tile : let s := tileWorld; let m := (s.cell ⟨0, 0⟩).mt
    m.valid 0 = true ∧ m.mode 0 = 0 ∧ m.size 0 = 8192 ∧ (s.island 0 0).tiles.length < 64 ∧ lvl (s.ctx 0).tl 0 1 ≤ s8cmd.ksm1 ∧
      (match s.tileSpots s.msys.sseq ⟨0, 0⟩ 0 0 8192 false with | (.ok (p :: _), _) => p.addr == mtBase ⟨0, 0⟩ | _ => false) = true := by decide +kernel

/-- A scale that the store takes, and two tiles that make a pair. -/
def tile (opB : Bool) (ord : Nat) : Tile := ⟨0, 0, opB, 0, 1, [1, 2], false, false, 0, ord⟩

theorem witness_scale_arrives : let s := islWorld { scaleq := [tok 1] } (fire [])
    (s.island 0 0).sspill = [] ∧ (s.island 0 0).scaleq = tok 1 :: [] ∧ s.gone 0 = false ∧ (s.island 0 0).takes (tok 1) = true := by decide +kernel

theorem witness_pair : let s := islWorld { slots := [cslot [{}, {}]], tiles := [tile false 0, tile true 1] } (fire [])
    (match firstPair (s.pairsOf 0 0) with
     | some p => p.k == 0 && p.slot.banks.length == 2 && (s.island 0 0).slot p.slot.n == some p.slot && !s.pairHeld 0 0 p | none => false) = true := by decide +kernel

/-- A drain that takes its done bank, and one that has it and can write its row. -/
def drain (b : Option Nat) (row : Nat) : Drain := ⟨1, ⟨0, 0⟩, 0, 1, 0, 0, 1, false, 0, 1, 0, .die, b, row, 0, 0, none, false, none, ⟨0, none, 0, 0, 0, 0, false, []⟩⟩

theorem witness_drain : ∀ b ∈ [none, some 0], let k := cslot [{ st := if b.isSome then .drain else .done, depth := 1 }, {}]
    let s := islWorld { slots := [k], drains := [drain b 126] } (fire [])
    s.queueDrains 0 0 = (false, s) ∧ (s.die 0).loupe.waits (unitIsland 0) = false ∧ (s.island 0 0).drains.find? (fun d => !d.parked && d.spilt.isNone) = some (drain b 126) ∧
      s.startable ⟨0, 0⟩ 0 = true ∧ (s.ctx 0).pre.phase ≠ 1 ∧ (s.island 0 0).slot 0 = some k ∧ k.outBits / 4 = 2 ∧
      (b = none → (List.range 2).find? (fun b => (k.banks.getD b {}).st == .done && (k.banks.getD b {}).tag == outKey (s.ctx 0).tl 0
        && (k.banks.getD b {}).depth == 1) = some 0) := by decide +kernel

theorem witness_drain_row : let d := drain (some 0) 126; let s := islWorld { slots := [cslot [{ st := .drain, depth := 1 }, {}]], drains := [d] } (fire [])
    (match s.rowWrite d (126 * 128) false 0 (pieces 2 (List.replicate 128 0)) with | (none, _, _) => true | _ => false) = true := by decide +kernel

/-- A request of a walk, and a walk that has finished. -/
def walk (k : WalkKind) (st : WalkSt) (w : Option Nat) : Walk :=
  { id := 1, quad := 0, walker := w, spilt := none, f := fire [tok (5 * 2 ^ 32)], h := hd .s4 1, kind := k, state := st, prev := st,
    desc := [0x20000000, 0, 0, 0, 64, 64] ++ List.replicate 10 0, dep := ⟨0, none, 1, 0, 0, 0, false, [tok 0]⟩ }
def walkWorld (m : List Host.Cell) (w : Walk) : State := { idle with mem := m, dies := [(0, { eng := { walks := [w] } })] }

theorem witness_walk_asks : let f := fire [tok 0, tok 1]; let s := world f
    ((matchCheck (s.ctx 0).tl f (hd .s8 1) aw.k).bind (sendList (s.ctx 0).tl f.x)).isSome = true ∧ clear s f locals 0 0 = true ∧
      [Instr.awalk (hd .s8 1) aw, .ains (hd .s8 2) ⟨0, false, .site, some (7, 7)⟩, .adel (hd .s4 1) 0 .die].all WellFormed = true := by decide +kernel

theorem witness_walker : let w := walk (.del 0 .die) .seed none; let s := walkWorld [] w
    s.queueWalks 0 0 = (false, s) ∧ s.walkHeld 0 { w with walker := some 0 } 0x45 = false ∧ (List.range 4).find? (fun k => !(s.die 0).eng.walks.any (fun w => w.quad == 0 && w.walker == some k)) = some 0 ∧
      (s.waitingWalks 0 0).find? (fun w => s.startable w.f.x w.f.ent.ctx && w.state != .fpark && w.spilt.isNone) = some w := by decide +kernel

theorem witness_walk_result : let w := walk (.del 0 .die) .finish (some 2); let s := walkWorld [] w
    (s.die 0).eng.walks.find? (fun w => w.quad == 0 && w.walker == some 2) = some w ∧ (s.ctx 0).st = .running ∧ w.poison = false ∧ w.dep.toks ≠ [] ∧
      s.walkHeld 0 w 0x46 = false ∧ w.parkAt = none := by decide +kernel

/-- Two candidates in order, of a walk that keeps two. -/
theorem witness_walk_order : let w : Walk := { walk (.walk { aw with k := 2 }) .walk none with cands := [(3, 9, false), (1, 4, true)], res := [(3, 9)], q := 5 }
    w.ktype = .s8 ∧ w.cands.length ≤ w.l ∧ w.res.length ≤ w.k ∧ (NodeHead.visible ⟨5, 6, 0, true, 0, false⟩ 5) = true ∧
      (NodeHead.visible ⟨5, 5, 0, true, 0, false⟩ 5) = false := by decide +kernel

/-- Nodes 0 that are live, deleted, not in use, and as young as the deletion at generation 5: as its first step reads them. -/
theorem witness_deletion : let w := walk (.del 0 .die) .seed (some 0)
    let head (m : List Host.Cell) : Option (Nat × Nat × Bool) :=
      match (walkWorld ([(0x200003, 0x20), (0x200004, 1), (0x200010, 64), (0x200014, 64)] ++ m) w).walkRead w 0 64 with
      | (.ok (bs, p), s1) =>
        let desc : List W32 := (List.range 16).map (fun k => BitVec.ofNat 32 (wordAt bs (4 * k)))
        let v := { w with desc := desc, reg := s1.fmtReg 0 (fld (desc.getD 0 0).toNat 24 4), poison := p || w.poison }
        if v.nslot = 0 || 5 ≤ v.g then none else
          (match s1.nodeHead v 0 with | (.ok n, _) => some (n.gin, n.gout, n.used) | _ => none)
      | _ => none
    let out : List Host.Cell := [(0x200044, 0xFF), (0x200045, 0xFF), (0x200046, 0xFF), (0x200047, 0xFF)]
    head ((0x200040, 4) :: out ++ [(0x20004C, 1)]) = some (4, 0xFFFFFFFF, true) ∧ head [(0x200040, 4), (0x200044, 9), (0x20004C, 1)] = some (4, 9, true) ∧
      head [] = some (0, 0, false) ∧ head ((0x200040, 5) :: out ++ [(0x20004C, 1)]) = some (5, 0xFFFFFFFF, true) := by decide +kernel

/-- The deletion of a node that is not deleted, and of one that is. -/
theorem witness_deletes : let w := walk (.del 0 .die) .seed (some 0)
    (∀ m ∈ [([(0x200044, 0xFF), (0x200045, 0xFF), (0x200046, 0xFF), (0x200047, 0xFF)] : List Host.Cell), [(0x200044, 9)]],
      (match (walkWorld m w).walkRead w (w.at 0 + 4) 4 with
       | (.ok (bs, _), s1) => decide (leNat bs ≠ 0xFFFFFFFF ↔ m.length = 1) && passes (s1.walkWrite w (w.at 0 + 4) (leBytes 4 5) false)
       | _ => false) = true) ∧ fld (w.f.op 0).data.toNat 0 32 = 0 ∧ fld (w.f.op 0).data.toNat 32 32 = 5 := by decide +kernel

theorem witness_trace_instructions : let f := fire [tok 0]; clear (world f) f locals 0 0 = true ∧ ((world f).cell f.x).spat.on = false ∧
    [Instr.trev (hd .s4 1) ⟨0, 1, false, 3⟩, .rdtime (hd .s4 1)].all WellFormed = true ∧
    onTargets ((world f).ctx 0).tl f.x locals (tok 0) ≠ [] ∧ onTargets ((world f).ctx 0).tl f.x [.none, .none] (tok 0) = [] := by decide +kernel

/-- Clocks without a lock, one of them with, and all with. -/
theorem witness_clock : let s (l : Loupe) (n : Nat) : State := { State.reset with dies := (List.range n).map (fun d => (d, { loupe := l })) }
    let on : Loupe := { locked := true, state := 2 }
    (∀ e, e < 4 → ((s on 4).die e).power.on = true ∧ ((s on 4).die e).loupe.locked = true) ∧ ((s on 1).die 0).loupe.locked = true ∧
      ((s on 1).die 1).loupe.locked = false ∧ ((s on 1).die 1).power.on = true ∧ ((s on 1).die 1).loupe.state = 0 ∧ ((s on 1).die 0).loupe.state ≠ 0 ∧
      ((s {} 0).die 0).loupe.time < 2 ^ 64 := by decide +kernel

/-- A record that every watermark has passed, and one that none has, in a buffer of 2^20 bytes. -/
def traced (en : Bool) (time : Nat) : State :=
  { State.reset with
    dies := [(0, { loupe := { wmark := 5, fwd := [⟨0, time, 0, 0, [1, 2, 3, 4]⟩] } }), (1, { loupe := { wmark := 5 } }), (2, { loupe := { wmark := 5 } }), (3, { loupe := { wmark := 5 } })]
    tens := [(0, { w := [if en then 0x80000000 else 0, 0, 0x50000000, 0, 0, 0, 0, 0], epoch := some 0 })] }

theorem witness_trace_stream : (∀ p ∈ [(true, 5), (true, 6), (false, 5)], let s := traced p.1 p.2; let b := s.ten 0
      firstRec ((s.die b.home).loupe.fwd.filter (fun r => r.tenant == 0)) = some ⟨0, p.2, 0, 0, [1, 2, 3, 4]⟩ ∧ b.en = p.1 ∧ 20 ≤ b.sizel ∧ b.sizel ≤ 36 ∧
        s.passed p.2 = decide (p.2 ≤ 5) ∧ b.stopMode = false ∧ b.lost = false ∧ b.epoch = some (p.2 / 2 ^ 48 % 2 ^ 16) ∧ b.w.length = 8 ∧
        paKind s.host.cxl (b.base + 16 * (b.word 4 % b.room)) = .hbm 0 ∧ isRemote (b.base + 16 * (b.word 4 % b.room)) = false) ∧
    ((traced true 5).die 0).power.on = true := by decide +kernel

/-- An instant that is due, one that completes, and the pins of a cell: none, one, one at the limit, and eight. -/
theorem witness_herd : let s (h : HerdRegs) (n : Net) : State := { State.reset with dies := [(0, { herd := h, net := n })] }
    ((s { nextAt := 0 } {}).die 0).herd.nextAt ≤ ((s { nextAt := 0 } {}).die 0).loupe.time ∧ ((s { nextAt := 0 } {}).die 0).herd.busy = [] ∧
      ((s { nextAt := 0, en := false } {}).die 0).herd.en = false ∧ ((s { nextAt := 0 } { fls := [(0, 0)] }).die 0).net.fls ≠ [] ∧
      ((s { busy := [⟨0, 1, 0, (1, 0), (2, 0)⟩] } {}).die 0).herd.busy ≠ [] ∧
      ((s { busy := [⟨0, 1, 0, (1, 0), (2, 0)⟩] } {}).die 0).herd.done ≤ (s {} {}).cycle ∧
      (let n : Net := { prev := [(100, (1, 2))], sent := [(3, 100)] }
       ((s {} n).die 0).net.prev ≠ [] ∧ 3 ∉ ((s {} n).die 0).net.inst ∧ (3, 100) ∈ ((s {} n).die 0).net.sent) := by decide +kernel

def pinned (l : List Pin) (f : Firing) : State := { world f with cells := [(0, { cell with herd := { pins := l } })] }

theorem witness_pins : let f := fire [tok 0]; let mine (l : List Pin) := ((pinned l f).cell f.x).herd.pins.find? (fun p => p.ctx == f.ent.ctx)
    mine [⟨0, 65535, 1, true⟩] = some ⟨0, 65535, 1, true⟩ ∧ mine [⟨0, 65534, 1, false⟩] = some ⟨0, 65534, 1, false⟩ ∧ mine [] = none ∧
      mine ((List.range 8).map (fun k => ⟨k + 1, 1, 0, true⟩)) = none ∧ mine ((List.range 7).map (fun k => ⟨k + 1, 1, 0, true⟩)) = none ∧
      clear (pinned [] f) f locals 0 0 = true ∧ clear (pinned [⟨0, 65534, 1, false⟩] f) f locals 0 0 = true ∧
      onTargets ((world f).ctx 0).tl f.x locals (tok 0) ≠ [] ∧
      [Instr.hpin (hd .s4 1), .hunpin (hd .s4 1)].all WellFormed = true := by decide +kernel

/-! Contexts, faults and registers. -/

theorem witness_traps : let f (v : Nat) := fire [tok v]
    (f 0).taken = false ∧ (world (f 0)).latched (siteUnit ⟨0, 0⟩) < 4 ∧ clear (world (f 0)) (f 0) locals 0 0 = true ∧ ((f 0).op 0).data.getLsbD 0 = false ∧
      ((f 1).op 0).data.getLsbD 0 = true ∧ ((world (f 0)).ctx 0).trap.dbg = false ∧
      ({ ctx with trap := { ctx.trap with dbg := true } } : Ctx).trap.dbg = true ∧
      [Instr.trap (hd .s4 1) 3 true, .trap (hd .s4 1) 3 false, .brkpt (hd .s4 1) 255 true, .sys (hd .s4 1) 4095, .halt (h0 .s4 1)].all WellFormed = true ∧
      clear (world (f 0)) (f 0) [] 0 0 = true ∧ ((world (f 0)).ctx 0).st = .running := by decide +kernel

theorem witness_service : let r : Service := ⟨3, 0, 7, 0, 5, ⟨0, 0⟩, ⟨0, none, 1, 0, 0, 0, false, [tok 0]⟩⟩
    let s := { idle with host := { idle.host with service := [r] } }
    s.host.service.find? (fun r => r.k == 3) = some r := by decide +kernel

/-- A launch descriptor of plane 0 without sources or tokens, at physical 0x200000, its plane with one block at one site; its reserved
word as given. -/
def launchWorld (w10 : Nat) (f : Firing) : State :=
  { world f with
    mem := [(0x200008, 0xE7), (0x200022, 0xFF), (0x200023, 0xFF)] ++ (if w10 = 0 then [] else [(0x200028, BitVec.ofNat 8 w10)])
    dies := [(0, { tab := { planes := [⟨0, 1, [⟨0, false, [0, 0, 0, 0], 0, [⟨1, 10, 1, 10⟩], recsOf (.exit (h0 .s4 1)), [0, 0, 0, 0], []⟩], [], []⟩] } })] }

/-- How the check of a launch ends. -/
def launchEnds (w10 : Nat) (host : Bool) : Option Nat :=
  let f := fire [tok 0]
  let s := launchWorld w10 f
  let d := s.bytes 0x200000 64
  let r := if host then s.launchCheck d false true [] none none else State.launchCheck { s with cur := none } d false true [] (some 0) none
  match r.1 with | .pass p => some p.c | .refused n => some (100 + n) | .wait _ => none

theorem witness_launch : launchEnds 0 false = some 1 ∧ launchEnds 0 true = some 1 ∧ launchEnds 1 false = some 108 ∧ launchEnds 1 true = some 108 ∧
    (let f := fire [tok 0]; let s := { launchWorld 0 f with cur := none }
     passes (s.cellSpots f.x 0 0 0 64 false) = true ∧
       (s.cellSpots f.x 0 0 0 64 false).2.readSpots (match s.cellSpots f.x 0 0 0 64 false with | (.ok l, _) => l | _ => []) = (s.bytes 0x200000 64, false) ∧
       fld (wordAt (s.bytes 0x200000 64) 0) 5 6 = 0 ∧ passes (s.cellSpots f.x 0 9 0 64 false) = false ∧ clear (launchWorld 0 f) f locals 0 0 = true ∧ s.mgmt.recovery = false) := by
  decide +kernel

/-- A descriptor with one source whose word lies beyond its handle, and one whose word can be read. -/
theorem witness_launch_sources : let f := fire [tok 0]; let s := { launchWorld 0 f with cur := none }
    passes (s.cellSpots f.x 0 0 (4096 + 64) 4 false) = false ∧ passes (s.cellSpots f.x 0 0 64 4 false) = true := by decide +kernel

theorem witness_drop : let s (o : List (Site × Dep)) : State := { idle with ctxs := [(0, { ctx with st := .loading, owed := o })] }
    ((s []).ctx 0).st = .loading ∧ ((s []).ctx 0).owed.length ≤ 1 ∧ ((s [(⟨0, 0⟩, ⟨0, none, 1, 0, 0, 0, false, [tok 0]⟩)]).ctx 0).owed.length ≤ 1 := by decide +kernel

/-- A context that injects, one in each state, and one that has ended and is quiescent. -/
theorem witness_context_life : let s : State := { idle with cycle := 1, ctxs := [(0, { ctx with inj := [{ tok 9 with site := 0 }], srcs := [0x40] })] }
    (s.ctx 0).st = .running ∧ s.stopped 0 = false ∧ (s.ctx 0).since < s.cycle ∧ (s.die (ctxDie 0)).injAt ≤ s.cycle ∧ (s.ctx 0).inj = { tok 9 with site := 0 } :: [] ∧
      (s.ctx 0).srcs[({ tok 9 with site := 0 } : Tok).site]? = some 0x40 ∧ (State.reset.ctx 5).st = .free ∧
      ({ State.reset with ctxs := [(0, { st := .ended })] } : State).quiescent 0 = true ∧ (({ State.reset with ctxs := [(0, { st := .ended })] } : State).ctx 0).st = .ended ∧
      ¬ ((s.ctx 0).st = .ended ∧ s.quiescent 0 = true) := by decide +kernel

/-- A fault of a context whose queue has room, whose queue is full, whose queue cannot be named, and whose table is in migration. -/
theorem witness_fault : let s (wp : List Host.Cell) : State := { idle with mem := wp }
    (∀ p ∈ [(([] : List Host.Cell), 0), ([(0x200000, 0x7E)], 126)], (match (s p.1).ctxBound 0 (ctx.fqh) with
      | (.ok n, s1) => (match s1.ctxRead 0 ctx.fqh 0 8 with
        | (.ok v, s2) => some (n, v % 2 ^ 32, passes (s2.spots (homeSite 0) 0 ctx.fqh (64 + 32 * (v % 2 ^ 32 % 126)) 32 true),
            passes ((s2.spots (homeSite 0) 0 ctx.fqh 64 32 true).2.spots (homeSite 0) 0 ctx.fqh 0 4 true))
        | _ => none)
      | _ => none) = some (4096, p.2, true, true)) ∧ (4096 - 64) / 32 = 126 ∧ ((s []).ctx 0).pre.phase ≠ 1 ∧ (∀ m ∈ (s []).latches, m.fr.ctx ≠ 0) ∧
    (match (s []).ctxBound 0 9 with | (.error (.fault _ _), _) => true | _ => false) = true := by decide +kernel

theorem witness_fault_migr : let s : State := { paged (missed .load) 0xBA with ctxs := [(0, { ctx with htbase := 0x10000 })], msys := {} }
    (match s.ctxBound 0 0 with | (.error (.migr _), _) => true | _ => false) = true := by decide +kernel

theorem witness_fault_record : let r : FRec := { code := .align, node := 0x3FF, src := 3, die := 3, col := 127, row := 71, ctx := 0x3FFF, eng := 0xFFFF, depth := 15 }
    r.node < 2 ^ 10 ∧ r.src < 4 ∧ r.die < 4 ∧ r.col < 2 ^ 7 ∧ r.row < 2 ^ 7 ∧ r.ctx < 2 ^ 14 ∧ r.eng < 2 ^ 16 ∧ r.depth < 16 ∧ 0xFFFFFFFF < 2 ^ 32 := by decide

/-- A context with one open record, and the numbers that an answer of it names. -/
def faulted (o : List OpenRec) (f : Firing) : State := { world f with ctxs := [(0, { ctx with trap := { ctx.trap with opens := o } }), (1, { ctx with st := .stopped, tenant := 7, hctx := 5 })] }

theorem witness_faultret : let o : OpenRec := ⟨3, 0, .arith, .none⟩; let f := fire [tok (3 * 2 ^ 32)]; let s := faulted [o] f
    (s.ctx 0).tenant = 0 ∧ ¬ ((s.ctx 0).hctx = 1 ∨ (s.ctx 1).tenant = 0) ∧ fld (f.op 0).w64 14 2 ≠ 3 ∧ fld (tok (3 * 2 ^ 14)).w64 14 2 = 3 ∧
      (s.ctx 0).trap.opens.find? (fun o => o.seq == fld (f.op 0).w64 32 32 && !(s.ctx 0).trap.acks.any (fun a => a.1 == fld (f.op 0).w64 32 32)) = some o ∧
      (faulted [] f).ctx 0 ≠ s.ctx 0 ∧ o.what ≠ .ecc ∧ (∀ act ∈ [0, 1, 2], s.keepsAnswer 0 o act = false) ∧ (s.ctx 0).trap.seq ≠ o.seq ∧ clear s f locals 0 0 = true ∧
      [Instr.faultretResume (hd .s4 1), .faultretSkip (hd .s4 1), .faultretEnd (hd .s4 1)].all WellFormed = true := by decide +kernel

/-- A record of a soft error, and one of a saved context. -/
theorem witness_faultret_kept : let f := fire [tok (3 * 2 ^ 32 + 1)]; let o : OpenRec := ⟨3, 0, .arith, .ecc⟩
    let s : State := { world f with ctxs := [(0, ctx), (1, { ctx with st := .saved, trap := { ctx.trap with opens := [o] } })] }
    fld (f.op 0).w64 0 14 = 1 ∧ (s.ctx 0).tenant = 0 ∧ s.keepsAnswer 1 o 2 = true ∧ o.what = .ecc ∧
      (s.ctx 1).trap.opens.find? (fun o => o.seq == fld (f.op 0).w64 32 32 && !(s.ctx 1).trap.acks.any (fun a => a.1 == fld (f.op 0).w64 32 32)) = some o ∧
      clear s f locals 0 0 = true := by decide +kernel

/-- A memory record whose access a context STOP keeps parked: END is not kept. -/
theorem witness_faultret_stopped : let f := fire [tok (3 * 2 ^ 32 + 1)]; let o : OpenRec := ⟨3, 1, .align, .access 5⟩
    let s : State := { world f with ctxs := [(0, ctx), (1, { ctx with st := .stopped, dstop := true, trap := { ctx.trap with opens := [o] } })] }
    s.keepsAnswer 1 o 0 = true ∧ s.keepsAnswer 1 o 2 = false ∧ o.what ≠ .ecc ∧
      (s.ctx 1).trap.opens.find? (fun o => o.seq == fld (f.op 0).w64 32 32 && !(s.ctx 1).trap.acks.any (fun a => a.1 == fld (f.op 0).w64 32 32)) = some o ∧
      clear s f locals 0 0 = true := by decide +kernel

/-- A stopped context: that record of each action, and one that owes tokens. -/
theorem witness_answer : let o : OpenRec := ⟨3, 0, .arith, .none⟩; let s : State := { idle with ctxs := [(0, { ctx with st := .stopped, trap := { ctx.trap with opens := [o] } })] }
    (s.ctx 0).st = .stopped ∧ o.kind = 0 ∧ ((s.ctx 0).trap.opens.filter (fun p => p.seq != o.seq)).filter (fun p => p.kind == 0) = [] ∧ s.stopped 0 = false ∧
      (∀ l ∈ s.latches, l.fr.ctx ≠ 0) := by decide +kernel

/-- Registers of the families, a context that may, one that may not, and statuses. -/
theorem witness_registers : let f := fire [tok 1, tok 3]; let s := faulted [] f
    s.mayReg 0 0 ⟨0, 3, 0, false⟩ true = true ∧ s.mayReg 1 0 ⟨7, 0, 0, false⟩ true = false ∧ s.mayReg 1 0 ⟨7, 0, 0, false⟩ false = true ∧
      (s.regStatus 0 ⟨0, 3, 0, false⟩ 3).code = 0 ∧ (s.regStatus 0 ⟨1, 0, 0, false⟩ 0x3FFFF).code ≠ 0 ∧ s.mayReg 0 0 ⟨0, 6, 0, false⟩ true = true ∧
      s.mayReg 0 0 ⟨0, 7, 0, false⟩ true = false ∧ clear s f locals 0 0 = true ∧
      [Instr.sysrd (hd .s4 1) ⟨0, 3, 0, false⟩, .syswr (hd .s4 2) ⟨0, 3, 0, false⟩, .syswr (hd .s4 2) ⟨0, 6, 0, false⟩, .syswr (hd .s4 2) ⟨0, 7, 0, true⟩].all WellFormed = true := by
  decide +kernel

/-- Tenant 0 pre-empts another context: phase 0, nothing owed. -/
theorem witness_preempt_write : let s := faulted [] (fire [tok 1, tok 1])
    s.mayReg 0 1 ⟨0, 7, 0, true⟩ true = true ∧ ((tok 1).w64 % 4 = 1) ∧ (s.ctx 1).pre.phase = 0 ∧ (s.ctx 1).pre.owed = [] ∧ (s.ctx 1).st = .stopped ∧
      (s.regStatus 1 ⟨0, 7, 0, true⟩ 1).code = 0 := by decide +kernel

/-- Tenant 0 restores a saved context that a STOP covers, its plane loaded. -/
theorem witness_restore_write : let f := fire [tok 1, tok 2]
    let s : State := { faulted [] f with
      ctxs := [(0, ctx), (1, { ctx with st := .saved, pre := { phase := 2 } })]
      dies := [(0, { tab := { planes := [⟨0, 1, [], [(0, 1)], []⟩] }, stop := true })] }
    s.mayReg 0 1 ⟨0, 7, 0, true⟩ true = true ∧ (f.op 1).w64 % 4 = 2 ∧ (s.ctx 1).pre.phase = 2 ∧ (s.ctx 1).pre.owed = [] ∧ (s.ctx 1).st = .saved ∧
      s.covered 1 = true ∧ (∃ p ∈ (s.die (ctxDie 1)).tab.planes, p.idx = (s.ctx 1).plane ∧ ((s.ctx 1).slot, 1) ∈ p.bound) := by decide +kernel

/-- A register's fields within their widths, and a FMT word that is valid and one that is not. -/
theorem witness_register_fields : ctx.tenant < 256 ∧ ctx.prio < 32 ∧ ctx.trap.last < 256 ∧ ctx.fmt.length = 16 ∧ fmtValid (fmtWord 0x000507C3) = true ∧
    fmtValid (fmtWord 0x3FFFF) = false := by decide +kernel

theorem witness_host_writes : let s := { faulted [] (fire []) with cells := [(1, { blks := [blk ⟨0, 0, 0⟩] }), (2, { blks := [blk ⟨0, 0, 0⟩] })] }
    s.regStatus 0 (regOf 6 16) (2 ^ 31 + 2 ^ 13 + 2) = .ok ∧ s.regStatus 0 (regOf 6 16) (2 ^ 31 + 9000) ≠ .ok ∧ ¬ Rights s 1 0 (regOf 1 0) true ∧ (s.ten 0).w.length = 8 ∧
      ¬ ((s.ten 0).lossless = true ∧ (s.ten 0).stopMode = true ∧ (s.ten 0).sizel < 26) ∧ (s.ctx 1).tenant ≠ 0 ∧ regSpecial ⟨2, 0, 0, false⟩ = false ∧
      s.regStatus 0 ⟨2, 0, 0, false⟩ 5 = .ok ∧ s.mgmt.recovery = false := by
  refine ⟨by decide +kernel, by decide +kernel, ?_, by decide +kernel, by decide +kernel, by decide +kernel, by decide +kernel, by decide +kernel, by decide +kernel⟩
  simp [Rights, regOf]
  decide

/-! Tokens on their way. -/

/-- A token for node 1, port 0, of context 0. -/
def arr (ma : MA) (flags : Nat) : Tok := { tok 7 with node := 1, ma := ma, flags := BitVec.ofNat 10 flags }
/-- A block of one record of two operands, an instance of it or its binding entry. -/
def ablk (i : Instr) : Blk := { blk ⟨0, 0, 0⟩ with recs := recsOf i }
def dirB : DirEnt := { dirEnt with uid := 1, bind := true, base := 8, ready := 0 }
/-- A cell whose next token is `t`, by port 1. -/
def arrives (i : Instr) (t : Tok) (slots : Table Slot) (dir : List DirEnt) : State :=
  { idle with cells := [(0, { cell with blks := [ablk i], pipe := { p1 := [t] }, slots := slots, dir := dir, ready := [] })] }
def adder : Instr := .add (hd .s32 2) nl

/-- A token of each kind comes. -/
theorem comes (k : Arrival) (i : Instr) (t : Tok) (sl : Table Slot) (dir : List DirEnt)
    (h : (let s := arrives i t sl dir; decide ((s.cell ⟨0, 0⟩).nextTok = some (1, t) ∧ t.came = 0 ∧ s.sealedAt ⟨0, 0⟩ = false) && decide (arrivalOf ((s.cell ⟨0, 0⟩).opcAt t) t = k) &&
      decide (s.halted ⟨0, 0⟩ t.ctx = false ∧ s.gone t.ctx = false ∧ (s.cell ⟨0, 0⟩).frz.units.contains t.ctx = false) &&
      decide ((s.cell ⟨0, 0⟩).blkOf t.ctx t.node = some (ablk i)) &&
      decide ((ablk i).isNode (t.node - (ablk i).hdr - 1) = true ∧ t.port < ((ablk i).recAt (t.node - (ablk i).hdr - 1)).arity) &&
      decide (s.dualOf ⟨0, 0⟩ t.ctx = none) && decide ((s.cell ⟨0, 0⟩).dir.map (fun e => e.uid)).Nodup) = true) :
    Comes (arrives i t sl dir) ⟨0, 0⟩ k 1 t (ablk i) := by
  simp only [Bool.and_eq_true, decide_eq_true_eq] at h
  obtain ⟨⟨⟨⟨⟨⟨⟨h1, c, o⟩, h2⟩, h3⟩, h4⟩, h5⟩, h6⟩, h7⟩ := h
  exact ⟨⟨t.came, h1⟩, c, (fun e => by rw [o] at e; cases e), h2, rfl, Nat.zero_le _, h3, h4, rfl, h5, h6, h7⟩

/-- A matched token: of a live instance, of none with room and without, and of one whose port is taken. -/
theorem witness_match : Comes (arrives adder (arr .norm 0) [] [{ dirEnt with ready := 0 }]) ⟨0, 0⟩ .match_ 1 (arr .norm 0) (ablk adder) ∧
    Comes (arrives adder (arr .norm 0) [] []) ⟨0, 0⟩ .match_ 1 (arr .norm 0) (ablk adder) :=
  ⟨comes _ _ _ _ _ (by decide +kernel), comes _ _ _ _ _ (by decide +kernel)⟩

/-- A token of each kind for an LBOUND, whose node fires alone, and a token by the cell's own queue while a reload has sealed the rest. -/
theorem witness_match_lbound : let i := Instr.lbound (hd .s4 2) 63; let t : Tok := { arr .norm 0 with tag := 3, depth := 1 }
    Comes (arrives i t [] []) ⟨0, 0⟩ .match_ 1 t (ablk i) ∧ ((ablk i).recAt 0).opc = 0x046 ∧
    Comes (arrives i { marker with node := 1 } [] []) ⟨0, 0⟩ .streamEnd 1 { marker with node := 1 } (ablk i) ∧ streamAware 0x046 0 = true :=
  ⟨comes _ _ _ _ _ (by decide +kernel), by decide, comes _ _ _ _ _ (by decide +kernel), by decide⟩

theorem witness_match_forms : let t := arr .norm 0; let b := ablk adder; let c (sl : Table Slot) (dir : List DirEnt) := (arrives adder t sl dir).cell ⟨0, 0⟩
    (b.recAt 0).opc ≠ 0x046 ∧ (arrives adder t [] []).spilledKey ⟨0, 0⟩ b.hdr t = false ∧ (c [] []).binding b 0 0 = none ∧
      ((c [] [dirEnt]).inst 0 0 0 0).isSome = true ∧ (c [] [dirEnt]).slotOf dirEnt b 0 0 = none ∧ (c [] []).inst 0 0 0 0 = none ∧
      ((c [] []).room b).isSome = true ∧ (∀ e ∈ (c [] []).dir, e.uid ≠ (c [] []).uids) ∧
      (c [] (List.replicate 64 { dirEnt with tag := 9 })).inst 0 0 0 0 = none ∧ ((c [] (List.replicate 64 { dirEnt with tag := 9 })).room b) = none ∧
      ((c [(0, ⟨tok 1, 0, 0⟩)] [dirEnt]).slotOf dirEnt b 0 0).isSome = true ∧ ((c [(8, ⟨tok 1, 0, 0⟩)] [dirB]).binding b 0 0).isSome = true ∧
      ((arrives adder t [] []).spill ⟨0, 0⟩ 0 t false).isSome = true := by decide +kernel

theorem witness_arrivals : Comes (arrives adder (arr .sticky 0) [] [dirB]) ⟨0, 0⟩ .binding 1 (arr .sticky 0) (ablk adder) ∧
    Comes (arrives adder (arr .purge 0) [(8, ⟨tok 1, 0, 0⟩)] [dirB]) ⟨0, 0⟩ .purge 1 (arr .purge 0) (ablk adder) ∧
    Comes (arrives adder (arr .norm 32) [] [dirEnt]) ⟨0, 0⟩ .null 1 (arr .norm 32) (ablk adder) ∧
    Comes (arrives (.mov (hd .s4 1) nl) { arr .norm 2 with side := 1 } [] [dirEnt]) ⟨0, 0⟩ .streamEnd 1 { arr .norm 2 with side := 1 } (ablk (.mov (hd .s4 1) nl)) :=
  ⟨comes _ _ _ _ _ (by decide +kernel), comes _ _ _ _ _ (by decide +kernel), comes _ _ _ _ _ (by decide +kernel), comes _ _ _ _ _ (by decide +kernel)⟩

theorem witness_arrival_forms : let b := ablk adder; ((arrives adder (arr .sticky 0) [] [dirB]).cell ⟨0, 0⟩).bindEnt b.ctx b.hdr = some dirB ∧
    ((arrives adder (arr .sticky 0) [(8, ⟨tok 1, 0, 0⟩)] [dirB]).cell ⟨0, 0⟩).bindEnt b.ctx b.hdr = some dirB ∧
    streamAware (((ablk (.mov (hd .s4 1) nl)).recAt 0).opc) 0 = true ∧ streamAware ((b.recAt 0).opc) 0 = false := by decide +kernel

/-- The oldest spilled token of a live instance, refilled. -/
theorem witness_refill : let p : Spill := ⟨0, ⟨0, 0⟩, 0, arr .norm 0, false⟩
    let s : State := { arrives adder (arr .norm 0) [] [dirEnt] with ctxs := [(0, { ctx with spill := { toks := [p] } })] }
    let l := (s.ctx 0).spill.toks.filter (fun p => p.hdr < 1024)
    (s.cell ⟨0, 0⟩).pipe.matchAt ≤ s.cycle ∧ s.halted ⟨0, 0⟩ 0 = false ∧ s.escapeDue 0 = false ∧ s.refillable ⟨0, 0⟩ l [] l = some p ∧ p.held = false ∧
      (s.cell ⟨0, 0⟩).blkOf 0 p.tok.node = some (ablk adder) ∧ arrivalOf ((ablk adder).recAt 0).opc p.tok = .match_ ∧
      (s.cell ⟨0, 0⟩).inst 0 0 p.tok.tag p.tok.depth = some dirEnt := by decide +kernel

/-- A spilled token of an LBOUND. -/
theorem witness_refill_lbound : let i := Instr.lbound (hd .s4 2) 63; let t : Tok := { arr .norm 0 with tag := 3, depth := 1 }
    let p : Spill := ⟨0, ⟨0, 0⟩, 0, t, false⟩
    let s : State := { arrives i t [] [] with ctxs := [(0, { ctx with spill := { toks := [p] } })] }
    let l := (s.ctx 0).spill.toks.filter (fun p => p.hdr < 1024)
    s.refillable ⟨0, 0⟩ l [] l = some p ∧ ((ablk i).recAt 0).opc = 0x046 ∧ arrivalOf ((ablk i).recAt 0).opc p.tok = .match_ ∧ (ablk i).isNode 0 = true := by
  decide +kernel

/-- A block that is absent, alone, beside one that may go, and beside one pinned in. -/
theorem witness_fetch : let b : Blk := { ablk adder with present := false }; let a : Blk := { ablk adder with ctx := 3 }
    let s (d : List DirEnt) : State := { idle with cells := [(0, { cell with blks := [b, a], dir := d, ready := [], slots := [] })] }
    ((s []).cell ⟨0, 0⟩).blkOf 0 1 = some b ∧ a.overlaps b = true ∧ (s []).pinnedIn ⟨0, 0⟩ a = false ∧ (s [{ dirEnt with ctx := 3 }]).pinnedIn ⟨0, 0⟩ a = true := by
  decide +kernel

/-- Departures of a cell: tokens for cells, those of an RDTIME, and an exit; and an answer. -/
def dep (t : Tok) (home : Nat) : Dep := ⟨0, some 0, 1, 0, 0, home, false, [t]⟩
def departs (d : Dep) : State := { idle with cells := [(0, { cell with pipe := { deps := [d], ans := [d] } })] }

theorem witness_departures : ∀ d ∈ [dep { tok 3 with node := 2 } 0, dep { tok 3 with site := 9, node := 2 } 1, dep { tok 3 with kind := 3 } 0], let s := departs d
    firstDue s.cycle (s.cell ⟨0, 0⟩).pipe.deps = some d ∧ (s.cell ⟨0, 0⟩).pipe.s6 ≤ s.cycle ∧ (s.cell ⟨0, 0⟩).pipe.s6free s.cycle d = true ∧
      (s.die 0).net.mesh = [] ∧ (∀ k ∈ d.toks, k.req = none) ∧ (s.cell ⟨0, 0⟩).spat.on = false ∧
      (∀ k ∈ d.toks, s.dualOf ⟨0, 0⟩ k.ctx = none ∧ (k.kind < 2 ∨ k.kind = 3 ∧ k.sink.1 = 0)) ∧ (s.cell ⟨0, 0⟩).ent 0 = some dirEnt ∧
      dirEnt.bind = false ∧ dirEnt.dying = false ∧ memAnswerTok (s.cell ⟨0, 0⟩) 0 = some d ∧ s.swapping ⟨0, 0⟩ = false ∧ s.gone 0 = false ∧
      (s.cell ⟨0, 0⟩).frz.units.contains 0 = false ∧ firstDue idle.cycle (idle.cell ⟨0, 0⟩).pipe.deps = none := by decide +kernel

/-- The router port of a pair whose mesh is empty has room for eight tokens of each class. -/
theorem witness_port_room : PortRoom (departs (dep (tok 3) 0)) ⟨0, 0⟩ 8 := fun _ => by
  have h : ((departs (dep (tok 3) 0)).die 0).net.mesh = [] := by decide +kernel
  simp [h, portRoom]

/-- A stage of a SPATIAL cell whose operands wait at its two ports. -/
theorem witness_stage : let b : Blk := { ablk adder with spatial := true }; let t : Tok := { arr .norm 0 with tag := 4, depth := 1 }
    let s : State := { idle with cells := [(0, { cell with blks := [b], dir := [], ready := [], slots := [], spat := { on := true }, pipe := { p0 := [t], p1 := [t] } })] }
    let c := s.cell ⟨0, 0⟩
    let hs := (List.range (b.recAt 0).arity).filterMap (c.stageHead b 0)
    c.blks.find? (fun b => b.spatial) = some b ∧ (List.range b.recs.length).find? (fun p => b.isNode p && stageOf (b.recAt p).opc = 2) = some 0 ∧
      s.halted ⟨0, 0⟩ 0 = false ∧ (tget 2 c.spat.busy).getD 0 ≤ s.cycle ∧ (∀ g ∈ b.targets 0, (match localPort g with | some (n, p) => !c.latchedAt n p | none => true) = true) ∧
      isAccess (b.recAt 0).opc = false ∧ s.sealedAt ⟨0, 0⟩ = false ∧ (s.die 0).loupe.waits 0 = false ∧ s.traceBlocked (s.ctx 0).tenant = false ∧
      (s.die 0).loupe.held 0 < unitRoom 0 ∧ hs.length = (b.recAt 0).arity ∧ (b.recAt 0).arity = 2 ∧
      ((hs.filter Head.free).map Head.tok).head? = some t ∧ (∀ q ∈ hs, q.tok.flag .null = false ∧ q.tok.flag .streamEnd = false) ∧
      (∀ q ∈ hs.filter Head.free, q.tok.tag = t.tag ∧ q.tok.depth = t.depth) := by decide +kernel

/-- A packet of a body, at a position, for a resident at its pair. -/
def packet (at_ : Nat × Nat) (ddie : Nat) (to_ : Nat × Nat) (res : Nat) (b : Body) : Packet := ⟨3, at_.1, at_.2, ddie, to_.1, to_.2, res, 0, false, 0, b, none⟩
def carried (p : Packet) : State := { idle with dies := [(0, { net := { mesh := [p] } })] }

/-- One that moves on, one that leaves its die, one that arrives, one that names no resident, one whose resident has moved, and a flush at and
away from its pair. -/
theorem witness_packets : let a := posOf 0; let b := posOf 100
    (∃ c r, (packet a 0 b 100 (.tok (tok 1))).hop 0 = some (0, c, r)) ∧
    (packet (linkCol 0 1, a.2) 1 b 100 (.tok (tok 1))).hop 0 = some (1, linkCol 0 1, b.2) ∧ (1 : Nat) ≠ 0 ∧
    (packet b 0 b 100 (.tok (tok 1))).hop 0 = none ∧ (carried (packet b 0 b 100 (.tok (tok 1)))).pos ⟨0, 100⟩ = b ∧
    (packet b 0 b 100 (.tok (tok 1))).lost = false ∧ (packet b 0 b 4000 (.tok (tok 1))).lost = true ∧
    (carried (packet b 0 b 100 (.tok (tok 1)))).flHeld (packet b 0 b 100 (.tok (tok 1))) = false ∧
    (carried (packet b 0 b 100 (.tok (tok 1)))).packetBlocked 0 (packet b 0 b 100 (.tok (tok 1))) [] = false ∧
    (carried (packet a 0 a 100 (.tok (tok 1)))).pos ⟨0, 100⟩ ≠ a ∧ (carried (packet a 0 a 100 (.tok (tok 1)))).latched (routerUnit 0 a) < 4 ∧
    (∀ r, rankAt a = some r → (carried (packet a 0 a 100 (.tok (tok 1)))).swapping ⟨0, (carried (packet a 0 a 100 (.tok (tok 1)))).residentAt 0 r⟩ = false) ∧
    ((carried (packet b 0 b 100 (.tok (tok 1)))).portTurn ⟨0, 100⟩ 3 = true ∧ ((carried (packet b 0 b 100 (.tok (tok 1)))).cell ⟨0, 100⟩).pipe.used 2 < 8) ∧
    (packet b 0 b 100 (.ans ⟨0, 100⟩ ⟨0, none, 1, 0, 0, 0, false, [tok 1]⟩)).hop 0 = none ∧
    (let p : Packet := { packet b 0 b 100 (.ans ⟨0, 100⟩ ⟨0, none, 1, 0, 0, 0, false, [tok 1]⟩) with cls := 1 }
     (carried p).packetBlocked 0 p [] = false ∧ (carried p).portTurn ⟨0, 100⟩ 1 = true ∧ ((carried p).cell ⟨0, 100⟩).pipe.used 1 < 8) ∧
    (packet b 0 b 100 (.tok { tok 1 with kind := 2 })).hop 0 = none ∧ routeBehind [] { tok 1 with kind := 2 } = false ∧
    (packet b 0 b 100 (.flush 0 100)).hop 0 = none ∧ (carried (packet a 0 a 100 (.flush 0 100))).pos ⟨0, 100⟩ ≠ a := by
  refine ⟨⟨_, _, rfl⟩, by decide +kernel, by decide, by decide +kernel, by decide +kernel, by decide +kernel, by decide +kernel, by decide +kernel,
    by decide +kernel, by decide +kernel, by decide +kernel, ?_, by decide +kernel, by decide +kernel, by decide +kernel, by decide +kernel, by decide +kernel,
    by decide +kernel, by decide +kernel⟩
  intro r h
  have hr : rankAt (posOf 0) = some 0 := by decide +kernel
  rw [hr] at h
  cases h
  decide +kernel

/-- A pair whose occupant has swapped with the packet's resident, which stands elsewhere. -/
theorem witness_forward_link : let a := posOf 0
    let s : State := { carried (packet a 0 a 100 (.tok (tok 1))) with cells := [(0, { herd := { swaps := [(1, 100)] } })] }
    rankAt a = some 0 ∧ (s.cell ⟨0, s.residentAt 0 0⟩).herd.partner = some 100 ∧ s.pos ⟨0, 100⟩ ≠ a := by decide +kernel

/-- A route token at an entry that delivers it, at one that only passes it on, at one that sends it to another die, and at none; and an entry
invalidated. -/
def routed (dlv : Nat) (bad : Bool) : State :=
  let e : RouteEnt := ⟨(posOf 100).1, (posOf 100).2, ⟨BitVec.ofNat 32 (2 ^ 31 + 2 ^ 11), BitVec.ofNat 32 (dlv * 32 + 0x80), BitVec.ofNat 32 (2 ^ 22)⟩, 0, bad⟩
  let k : TrackTok := ⟨3, (posOf 100).1, (posOf 100).2, 0, { tok 1 with kind := 2, node := 1 }⟩
  { idle with dies := [(0, { net := { routes := [e], tracks := [k] } })] }

theorem witness_route : ∀ d ∈ [0, 1, 2], ∀ b ∈ [false, true], let s := routed d b; let p := posOf 100; let net := (s.die 0).net
    (match net.head p 3 with
     | some k => decide (k.due ≤ s.cycle) && !s.gone k.tok.ctx &&
         (match net.routes.find? (fun e => (e.col, e.row) == p && e.fits k.tok) with
          | some e => e.bad == b && e.xd == (d == 1) && e.dlv == (d == 2) &&
              (trackCopies { net with tracks := ldrop (fun u => u == k) net.tracks } e p s.cycle k.tok).isSome
          | none => false) &&
         ([] : List RouteEnt).find? (fun e => (e.col, e.row) == p && e.fits k.tok) == none && rankAt p == some 100 && s.pairOf ⟨0, 100⟩ == 100 &&
         s.portTurn ⟨0, 100⟩ 4 && decide ((s.cell ⟨0, 100⟩).pipe.used 3 < 8 ∧ p.2 < 128 ∧ s.latched (routerUnit 0 p) < 4)
     | none => false) = true := by decide +kernel

/-- An entry whose tracks are all taken for now. -/
theorem witness_route_waits : let p := posOf 100; let e : RouteEnt := ⟨p.1, p.2, ⟨BitVec.ofNat 32 (2 ^ 31 + 2 ^ 11), BitVec.ofNat 32 0x80, BitVec.ofNat 32 (2 ^ 22)⟩, 0, false⟩
    trackCopies { tfree := (List.range 8).map (fun i => (trackKey p 0 i, 9)) } e p 0 (tok 1) = none := by decide +kernel

/-! Errors, comparators, pre-emption, the debug port, portals, power, and whole steps. -/

/-- A slot that can be hit, a block that stands in node memory, and a context whose watchdog is off, not due, and due. -/
theorem witness_errors : (tget 2 (idle.cell ⟨0, 0⟩).slots).isSome = true ∧
    ((idle.cell ⟨0, 0⟩).blks.find? (fun b => b.present && b.hdr < 1 && 1 ≤ b.hdr + b.recs.length)).isSome = true ∧ (0x200000 : Nat) < 2 ^ 56 ∧ (idle.ctx 0).trap.wdog = 0 ∧
    (let s (n : Nat) : State := { idle with ctxs := [(0, { ctx with trap := { ctx.trap with wdog := 1, idle := n } })] }
     (s 3999).ctx 0 ≠ (s 4000).ctx 0 ∧ ((s 3999).ctx 0).trap.idle < ((s 3999).ctx 0).trap.wdog * 4000 ∧
       ((s 4000).ctx 0).trap.wdog * 4000 ≤ ((s 4000).ctx 0).trap.idle ∧ (s 4000).quiescent 0 = false) := by decide +kernel

/-- Outputs of a primary and its shadow that agree, and that do not. -/
def dout (v : Nat) : DOut := ⟨1, 0, { tok v with node := 2, site := 7 }, none⟩
def dual (p q : DOut) (held : Bool) (spare : Option Nat) : Dual := { k := 0, ctx := 0, prim := 1, shad := 2, spare := spare, outP := [p], outS := [q], held := held }
def dualWorld (d : Dual) : State := { idle with dies := [(0, { duals := [d] })] }

theorem witness_comparator : ∀ d ∈ [dual (dout 3) (dout 3) false none, dual (dout 3) (dout 4) false none, dual (dout 3) (dout 4) true none, dual (dout 3) (dout 4) true (some 5)],
    ((dualWorld d).die 0).duals.find? (fun d => d.k == 0) = some d ∧ d.outP.find? (fun p => d.outS.any (fun q => q.twin p)) = some (dout 3) ∧
      (d.outS.find? (fun q => q.twin (dout 3))).isSome = true ∧ ((dout 3).tok.die, (dout 3).tok.site) ≠ (0, d.prim) ∧ (dout 3).tok.kind < 2 ∧ (dout 3).tok.req = none ∧ (dualWorld d).portSends ⟨0, d.prim⟩ (tokClass (dout 3).tok) = true ∧
      ((dualWorld d).die 0).flushing = false ∧
      (d.held = true → d.mismatch = some (dout 3, dout 4)) ∧ (∀ o ∈ ((dualWorld d).ctx d.ctx).trap.opens, o.code ≠ .sinkMismatch) ∧
      (∀ l ∈ (dualWorld d).latches, l.fr.ctx ≠ d.ctx) ∧ ((dualWorld d).die 0).herd.busy = [] ∧ d.replay = false := by decide +kernel

theorem witness_comparator_agrees : (dout 3).agrees (dout 3) = true ∧ (dout 3).agrees (dout 4) = false := by decide +kernel

/-- A context that may be pre-empted and one under a STOP; a saved one that may be restored; a marker. -/
def savedWorld (stop : Bool) : State :=
  { idle with
    ctxs := [(0, { ctx with st := .saved, pre := { phase := 2 } })]
    dies := [(0, { tab := { planes := [⟨0, 1, [], [(0, 0)], []⟩] }, stop := stop })] }

theorem witness_preemption : idle.mayPre 0 .host = true ∧ idle.mayPre 0 (.ctx 0) = false ∧ (idle.ctx 0).st = .running ∧ (idle.ctx 0).pre.phase = 0 ∧ idle.covered 0 = false ∧
    ({ idle with dies := [(0, { stop := true })] } : State).covered 0 = true ∧ ((savedWorld true).ctx 0).st = .saved ∧ ((savedWorld true).ctx 0).pre = { phase := 2 } ∧
    (savedWorld true).covered 0 = true ∧ (savedWorld false).covered 0 = false ∧ (savedWorld false).mayPre 0 .host = true ∧ (savedWorld false).stopCause 0 = false ∧
    ((savedWorld false).ctx 0).trap.opens = [] ∧ ((savedWorld false).ctx 0).trap.acks = [] ∧
    (∃ p ∈ ((savedWorld false).die (ctxDie 0)).tab.planes, p.idx = 0 ∧ (0, 0) ∈ p.bound) := by decide +kernel

theorem witness_marker : ∀ ph ∈ [0, 1], let t : Tok := { node := 1, flags := 1, side := 5 }
    let s : State := { idle with cells := [(0, { cell with pipe := { p0 := [t] } })], ctxs := [(0, { ctx with pre := { phase := ph } })] }
    (s.cell ⟨0, 0⟩).nextMarker = some (0, t) ∧ (s.cell ⟨0, 0⟩).pipe.matchAt ≤ s.cycle ∧ s.halted ⟨0, 0⟩ t.ctx = false ∧ (s.ctx t.ctx).pre.phase = ph ∧
      (s.cell ⟨0, 0⟩).frz.units.contains t.ctx = false := by decide +kernel

/-- Debug requests: of each OP on context 0, on a position without a pair, and one that is not well formed. -/
def dreq (op gran tenant : Nat) (w1 w2 w3 : Nat) : DebugReq :=
  ⟨tenant, BitVec.ofNat 32 (op * 2 ^ 28 + gran * 2 ^ 26 + (posOf 0).1 * 2 ^ 17 + (posOf 0).2 * 2 ^ 10), BitVec.ofNat 32 w1, BitVec.ofNat 32 w2, BitVec.ofNat 32 w3, []⟩

theorem witness_debug_stop : (∀ op ∈ [0, 1, 2], let r := dreq op 1 0 0 0 0
      dbgFits r = true ∧ dbgOp r = op ∧ (idle.dbgSet r).isSome = true ∧ (match idle.dbgSet r with | some d => idle.dbgOwners d | none => []) = [0]) ∧
    dbgFits (dreq 6 0 0 0 0 0) = false ∧ idle.dbgSet (dreq 0 1 0 5 0 0) = none ∧ idle.mgmt.recovery = false ∧ (idle.ctx 0).tenant ≠ 7 ∧
    (idle.ctx 0).st = .running ∧ (idle.die (ctxDie 0)).stop = false ∧ (idle.ctx 0).trap.sopen = 0 := by decide +kernel

theorem witness_drained : let w : DebugWait := ⟨3, dreq 1 1 0 0 0 0⟩
    let s (c : Cell) : State := { idle with cells := [(0, c)], host := { idle.host with waits := [w] } }
    (s cell).host.waits.find? (fun w => w.k == 3) = some w ∧ (match (s cell).dbgSet w.req with | some d => (s { cell with ready := [] }).isDrained d | none => false) = true ∧
      (match (s cell).dbgSet w.req with | some d => { s cell with msys := { accs := [acc .load .virt 0x10000 4] } }.isDrained d | none => true) = false := by decide +kernel

/-- A read of a slot, of one out of the frame, and of the tile; a write of the tile; a walk. -/
theorem witness_debug_read : let r := dreq 3 0 0 0x1000000 2 0; let rt := dreq 3 0 0 0x10000000 0 64; let w : DebugReq := { dreq 4 0 0 0x10000000 0 2 with data := [1, 2] }
    dbgFits r = true ∧ dbgOp r = 3 ∧ dbgObj r = 1 ∧ idle.dbgSite r = some ⟨0, 0⟩ ∧ (match idle.dbgCell ⟨0, 0⟩ 1 0 2 with | some d => !d.dark && idle.dbgMay 0 d.owners && !idle.dbgMay 7 d.owners | none => false) = true ∧
      (idle.dbgCell ⟨0, 0⟩ 1 0 384).isSome = false ∧ dbgObj rt = 0x10 ∧ idle.dbgMay 0 (idle.cell ⟨0, 0⟩).ctxs = true ∧ idle.dbgMay 7 (idle.cell ⟨0, 0⟩).ctxs = false ∧
      (∀ b, b < 8 → (idle.cell ⟨0, 0⟩).mt.power b = 0) ∧ dbgOp w = 4 ∧ w.data.length = w.w3.toNat ∧ (tget 2 (idle.cell ⟨0, 0⟩).slots).isSome = true := by decide +kernel

/-- An entry of a store in a tile whose bank has no power. -/
theorem witness_debug_dark : let s : State := { idle with cells := [(0, { cell with
      blks := [{ blk ⟨0, 0, 0⟩ with recs := recsOf (.kmatch (hd .s8 1) { kc with res := .mtile }) }]
      stores := [{ kstore 1 2 5 with ents := [] }], mt := { cell.mt with pwr := 2 } })] }
    (match s.dbgCell ⟨0, 0⟩ 0x0A 0 (2 ^ 14) with | some d => d.dark && s.dbgMay 0 d.owners | none => false) = true := by decide +kernel

theorem witness_chamois : let r := dreq 5 0 0 0x1000000 39 1024; let c : ChamoisSt := ⟨⟨0, 0⟩, 39, true, 1024, 1024, [], 1⟩
    dbgFits r = true ∧ dbgOp r = 5 ∧ idle.dbgSite r = some ⟨0, 0⟩ ∧ (idle.die 0).chamois = [] ∧ 1024 ≤ r.w3.toNat ∧ dbgObj r ≤ 1 ∧ r.w2.toNat < 40 ∧ dbgDie r = 0 ∧
      (({ idle with dies := [(0, { chamois := [c] })] } : State).die 0).chamois = c :: [] ∧ idle.cycle < c.until_ ∧ c.until_ ≤ ({ idle with cycle := 1024 } : State).cycle := by decide +kernel

/-- A token at a portal: to this module, to one that can and cannot be reached, and a marker. -/
def portalRec (dev : Nat) : Rec := ⟨0, BitVec.ofNat 32 (2 ^ 9), BitVec.ofNat 32 (2 ^ 31 + dev * 2 ^ 10)⟩
theorem witness_portal : ∀ p ∈ [(0, tok 1), (3, tok 1), (4, tok 1), (0, { tok 1 with flags := 1 })],
    let s : State := { idle with dies := [(0, { tab := { portals := [(5, portalRec p.1)] }, eng := { queues := [(5, { toks := [p.2] })] } })], host := { idle.host with unreach := [4] } }
    (match s.portal 0 5 with | some r => fld r.w0.toNat 10 19 == p.1 | none => false) = true ∧ (s.queue 0 5).toks = p.2 :: [] ∧ s.host.dev = 0 ∧ 4 ∈ s.host.unreach ∧ 3 ∉ s.host.unreach := by decide +kernel

/-- A token that has crossed: to a context that runs, to one of another tenant, and to one that is saved. -/
theorem witness_portal_arrival : ∀ q ∈ [(0, CState.running), (7, .running), (0, .saved)], let p : PortalTok := ⟨0, 5, q.1, 1, 0, { tok 1 with node := 1 }⟩
    let s : State := { idle with ctxs := [(0, { ctx with st := q.2 }), (1, { st := .running })], host := { idle.host with portalq := [p] } }
    s.host.portalq[0]? = some p ∧ ctxDie p.tok.ctx = p.ddie ∧ (s.ctx 0).st = q.2 ∧ ((s.ctx 0).tenant ≠ p.tenant ↔ q.1 = 7) ∧ tagFits (s.ctx 0).tl p.tok = true ∧
      (s.ctx p.sctx).st ≠ .free ∧ (s.ctx p.sctx).st ≠ .ended ∧ (s.ctx 9).st = .free ∧
      (State.spill { s with host := { s.host with portalq := [] } } ⟨0, 0⟩ 0 p.tok false).isSome = true := by decide +kernel

theorem witness_boot : State.reset.mgmt.up = false ∧ State.reset.mgmt.recovery = false ∧ State.reset.mgmt.launched = false ∧ (List.replicate 64 (0 : Byte)).length = 64 ∧
    ({ State.reset with mgmt := { up := true, recovery := true } } : State).mgmt.up = true ∧ (idle.cells.map (fun e => e.1)).Nodup ∧ (idle.dies.map (fun e => e.1)).Nodup ∧
    (∃ e ∈ idle.ctxs, e.2.st ≠ .free) ∧ (∀ e ∈ State.reset.ctxs, e.2.st = .free) ∧ (List.replicate 32 (0 : Byte)).length = 32 := by decide +kernel

theorem witness_power_host : (∀ d, d < 4 → (idle.die d).power.on = true) ∧ idle.mgmt.recovery = false ∧ (∃ e ∈ idle.ctxs, ctxDie e.1 = 0 ∧ e.2.st ≠ .free) ∧
    (∀ e ∈ idle.ctxs, ctxDie e.1 = 1 → e.2.st = .free) ∧ (({ idle with dies := [(2, { power := { on := false } })] } : State).die 2).power.on = false ∧
    (∀ j, j < 2 → isRemote (0x200000 + j) = false) ∧ (idle.cell ⟨0, 0⟩).ready ≠ [] ∧ (({ idle with cycle := 64 } : State).cell ⟨0, 9⟩).frz.lastTok + 64 ≤ 64 ∧
    (idle.cell ⟨0, 9⟩).ready = [] ∧ (idle.cell ⟨0, 9⟩).pipe = {} ∧ (104 : Nat) < 105 ∧ (idle.cell ⟨0, 0⟩).frz.wires = 72 ∧ (31 : Nat) < 32 := by decide +kernel

/-- A ready entry that may issue, and the record that it fires. -/
def ready : State := { idle with agenda := [.issue ⟨0, 0⟩], cells := [(0, { cell with blks := [ablk adder] })] }

theorem witness_step_issue : let x : Site := ⟨0, 0⟩; let s1 := ready.nextAct.2
    ready.nextAct.1 = .issue x ∧ (s1.cell x).pipe.issue ≤ s1.cycle ∧ (s1.cell x).pipe.matchAt ≤ s1.cycle ∧ (s1.die 0).loupe.waits 0 = false ∧ (s1.cell x).spat.on = false ∧ s1.swapping x = false ∧ s1.deadPair x = false ∧
      (match firstEnt ((s1.cell x).ready.filter (s1.eligible x)) with
       | some e => !s1.stalled x e && (match s1.firingOf x e with
         | some f => s1.complete f && (match (s1.cell f.x).blkAt f.ent.ctx f.hdr with
           | some b => (match decodeRec (b.recAt f.pos) (b.ext f.pos) with | .ok i => i == adder && Instr.notFaultret i | _ => false) && s1.instrOf f == some adder
           | none => false)
         | none => false)
       | none => false) = true := by decide +kernel

/-- A packed firing, a replayed one, and an event, at the front of what happens next. -/
theorem witness_step_other : let f := fire [tok 1, tok 2]; let p : Parked := ⟨4, { f with taken := true }, 0, none, none, 0⟩
    let s (a : Act) : State := { ready with agenda := [a], parked := [p] }
    (s (.packed ⟨0, 0⟩ 1 0)).nextAct.1 = .packed ⟨0, 0⟩ 1 0 ∧ ((s (.packed ⟨0, 0⟩ 1 0)).cell ⟨0, 0⟩).ready.find? (fun e => e.node == 1 && e.uid == some 0) = some (ent 0 0) ∧
      (s (.refire 4)).nextAct.1 = .refire 4 ∧ (s (.refire 4)).parked.find? (fun p => p.id == 4) = some p ∧ (s (.refire 4)).frozen ⟨0, 0⟩ 0 = false ∧ (s (.refire 4)).owesAnswer 0 4 = false ∧
      (s (.refire 4)).instrOf p.f = some adder ∧ (s (.event (.hostTerminate 0))).nextAct.1 = .event (.hostTerminate 0) ∧
      (Instr.hostTerminate 0).isOp = false ∧ WellFormed (.hostTerminate 0) = true ∧ adder.isOp = true ∧ ({ ready with agenda := [] } : State).agenda = [] := by decide +kernel

/-- The invariant of memory holds at reset, and where bytes are listed. -/
theorem witness_memory_form : State.reset.memWf = true ∧ (launchWorld 1 (fire [])).memWf = true := by decide +kernel

/-- A computing instruction that performs, a DIV by a trapped zero, and an ADD whose target's tag action overflows. -/
theorem witness_refused : let f := fire [tok 1, tok 0]
    let s : State := { world f with ctxs := [(0, { ctx with amask := 32 })] }
    s.cur = some f ∧ f.taken = false ∧ s.latched (siteUnit f.x) < 4 ∧ (s.ctx 0).st = .running ∧
      flagsOf f (hd .s32 2) nl (fun x y _ => if y = 0 then (BitVec.allOnes _, 32) else plainEl (x.sdiv y)) &&& (s.ctx 0).amask.toNat ≠ 0 ∧
      tagAct (s.ctx 0).tl (tgtAct (.local .inc 2 0)) f.tagOf = none ∧ WellFormed (.add { hd .s32 2 with t0 := .local .inc 2 0 } nl) = true ∧
      computes adder = true ∧ WellFormed (.div (hd .s32 2) nl) = true := by decide +kernel

theorem witness_computing_performs : (match exec adder (world (fire [tok 1, tok 2])) with | .next _ => true | _ => false) = true ∧
    (match step ready with | .next _ => true | _ => false) = true := by decide +kernel

/-- What is encoded decodes; what decodes is an operation, a LAUNCH among them. -/
theorem witness_round_trip : (encode adder).isSome = true ∧ WellFormed adder = true ∧
    (match encode adder with | some (r, e) => decodeRec r e == .ok adder | none => false) = true ∧
    (match encode (.launch (hd .s4 1) 3 none) with | some (r, none) => decodeRec r (some ⟨0x0FC00000, 0, 0⟩) == .ok (.launch (hd .s4 1) 3 none) | _ => false) = true ∧
    (match encode (.qpostPost (hd .s4 1) 3) with | some (r, none) => r.opc == 0x2C2 && decodeRec r (some ⟨0x0FC00000, 5, 0⟩) == .ok (.qpostPost (hd .s4 1) 3) | _ => false) = true := by
  decide +kernel

end Sys2Proof.Tests
end

section
/-! Proofs of the statements on arriving tokens and on what waits in a cell (O57). -/
namespace Sys2Proof.Machine

/-! What the device's own reads and writes at the homes of bytes leave as they were (R232 to R254, R285). -/

/-- What a read or a write at the homes of bytes, made at once by the device itself, leaves as it was: the clock, the contexts, the
comparators, and every cell but its memory tile. -/
structure AtHomes (s t : State) : Prop where
  cycle : t.cycle = s.cycle
  ctxs : t.ctxs = s.ctxs
  duals : ∀ d, (t.die d).duals = (s.die d).duals
  cells : ∀ y, ∃ m, t.cell y = { s.cell y with mt := m }

/-- Two residents of one number are one cell. -/
theorem cell_of_siteKey (s : State) {x y : Site} (h : siteKey y = siteKey x) : s.cell y = s.cell x := by
  simp [State.cell, h]

namespace AtHomes

theorem refl (s : State) : AtHomes s s := ⟨rfl, rfl, fun _ => rfl, fun y => ⟨(s.cell y).mt, rfl⟩⟩

theorem trans {s t u : State} (h : AtHomes s t) (k : AtHomes t u) : AtHomes s u where
  cycle := k.cycle.trans h.cycle
  ctxs := k.ctxs.trans h.ctxs
  duals d := (k.duals d).trans (h.duals d)
  cells y := by
    obtain ⟨m, hm⟩ := h.cells y
    obtain ⟨n, hn⟩ := k.cells y
    exact ⟨n, by rw [hn, hm]⟩

/-- A step that changes neither the clock, the contexts, the dies nor the cells. -/
theorem of_fields {s t : State} (hc : t.cycle = s.cycle) (hx : t.ctxs = s.ctxs) (hd : t.dies = s.dies) (hl : t.cells = s.cells) :
    AtHomes s t where
  cycle := hc
  ctxs := hx
  duals d := by simp [State.die, hd]
  cells y := ⟨(s.cell y).mt, by simp [State.cell, hl]⟩

theorem modMem (s : State) (f : MemSys → MemSys) : AtHomes s (s.modMem f) := of_fields rfl rfl rfl rfl

theorem modDie (s : State) (d : Nat) (f : Die → Die) (h : (f (s.die d)).duals = (s.die d).duals) : AtHomes s (s.modDie d f) where
  cycle := rfl
  ctxs := rfl
  duals e := by
    by_cases he : e = d
    · subst he; rw [die_modDie_same, h]
    · rw [die_modDie_ne s he]
  cells y := ⟨(s.cell y).mt, rfl⟩

theorem modCell (s : State) (x : Site) (f : Cell → Cell) (h : ∃ m, f (s.cell x) = { s.cell x with mt := m }) :
    AtHomes s (s.modCell x f) where
  cycle := rfl
  ctxs := rfl
  duals _ := rfl
  cells y := by
    by_cases hy : siteKey y = siteKey x
    · rw [cell_of_siteKey _ hy, cell_modCell_same, cell_of_siteKey _ hy]; exact h
    · exact ⟨(s.cell y).mt, cell_modCell_ne s hy f⟩

theorem foldl {α : Type} (f : State → α → State) (h : ∀ s a, AtHomes s (f s a)) (l : List α) (s : State) : AtHomes s (l.foldl f s) := by
  induction l generalizing s with
  | nil => exact refl s
  | cons a l ih => exact (h s a).trans (ih _)

theorem setByte (s : State) (a : Nat) (b : Byte) : AtHomes s (s.setByte a b) := by
  unfold State.setByte
  split
  · exact refl s
  · exact of_fields rfl rfl rfl rfl

theorem setBytes (s : State) (a : Nat) (l : List Byte) : AtHomes s (s.setBytes a l) := by
  induction l generalizing s a with
  | nil => exact refl s
  | cons b l ih => exact (setByte s a b).trans (ih _ _)

theorem setNum (s : State) (a n v : Nat) : AtHomes s (s.setNum a n v) := setBytes s a _

theorem writeSpots (s : State) (l : List Spot) (bs : List Byte) : AtHomes s (s.writeSpots l bs) := by
  induction l generalizing s bs with
  | nil => cases bs <;> exact refl s
  | cons p l ih =>
    cases bs with
    | nil => exact refl s
    | cons b bs => exact (setByte s p.addr b).trans (ih _ _)

theorem touch (s : State) (pa policy : Nat) : AtHomes s (s.touch pa policy) := by
  unfold State.touch
  split
  · exact refl s
  · dsimp only
    split
    · exact modMem s _
    · split
      · exact refl s
      · exact modMem s _

theorem touchWrite (s : State) (pa policy : Nat) : AtHomes s (s.touchWrite pa policy) := by
  unfold State.touchWrite
  split
  · exact refl s
  · exact (touch s pa policy).trans (modMem _ _)

theorem walk (s : State) (die tenant va : Nat) : AtHomes s (s.walk die tenant va).2 :=
  foldl _ (fun s a => touch s a 0) _ s

theorem setNum_touchWrite (s : State) (a n v b p : Nat) : AtHomes s ((s.setNum a n v).touchWrite b p) :=
  (setNum s a n v).trans (touchWrite _ b p)

theorem orPte (s : State) (a bits : Nat) : AtHomes s (s.orPte a bits) := by
  unfold State.orPte
  dsimp only
  split
  · exact refl s
  · exact setNum_touchWrite s a 8 _ a 0

theorem fillTlb (s : State) (die place col tenant va : Nat) (e : Pte) : AtHomes s (s.fillTlb die place col tenant va e) := by
  unfold State.fillTlb
  split
  · exact refl s
  · exact modMem s _

theorem lookup (s : State) (die place col tenant va : Nat) (write : Bool) : AtHomes s (s.lookup die place col tenant va write).2 := by
  have hw := walk s die tenant va
  unfold State.lookup
  split
  case h_1 c s1 h => rw [h] at hw; exact hw
  case h_2 e a s1 h =>
    rw [h] at hw
    refine hw.trans ?_
    dsimp only
    split
    · exact refl s1
    split
    · exact refl s1
    split
    · exact (orPte s1 a 4).trans (fillTlb _ _ _ _ _ _ _)
    split
    · exact refl s1
    split
    · exact (orPte s1 a 12).trans (fillTlb _ _ _ _ _ _ _)
    split
    · exact refl s1
    split
    · exact (setNum_touchWrite s1 a 8 _ a 0).trans (fillTlb _ _ _ _ _ _ _)
    split <;> exact refl s1

theorem lookRange (s : State) (die place col tenant : Nat) (write useTlb : Bool) (fuel va n : Nat) (acc : List Page) :
    AtHomes s (s.lookRange die place col tenant write useTlb fuel va n acc).2 := by
  induction fuel generalizing s va n acc with
  | zero => exact refl s
  | succ fuel ih =>
    unfold State.lookRange
    split
    · exact refl s
    dsimp only
    have hr : ∀ r : Look × State, r = (match (if useTlb then s.tlbHit die place col tenant va write else none) with
        | some p => (.ok p, s)
        | none => if (s.die die).loupe.waits (unitPageWalker (va / 4096 % 16)) then (.held, s)
          else s.lookup die place col tenant va write) → AtHomes s r.2 := by
      rintro r rfl
      split
      · exact refl s
      · split
        · exact refl s
        · exact lookup s die place col tenant va write
    split
    case h_1 p s1 h => exact (hr _ h.symm).trans (ih s1 _ _ _)
    case h_2 l s1 _ h => exact hr _ h.symm

theorem hot (s : State) (pa page : Nat) : AtHomes s (s.hot pa page) := by
  unfold State.hot
  split
  · exact setNum_touchWrite s _ _ _ _ _
  · exact refl s

theorem reach (s : State) (x : Site) (pa page : Nat) : AtHomes s (s.reach x pa page) := by
  unfold State.reach
  split
  · exact refl s
  · exact (hot s pa page).trans (modDie _ _ _ rfl)

theorem reachVa (s : State) (x : Site) (ps : List Page) (va : Nat) : AtHomes s (s.reachVa x ps va) := by
  unfold State.reachVa
  split
  · exact reach s x _ _
  · exact refl s

theorem handleEntry (s : State) (x : Site) (c k : Nat) : AtHomes s (s.handleEntry x c k).2 := by
  unfold State.handleEntry
  dsimp only
  split
  · exact refl s
  split
  · exact refl s
  have hl := lookRange s x.die (s.pairOf x) (colCache (s.pos x).1) (s.ctx c).tenant false true 2
    (((s.ctx c).htbase + 16 * k) % 2 ^ 57) 16 []
  split
  case h_1 h => rw [h] at hl; exact hl
  case h_2 h => rw [h] at hl; exact hl
  case h_3 ps s1 h =>
    rw [h] at hl
    refine hl.trans ?_
    split
    · exact refl s1
    · rename_i pa _
      have ht : AtHomes s1 ((s1.touch pa 0).reachVa x ps (((s.ctx c).htbase + 16 * k) % 2 ^ 57)) :=
        (touch s1 pa 0).trans (reachVa _ x ps _)
      split
      · exact ht
      · dsimp only
        exact ht.trans (modMem _ _)

theorem checkHandle (s : State) (x : Site) (c h o n : Nat) : AtHomes s (s.checkHandle x c h o n).2 := by
  have he := handleEntry s x c h
  unfold State.checkHandle
  split
  · exact refl s
  split
  case h_1 hs => rw [hs] at he; exact he
  case h_2 hs =>
    rw [hs] at he
    repeat' split
    all_goals exact he

theorem ctxBound (s : State) (c h : Nat) : AtHomes s (s.ctxBound c h).2 := by
  have hc := checkHandle s (homeSite c) c h 0 64
  unfold State.ctxBound
  split <;> (rename_i hs; rw [hs] at hc; exact hc)

theorem wake (s : State) (x : Site) (k : Nat) : AtHomes s (s.wake x k) := by
  unfold State.wake
  split
  · exact refl s
  · exact modCell s x _ ⟨_, rfl⟩

theorem bankCheck (s : State) (x : Site) (a n : Nat) : AtHomes s (s.bankCheck x a n).2 := by
  unfold State.bankCheck
  dsimp only
  split
  · exact refl s
  split
  · exact refl s
  · exact foldl _ (fun s k => wake s x k) _ s

theorem setPoison (s : State) (a n : Nat) : AtHomes s (s.setPoison a n) := of_fields rfl rfl rfl rfl

theorem mtAdvance (s : State) (x : Site) (k n : Nat) (write : Bool) : AtHomes s (s.mtAdvance x k n write) := by
  have put (s : State) (r : MtReg) : AtHomes s (s.modCell x (fun c => { c with mt := { c.mt with regs := c.mt.regs.set k r } })) :=
    modCell s x _ ⟨_, rfl⟩
  unfold State.mtAdvance
  dsimp only
  split
  · repeat' split
    all_goals exact put s _
  · split <;> exact put s _
  · split
    · exact refl s
    split
    · exact put s _
    · refine ((setBytes s _ _).trans (foldl _ (fun t i => ?_) _ _)).trans (put _ _)
      split
      · exact setPoison t _ _
      · exact refl t

theorem sdmCheck (s : State) (die a n : Nat) : AtHomes s (s.sdmCheck die a n).2 := by
  have wake (s : State) (g : Nat) : AtHomes s (s.sdmWake die g) := by
    unfold State.sdmWake
    split
    · exact refl s
    · exact modDie s die _ rfl
  unfold State.sdmCheck
  extract_lets gibs is
  split
  · exact refl s
  split
  · exact refl s
  · exact foldl _ wake _ s

theorem virtRange (s : State) (x : Site) (c va n : Nat) (write : Bool) : AtHomes s (s.virtRange x c va n write).2 := by
  have hl := lookRange s x.die (s.pairOf x) (colCache (s.pos x).1) (s.ctx c).tenant write true (n / 4096 + 2) va n []
  unfold State.virtRange
  split
  · exact refl s
  split <;> (rename_i hs; rw [hs] at hl; exact hl)

theorem virtHome (s : State) (x : Site) (ps : List Page) (va n : Nat) (write : Bool) (policy : Nat) :
    AtHomes s (s.virtHome x ps va n write policy).2 := by
  unfold State.virtHome
  dsimp only
  split
  · exact refl s
  split
  · exact refl s
  have hr (pas : List Nat) : AtHomes s (s.remoteRefuses pas).2 := by
    unfold State.remoteRefuses
    split
    · exact of_fields rfl rfl rfl rfl
    · exact refl s
  split
  · exact hr _
  · refine (hr _).trans (foldl _ (fun t v => ?_) _ _)
    refine AtHomes.trans ?_ (reachVa _ x ps v)
    split
    · exact touchWrite t _ _
    · exact touch t _ _

theorem tileSpots (s : State) (place : Nat) (x : Site) (k o n : Nat) (write : Bool) : AtHomes s (s.tileSpots place x k o n write).2 := by
  unfold State.tileSpots
  split
  · exact refl s
  split
  · exact refl s
  split
  · exact refl s
  rename_i at_ _
  have hb := bankCheck s x (s.bankByte x at_) n
  split
  case h_1 h => rw [h] at hb; exact hb
  case h_2 h => rw [h] at hb; exact hb
  case h_3 h => rw [h] at hb; exact hb.trans (mtAdvance _ x k n write)

theorem spotsAt (s : State) (place : Nat) (x : Site) (c h o n : Nat) (write : Bool) :
    AtHomes s (s.spotsAt place x c h o n write).2 := by
  have hc := checkHandle s x c h o n
  unfold State.spotsAt
  split
  case h_1 hs => rw [hs] at hc; exact hc
  case h_2 e s1 hs =>
    rw [hs] at hc
    refine hc.trans ?_
    split
    · exact refl s1
    dsimp only
    split
    · have hv := virtRange s1 x c (e.base + o) n write
      split
      case h_1 h => rw [h] at hv; exact hv
      case h_2 ps s2 h =>
        rw [h] at hv
        refine hv.trans ?_
        have hh := virtHome s2 x ps (e.base + o) n write e.policy
        split <;> (rename_i h; rw [h] at hh; exact hh)
    split
    · split
      · exact refl s1
      split
      · exact refl s1
      have hd := sdmCheck s1 x.die (e.base + o) n
      split <;> (rename_i h; rw [h] at hd; exact hd)
    · exact tileSpots s1 place x e.base o n write

theorem spots (s : State) (x : Site) (c h o n : Nat) (write : Bool) : AtHomes s (s.spots x c h o n write).2 :=
  spotsAt s _ x c h o n write

theorem ctxRead (s : State) (c h o n : Nat) : AtHomes s (s.ctxRead c h o n).2 := by
  have hc := spots s (homeSite c) c h o n false
  unfold State.ctxRead
  split <;> (rename_i hs; rw [hs] at hc; exact hc)

end AtHomes

/-! Spilling and the taking of faults leave the comparators of every die (R16, R361 to R368, R370). -/

/-- The comparators of every die are as they were (R370). -/
def SameDuals (s t : State) : Prop := ∀ d, (t.die d).duals = (s.die d).duals

theorem AtHomes.sameDuals {s t : State} (h : AtHomes s t) : SameDuals s t := h.duals

namespace SameDuals

theorem refl (s : State) : SameDuals s s := fun _ => rfl

theorem trans {s t u : State} (h : SameDuals s t) (k : SameDuals t u) : SameDuals s u := fun d => (k d).trans (h d)

theorem of_dies {s t : State} (h : t.dies = s.dies) : SameDuals s t := fun d => by simp [State.die, h]

theorem modDie (s : State) (d : Nat) (f : Die → Die) (h : (f (s.die d)).duals = (s.die d).duals) : SameDuals s (s.modDie d f) :=
  (AtHomes.modDie s d f h).duals

theorem modCtx (s : State) (c : Nat) (f : Ctx → Ctx) : SameDuals s (s.modCtx c f) := fun _ => rfl

theorem modCell (s : State) (x : Site) (f : Cell → Cell) : SameDuals s (s.modCell x f) := fun _ => rfl

/-- A resident of a comparator is one still. -/
theorem dualOf {s t : State} (h : SameDuals s t) (x : Site) (ctx : Nat) : t.dualOf x ctx = s.dualOf x ctx := by
  unfold State.dualOf
  rw [h]

theorem trace (s : State) (die u : Nat) (e : Event) : SameDuals s (s.trace die u e) := by
  unfold State.trace
  split
  · exact refl s
  · exact modDie s die _ rfl

theorem takeFrame (s : State) (die tenant size : Nat) : SameDuals s (s.takeFrame die tenant size).2 := by
  unfold State.takeFrame
  dsimp only
  split
  · exact refl s
  · exact (AtHomes.touchWrite s _ 0).sameDuals.trans (modDie _ die _ rfl)

theorem beginCow (s : State) (die tenant ctx va : Nat) (e : Pte) (at_ : Nat) (init : Option Act) (after : Nat) :
    SameDuals s (s.beginCow die tenant ctx va e at_ init after).2 := by
  have restore (t : State) : SameDuals t ((t.setNum at_ 8 e).touchWrite at_ 0) := (AtHomes.setNum_touchWrite t at_ 8 e at_ 0).sameDuals
  have migr : SameDuals s (((s.setNum at_ 8 (e ||| 3 * 2 ^ 60)).touchWrite at_ 0).dropTlb tenant
      (va / pageBytes (pteSize e) * pageBytes (pteSize e)) (pageBytes (pteSize e))) :=
    (AtHomes.setNum_touchWrite s at_ 8 _ at_ 0).sameDuals.trans (of_dies rfl)
  have ht := migr.trans (takeFrame _ die tenant (pteSize e))
  unfold State.beginCow
  dsimp only
  split
  case h_1 f s2 h =>
    rw [h] at ht
    split
    · exact ht.trans (restore s2)
    · exact ht.trans (SameDuals.trans (of_dies rfl) (trace _ _ _ _))
  case h_2 s2 h =>
    rw [h] at ht
    exact ht.trans (restore s2)

theorem sendTok (s : State) (die : Nat) (p : Nat × Nat) (cls : Nat) (t : Tok) : SameDuals s (s.sendTok die p cls t) :=
  modDie s die _ rfl

theorem notify (s : State) (r : FRec) (seq : Nat) : SameDuals s (s.notify r seq) := by
  unfold State.notify
  dsimp only
  split
  · exact of_dies rfl
  · exact sendTok s _ _ _ _

theorem settle (s : State) (c : Nat) : SameDuals s (s.settle c) := by
  unfold State.settle
  repeat' split
  all_goals exact of_dies rfl

end SameDuals

/-- An attempt to write that leaves the comparators as they were, however it ends. -/
def Put.SameDuals (s : State) : Put → Prop
  | .done t | .fault t | .wait t => Machine.SameDuals s t
  | .full => True

theorem putBlocked_sameDuals (s : State) (c : Nat) (b : Block) : (s.putBlocked c b).SameDuals s := by
  have hb : SameDuals s (s.ownBlocked c b).2 := by
    unfold State.ownBlocked
    split
    · exact SameDuals.refl s
    · exact SameDuals.beginCow s _ _ _ _ _ _ _ _
    · exact SameDuals.refl s
  unfold State.putBlocked
  split <;> (rename_i h; rw [h] at hb; exact hb)

theorem putSpill_sameDuals (s : State) (x : Site) (hdr : Nat) (t : Tok) (held : Bool) : (s.putSpill x hdr t held).SameDuals s := by
  unfold State.putSpill
  dsimp only
  have hb := AtHomes.ctxBound s t.ctx (s.ctx t.ctx).spillh
  split
  · exact putBlocked_sameDuals s t.ctx _
  rename_i bound s1 h1
  rw [h1] at hb
  split
  · trivial
  have hs := AtHomes.spots s1 (homeSite t.ctx) t.ctx (s.ctx t.ctx).spillh (64 + 128 * ((s.ctx t.ctx).spill.wp % spillCap bound)) 128 true
  split
  · exact putBlocked_sameDuals s t.ctx _
  rename_i l s2 h2
  rw [h2] at hs
  have hw := AtHomes.spots s2 (homeSite t.ctx) t.ctx (s.ctx t.ctx).spillh 0 4 true
  split
  · exact putBlocked_sameDuals s t.ctx _
  rename_i lw s3 h3
  rw [h3] at hw
  exact ((((hb.trans hs).trans hw).trans (AtHomes.writeSpots s3 l _)).trans (AtHomes.writeSpots _ lw _)).sameDuals.trans
    (SameDuals.modCtx _ _ _)

theorem putRecord_sameDuals (s : State) (r : FRec) (what : Resume) : (s.putRecord r what).SameDuals s := by
  unfold State.putRecord
  dsimp only
  have hb := AtHomes.ctxBound s r.ctx (s.ctx r.ctx).fqh
  split
  · exact putBlocked_sameDuals s r.ctx _
  rename_i bound s1 h1
  rw [h1] at hb
  have hr := AtHomes.ctxRead s1 r.ctx (s.ctx r.ctx).fqh 0 8
  split
  · exact putBlocked_sameDuals s r.ctx _
  rename_i v s2 h2
  rw [h2] at hr
  split
  · trivial
  have hs := AtHomes.spots s2 (homeSite r.ctx) r.ctx (s.ctx r.ctx).fqh (64 + 32 * (v % 2 ^ 32 % ((bound - 64) / 32))) 32 true
  split
  · exact putBlocked_sameDuals s r.ctx _
  rename_i l s3 h3
  rw [h3] at hs
  have hw := AtHomes.spots s3 (homeSite r.ctx) r.ctx (s.ctx r.ctx).fqh 0 4 true
  split
  · exact putBlocked_sameDuals s r.ctx _
  rename_i lw s4 h4
  rw [h4] at hw
  have written := ((((hb.trans hr).trans hs).trans hw).trans (AtHomes.writeSpots s4 l (wordBytes (r.words (s.ctx r.ctx).trap.seq)))).trans
    (AtHomes.writeSpots _ lw (leBytes 4 ((v % 2 ^ 32 + 1) % 2 ^ 32)))
  exact ((written.sameDuals.trans (SameDuals.modCtx _ _ _)).trans (SameDuals.trace _ _ _ _)).trans (SameDuals.notify _ _ _)

namespace SameDuals

/-- Taking a fault leaves the comparators (R361 to R365). -/
theorem takeFault (s : State) (unit : Nat) (r : FRec) (what : Resume) : SameDuals s (s.takeFault unit r what) := by
  unfold State.takeFault
  extract_lets latch s1
  have latched (host : Bool) (t : State) : SameDuals t (latch host t) := by
    cases host <;> exact of_dies rfl
  split
  · exact of_dies rfl
  · refine SameDuals.trans ?_ (settle s1 r.ctx)
    have hp := putRecord_sameDuals s r what
    unfold s1
    split
    · exact latched false s
    split
    case h_1 t h => rw [h] at hp; exact hp
    case h_2 h => exact latched false s
    case h_3 t h => rw [h] at hp; exact hp.trans (latched true t)
    case h_4 t h => rw [h] at hp; exact hp.trans (latched false t)

theorem traceSpill (s : State) (x : Site) (t : Tok) (at_ : Option FRec) : SameDuals s (s.traceSpill x t at_) := by
  unfold State.traceSpill
  split
  · exact refl s
  dsimp only
  split
  · exact trace s _ _ _
  · exact trace s _ _ _

/-- A token that moves to the spill area, or to the escape buffer, leaves the comparators (R16, R368). -/
theorem spill {s t : State} {x : Site} {hdr : Nat} {k : Tok} {held : Bool} (h : s.spill x hdr k held = some t) : SameDuals s t := by
  unfold State.spill at h
  extract_lets counted s1 s2 escape follows at h
  have escapes (code : FCode) : escape code = some t → SameDuals s t := by
    intro he
    unfold escape at he
    split at he
    · cases he
    split at he
    · rw [← Option.some.inj he]; exact modCell s x _
    · rw [← Option.some.inj he]; exact SameDuals.trans (of_dies rfl) (takeFault s2 _ _ _)
  split at h
  · split at h
    · cases h
    · cases h; exact modCell s x _
  have hp := putSpill_sameDuals s x hdr k held
  split at h
  case h_1 s1 hs =>
    rw [hs] at hp
    cases h
    exact (hp.trans (modCell _ x _)).trans (traceSpill _ x k none)
  case h_2 => exact escapes _ h
  case h_3 => exact escapes _ h
  case h_4 => cases h

end SameDuals

/-! Nodes that become ready, and tokens that fill slots (R15, R19, R20). -/

/-- An entry but for its READY bits. -/
def DirEnt.unready (e : DirEnt) : DirEnt := { e with ready := 0 }

/-- What nodes that enter the ready queue leave as it was: the slots and counters of their cell, its directory but for READY bits, the
contexts and the dies. -/
structure Marks (x : Site) (s t : State) : Prop where
  slots : (t.cell x).slots = (s.cell x).slots
  dir : (t.cell x).dir.map DirEnt.unready = (s.cell x).dir.map DirEnt.unready
  ctr : (t.cell x).ctr = (s.cell x).ctr
  ctxs : t.ctxs = s.ctxs
  dies : t.dies = s.dies

namespace Marks
variable {x : Site} {s t u : State}

theorem refl (x : Site) (s : State) : Marks x s s := ⟨rfl, rfl, rfl, rfl, rfl⟩

theorem trans (h : Marks x s t) (k : Marks x t u) : Marks x s u :=
  ⟨k.slots.trans h.slots, k.dir.trans h.dir, k.ctr.trans h.ctr, k.ctxs.trans h.ctxs, k.dies.trans h.dies⟩

theorem foldl {α : Type} (f : State → α → State) (h : ∀ s a, Marks x s (f s a)) (l : List α) (s : State) : Marks x s (l.foldl f s) := by
  induction l generalizing s with
  | nil => exact refl x s
  | cons a l ih => exact (h s a).trans (ih _)

theorem setReady (s : State) (x : Site) (uid node pos : Nat) (tag : W64) (depth pri : Nat) :
    Marks x s (s.setReady x uid node pos tag depth pri) := by
  unfold State.setReady
  refine ⟨?_, ?_, ?_, rfl, rfl⟩ <;> rw [cell_modCell_same] <;> dsimp only
  case refine_2 =>
    split
    · rfl
    split
    · rfl
    simp only [Cell.modEnt, lmap, List.map_map]
    refine List.map_congr_left fun e _ => ?_
    simp only [Function.comp]
    split <;> rfl
  all_goals
    split
    · rfl
    · split <;> rfl

theorem readyCheck (s : State) (x : Site) (b : Blk) (uid pos node pri : Nat) : Marks x s (s.readyCheck x b uid pos node pri) := by
  unfold State.readyCheck
  split
  · exact refl x s
  · split
    · exact setReady s x _ _ _ _ _ _
    · exact refl x s

theorem bindReady (s : State) (x : Site) (b : Blk) (pos : Nat) (k : Tok) : Marks x s (s.bindReady x b pos k) :=
  foldl _ (fun s (e : DirEnt) => readyCheck s x b e.uid pos k.node k.pri) _ s

/-- Names, tags and frames of the directory are as they were. -/
theorem names (h : Marks x s t) :
    (t.cell x).dir.map (fun d => (d.uid, d.tag, d.base)) = (s.cell x).dir.map (fun d => (d.uid, d.tag, d.base)) := by
  have hd := congrArg (List.map fun d : DirEnt => (d.uid, d.tag, d.base)) h.dir
  simpa only [List.map_map, Function.comp_def, DirEnt.unready] using hd

/-- The entry of a name is there still, but for its READY bits. -/
theorem ent (h : Marks x s t) {uid : Nat} {e : DirEnt} (he : (s.cell x).ent uid = some e) :
    ∃ d, (t.cell x).ent uid = some d ∧ d.unready = e.unready := by
  have find (l : List DirEnt) : (l.map DirEnt.unready).find? (fun e => e.uid == uid) = (l.find? (fun e => e.uid == uid)).map DirEnt.unready :=
    List.find?_map
  have ht : ((t.cell x).ent uid).map DirEnt.unready = some e.unready := by
    rw [Cell.ent, ← find, h.dir, find]
    exact congrArg _ he
  exact Option.map_eq_some_iff.mp ht

end Marks

/-- An entry of a directory whose entries have their own names is found by its name. -/
theorem ent_of_mem {c : Cell} (h : (c.dir.map (fun e => e.uid)).Nodup) {e : DirEnt} (he : e ∈ c.dir) : c.ent e.uid = some e := by
  unfold Cell.ent
  have hs : (c.dir.find? (fun d => d.uid == e.uid)).isSome = true := List.find?_isSome.mpr ⟨e, he, by simp⟩
  obtain ⟨d, hd⟩ := Option.isSome_iff_exists.mp hs
  have hu : d.uid = e.uid := by simpa using List.find?_some hd
  rw [hd, List.inj_on_of_nodup_map h (List.mem_of_find?_eq_some hd) he hu]

/-- A live frame entry stands in the directory, and is neither a binding entry nor force-retired. -/
theorem inst_spec {c : Cell} {ctx hdr depth : Nat} {tag : W64} {e : DirEnt} (h : c.inst ctx hdr tag depth = some e) :
    e ∈ c.dir ∧ e.bind = false ∧ e.dying = false := by
  have hp := List.find?_some h
  simp only [Bool.and_eq_true, Bool.not_eq_true'] at hp
  exact ⟨List.mem_of_find?_eq_some h, hp.1.1.1.1.1, hp.1.1.1.1.2⟩

/-- The binding entry of a block stands in the directory. -/
theorem bindEnt_spec {c : Cell} {ctx hdr : Nat} {e : DirEnt} (h : c.bindEnt ctx hdr = some e) : e ∈ c.dir ∧ e.bind = true := by
  have hp := List.find?_some h
  simp only [Bool.and_eq_true] at hp
  exact ⟨List.mem_of_find?_eq_some h, hp.1.1⟩

/-- A node of an entry that is not ready enters the queue behind what stands there (R20). -/
theorem setReady_ready {s : State} {x : Site} {uid node pos : Nat} {e : DirEnt} (tag : W64) (depth pri : Nat)
    (he : (s.cell x).ent uid = some e) (hr : e.ready.getLsbD pos = false) :
    ((s.setReady x uid node pos tag depth pri).cell x).ready =
      (s.cell x).ready ++ [⟨some uid, node, e.ctx, pri, s.cycle, 0, (s.cell x).uids, tag, depth, pri, none, false⟩] := by
  unfold State.setReady
  rw [cell_modCell_same]
  simp [he, hr]

/-- A node of an entry whose ports all have what they need enters the ready queue; any other is left alone. -/
theorem readyCheck_ent {s : State} {x : Site} {b : Blk} {uid : Nat} {e : DirEnt} (pos node pri : Nat) (he : (s.cell x).ent uid = some e) :
    s.readyCheck x b uid pos node pri =
      if (s.cell x).nodeReady e b pos then s.setReady x uid node pos e.tag e.depth pri else s := by
  simp [State.readyCheck, he]

/-- A slot that is filled changes the slots and the numbering of its cell. -/
theorem cell_fillSlot (s : State) (x : Site) (e : DirEnt) (b : Blk) (pos : Nat) (t : Tok) (cnt : Nat) :
    (s.fillSlot x e b pos t cnt).cell x = { s.cell x with
      slots := tput (e.base + b.off pos t.port) ⟨t, cnt, (s.cell x).uids⟩ (s.cell x).slots, uids := (s.cell x).uids + 1 } :=
  cell_modCell_same s x _

/-- A node that a token fires alone enters the queue behind what stands there (R107, R200). -/
theorem cell_setAlone (s : State) (x : Site) (ctx node : Nat) (t : Tok) : (s.setAlone x ctx node t).cell x = { s.cell x with
    ready := (s.cell x).ready ++ [⟨none, node, ctx, t.pri, s.cycle, 0, (s.cell x).uids, t.tag, t.depth, t.pri, some t, false⟩]
    uids := (s.cell x).uids + 1 } :=
  cell_modCell_same s x _

/-- A token that a live frame entry takes fills its slot there and makes its node ready, if it is (R15, R19, R20). -/
theorem fills_instance {s : State} {x : Site} {e : DirEnt} (b : Blk) (t : Tok)
    (names : ((s.cell x).dir.map (fun e => e.uid)).Nodup) (he : e ∈ (s.cell x).dir) :
    Fills s ((s.fillSlot x e b (t.node - b.hdr - 1) t 0).readyCheck x b e.uid (t.node - b.hdr - 1) t.node t.pri) x e b t 0 := by
  have ent : ((s.fillSlot x e b (t.node - b.hdr - 1) t 0).cell x).ent e.uid = some e := by
    rw [cell_fillSlot]; exact ent_of_mem names he
  have check := readyCheck_ent (b := b) (t.node - b.hdr - 1) t.node t.pri ent
  have marks := Marks.readyCheck (s.fillSlot x e b (t.node - b.hdr - 1) t 0) x b e.uid (t.node - b.hdr - 1) t.node t.pri
  refine ⟨?_, ?_, fun _ hr => ?_, fun _ hr hb => ?_⟩
  · rw [marks.slots, cell_fillSlot]
  · rw [marks.names, cell_fillSlot]
  · have unready : ((s.fillSlot x e b (t.node - b.hdr - 1) t 0).cell x).nodeReady e b (t.node - b.hdr - 1) = false := by
      rw [cell_fillSlot]; exact hr
    rw [check, unready, if_neg Bool.false_ne_true, cell_fillSlot]
  · have ready : ((s.fillSlot x e b (t.node - b.hdr - 1) t 0).cell x).nodeReady e b (t.node - b.hdr - 1) = true := by
      rw [cell_fillSlot]; exact hr
    rw [check, ready, if_pos rfl, setReady_ready _ _ _ ent hb, cell_fillSlot]
    exact ⟨_, rfl, rfl, rfl, rfl, rfl, rfl, rfl, rfl⟩

/-! New frame entries, and bindings (R15 to R18). -/

/-- A token that binds a port fills its slot in the binding entry, whatever becomes ready of it (R17). -/
theorem fills_binding {s u : State} {x : Site} {e : DirEnt} {b : Blk} {t : Tok} {n : Nat} (he : e.bind = true)
    (h : Marks x (s.fillSlot x e b (t.node - b.hdr - 1) t n) u) : Fills s u x e b t n := by
  refine ⟨?_, ?_, fun hb => ?_, fun hb => ?_⟩
  · rw [h.slots, cell_fillSlot]
  · rw [h.names, cell_fillSlot]
  · rw [he] at hb; cases hb
  · rw [he] at hb; cases hb

/-- What a fill is depends on the slots, the directory, the queue and the numbering of the cell, and on the cycle. -/
theorem Fills.of_cell {s r u : State} {x : Site} {e : DirEnt} {b : Blk} {t : Tok} {n : Nat} (h : Fills s u x e b t n)
    (hc : ∃ p k m, s.cell x = { r.cell x with pipe := p, ctr := k, mt := m }) (hn : s.cycle = r.cycle) : Fills r u x e b t n := by
  obtain ⟨p, k, m, hc⟩ := hc
  unfold Fills at h ⊢
  rw [hc, hn] at h
  exact h

/-- The entry that a token of a new key makes (R15). -/
def newEnt (b : Blk) (uid base : Nat) (tag : W64) (depth : Nat) : DirEnt :=
  { uid := uid, bind := false, ctx := b.ctx, blk := b.hdr, tag := tag, depth := depth, base := base, size := b.fsize,
    xfired := 0, sdone := 0, spend := 0, ready := 0, dying := false }

/-- A new frame entry stands behind the others, with its nodes of ARITY 0 ready (R15). -/
theorem newInst_marks (s : State) (x : Site) (b : Blk) (base : Nat) (tag : W64) (depth : Nat) :
    Marks x (s.modCell x (fun c => { c with dir := c.dir ++ [newEnt b (s.cell x).uids base tag depth], uids := c.uids + 1 }))
      (s.newInst x b base tag depth) :=
  Marks.foldl _ (fun t p => Marks.setReady t x _ (b.hdr + 1 + p) p tag depth b.prio) _ _

/-- A new frame entry is found by its name, which no other has. -/
theorem newInst_ent {s : State} {x : Site} (b : Blk) (base : Nat) (tag : W64) (depth : Nat)
    (fresh : ∀ e ∈ (s.cell x).dir, e.uid ≠ (s.cell x).uids) :
    ∃ e, ((s.newInst x b base tag depth).cell x).ent (s.cell x).uids = some e ∧
      e.unready = newEnt b (s.cell x).uids base tag depth := by
  refine (newInst_marks s x b base tag depth).ent (e := newEnt b (s.cell x).uids base tag depth) ?_
  have none : (s.cell x).dir.find? (fun e => e.uid == (s.cell x).uids) = none :=
    List.find?_eq_none.mpr fun e he => by simpa using fresh e he
  rw [cell_modCell_same, Cell.ent, List.find?_append, none]
  simp [newEnt]

/-- A token that finds no frame entry makes one and fills its slot there (R15). -/
theorem newInst_fill {s : State} {x : Site} (b : Blk) (base : Nat) (t : Tok) (fresh : ∀ e ∈ (s.cell x).dir, e.uid ≠ (s.cell x).uids) :
    let s1 := s.newInst x b base t.tag t.depth
    let pos := t.node - b.hdr - 1
    ∃ d, (s1.cell x).ent (s.cell x).uids = some d ∧ let u := (s1.fillSlot x d b pos t 0).readyCheck x b d.uid pos t.node t.pri
      (∃ e, (u.cell x).ent (s.cell x).uids = some e ∧ e.unready = newEnt b (s.cell x).uids base t.tag t.depth) ∧
      (∃ n, (u.cell x).slots = tput (base + b.off pos t.port) ⟨t, 0, n⟩ (s.cell x).slots) ∧ u.dies = s.dies := by
  intro s1 pos
  have made := newInst_marks s x b base t.tag t.depth
  obtain ⟨d, hd, hu⟩ := newInst_ent b base t.tag t.depth fresh
  have marks := Marks.readyCheck (s1.fillSlot x d b pos t 0) x b d.uid pos t.node t.pri
  have filled : ((s1.fillSlot x d b pos t 0).cell x).ent (s.cell x).uids = some d := by
    rw [cell_fillSlot]; exact hd
  refine ⟨d, hd, ?_, ⟨(s1.cell x).uids, ?_⟩, marks.dies.trans made.dies⟩
  · obtain ⟨e, he, hue⟩ := marks.ent filled
    exact ⟨e, he, hue.trans hu⟩
  · have slots : (s1.cell x).slots = (s.cell x).slots := by rw [made.slots, cell_modCell_same]
    have hbase : d.base = base := congrArg DirEnt.base hu
    rw [marks.slots, cell_fillSlot, slots, hbase]

/-! What a token does at its port, by what stands there (R15 to R17, R200). -/

section MatchTok
variable {s : State} {x : Site} {b : Blk} {pos : Nat} {t : Tok} {refill : Bool}

/-- At an LBOUND port a token fires its node alone (R200). -/
theorem matchTok_lbound (h : (b.recAt pos).opc = 0x046) : s.matchTok x b pos t refill = some (s.setAlone x t.ctx t.node t) := by
  simp [State.matchTok, h]

/-- A token at a bound port spills, whether or not its key waits (R17). -/
theorem matchTok_bound (h : (b.recAt pos).opc ≠ 0x046) (hb : ((s.cell x).binding b pos t.port).isSome = true) :
    s.matchTok x b pos t refill = s.spill x b.hdr t false := by
  simp [State.matchTok, h, hb]

variable (hop : (b.recAt pos).opc ≠ 0x046) (hkey : (!refill && s.spilledKey x b.hdr t) = false)
  (hbind : (s.cell x).binding b pos t.port = none)
include hop hkey hbind

/-- A token fills the free slot of its port in its frame entry (R15). -/
theorem matchTok_instance {e : DirEnt} (he : (s.cell x).inst t.ctx b.hdr t.tag t.depth = some e)
    (hs : (s.cell x).slotOf e b pos t.port = none) :
    s.matchTok x b pos t refill = some ((s.fillSlot x e b pos t 0).readyCheck x b e.uid pos t.node t.pri) := by
  simp [State.matchTok, hop, hkey, hbind, he, hs]

/-- A token whose slot is taken spills (R16). -/
theorem matchTok_taken {e : DirEnt} (he : (s.cell x).inst t.ctx b.hdr t.tag t.depth = some e)
    (hs : ((s.cell x).slotOf e b pos t.port).isSome = true) : s.matchTok x b pos t refill = s.spill x b.hdr t false := by
  simp [State.matchTok, hop, hkey, hbind, he, hs]

/-- A token of no frame entry, where there is room for one, makes it (R15). -/
theorem matchTok_new {base : Nat} {e : DirEnt} (he : (s.cell x).inst t.ctx b.hdr t.tag t.depth = none) (hr : (s.cell x).room b = some base)
    (hn : ((s.newInst x b base t.tag t.depth).cell x).ent (s.cell x).uids = some e) :
    s.matchTok x b pos t refill =
      some (((s.newInst x b base t.tag t.depth).fillSlot x e b pos t 0).readyCheck x b e.uid pos t.node t.pri) := by
  simp [State.matchTok, hop, hkey, hbind, he, hr, hn]

/-- A token of no frame entry, where there is no room for one, spills (R15, R16). -/
theorem matchTok_full (he : (s.cell x).inst t.ctx b.hdr t.tag t.depth = none) (hr : (s.cell x).room b = none) :
    s.matchTok x b pos t refill = s.spill x b.hdr t false := by
  simp [State.matchTok, hop, hkey, hbind, he, hr]

end MatchTok

/-- A STICKY or COUNT token at an unbound port fills its slot in the binding entry (R17, R19). -/
theorem bindTok_entry {s : State} {x : Site} {b : Blk} {t : Tok} {e : DirEnt} (hkey : s.spilledKey x b.hdr t = false)
    (hbind : (s.cell x).binding b (t.node - b.hdr - 1) t.port = none) (he : (s.cell x).bindEnt b.ctx b.hdr = some e) :
    ∃ u, s.bindTok x b (t.node - b.hdr - 1) t false = some u ∧
      Marks x (s.fillSlot x e b (t.node - b.hdr - 1) t (if t.ma = .count then (if t.cnt = 0 then 256 else t.cnt) else 0)) u := by
  have marks (n : Nat) := Marks.bindReady (s.fillSlot x e b (t.node - b.hdr - 1) t n) x b (t.node - b.hdr - 1) t
  unfold State.bindTok
  simp only [hkey, hbind, he, beq_iff_eq, Bool.not_false, Bool.and_false, Option.isSome_none, Bool.or_false, Bool.false_eq_true, if_false]
  refine ⟨_, rfl, ?_⟩
  generalize (if t.ma = .count then (if t.cnt = 0 then 256 else t.cnt) else 0) = n
  split
  · exact (marks n).trans (Marks.setReady _ _ _ _ _ _ _ _)
  · exact marks n

/-- A cell whose port is unbound (R17, R18): the bound slot is gone, and with the last of the entry's slots the entry. -/
theorem unbind_entry {c : Cell} {b : Blk} {e : DirEnt} (pos p : Nat) (he : c.bindEnt b.ctx b.hdr = some e) :
    let left := tdel (e.base + b.off pos p) c.slots
    ((left.any (fun q => e.base ≤ q.1 && q.1 < e.base + e.size)) = true → c.unbind b pos p = { c with slots := left }) ∧
    ((left.any (fun q => e.base ≤ q.1 && q.1 < e.base + e.size)) = false →
      (c.unbind b pos p).dir = c.dir.filter (fun d => d.uid != e.uid)) := by
  intro left
  have hs : (c.dir.find? (fun d => d.uid == e.uid)).isSome = true := List.find?_isSome.mpr ⟨e, (bindEnt_spec he).1, by simp⟩
  obtain ⟨d, hd⟩ := Option.isSome_iff_exists.mp hs
  have ent : ({ c with slots := left } : Cell).ent e.uid = some d := hd
  refine ⟨fun hl => ?_, fun hl => ?_⟩
  · simp only [Cell.unbind, he]
    exact if_pos hl
  · simp only [Cell.unbind, he]
    refine (congrArg Cell.dir (if_neg ?_)).trans ?_
    · exact ne_true_of_eq_false hl
    · simp only [Cell.freeEnt, left, ent]

/-! Force-retirement (R23). -/

/-- What leaves a cell loses nothing but slots, directory entries and queue entries: what stays is of what was there, or is dying. -/
structure Thins (x : Site) (s t : State) : Prop where
  ready : ∀ r ∈ (t.cell x).ready, r ∈ (s.cell x).ready
  names : ((t.cell x).dir.map (fun e => e.uid)).Sublist ((s.cell x).dir.map (fun e => e.uid))
  dir : ∀ d ∈ (t.cell x).dir, d.dying = true ∨ d ∈ (s.cell x).dir
  dies : t.dies = s.dies

theorem Thins.refl (x : Site) (s : State) : Thins x s s := ⟨fun _ h => h, List.Sublist.refl _, fun _ h => .inr h, rfl⟩

theorem Thins.trans {x : Site} {s t u : State} (h : Thins x s t) (k : Thins x t u) : Thins x s u :=
  ⟨fun r hr => h.ready r (k.ready r hr), k.names.trans h.names, fun d hd => (k.dir d hd).elim .inl (h.dir d), k.dies.trans h.dies⟩

/-- An entry that is freed goes, and nothing else changes but what was its own. -/
theorem freeEnt_sublist (c : Cell) (uid : Nat) : (c.freeEnt uid).slots.Sublist c.slots ∧ (c.freeEnt uid).ready.Sublist c.ready ∧
    (c.freeEnt uid).dir.Sublist c.dir ∧ (c.freeEnt uid).ctr = c.ctr := by
  unfold Cell.freeEnt
  split
  · exact ⟨List.Sublist.refl _, List.Sublist.refl _, List.Sublist.refl _, rfl⟩
  · exact ⟨List.filter_sublist, List.filter_sublist, List.filter_sublist, rfl⟩

/-- Forgetting ended accesses leaves the cells and the dies. -/
theorem forget_spec (s : State) (x : Site) (uid : Nat) : (s.forget x uid).cells = s.cells ∧ (s.forget x uid).dies = s.dies := by
  unfold State.forget
  repeat' split
  all_goals exact ⟨rfl, rfl⟩

theorem cell_forget (s : State) (x y : Site) (uid : Nat) : (s.forget x uid).cell y = s.cell y := by
  simp [State.cell, (forget_spec s x uid).1]

/-- A frame entry that a force-retirement has ended frees its frame, or waits (R23). -/
theorem reap_spec (s : State) (x : Site) (uid : Nat) :
    ((s.reap x uid).cell x = s.cell x ∨ (s.reap x uid).cell x = (s.cell x).freeEnt uid) ∧ (s.reap x uid).dies = s.dies := by
  unfold State.reap
  split
  · split
    · exact ⟨.inr (by rw [cell_forget, cell_modCell_same]), (forget_spec _ _ _).2⟩
    · exact ⟨.inl rfl, rfl⟩
  · exact ⟨.inl (cell_forget _ _ _ _), (forget_spec _ _ _).2⟩

theorem reap_sublist (s : State) (x : Site) (uid : Nat) : ((s.reap x uid).cell x).slots.Sublist (s.cell x).slots ∧
    ((s.reap x uid).cell x).ready.Sublist (s.cell x).ready ∧ ((s.reap x uid).cell x).dir.Sublist (s.cell x).dir ∧
    ((s.reap x uid).cell x).ctr = (s.cell x).ctr := by
  rcases (reap_spec s x uid).1 with h | h <;> rw [h]
  · exact ⟨List.Sublist.refl _, List.Sublist.refl _, List.Sublist.refl _, rfl⟩
  · exact freeEnt_sublist _ uid

/-- A cell after the force-retirement of a frame entry, before its frame is freed: its stores still to perform are among `spend`. -/
def Cell.retired (c : Cell) (e : DirEnt) (spend : W32) : Cell := { c with
  slots := c.slots.filter (fun p => !(e.base ≤ p.1 && p.1 < e.base + e.size))
  ready := c.ready.filter (fun r => r.uid != some e.uid)
  dir := lmap (fun d => d.uid == e.uid) (fun d => { d with ready := 0, spend := spend &&& d.spend, dying := true }) c.dir
  ctr := { c.ctr with dangle := satAdd 48 c.ctr.dangle 1 } }

/-- Force-retirement settles accesses, retires the frame entry at its cell, and frees its frame if nothing holds it (R23). -/
theorem forceRetire_eq {s : State} {x : Site} {e : DirEnt} (he : (s.cell x).ent e.uid = some e) (hd : e.dying = false) (hb : e.bind = false) :
    ∃ (s1 : State) (spend : W32), s1.cells = s.cells ∧ s1.dies = s.dies ∧
      s.forceRetire x e.uid = (s1.modCell x (fun c => c.retired e spend)).reap x e.uid := by
  unfold State.forceRetire
  simp only [he, hd, hb, Bool.or_false, Bool.false_eq_true, if_false]
  exact ⟨(s.modMem (fun m => { m with accs := settleAll x e.uid m.accs.length m.accs })).dropAbandoned, _, rfl, rfl, rfl⟩

/-- An entry that force-retirement has reached is dying; any other is as it was. -/
theorem mem_retired_dir {c : Cell} {e d : DirEnt} {spend : W32} (h : d ∈ (c.retired e spend).dir) :
    (d.uid = e.uid ∧ d.dying = true) ∨ (d.uid ≠ e.uid ∧ d ∈ c.dir) := by
  obtain ⟨a, ha, rfl⟩ := List.mem_map.mp h
  by_cases hu : a.uid = e.uid
  · exact .inl (by simp [hu])
  · exact .inr (by simp [hu, ha])

theorem retired_names (c : Cell) (e : DirEnt) (spend : W32) :
    (c.retired e spend).dir.map (fun d => d.uid) = c.dir.map (fun d => d.uid) := by
  simp only [Cell.retired, lmap, List.map_map]
  refine List.map_congr_left fun d _ => ?_
  simp only [Function.comp]
  split <;> rfl

/-- What the force-retirement of a frame entry `e` does to its cell: its slots and its queue entries are gone, what is left of it is dying,
and DANGLE has counted it (R23). -/
structure Retires (x : Site) (e : DirEnt) (s t : State) : Prop where
  slots : ∀ p ∈ (t.cell x).slots, ¬ (e.base ≤ p.1 ∧ p.1 < e.base + e.size)
  ready : ∀ r ∈ (t.cell x).ready, r ∈ (s.cell x).ready ∧ r.uid ≠ some e.uid
  dying : ∀ d ∈ (t.cell x).dir, d.uid = e.uid → d.dying = true
  dir : ∀ d ∈ (t.cell x).dir, d.dying = true ∨ d ∈ (s.cell x).dir
  names : ((t.cell x).dir.map (fun e => e.uid)).Sublist ((s.cell x).dir.map (fun e => e.uid))
  dangle : (t.cell x).ctr.dangle = satAdd 48 (s.cell x).ctr.dangle 1
  dies : t.dies = s.dies

theorem forceRetire_retires {s : State} {x : Site} {e : DirEnt} (he : (s.cell x).ent e.uid = some e) (hd : e.dying = false)
    (hb : e.bind = false) : Retires x e s (s.forceRetire x e.uid) := by
  obtain ⟨s1, spend, hcells, hdies, h⟩ := forceRetire_eq he hd hb
  have hcell : s1.cell x = s.cell x := by simp [State.cell, hcells]
  have hs2 : (s1.modCell x (fun c => c.retired e spend)).cell x = (s.cell x).retired e spend := by rw [cell_modCell_same, hcell]
  obtain ⟨slots, ready, dir, ctr⟩ := reap_sublist (s1.modCell x (fun c => c.retired e spend)) x e.uid
  rw [hs2] at slots ready dir ctr
  rw [h]
  refine ⟨fun p hp => ?_, fun r hr => ?_, fun d hm hu => ?_, fun d hm => ?_, ?_, by rw [ctr]; rfl, (reap_spec _ _ _).2.trans hdies⟩
  · have out := (List.mem_filter.mp (slots.subset hp)).2
    simp only [Bool.not_eq_true', Bool.and_eq_false_iff, decide_eq_false_iff_not] at out
    exact fun h => out.elim (fun k => k h.1) (fun k => k h.2)
  · simpa using List.mem_filter.mp (ready.subset hr)
  · exact (mem_retired_dir (dir.subset hm)).elim And.right (fun k => absurd hu k.1)
  · exact (mem_retired_dir (dir.subset hm)).imp And.right And.right
  · exact retired_names (s.cell x) e spend ▸ dir.map _

/-- A force-retirement of an entry of any name only thins its cell; one of a name that no live entry has does nothing. -/
theorem forceRetire_cases (s : State) (x : Site) (uid : Nat) :
    (s.forceRetire x uid = s ∧ ∀ e, (s.cell x).ent uid = some e → e.dying = true ∨ e.bind = true) ∨
      ∃ e, e.uid = uid ∧ Retires x e s (s.forceRetire x uid) := by
  cases he : (s.cell x).ent uid with
  | none => exact .inl ⟨by simp [State.forceRetire, he], fun e h => by cases h⟩
  | some e =>
    have hu : e.uid = uid := by simpa using List.find?_some he
    subst hu
    by_cases hl : (e.dying || e.bind) = true
    · refine .inl ⟨by simp only [State.forceRetire, he, hl, if_true], fun d h => ?_⟩
      cases h
      simpa using hl
    · simp only [Bool.or_eq_true, not_or, Bool.not_eq_true] at hl
      exact .inr ⟨e, rfl, forceRetire_retires he hl.1 hl.2⟩

theorem forceRetire_thins (s : State) (x : Site) (uid : Nat) : Thins x s (s.forceRetire x uid) := by
  rcases forceRetire_cases s x uid with ⟨h, -⟩ | ⟨e, -, h⟩
  · rw [h]; exact Thins.refl x s
  · exact ⟨fun r hr => (h.ready r hr).1, h.names, h.dir, h.dies⟩

/-- After a force-retirement every frame entry of its name is dying, if names are unique (R23). -/
theorem forceRetire_dying {s : State} {x : Site} {uid : Nat} (names : ((s.cell x).dir.map (fun e => e.uid)).Nodup)
    (live : ∀ d ∈ (s.cell x).dir, d.uid = uid → d.dying = true ∨ d.bind = false) :
    ∀ d ∈ ((s.forceRetire x uid).cell x).dir, d.uid = uid → d.dying = true := by
  intro d hd hu
  rcases forceRetire_cases s x uid with ⟨h, hl⟩ | ⟨e, rfl, h⟩
  · rw [h] at hd
    have ent : (s.cell x).ent uid = some d := hu ▸ ent_of_mem names hd
    rcases live d hd hu with hdy | hb
    · exact hdy
    · exact (hl d ent).resolve_right (by simp [hb])
  · exact h.dying d hd hu

/-- The force-retirement of a list of instances thins their cell, and leaves every one of them dying (R23, R98). -/
theorem forceRetire_list {x : Site} (es : List DirEnt) {s : State} (names : ((s.cell x).dir.map (fun e => e.uid)).Nodup)
    (live : ∀ e ∈ es, ∀ d ∈ (s.cell x).dir, d.uid = e.uid → d.dying = true ∨ d.bind = false) :
    Thins x s (es.foldl (fun u e => u.forceRetire x e.uid) s) ∧
      ∀ e ∈ es, ∀ d ∈ ((es.foldl (fun u e => u.forceRetire x e.uid) s).cell x).dir, d.uid = e.uid → d.dying = true := by
  induction es generalizing s with
  | nil => exact ⟨Thins.refl x s, fun e he => by cases he⟩
  | cons a es ih =>
    have first := forceRetire_thins s x a.uid
    obtain ⟨rest, gone⟩ := ih (first.names.nodup names) fun e he d hd hu =>
      (first.dir d hd).elim .inl fun h => live e (List.mem_cons_of_mem a he) d h hu
    refine ⟨first.trans rest, fun e he d hd hu => ?_⟩
    rcases List.mem_cons.mp he with rfl | he
    · exact (rest.dir d hd).elim id fun h =>
        forceRetire_dying names (live e List.mem_cons_self) d h hu
    · exact gone e he d hd hu

/-- The instances that a STREAM_END closes are live instances of the directory (R23). -/
theorem closed_spec {c : Cell} {tl : BitVec 96} {b : Blk} {t : Tok} {e : DirEnt} (h : e ∈ c.closed tl b t) : e ∈ c.dir ∧ e.bind = false := by
  have hp := List.mem_filter.mp h
  simp only [Bool.and_eq_true, Bool.not_eq_true'] at hp
  exact ⟨hp.1, hp.2.1.1.1.1.1.1⟩

/-- A port that takes a STREAM_END (R107, R199, R200): one that is aware of streams, or port 0 of a TILE form (R318). -/
abbrev takesEnd (b : Blk) (pos : Nat) (t : Tok) : Prop :=
  streamAware (b.recAt pos).opc t.port = true ∨ ((b.recAt pos).opc = 0x300 ∧ t.port = 0 ∧ fld (b.recAt pos).w0.toNat 21 2 ≠ 0)

/-- A STREAM_END force-retires the instances it closes; at a port that takes it, its node then fires alone (R23, R98, R107). -/
theorem streamTok_eq {s : State} {x : Site} {b : Blk} {pos : Nat} {t : Tok} (hkey : s.spilledKey x b.hdr t = false)
    (har : 0 < (b.recAt pos).arity) :
    let s1 := ((s.cell x).closed (s.ctx t.ctx).tl b t).foldl (fun u e => u.forceRetire x e.uid) s
    s.streamTok x b pos t false = some (if takesEnd b pos t then s1.setAlone x t.ctx t.node t else s1) := by
  simp only [State.streamTok, hkey, Bool.and_false, Bool.false_eq_true, if_false]
  refine congrArg some (if_congr ?_ rfl rfl)
  simp [takesEnd, har, and_assoc]

/-- What a STREAM_END does: the instances that it closes are dying; the queue keeps what it held, or gains the node that takes it. -/
theorem streamTok_spec {s : State} {x : Site} {b : Blk} {pos : Nat} {t : Tok} (names : ((s.cell x).dir.map (fun e => e.uid)).Nodup)
    (hkey : s.spilledKey x b.hdr t = false) (har : 0 < (b.recAt pos).arity) :
    ∃ u, s.streamTok x b pos t false = some u ∧ u.dies = s.dies ∧
      (∀ e ∈ (s.cell x).closed (s.ctx t.ctx).tl b t, ∀ d ∈ (u.cell x).dir, d.uid = e.uid → d.dying = true) ∧
      (takesEnd b pos t → ∃ l q, (u.cell x).ready = l ++ [q] ∧ q.alone = some t ∧ q.node = t.node ∧ q.ctx = t.ctx ∧ q.tag = t.tag) ∧
      (¬ takesEnd b pos t → ∀ q ∈ (u.cell x).ready, q ∈ (s.cell x).ready) := by
  obtain ⟨thin, gone⟩ := forceRetire_list ((s.cell x).closed (s.ctx t.ctx).tl b t) names fun e he d hd hu => by
    obtain ⟨hm, hb⟩ := closed_spec he
    exact .inr (List.inj_on_of_nodup_map names hd hm hu ▸ hb)
  refine ⟨_, streamTok_eq hkey har, ?_⟩
  by_cases hf : takesEnd b pos t
  · rw [if_pos hf]
    refine ⟨thin.dies, ?_, fun _ => ?_, fun h => absurd hf h⟩
    · rw [cell_setAlone]; exact gone
    · rw [cell_setAlone]; exact ⟨_, _, rfl, rfl, rfl, rfl, rfl⟩
  · rw [if_neg hf]
    exact ⟨thin.dies, gone, fun h => absurd h hf, fun _ => thin.ready⟩

/-! Tokens that come to a cell, and their acceptance (R8, R15, R153). -/

/-- A cell that has taken its next token differs in its pipeline and its miss buffer alone. -/
theorem takeTok_eq (c : Cell) (src : Source) : ∃ p m, c.takeTok src = { c with pipe := p, miss := m } := by
  unfold Cell.takeTok
  dsimp only
  split
  case h_6 => split <;> exact ⟨_, _, rfl⟩
  all_goals exact ⟨_, _, rfl⟩

/-- A state in which a cell has taken its next token (R8). -/
def State.took (s : State) (x : Site) (src : Source) : State :=
  s.modCell x (fun c => { c.takeTok src with pipe := { (c.takeTok src).pipe with matchAt := s.cycle + 1 } })

theorem took_cell (s : State) (x : Site) (src : Source) : ∃ p m, (s.took x src).cell x = { s.cell x with pipe := p, miss := m } := by
  obtain ⟨p, m, h⟩ := takeTok_eq (s.cell x) src
  exact ⟨{ p with matchAt := s.cycle + 1 }, m, by rw [State.took, cell_modCell_same, h]⟩

theorem took_spilledKey (s : State) (x : Site) (src : Source) (hdr : Nat) (t : Tok) :
    (s.took x src).spilledKey x hdr t = s.spilledKey x hdr t := by
  obtain ⟨p, m, h⟩ := took_cell s x src
  unfold State.spilledKey
  rw [h]
  rfl

/-- The operation code at a token's destination is that of its record. -/
theorem opcAt_blkOf {c : Cell} {t : Tok} {b : Blk} (h : c.blkOf t.ctx t.node = some b) : c.opcAt t = (b.recAt (t.node - b.hdr - 1)).opc := by
  simp [Cell.opcAt, Cell.recOf, h]

section Comes
variable {s : State} {x : Site} {k : Arrival} {src : Source} {t : Tok} {b : Blk} (h : Comes s x k src t b)
include h

theorem Comes.arrival : arrivalOf (b.recAt (t.node - b.hdr - 1)).opc t = k := by
  rw [← opcAt_blkOf h.blk]; exact h.kind

/-- The next token of a cell arrives as what accepting it makes of the cell, where its context has no comparator (R8, R15, R371). -/
theorem Comes.arrive {u : State} (ha : (s.took x src).accept x b (t.node - b.hdr - 1) t false = some u) (hd : SameDuals s u) :
    s.arrive x k = u := by
  obtain ⟨n, next⟩ := h.next
  have matched : ({ t with came := n } : Tok).matched = t := by
    have hc := h.came
    cases t
    simp_all [Tok.matched]
  have class_ : arrivalOf ((s.cell x).opcAt t) t = k := h.kind
  have shut : (s.sealedAt x && decide (src < 4)) = false := by
    cases hs : s.sealedAt x
    · rfl
    · simpa using h.shut hs
  have single : u.mirror x src t = u := by
    unfold State.mirror
    rw [hd.dualOf, h.single]
  obtain ⟨halted, gone, frozen⟩ := h.free
  unfold State.arrive
  simp only [h.plain, Nat.not_lt.mpr h.time, next, matched, class_, halted, shut, gone, frozen, h.blk, h.here, h.port.1,
    Nat.not_le.mpr h.port.2, ne_eq, not_true_eq_false, decide_false, Bool.or_false, Bool.not_true, ge_iff_le,
    Bool.false_eq_true, if_false]
  have ha' := ha
  unfold State.took at ha'
  simp only [ha']
  exact single

/-- An arrival that leaves the dies. -/
theorem Comes.arrive_dies {u : State} (ha : (s.took x src).accept x b (t.node - b.hdr - 1) t false = some u)
    (hd : u.dies = (s.took x src).dies) : s.arrive x k = u :=
  h.arrive ha (SameDuals.of_dies hd)

/-- An arrival that spills (R16). -/
theorem Comes.arrive_spill {u : State} (hs : (s.took x src).spill x b.hdr t false = some u)
    (ha : (s.took x src).accept x b (t.node - b.hdr - 1) t false = (s.took x src).spill x b.hdr t false) : s.arrive x k = u :=
  h.arrive (ha.trans hs) ((SameDuals.modCell s x _).trans (SameDuals.spill hs))

end Comes

section Accept
variable {s : State} {x : Site} {b : Blk} {pos : Nat} {t : Tok} {refill : Bool}

theorem accept_match (h : arrivalOf (b.recAt pos).opc t = .match_) : s.accept x b pos t refill = s.matchTok x b pos t refill := by
  simp [State.accept, h]
theorem accept_binding (h : arrivalOf (b.recAt pos).opc t = .binding) : s.accept x b pos t refill = s.bindTok x b pos t refill := by
  simp [State.accept, h]
theorem accept_purge (h : arrivalOf (b.recAt pos).opc t = .purge) : s.accept x b pos t refill = some (s.purgeTok x b pos t) := by
  simp [State.accept, h]
theorem accept_null (h : arrivalOf (b.recAt pos).opc t = .null) : s.accept x b pos t refill = some (s.nullTok x b t) := by
  simp [State.accept, h]
theorem accept_streamEnd (h : arrivalOf (b.recAt pos).opc t = .streamEnd) : s.accept x b pos t refill = s.streamTok x b pos t refill := by
  simp [State.accept, h]

end Accept

/-! What each arrival does, as TOKEN_MATCH and its fellows perform it. -/

section Match
variable {s : State} {x : Site} {src : Source} {t : Tok} {b : Blk} (h : Comes s x .match_ src t b)
include h

/-- At an LBOUND port an arrival fires its node alone (R200). -/
theorem tokenMatch_lbound (hop : (b.recAt (t.node - b.hdr - 1)).opc = 0x046) :
    ∃ u q, exec (.tokenMatch x) s = .next u ∧ (u.cell x).ready = (s.cell x).ready ++ [q] ∧ q.alone = some t ∧ q.node = t.node ∧
      q.ctx = t.ctx ∧ q.tag = t.tag ∧ q.depth = t.depth ∧ (u.cell x).slots = (s.cell x).slots ∧ (u.cell x).dir = (s.cell x).dir ∧
      (u.ctx t.ctx).spill = (s.ctx t.ctx).spill := by
  obtain ⟨p, m, hc⟩ := took_cell s x src
  have ha := (accept_match h.arrival).trans (matchTok_lbound (s := s.took x src) (x := x) (t := t) (refill := false) hop)
  have ready := congrArg Cell.ready (cell_setAlone (s.took x src) x t.ctx t.node t)
  rw [hc] at ready
  refine ⟨_, _, congrArg Host.Outcome.next (h.arrive_dies ha rfl), ready, rfl, rfl, rfl, rfl, rfl, ?_, ?_, rfl⟩ <;>
    rw [cell_setAlone, hc]

variable (hop : (b.recAt (t.node - b.hdr - 1)).opc ≠ 0x046)
include hop

/-- An arrival at a bound port spills (R17). -/
theorem tokenMatch_bound {u : State} (hb : ((s.cell x).binding b (t.node - b.hdr - 1) t.port).isSome = true)
    (hs : (s.took x src).spill x b.hdr t false = some u) : exec (.tokenMatch x) s = .next u := by
  obtain ⟨p, m, hc⟩ := took_cell s x src
  exact congrArg Host.Outcome.next (h.arrive_spill hs ((accept_match h.arrival).trans (matchTok_bound hop (by rw [hc]; exact hb))))

variable (hkey : s.spilledKey x b.hdr t = false) (hbind : (s.cell x).binding b (t.node - b.hdr - 1) t.port = none)
include hkey hbind

/-- An arrival fills the free slot of its port in its frame entry (R15, R19, R20). -/
theorem tokenMatch_instance {e : DirEnt} (he : (s.cell x).inst t.ctx b.hdr t.tag t.depth = some e)
    (hs : (s.cell x).slotOf e b (t.node - b.hdr - 1) t.port = none) :
    ∃ u, exec (.tokenMatch x) s = .next u ∧ Fills (s.took x src) u x e b t 0 := by
  obtain ⟨p, m, hc⟩ := took_cell s x src
  have ha := (accept_match h.arrival).trans (matchTok_instance (s := s.took x src) (refill := false) hop
    (by rw [took_spilledKey, hkey]; rfl) (by rw [hc]; exact hbind) (by rw [hc]; exact he) (by rw [hc]; exact hs))
  exact ⟨_, congrArg Host.Outcome.next (h.arrive_dies ha (Marks.readyCheck _ x _ _ _ _ _).dies),
    fills_instance b t (by rw [hc]; exact h.names) (by rw [hc]; exact (inst_spec he).1)⟩

/-- An arrival that finds no frame entry makes one where there is room (R15). -/
theorem tokenMatch_new {base : Nat} (he : (s.cell x).inst t.ctx b.hdr t.tag t.depth = none) (hr : (s.cell x).room b = some base)
    (fresh : ∀ e ∈ (s.cell x).dir, e.uid ≠ (s.cell x).uids) :
    ∃ u e, exec (.tokenMatch x) s = .next u ∧ (u.cell x).ent (s.cell x).uids = some e ∧ e.bind = false ∧ e.ctx = b.ctx ∧ e.blk = b.hdr ∧
      e.tag = t.tag ∧ e.depth = t.depth ∧ e.base = base ∧ e.xfired = 0 ∧
      (∃ n, (u.cell x).slots = tput (base + b.off (t.node - b.hdr - 1) t.port) ⟨t, 0, n⟩ (s.cell x).slots) := by
  obtain ⟨p, m, hc⟩ := took_cell s x src
  obtain ⟨d, hd, ⟨e, hent, hu⟩, slots, dies⟩ := newInst_fill (s := s.took x src) b base t (by rw [hc]; exact fresh)
  have ha := (accept_match h.arrival).trans (matchTok_new (s := s.took x src) (refill := false) hop
    (by rw [took_spilledKey, hkey]; rfl) (by rw [hc]; exact hbind) (by rw [hc]; exact he) (by rw [hc]; exact hr) hd)
  rw [hc] at hent slots
  exact ⟨_, e, congrArg Host.Outcome.next (h.arrive_dies ha dies), hent, congrArg DirEnt.bind hu, congrArg DirEnt.ctx hu, congrArg DirEnt.blk hu,
    congrArg DirEnt.tag hu, congrArg DirEnt.depth hu, congrArg DirEnt.base hu, congrArg DirEnt.xfired hu, slots⟩

/-- An arrival that finds no frame entry and no room for one spills (R15, R16). -/
theorem tokenMatch_full {u : State} (he : (s.cell x).inst t.ctx b.hdr t.tag t.depth = none) (hr : (s.cell x).room b = none)
    (hs : (s.took x src).spill x b.hdr t false = some u) : exec (.tokenMatch x) s = .next u := by
  obtain ⟨p, m, hc⟩ := took_cell s x src
  exact congrArg Host.Outcome.next (h.arrive_spill hs ((accept_match h.arrival).trans (matchTok_full hop
    (by rw [took_spilledKey, hkey]; rfl) (by rw [hc]; exact hbind) (by rw [hc]; exact he) (by rw [hc]; exact hr))))

/-- An arrival whose slot is taken spills (R16). -/
theorem tokenMatch_taken {e : DirEnt} {u : State} (he : (s.cell x).inst t.ctx b.hdr t.tag t.depth = some e)
    (ht : ((s.cell x).slotOf e b (t.node - b.hdr - 1) t.port).isSome = true)
    (hs : (s.took x src).spill x b.hdr t false = some u) : exec (.tokenMatch x) s = .next u := by
  obtain ⟨p, m, hc⟩ := took_cell s x src
  exact congrArg Host.Outcome.next (h.arrive_spill hs ((accept_match h.arrival).trans (matchTok_taken hop
    (by rw [took_spilledKey, hkey]; rfl) (by rw [hc]; exact hbind) (by rw [hc]; exact he) (by rw [hc]; exact ht))))

end Match

section Other
variable {s : State} {x : Site} {src : Source} {t : Tok} {b : Blk}

/-- A STICKY or COUNT arrival binds its port (R17, R19). -/
theorem bindingArrival_entry (h : Comes s x .binding src t b) (hkey : s.spilledKey x b.hdr t = false)
    (hbind : (s.cell x).binding b (t.node - b.hdr - 1) t.port = none) {e : DirEnt} (he : (s.cell x).bindEnt b.ctx b.hdr = some e) :
    ∃ u, exec (.bindingArrival x) s = .next u ∧
      Fills (s.took x src) u x e b t (if t.ma = .count then (if t.cnt = 0 then 256 else t.cnt) else 0) := by
  obtain ⟨p, m, hc⟩ := took_cell s x src
  obtain ⟨u, hu, marks⟩ := bindTok_entry (s := s.took x src) (t := t) (by rw [took_spilledKey, hkey]) (by rw [hc]; exact hbind)
    (by rw [hc]; exact he)
  exact ⟨u, congrArg Host.Outcome.next (h.arrive_dies ((accept_binding h.arrival).trans hu) marks.dies), fills_binding (bindEnt_spec he).2 marks⟩

/-- PURGE clears a binding, and with its last binding the entry goes (R18). -/
theorem purgeArrival_entry (h : Comes s x .purge src t b) {e : DirEnt} (he : (s.cell x).bindEnt b.ctx b.hdr = some e)
    (hb : ((s.cell x).binding b (t.node - b.hdr - 1) t.port).isSome = true) :
    ∃ u, exec (.purgeArrival x) s = .next u ∧ let left := tdel (e.base + b.off (t.node - b.hdr - 1) t.port) (s.cell x).slots
      ((left.any (fun q => e.base ≤ q.1 && q.1 < e.base + e.size)) = true → (u.cell x).slots = left ∧ (u.cell x).dir = (s.cell x).dir) ∧
      ((left.any (fun q => e.base ≤ q.1 && q.1 < e.base + e.size)) = false →
        (u.cell x).dir = (s.cell x).dir.filter (fun d => d.uid != e.uid)) := by
  obtain ⟨p, m, hc⟩ := took_cell s x src
  have purge : (s.took x src).purgeTok x b (t.node - b.hdr - 1) t =
      (s.took x src).modCell x (fun c => c.unbind b (t.node - b.hdr - 1) t.port) :=
    if_pos (by rw [hc]; exact hb)
  obtain ⟨some_, none_⟩ := unbind_entry (c := { s.cell x with pipe := p, miss := m }) (b := b) (e := e) (t.node - b.hdr - 1) t.port he
  refine ⟨_, congrArg Host.Outcome.next (h.arrive_dies ((accept_purge h.arrival).trans (congrArg some purge)) rfl), ?_⟩
  rw [cell_modCell_same, hc]
  exact ⟨fun hl => by rw [some_ hl]; exact ⟨rfl, rfl⟩, none_⟩

/-- NULL counts where it finds no frame entry (R23). -/
theorem nullArrival_miss (h : Comes s x .null src t b) (he : (s.cell x).inst t.ctx b.hdr t.tag t.depth = none) :
    ∃ u, exec (.nullArrival x) s = .next u ∧ (u.cell x).ctr.nullmiss = satAdd 48 (s.cell x).ctr.nullmiss 1 ∧
      (u.cell x).slots = (s.cell x).slots ∧ (u.cell x).dir = (s.cell x).dir := by
  obtain ⟨p, m, hc⟩ := took_cell s x src
  have none_ : ((s.took x src).cell x).inst t.ctx b.hdr t.tag t.depth = none := by rw [hc]; exact he
  have null : (s.took x src).nullTok x b t = (s.took x src).nullMiss x := by simp only [State.nullTok, none_]
  refine ⟨_, congrArg Host.Outcome.next (h.arrive_dies ((accept_null h.arrival).trans (congrArg some null)) rfl), ?_⟩
  rw [State.nullMiss, cell_modCell_same, hc]
  exact ⟨rfl, rfl, rfl⟩

/-- NULL retires the frame entry of its key (R23). -/
theorem nullArrival_instance (h : Comes s x .null src t b) {e : DirEnt} (he : (s.cell x).inst t.ctx b.hdr t.tag t.depth = some e) :
    ∃ u, exec (.nullArrival x) s = .next u ∧ (u.cell x).ctr.dangle = satAdd 48 (s.cell x).ctr.dangle 1 ∧
      (∀ p ∈ (u.cell x).slots, ¬ (e.base ≤ p.1 ∧ p.1 < e.base + e.size)) ∧ (∀ d ∈ (u.cell x).dir, d.uid = e.uid → d.dying = true) ∧
      ∀ r ∈ (u.cell x).ready, r.uid ≠ some e.uid := by
  obtain ⟨p, m, hc⟩ := took_cell s x src
  obtain ⟨mem, hb, hd⟩ := inst_spec he
  have some_ : ((s.took x src).cell x).inst t.ctx b.hdr t.tag t.depth = some e := by rw [hc]; exact he
  have null : (s.took x src).nullTok x b t = (s.took x src).forceRetire x e.uid := by simp only [State.nullTok, some_]
  have gone := forceRetire_retires (s := s.took x src) (x := x) (by rw [hc]; exact ent_of_mem h.names mem) hd hb
  refine ⟨_, congrArg Host.Outcome.next (h.arrive_dies ((accept_null h.arrival).trans (congrArg some null)) gone.dies), ?_, gone.slots, gone.dying,
    fun r hr => (gone.ready r hr).2⟩
  rw [gone.dangle, hc]

/-- STREAM_END retires the instances it closes, and fires a node that takes it (R23, R98, R107). -/
theorem streamEndArrival_closes (h : Comes s x .streamEnd src t b) (hkey : s.spilledKey x b.hdr t = false) :
    ∃ u, exec (.streamEndArrival x) s = .next u ∧
      (∀ e ∈ (s.cell x).closed (s.ctx t.ctx).tl b t, ∀ d ∈ (u.cell x).dir, d.uid = e.uid → d.dying = true) ∧
      (takesEnd b (t.node - b.hdr - 1) t →
        ∃ l q, (u.cell x).ready = l ++ [q] ∧ q.alone = some t ∧ q.node = t.node ∧ q.ctx = t.ctx ∧ q.tag = t.tag) ∧
      (¬ takesEnd b (t.node - b.hdr - 1) t → ∀ q ∈ (u.cell x).ready, q ∈ (s.cell x).ready) := by
  obtain ⟨p, m, hc⟩ := took_cell s x src
  obtain ⟨u, hu, dies, rest⟩ := streamTok_spec (s := s.took x src) (x := x) (b := b) (pos := t.node - b.hdr - 1) (t := t)
    (by rw [hc]; exact h.names) (by rw [took_spilledKey, hkey]) (Nat.zero_lt_of_lt h.port.2)
  rw [hc] at rest
  exact ⟨u, congrArg Host.Outcome.next (h.arrive_dies ((accept_streamEnd h.arrival).trans hu) dies), rest⟩

end Other

/-- Every clause on arrivals, each by the lemma of its case. -/
theorem tokensArrive : Claims.TokensArrive := by
  intro s x src t b c pos opc took
  refine ⟨fun h hop hkey hbind => ⟨fun e he hs => ?_, fun base he hr fresh => ?_, fun u he hr hs => ?_, fun e u he ht hs => ?_⟩,
    fun h hop => ?_, fun h hop hb u hs => ?_, fun h hkey hbind e he => ?_, fun h e he hb => ?_,
    fun h => ⟨fun he => ?_, fun e he => ?_⟩, fun h hkey => ?_⟩
  · exact tokenMatch_instance h hop hkey hbind he hs
  · exact tokenMatch_new h hop hkey hbind he hr fresh
  · exact tokenMatch_full h hop hkey hbind he hr hs
  · exact tokenMatch_taken h hop hkey hbind he ht hs
  · exact tokenMatch_lbound h hop
  · exact tokenMatch_bound h hop hb hs
  · exact bindingArrival_entry h hkey hbind he
  · exact purgeArrival_entry h he hb
  · exact nullArrival_miss h he
  · exact nullArrival_instance h he
  · exact streamEndArrival_closes h hkey

/-! Refilling (R16). -/

/-- The token that a refill takes is of the cell, and can proceed (R16). -/
theorem refillable_spec {s : State} {x : Site} {all : List Spill} (l before : List Spill) {p : Spill}
    (h : s.refillable x all before l = some p) : p.x = x ∧ s.canRefill p all = true := by
  induction l generalizing before with
  | nil => cases h
  | cons q l ih =>
    unfold State.refillable at h
    split at h
    case isTrue hq =>
      cases h
      simp only [Bool.and_eq_true, beq_iff_eq] at hq
      exact ⟨hq.1.1, hq.2⟩
    case isFalse => exact ih _ h

/-- A spilled token that is matched in a frame entry, and that can proceed, finds its port unbound and its slot free (R16, R17). -/
theorem canRefill_instance {s : State} {p : Spill} {all : List Spill} {b : Blk} {e : DirEnt} (h : s.canRefill p all = true)
    (hb : (s.cell p.x).blkOf p.tok.ctx p.tok.node = some b) (hop : (b.recAt (p.tok.node - b.hdr - 1)).opc ≠ 0x046)
    (hk : arrivalOf (b.recAt (p.tok.node - b.hdr - 1)).opc p.tok = .match_)
    (he : (s.cell p.x).inst p.tok.ctx b.hdr p.tok.tag p.tok.depth = some e) :
    (s.cell p.x).binding b (p.tok.node - b.hdr - 1) p.tok.port = none ∧ (s.cell p.x).slotOf e b (p.tok.node - b.hdr - 1) p.tok.port = none := by
  simpa [State.canRefill, hb, hop, hk, he] using h

/-- A spilled token that leaves the ring is gone from its context's spill area; but for memory, nothing else changes (R16, R368). -/
theorem unspill_spec (s : State) (c ring : Nat) : (s.unspill c ring).cycle = s.cycle ∧
    (∀ y, ∃ m, (s.unspill c ring).cell y = { s.cell y with mt := m }) ∧
    ((s.unspill c ring).ctx c).spill.toks = (s.ctx c).spill.toks.filter (fun q => q.ring != ring) := by
  unfold State.unspill
  extract_lets s1
  have gone : (s1.ctx c).spill.toks = (s.ctx c).spill.toks.filter (fun q => q.ring != ring) := by
    unfold s1; rw [ctx_modCtx_same]
  have spec (t : State) (h : AtHomes s1 t) : t.cycle = s.cycle ∧ (∀ y, ∃ m, t.cell y = { s.cell y with mt := m }) ∧
      (t.ctx c).spill.toks = (s.ctx c).spill.toks.filter (fun q => q.ring != ring) :=
    ⟨h.cycle, h.cells, by rw [← gone, State.ctx, h.ctxs]; rfl⟩
  have hs := AtHomes.spots s1 (homeSite c) c (s1.ctx c).spillh 4 4 true
  split
  case h_1 l s2 h => rw [h] at hs; exact spec _ (hs.trans (AtHomes.writeSpots s2 l _))
  case h_2 s2 h => rw [h] at hs; exact spec _ hs

/-- A state in which a spilled token has left its ring to be matched again, and has been counted (R16). -/
def State.refilled (s : State) (x : Site) (ctx : Nat) (p : Spill) : State :=
  ((s.unspill ctx p.ring).unheld p).modCell x (fun c => { c with
    ctr := { c.ctr with refills := satAdd 48 c.ctr.refills 1 }
    pipe := { c.pipe with matchAt := s.cycle + 1 } })

section Refill
variable {s : State} {x : Site} {ctx : Nat} {p : Spill}

theorem refilled_spec (hh : p.held = false) : (s.refilled x ctx p).cycle = s.cycle ∧
    (∃ q m, (s.refilled x ctx p).cell x = { s.cell x with
      pipe := q, ctr := { (s.cell x).ctr with refills := satAdd 48 (s.cell x).ctr.refills 1 }, mt := m }) ∧
    ((s.refilled x ctx p).ctx ctx).spill.toks = (s.ctx ctx).spill.toks.filter (fun q => q.ring != p.ring) := by
  obtain ⟨cycle, cells, toks⟩ := unspill_spec s ctx p.ring
  obtain ⟨m, hm⟩ := cells x
  have unheld : (s.unspill ctx p.ring).unheld p = s.unspill ctx p.ring := by simp [State.unheld, hh]
  unfold State.refilled
  rw [unheld]
  exact ⟨cycle, ⟨_, m, by rw [cell_modCell_same, hm]⟩, toks⟩

variable (time : (s.cell x).pipe.matchAt ≤ s.cycle) (runs : (s.ctx ctx).st = .running ∨ (s.ctx ctx).st = .stopped)
  (frozen : (s.cell x).frz.units.contains ctx = false) (halted : s.halted x ctx = false) (due : s.escapeDue ctx = false)
  (oldest : (let l := (s.ctx ctx).spill.toks.filter (fun p => p.hdr < 1024); s.refillable x l [] l) = some p) (held : p.held = false)
  {b : Blk} (blk : (s.cell x).blkOf ctx p.tok.node = some b) (node : b.isNode (p.tok.node - b.hdr - 1) = true)
  (port : p.tok.port < (b.recAt (p.tok.node - b.hdr - 1)).arity)
include time runs frozen halted due oldest held blk node port

/-- A refill does to the cell what accepting its token does (R16). -/
theorem spillRefill_accept {u : State} (ha : (s.refilled x ctx p).accept x b (p.tok.node - b.hdr - 1) p.tok true = some u) :
    exec (.spillRefill x ctx) s = .next u := by
  obtain ⟨-, ⟨q, m, hc⟩, -⟩ := refilled_spec (s := s) (x := x) (ctx := ctx) held
  have blk1 : ((s.refilled x ctx p).cell x).blkOf ctx p.tok.node = some b := by rw [hc]; exact blk
  have may : (decide (s.cycle < (s.cell x).pipe.matchAt) || !((s.ctx ctx).st == .running || (s.ctx ctx).st == .stopped)
      || (s.cell x).frz.units.contains ctx || s.halted x ctx) = false := by
    rcases runs with h | h <;> simp [-List.contains_eq_mem, Nat.not_lt.mpr time, h, frozen, halted]
  change execSpillRefill x ctx s = _
  unfold State.refilled at ha blk1
  unfold execSpillRefill
  dsimp only at oldest ⊢
  simp only [may, due, oldest, blk1, node, Nat.not_le.mpr port, held, ha, decide_false, Bool.not_true, Bool.or_false,
    Bool.false_and, Bool.false_eq_true, if_false]

/-- A refilled token of a live frame entry fills its slot there, and is counted (R16). -/
theorem spillRefill_instance (tctx : p.tok.ctx = ctx) (hk : arrivalOf (b.recAt (p.tok.node - b.hdr - 1)).opc p.tok = .match_)
    (hop : (b.recAt (p.tok.node - b.hdr - 1)).opc ≠ 0x046) {e : DirEnt}
    (he : (s.cell x).inst ctx b.hdr p.tok.tag p.tok.depth = some e) (names : ((s.cell x).dir.map (fun e => e.uid)).Nodup) :
    ∃ t, exec (.spillRefill x ctx) s = .next t ∧ Fills s t x e b p.tok 0 ∧ (t.cell x).ctr.refills = satAdd 48 (s.cell x).ctr.refills 1 ∧
      (t.ctx ctx).spill.toks = (s.ctx ctx).spill.toks.filter (fun q => q.ring != p.ring) := by
  subst tctx
  obtain ⟨cycle, ⟨q, m, hc⟩, toks⟩ := refilled_spec (s := s) (x := x) (ctx := p.tok.ctx) held
  obtain ⟨rfl, can⟩ := refillable_spec _ _ oldest
  obtain ⟨hbind, hslot⟩ := canRefill_instance can blk hop hk he
  have ha := (accept_match hk).trans (matchTok_instance (s := s.refilled p.x p.tok.ctx p) (refill := true) hop rfl
    (by rw [hc]; exact hbind) (by rw [hc]; exact he) (by rw [hc]; exact hslot))
  have marks := Marks.readyCheck ((s.refilled p.x p.tok.ctx p).fillSlot p.x e b (p.tok.node - b.hdr - 1) p.tok 0) p.x b e.uid
    (p.tok.node - b.hdr - 1) p.tok.node p.tok.pri
  have fills := fills_instance (s := s.refilled p.x p.tok.ctx p) (e := e) b p.tok (by rw [hc]; exact names)
    (by rw [hc]; exact (inst_spec he).1)
  refine ⟨_, spillRefill_accept time runs frozen halted due oldest held blk node port ha, fills.of_cell ⟨_, _, _, hc⟩ cycle, ?_, ?_⟩
  · rw [marks.ctr, cell_fillSlot, hc]
  · rw [State.ctx, marks.ctxs]; exact toks

/-- A refilled token at an LBOUND port fires its node alone (R16, R200). -/
theorem spillRefill_lbound (tctx : p.tok.ctx = ctx) (hk : arrivalOf (b.recAt (p.tok.node - b.hdr - 1)).opc p.tok = .match_)
    (hop : (b.recAt (p.tok.node - b.hdr - 1)).opc = 0x046) :
    ∃ t q, exec (.spillRefill x ctx) s = .next t ∧ (t.cell x).ready = (s.cell x).ready ++ [q] ∧ q.alone = some p.tok ∧
      (t.ctx ctx).spill.toks = (s.ctx ctx).spill.toks.filter (fun q => q.ring != p.ring) := by
  subst tctx
  obtain ⟨-, ⟨q, m, hc⟩, toks⟩ := refilled_spec (s := s) (x := x) (ctx := p.tok.ctx) held
  have ha := (accept_match hk).trans (matchTok_lbound (s := s.refilled x p.tok.ctx p) (x := x) (refill := true) hop)
  have ready := congrArg Cell.ready (cell_setAlone (s.refilled x p.tok.ctx p) x p.tok.ctx p.tok.node p.tok)
  rw [hc] at ready
  exact ⟨_, _, spillRefill_accept time runs frozen halted due oldest held blk node port ha, ready, rfl, toks⟩

end Refill

/-! Block fetches (R311). -/

/-- A port-map entry written into a store (R61): one that is 0 is not listed. -/
def putEntry (o : Nat) (t : Table Nat) (e : Nat × Nat) : Table Nat := if e.1 = 0 then tdel (o + e.2) t else tput (o + e.2) e.1 t

theorem tget_putEntry (o j : Nat) (t : Table Nat) (e : Nat × Nat) :
    (tget j (putEntry o t e)).getD 0 = if j = o + e.2 then e.1 else (tget j t).getD 0 := by
  unfold putEntry
  by_cases hj : j = o + e.2
  · subst hj
    split <;> simp_all
  · split
    · simp [tget_tdel_ne hj]
    · simp [tget_tput_ne hj]

/-- A store into which entries have been written from an index on reads as them there, and as before elsewhere (R61). -/
theorem tget_putEntries (o j : Nat) (l : List Nat) (n : Nat) (t : Table Nat) :
    (tget (o + j) ((l.zipIdx n).foldl (putEntry o) t)).getD 0 =
      if n ≤ j ∧ j < n + l.length then l.getD (j - n) 0 else (tget (o + j) t).getD 0 := by
  induction l generalizing n t with
  | nil => simp [Nat.not_lt.mpr]
  | cons a l ih =>
    rw [List.zipIdx_cons, List.foldl_cons, ih, tget_putEntry]
    rcases Nat.lt_trichotomy j n with h | rfl | h
    · simp [show ¬ n + 1 ≤ j by omega, show ¬ n ≤ j by omega, show ¬ j = n by omega]
    · simp [show ¬ j + 1 ≤ j by omega]
    · obtain ⟨k, rfl⟩ := Nat.exists_eq_add_of_lt h
      simp [show n + k + 1 - n = k + 1 by omega, show n + k + 1 - (n + 1) = k by omega, show n ≤ n + k + 1 by omega,
        show n + k + 1 ≠ n by omega, show n + k + 1 < n + 1 + l.length ↔ n + k + 1 < n + (l.length + 1) by omega]

/-- A block as a fetch of the block `b` leaves it: that block present, those that share its range absent (R311). -/
def Blk.afterFetch (b a : Blk) : Blk :=
  if a.ctx == b.ctx && a.hdr == b.hdr then { a with present := true } else if a.overlaps b then { a with present := false } else a

/-- What a block that is present reads of the port-map store (R61). -/
def Blk.reread (pm : Table Nat) (a : Blk) : Blk :=
  if a.present then { a with pmap := (List.range (4 * a.recs.length)).map (fun k => (tget (4 * a.pmbase + k) pm).getD 0) } else a

/-- The port-map store of a cell after the map of a block has been written (R61). -/
def Cell.mapOf (c : Cell) (b : Blk) : Table Nat := (b.pmap.zipIdx 0).foldl (putEntry (4 * b.pmbase)) c.pmap

/-- A cell to which the block `b` has come (R311). -/
def Cell.fetched (c : Cell) (b : Blk) : Cell := ({ c with blks := c.blks.map b.afterFetch } : Cell).putMap (4 * b.pmbase) b.pmap

theorem fetched_blks (c : Cell) (b : Blk) : (c.fetched b).blks = c.blks.map (fun a => (b.afterFetch a).reread (c.mapOf b)) := by
  simp only [Cell.fetched, Cell.putMap, lmap, List.map_map]
  rfl

/-- A fetch and the rereading of the port map leave every block its place. -/
theorem reread_afterFetch (pm : Table Nat) (b a : Blk) : ((b.afterFetch a).reread pm).ctx = a.ctx ∧ ((b.afterFetch a).reread pm).hdr = a.hdr ∧
    ((b.afterFetch a).reread pm).recs = a.recs ∧ ((b.afterFetch a).reread pm).present = (b.afterFetch a).present := by
  unfold Blk.reread Blk.afterFetch
  repeat' split
  all_goals exact ⟨rfl, rfl, rfl, rfl⟩

/-- The block fetched is found where it was: it is present, and reads its own map of the store (R61, R311). -/
theorem fetched_blkOf {c : Cell} {ctx node : Nat} {b : Blk} (h : c.blkOf ctx node = some b) : (c.fetched b).blkOf ctx node =
    some { b with present := true, pmap := (List.range (4 * b.recs.length)).map (fun k => (tget (4 * b.pmbase + k) (c.mapOf b)).getD 0) } := by
  have same : ((fun a : Blk => a.ctx == ctx && decide (a.hdr < node) && decide (node ≤ a.hdr + a.recs.length)) ∘
      fun a => (b.afterFetch a).reread (c.mapOf b)) =
      fun a : Blk => a.ctx == ctx && decide (a.hdr < node) && decide (node ≤ a.hdr + a.recs.length) := by
    funext a
    obtain ⟨hctx, hhdr, hrecs, -⟩ := reread_afterFetch (c.mapOf b) b a
    simp only [Function.comp, hctx, hhdr, hrecs]
  have found : c.blks.find? (fun a => a.ctx == ctx && decide (a.hdr < node) && decide (node ≤ a.hdr + a.recs.length)) = some b := h
  rw [Cell.blkOf, fetched_blks, List.find?_map, same, found]
  simp [Blk.afterFetch, Blk.reread]

/-- A block of full length reads of the store the map that a fetch has written there (R61). -/
theorem mapOf_read (c : Cell) (b : Blk) (h : b.pmap.length = 4 * b.recs.length) :
    (List.range (4 * b.recs.length)).map (fun k => (tget (4 * b.pmbase + k) (c.mapOf b)).getD 0) = b.pmap := by
  refine List.ext_getElem (by simp [h]) fun k _ hk => ?_
  rw [List.getElem_map, List.getElem_range, Cell.mapOf, tget_putEntries]
  simp [hk]

section Fetch
variable {s : State} {x : Site} {ctx node : Nat} {b : Blk} (blk : (s.cell x).blkOf ctx node = some b)
include blk

/-- A fetch changes nothing where the block is there, or a block that shares its range is pinned in (R311). -/
theorem blockFetch_stays (h : b.present = true ∨ ∃ a ∈ (s.cell x).blks.filter (fun a => a.present && !(a.ctx == b.ctx && a.hdr == b.hdr) &&
    a.overlaps b), s.pinnedIn x a = true) : exec (.blockFetch x ctx node) s = .next s := by
  change execBlockFetch x ctx node s = _
  unfold execBlockFetch
  simp only [blk]
  refine if_pos ?_
  simpa only [Bool.or_eq_true, List.any_eq_true] using h

/-- A fetch, where nothing keeps it off, brings the block (R311). -/
theorem blockFetch_fetched (absent : b.present = false) (free : ∀ a ∈ (s.cell x).blks.filter (fun a => a.present &&
    !(a.ctx == b.ctx && a.hdr == b.hdr) && a.overlaps b), s.pinnedIn x a = false) :
    exec (.blockFetch x ctx node) s = .next (s.modCell x (fun c => c.fetched b)) := by
  change execBlockFetch x ctx node s = _
  unfold execBlockFetch
  simp only [blk]
  refine if_neg ?_
  rw [absent, Bool.false_or, List.any_eq_true]
  rintro ⟨a, ha, hp⟩
  rw [free a ha] at hp
  cases hp

/-- An absent block comes, with its port map, and what shares its range goes (R311). -/
theorem blockFetch_comes (absent : b.present = false) (free : ∀ a ∈ (s.cell x).blks.filter (fun a => a.present &&
    !(a.ctx == b.ctx && a.hdr == b.hdr) && a.overlaps b), s.pinnedIn x a = false) :
    ∃ t, exec (.blockFetch x ctx node) s = .next t ∧
      (∃ a, (t.cell x).blkOf ctx node = some a ∧ a.present = true ∧ { a with pmap := b.pmap, present := false } = b ∧
        (b.pmap.length = 4 * b.recs.length → a.pmap = b.pmap)) ∧ (t.cell x).blks.length = (s.cell x).blks.length ∧
      ∀ a ∈ (t.cell x).blks, ¬ (a.ctx = b.ctx ∧ a.hdr = b.hdr) → a.overlaps b = true → a.present = false := by
  refine ⟨_, blockFetch_fetched blk absent free, ?_⟩
  rw [cell_modCell_same]
  refine ⟨⟨_, fetched_blkOf blk, rfl, ?_, mapOf_read (s.cell x) b⟩, by simp [fetched_blks], fun a ha hn ho => ?_⟩
  · rw [← absent]
  · rw [fetched_blks] at ha
    obtain ⟨d, -, rfl⟩ := List.mem_map.mp ha
    obtain ⟨hctx, hhdr, hrecs, hpresent⟩ := reread_afterFetch ((s.cell x).mapOf b) b d
    rw [hctx, hhdr] at hn
    have overlaps : d.overlaps b = true := by
      simpa only [Blk.overlaps, hhdr, hrecs] using ho
    rw [hpresent]
    simp [Blk.afterFetch, hn, overlaps]

end Fetch

/-- An entry that has waited long enough rises one level; its place and entry time stay (R20, R164). -/
theorem readyAging_rises (x : Site) (s : State) : ∃ t, exec (.readyAging x) s = .next t ∧
    (t.cell x).ready.length = (s.cell x).ready.length ∧
    List.Forall₂ (fun e d => d.time = e.time ∧ d.node = e.node ∧ d.uid = e.uid ∧ d.ord = e.ord ∧
      d.level = (if 4096 ≤ e.wait ∧ e.level < 31 then e.level + 1 else e.level)) (s.cell x).ready (t.cell x).ready := by
  refine ⟨_, rfl, ?_⟩
  rw [cell_modCell_same]
  refine ⟨List.length_map _, List.forall₂_map_right_iff.mpr (List.forall₂_same.mpr fun e _ => ?_)⟩
  by_cases old : 4096 ≤ e.wait ∧ e.level < 31 <;> simp [old]

/-- Every clause on what waits, each by the lemma of its case. -/
theorem queuesMoveOn : Claims.QueuesMoveOn := by
  refine ⟨?refill, fun x s => readyAging_rises x s, ?fetch⟩
  case refill =>
    intro x ctx s p b e c time runs frozen halted due oldest held tctx blk pos node port hk
    refine ⟨fun hop he names => ?_, fun hop => ?_⟩
    · exact spillRefill_instance time runs frozen halted due oldest held blk node port tctx hk hop he names
    · exact spillRefill_lbound time runs frozen halted due oldest held blk node port tctx hk hop
  case fetch =>
    intro x ctx node s b blk rivals
    exact ⟨blockFetch_stays blk, blockFetch_comes blk⟩

/-- Settles O57: arrivals by the case of each class (`tokensArrive`), what waits by the case of each event (`queuesMoveOn`). -/
theorem matchingAndQueues : Obligations.MatchingAndQueues := ⟨tokensArrive, queuesMoveOn⟩

end Sys2Proof.Machine
end

section
/-! Rounding to the IEEE types, and the numbers their codes stand for (R70, R77, R79; O3). -/
namespace Sys2Proof.Machine

/-! The magnitudes of the codes of an IEEE format (R70). -/

/-- A format with a sign bit, infinities and a mantissa: the shape of the IEEE types (R70). -/
structure FFmt.Ieee (f : FFmt) : Prop where
  sign : f.sign = true
  sat : f.sat = false
  exp : 1 ≤ f.exp
  man : 1 ≤ f.man

/-- The float types are of that shape, and their codes fill their elements (R70). -/
theorem fmtOf_ieee {ty : Ty} (h : ty.isFloat = true) : (fmtOf ty).Ieee ∧ ty.width = 1 + (fmtOf ty).exp + (fmtOf ty).man := by
  cases ty
  case bf16 | fp16 | fp32 | fp64 => exact ⟨⟨rfl, rfl, by decide, by decide⟩, rfl⟩
  all_goals exact absurd h (by decide)

/-- The exponent of the last place of the subnormal numbers (R70). -/
def FFmt.low (f : FFmt) : Int := 1 - f.bias - f.man

/-- The magnitude of the code `c` without sign, as if no exponent stood for the infinities. -/
def FFmt.mag (f : FFmt) (c : Nat) : Rat :=
  if c / 2 ^ f.man = 0 then ((c % 2 ^ f.man : Nat) : Rat) * 2 ^ f.low
  else ((2 ^ f.man + c % 2 ^ f.man : Nat) : Rat) * 2 ^ (((c / 2 ^ f.man : Nat) : Int) - f.bias - f.man)

/-- The first code that is no number: that of the infinities (R70). -/
def FFmt.infCode (f : FFmt) : Nat := (2 ^ f.exp - 1) * 2 ^ f.man

/-- There are codes of numbers. -/
theorem FFmt.infCode_pos {f : FFmt} (h : f.Ieee) : 0 < f.infCode :=
  Nat.mul_pos (Nat.sub_pos_of_lt (Nat.one_lt_two_pow (by have := h.exp; omega))) (Nat.two_pow_pos _)

/-- A code counts last places: `k` of them above the code of `j` further binades. -/
theorem FFmt.mag_binade (f : FFmt) (j k : Nat) (hk : k ≤ 2 ^ (f.man + 1)) (hj : 0 < j → 2 ^ f.man ≤ k) :
    f.mag (j * 2 ^ f.man + k) = (k : Rat) * 2 ^ (f.low + j) := by
  have hp : 0 < 2 ^ f.man := Nat.two_pow_pos _
  have two : (2 : Rat) ≠ 0 := by norm_num
  rw [pow_succ] at hk
  rcases Nat.lt_or_ge k (2 ^ f.man) with small | big
  · have j0 : j = 0 := by by_contra h; have := hj (Nat.pos_of_ne_zero h); omega
    subst j0
    simp [FFmt.mag, Nat.div_eq_of_lt small, Nat.mod_eq_of_lt small]
  · rcases Nat.eq_or_lt_of_le hk with full | part
    · have split : j * 2 ^ f.man + k = (j + 2) * 2 ^ f.man := by rw [full]; ring
      have step : f.low + (j : Int) + 1 = ((j + 2 : Nat) : Int) - f.bias - f.man := by unfold FFmt.low; push_cast; ring
      simp only [FFmt.mag, split, Nat.mul_div_cancel _ hp, Nat.mul_mod_left]
      rw [if_neg (by omega), ← step, zpow_add₀ two, full]
      push_cast; ring
    · obtain ⟨m, rfl⟩ := Nat.exists_eq_add_of_le big
      have small : m < 2 ^ f.man := by omega
      have split : j * 2 ^ f.man + (2 ^ f.man + m) = m + 2 ^ f.man * (j + 1) := by ring
      have step : f.low + (j : Int) = ((j + 1 : Nat) : Int) - f.bias - f.man := by unfold FFmt.low; push_cast; ring
      simp only [FFmt.mag, split, Nat.add_mul_div_left _ _ hp, Nat.add_mul_mod_self_left, Nat.div_eq_of_lt small,
        Nat.mod_eq_of_lt small]
      rw [if_neg (by omega), step]
      simp

/-- Every code is its binade's first code and some last places, with room for one more. -/
theorem FFmt.exists_binade (f : FFmt) (c : Nat) :
    ∃ j k, c = j * 2 ^ f.man + k ∧ k < 2 ^ (f.man + 1) ∧ (0 < j → 2 ^ f.man ≤ k) := by
  have hd := Nat.div_add_mod c (2 ^ f.man)
  have hm := Nat.mod_lt c (Nat.two_pow_pos f.man)
  rw [pow_succ]
  rcases hj : c / 2 ^ f.man with _ | j
  · exact ⟨0, c, by simp, by rw [hj] at hd; omega, by simp⟩
  · rw [hj, Nat.mul_succ, Nat.mul_comm] at hd
    exact ⟨j, 2 ^ f.man + c % 2 ^ f.man, by omega, by omega, fun _ => Nat.le_add_right _ _⟩

/-- The first code of a binade is even. -/
theorem FFmt.binade_even {f : FFmt} (h : f.Ieee) (j : Nat) : j * 2 ^ f.man % 2 = 0 :=
  Nat.mod_eq_zero_of_dvd ((dvd_pow_self 2 (by have := h.man; omega)).mul_left j)

/-- The next code stands for the next greater magnitude. -/
theorem FFmt.mag_lt_succ (f : FFmt) (c : Nat) : f.mag c < f.mag (c + 1) := by
  obtain ⟨j, k, rfl, hk, hj⟩ := f.exists_binade c
  have unit : (0 : Rat) < 2 ^ (f.low + (j : Int)) := by positivity
  rw [Nat.add_assoc, f.mag_binade j k hk.le hj, f.mag_binade j (k + 1) hk (fun h => (hj h).trans (Nat.le_succ k))]
  exact mul_lt_mul_of_pos_right (by exact_mod_cast Nat.lt_succ_self k) unit

theorem FFmt.mag_strictMono (f : FFmt) : StrictMono f.mag := strictMono_nat_of_lt_succ f.mag_lt_succ

theorem FFmt.mag_nonneg (f : FFmt) (c : Nat) : 0 ≤ f.mag c := by
  unfold FFmt.mag; split <;> positivity

/-- The sign of a number (R70). -/
def sgn (neg : Bool) : Rat := if neg then -1 else 1

@[simp] theorem abs_sgn_mul (neg : Bool) (p : Rat) : |sgn neg * p| = |p| := by cases neg <;> simp [sgn]

@[simp] theorem rat_fin (neg : Bool) (m : Nat) (e : Int) : (FVal.fin neg m e).rat = some (sgn neg * (m * 2 ^ e)) := by
  simp [FVal.rat, sgn]

theorem FFmt.signBit_eq {f : FFmt} (h : f.Ieee) (neg : Bool) : f.signBit neg = neg.toNat * 2 ^ (f.exp + f.man) := by
  cases neg <;> simp [FFmt.signBit, h.sign]

/-- The fields of a code (R70). -/
theorem FFmt.fields {f : FFmt} (h : f.Ieee) (neg : Bool) {c : Nat} (hc : c < 2 ^ (f.exp + f.man)) :
    f.signOf (f.signBit neg + c) = neg ∧ fld (f.signBit neg + c) f.man f.exp = c / 2 ^ f.man
      ∧ fld (f.signBit neg + c) 0 f.man = c % 2 ^ f.man := by
  have hp : 0 < 2 ^ f.man := Nat.two_pow_pos _
  have hE : c / 2 ^ f.man < 2 ^ f.exp := by
    rw [Nat.div_lt_iff_lt_mul hp, ← pow_add]; exact hc
  rw [f.signBit_eq h]
  refine ⟨?_, ?_, ?_⟩
  · have top : (neg.toNat * 2 ^ (f.exp + f.man) + c) / 2 ^ (f.exp + f.man) = neg.toNat := by
      rw [Nat.add_comm, Nat.add_mul_div_right _ _ (Nat.two_pow_pos _), Nat.div_eq_of_lt hc, Nat.zero_add]
    unfold FFmt.signOf fld
    rw [top]
    cases neg <;> simp [h.sign]
  · have split : neg.toNat * 2 ^ (f.exp + f.man) + c = c + neg.toNat * 2 ^ f.exp * 2 ^ f.man := by rw [pow_add]; ring
    unfold fld
    rw [split, Nat.add_mul_div_right _ _ hp, Nat.add_mul_mod_self_right, Nat.mod_eq_of_lt hE]
  · have split : neg.toNat * 2 ^ (f.exp + f.man) + c = c + neg.toNat * 2 ^ f.exp * 2 ^ f.man := by rw [pow_add]; ring
    unfold fld
    rw [split, pow_zero, Nat.div_one, Nat.add_mul_mod_self_right]

/-- A code below that of the infinities stands for the number of its sign and magnitude. -/
theorem FFmt.val_rat {f : FFmt} (h : f.Ieee) (neg : Bool) {c : Nat} (hc : c < f.infCode) :
    (f.val (f.signBit neg + c)).rat = some (sgn neg * f.mag c) := by
  have hp : 0 < 2 ^ f.man := Nat.two_pow_pos _
  have hq : 0 < 2 ^ f.exp := Nat.two_pow_pos _
  have lt : c < 2 ^ (f.exp + f.man) := hc.trans_le (by rw [pow_add]; exact Nat.mul_le_mul_right _ (Nat.sub_le _ _))
  obtain ⟨hs, he, hm⟩ := f.fields h neg lt
  have notTop : c / 2 ^ f.man ≠ 2 ^ f.exp - 1 := by
    have : c / 2 ^ f.man < 2 ^ f.exp - 1 := (Nat.div_lt_iff_lt_mul hp).mpr hc
    omega
  unfold FFmt.val FFmt.mag FFmt.low
  simp only [hs, he, hm, h.sat, notTop, Bool.not_false, Bool.true_and, decide_false, Bool.false_eq_true, if_false,
    Bool.false_and]
  split <;> simp

/-- The code after the largest finite one is that of an infinity. -/
theorem FFmt.val_inf {f : FFmt} (h : f.Ieee) (neg : Bool) : f.val (f.signBit neg + f.infCode) = .inf neg := by
  have hp : 0 < 2 ^ f.man := Nat.two_pow_pos _
  have hq : 0 < 2 ^ f.exp := Nat.two_pow_pos _
  have lt : f.infCode < 2 ^ (f.exp + f.man) := by
    rw [pow_add]; exact Nat.mul_lt_mul_of_pos_right (by omega) hp
  obtain ⟨hs, he, hm⟩ := f.fields h neg lt
  have quot : f.infCode / 2 ^ f.man = 2 ^ f.exp - 1 := Nat.mul_div_cancel _ hp
  have part : f.infCode % 2 ^ f.man = 0 := Nat.mul_mod_left _ _
  unfold FFmt.val
  simp only [hs, he, hm, h.sat, quot, part, Bool.not_false, decide_true, Bool.and_self, if_true]

/-- Every number a code stands for is of its sign and magnitude. -/
theorem FFmt.of_val_rat {f : FFmt} (h : f.Ieee) {v : Nat} {y : Rat} (hv : v < 2 ^ (1 + f.exp + f.man))
    (hy : (f.val v).rat = some y) : ∃ s d, d < f.infCode ∧ y = sgn s * f.mag d := by
  have hp : 0 < 2 ^ f.man := Nat.two_pow_pos _
  obtain ⟨s, c, rfl, hc⟩ : ∃ s c, v = f.signBit s + c ∧ c < 2 ^ (f.exp + f.man) := by
    rcases Nat.lt_or_ge v (2 ^ (f.exp + f.man)) with lo | hi
    · exact ⟨false, v, by simp [f.signBit_eq h], lo⟩
    · refine ⟨true, v - 2 ^ (f.exp + f.man), by simp [f.signBit_eq h]; omega, ?_⟩
      have : 2 ^ (1 + f.exp + f.man) = 2 * 2 ^ (f.exp + f.man) := by rw [Nat.add_assoc, pow_add, pow_one]
      omega
  rcases Nat.lt_or_ge c f.infCode with fin | inf
  · rw [f.val_rat h s fin] at hy
    exact ⟨s, c, fin, (Option.some.inj hy).symm⟩
  · obtain ⟨_, he, hm⟩ := f.fields h s hc
    have top : c / 2 ^ f.man = 2 ^ f.exp - 1 := by
      have lo : 2 ^ f.exp - 1 ≤ c / 2 ^ f.man := (Nat.le_div_iff_mul_le hp).mpr inf
      have hi : c / 2 ^ f.man < 2 ^ f.exp := by rw [Nat.div_lt_iff_lt_mul hp, ← pow_add]; exact hc
      omega
    unfold FFmt.val at hy
    simp only [he, h.sat, top, Bool.not_false, decide_true, Bool.and_self, if_true] at hy
    split at hy <;> cases hy

/-! The number nearest to another (R77). -/

/-- The code `c` is, of all codes without sign, one whose magnitude is nearest to `X`, and an even one where another is as
near. -/
def FFmt.Nearest (f : FFmt) (X : Rat) (c : Nat) : Prop :=
  ∀ d, |f.mag c - X| ≤ |f.mag d - X| ∧ (|f.mag c - X| = |f.mag d - X| → d ≠ c → c % 2 = 0)

/-- The code below a number is nearest where the next one is further off, or as far off and odd. -/
theorem FFmt.nearest_below {f : FFmt} {X : Rat} {c : Nat} (below : f.mag c ≤ X)
    (near : X - f.mag c < f.mag (c + 1) - X ∨ (X - f.mag c = f.mag (c + 1) - X ∧ c % 2 = 0)) : f.Nearest X c := by
  intro d
  have hc : |f.mag c - X| = X - f.mag c := by rw [abs_sub_comm, abs_of_nonneg (by linarith)]
  rw [hc]
  rcases lt_trichotomy d c with lo | rfl | hi
  · have less := f.mag_strictMono lo
    have hd : |f.mag d - X| = X - f.mag d := by rw [abs_sub_comm, abs_of_nonneg (by linarith)]
    rw [hd]
    exact ⟨by linarith, fun tie => by linarith⟩
  · exact ⟨hc.ge, fun _ ne => absurd rfl ne⟩
  · have more := f.mag_strictMono.monotone (Nat.succ_le_of_lt hi)
    have hd := le_abs_self (f.mag d - X)
    rcases near with less | ⟨tie, even⟩
    · exact ⟨by linarith, fun _ => by linarith⟩
    · exact ⟨by linarith, fun _ _ => even⟩

/-- The code above a number is nearest where the one before it is further off, or as far off and odd. -/
theorem FFmt.nearest_above {f : FFmt} {X : Rat} {c : Nat} (above : X < f.mag (c + 1))
    (near : f.mag (c + 1) - X < X - f.mag c ∨ (f.mag (c + 1) - X = X - f.mag c ∧ c % 2 = 1)) : f.Nearest X (c + 1) := by
  intro d
  have hc : |f.mag (c + 1) - X| = f.mag (c + 1) - X := abs_of_nonneg (by linarith)
  rw [hc]
  rcases lt_trichotomy d (c + 1) with lo | rfl | hi
  · have less := f.mag_strictMono.monotone (Nat.lt_succ_iff.mp lo)
    have hd : X - f.mag d ≤ |f.mag d - X| := by rw [abs_sub_comm]; exact le_abs_self _
    rcases near with less | ⟨tie, odd⟩
    · exact ⟨by linarith, fun _ => by linarith⟩
    · exact ⟨by linarith, fun _ _ => by omega⟩
  · exact ⟨hc.ge, fun _ ne => absurd rfl ne⟩
  · have more := f.mag_strictMono hi
    have hd := le_abs_self (f.mag d - X)
    exact ⟨by linarith, fun _ => by linarith⟩

/-- A sign changes no distance between numbers of that sign, and moves numbers of different signs apart. -/
theorem abs_sgn_sub (s t : Bool) {p q : Rat} (hp : 0 ≤ p) (hq : 0 ≤ q) :
    |sgn s * p - sgn t * q| = if s = t then |p - q| else p + q := by
  have hs : |p + q| = p + q := abs_of_nonneg (by linarith)
  cases s <;> cases t <;> simp only [sgn, Bool.false_eq_true, if_false, if_true, reduceCtorEq]
  · simp
  · rw [← hs]; congr 1; ring
  · rw [← hs, ← abs_neg]; congr 1; ring
  · rw [← abs_neg]; congr 1; ring

/-- A code nearest in magnitude, with the sign of the number, is nearest among the numbers of both signs. -/
theorem FFmt.Nearest.signed {f : FFmt} {X : Rat} {c : Nat} (near : f.Nearest X c) (hX : 0 < X) (neg s : Bool) (d : Nat) :
    |sgn neg * f.mag c - sgn neg * X| ≤ |sgn s * f.mag d - sgn neg * X| ∧
      (|sgn neg * f.mag c - sgn neg * X| = |sgn s * f.mag d - sgn neg * X| → sgn s * f.mag d ≠ sgn neg * f.mag c →
        c % 2 = 0) := by
  obtain ⟨le, even⟩ := near d
  have hd := f.mag_nonneg d
  rw [abs_sgn_sub neg neg (f.mag_nonneg c) hX.le, abs_sgn_sub s neg hd hX.le, if_pos rfl]
  by_cases hs : s = neg
  · subst hs
    rw [if_pos rfl]
    exact ⟨le, fun tie ne => even tie (fun h => ne (by rw [h]))⟩
  · rw [if_neg hs]
    have across : |f.mag d - X| ≤ f.mag d + X := abs_le.mpr ⟨by linarith, by linarith⟩
    refine ⟨le.trans across, fun tie ne => ?_⟩
    -- a number of the other sign is as near only where it is 0
    have eq : |f.mag d - X| = f.mag d + X := le_antisymm across (tie ▸ le)
    have zero : f.mag d = 0 := by
      rcases abs_cases (f.mag d - X) with ⟨h, _⟩ | ⟨h, _⟩ <;> linarith
    refine even (tie.trans eq.symm) (fun h => ne ?_)
    rw [← h, zero, mul_zero, mul_zero]

/-! What `round` keeps and cuts off (R77). -/

/-- The exponent of the last place kept of `n × 2^e`. -/
def FFmt.place (f : FFmt) (n : Nat) (e : Int) : Int :=
  (if f.exp = 0 || (Nat.log2 n : Int) + e < 1 - f.bias then 1 - f.bias else (Nat.log2 n : Int) + e) - f.man

/-- The last places kept of `n × 2^e`. -/
def FFmt.kept (f : FFmt) (n : Nat) (e : Int) : Nat :=
  if f.place n e ≤ e then n * 2 ^ (e - f.place n e).toNat else n / 2 ^ (f.place n e - e).toNat

/-- What is cut off from `n × 2^e`. -/
def FFmt.cut (f : FFmt) (n : Nat) (e : Int) : Nat :=
  if f.place n e ≤ e then 0 else n % 2 ^ (f.place n e - e).toNat

/-- Half of a last place, in the unit of what is cut off. -/
def FFmt.half (f : FFmt) (n : Nat) (e : Int) : Nat :=
  if f.place n e ≤ e then 1 else 2 ^ ((f.place n e - e).toNat - 1)

/-- The code of the last places kept. -/
def FFmt.floorCode (f : FFmt) (n : Nat) (e : Int) : Nat :=
  ((f.place n e + f.man - (1 - f.bias)) * 2 ^ f.man).toNat + f.kept n e

/-- The code that `n × 2^e` rounds to by RNE, without its sign. -/
def FFmt.rneCode (f : FFmt) (n : Nat) (e : Int) : Nat :=
  f.floorCode n e + if roundsUp .rne false (f.kept n e) (f.cut n e) (f.half n e) false then 1 else 0

/-- Rounding by RNE: a code that is no number gives an infinity, any other stands with the sign, and INX where something was cut
off. -/
theorem FFmt.round_rne {f : FFmt} (h : f.Ieee) (neg : Bool) {n : Nat} (hn : n ≠ 0) (e : Int) :
    (f.infCode ≤ f.rneCode n e → f.round .rne neg n e false = (f.signBit neg + f.infCode, 5)) ∧
    (f.rneCode n e < f.infCode → ∃ fl, f.round .rne neg n e false = (f.signBit neg + f.rneCode n e, fl) ∧
      (fl &&& 1 = 1 ↔ f.cut n e ≠ 0)) := by
  have hmax : f.maxCode + 1 = f.infCode := by
    simp only [FFmt.maxCode, h.sat, Bool.not_false, if_true]
    exact Nat.sub_add_cancel (f.infCode_pos h)
  have split : f.rneCode n e = ((f.place n e + f.man - (1 - f.bias)) * 2 ^ f.man).toNat +
      (if roundsUp .rne neg (f.kept n e) (f.cut n e) (f.half n e) false then f.kept n e + 1 else f.kept n e) := by
    have sign : roundsUp .rne neg = roundsUp .rne false := rfl
    unfold FFmt.rneCode FFmt.floorCode
    rw [sign]
    split <;> rfl
  have unfold_round : f.round .rne neg n e false = if f.rneCode n e > f.maxCode then f.over .rne neg else
      (f.signBit neg + f.rneCode n e, (if f.cut n e ≠ 0 then flagInx else 0) +
        if f.cut n e ≠ 0 ∧ 1 ≤ f.exp ∧ f.maxCode ≥ 2 ^ f.man ∧ (Nat.log2 n : Int) + e < 1 - f.bias then flagUnf else 0) := by
    rw [split]
    simp [FFmt.round, hn, h.sign, h.sat, FFmt.place, FFmt.kept, FFmt.cut, FFmt.half, and_assoc]
  rw [unfold_round]
  constructor
  · intro big
    rw [if_pos (by omega), ← hmax]
    simp [FFmt.over, h.sat, flagOvf, flagInx]
  · intro small
    rw [if_neg (by omega)]
    refine ⟨_, rfl, ?_⟩
    by_cases exact_ : f.cut n e = 0
    · simp [exact_]
    · simp only [exact_, ne_eq, not_false_eq_true, if_true, true_and, flagInx, flagUnf, iff_true]
      split <;> rfl

/-- The place of a kept number, in binades above the subnormal ones. -/
def FFmt.binade (f : FFmt) (n : Nat) (e : Int) : Nat := (f.place n e - f.low).toNat

/-- The place is that of the number's own leading bit, or that of the subnormal numbers, whichever is higher. -/
theorem FFmt.place_eq {f : FFmt} (h : f.Ieee) (n : Nat) (e : Int) :
    f.place n e = f.low + f.binade n e ∧ (Nat.log2 n : Int) + e ≤ f.place n e + f.man ∧
      (0 < f.binade n e → f.place n e + f.man = (Nat.log2 n : Int) + e) := by
  have hE := h.exp
  unfold FFmt.binade FFmt.place FFmt.low
  by_cases sub : (Nat.log2 n : Int) + e < 1 - f.bias
  · rw [if_pos (by simp [sub])]; omega
  · rw [if_neg (by simp [sub]; omega)]; omega

/-- The last places kept fill at most the bits of a significand, and a normal number's fill them. -/
theorem FFmt.kept_bounds {f : FFmt} (h : f.Ieee) {n : Nat} (hn : n ≠ 0) (e : Int) :
    f.kept n e < 2 ^ (f.man + 1) ∧ (0 < f.binade n e → 2 ^ f.man ≤ f.kept n e) := by
  obtain ⟨_, hi, lo⟩ := f.place_eq h n e
  have lead : 2 ^ Nat.log2 n ≤ n := Nat.log2_self_le hn
  have more : n < 2 ^ (Nat.log2 n + 1) := Nat.lt_log2_self
  unfold FFmt.kept
  split
  case isTrue shift =>
    generalize hs : (e - f.place n e).toNat = s
    constructor
    · calc n * 2 ^ s < 2 ^ (Nat.log2 n + 1) * 2 ^ s := Nat.mul_lt_mul_of_pos_right more (Nat.two_pow_pos s)
        _ = 2 ^ (Nat.log2 n + 1 + s) := (pow_add ..).symm
        _ ≤ 2 ^ (f.man + 1) := Nat.pow_le_pow_right (by decide) (by omega)
    · intro normal
      have := lo normal
      calc 2 ^ f.man = 2 ^ Nat.log2 n * 2 ^ s := by rw [← pow_add]; congr 1; omega
        _ ≤ n * 2 ^ s := Nat.mul_le_mul_right _ lead
  case isFalse shift =>
    generalize hs : (f.place n e - e).toNat = s
    constructor
    · rw [Nat.div_lt_iff_lt_mul (Nat.two_pow_pos s), ← pow_add]
      exact more.trans_le (Nat.pow_le_pow_right (by decide) (by omega))
    · intro normal
      have := lo normal
      rw [Nat.le_div_iff_mul_le (Nat.two_pow_pos s), ← pow_add]
      exact (Nat.pow_le_pow_right (by decide) (by omega)).trans lead

/-- The code of the last places kept, by its binade. -/
theorem FFmt.floorCode_eq {f : FFmt} (h : f.Ieee) (n : Nat) (e : Int) :
    f.floorCode n e = f.binade n e * 2 ^ f.man + f.kept n e := by
  have count : f.place n e + f.man - (1 - f.bias) = f.binade n e := by
    rw [(f.place_eq h n e).1]; unfold FFmt.low; ring
  unfold FFmt.floorCode
  rw [count]
  congr 1

/-- A number lies above the number of its last places kept by what is cut off, and below the next by the rest of a place. -/
theorem FFmt.floorCode_mag {f : FFmt} (h : f.Ieee) {n : Nat} (hn : n ≠ 0) (e : Int) :
    ∃ w : Rat, 0 < w ∧ (n : Rat) * 2 ^ e = f.mag (f.floorCode n e) + f.cut n e * w ∧
      f.mag (f.floorCode n e + 1) = f.mag (f.floorCode n e) + 2 * f.half n e * w := by
  have two : (2 : Rat) ≠ 0 := by norm_num
  obtain ⟨place, _, _⟩ := f.place_eq h n e
  obtain ⟨hi, lo⟩ := f.kept_bounds h hn e
  have mag0 := f.mag_binade (f.binade n e) (f.kept n e) hi.le lo
  have mag1 := f.mag_binade (f.binade n e) (f.kept n e + 1) hi (fun b => (lo b).trans (Nat.le_succ _))
  rw [← place] at mag0 mag1
  rw [f.floorCode_eq h, mag0, Nat.add_assoc, mag1]
  unfold FFmt.kept FFmt.cut FFmt.half
  split
  case isTrue shift =>
    have exact_ : (2 : Rat) ^ e = 2 ^ (e - f.place n e).toNat * 2 ^ f.place n e := by
      rw [← zpow_natCast, ← zpow_add₀ two]; congr 1; omega
    refine ⟨2 ^ f.place n e / 2, by positivity, ?_, ?_⟩
    · rw [exact_]; push_cast; ring
    · push_cast; ring
  case isFalse shift =>
    generalize hs : (f.place n e - e).toNat = s
    have unit : (2 : Rat) ^ f.place n e = 2 ^ s * 2 ^ e := by
      rw [← zpow_natCast, ← zpow_add₀ two]; congr 1; omega
    have halves : (2 : Rat) ^ s = 2 * 2 ^ (s - 1) := by rw [← pow_succ']; congr 1; omega
    refine ⟨2 ^ e, by positivity, ?_, ?_⟩
    · have divide : (n : Rat) = 2 ^ s * (n / 2 ^ s : Nat) + (n % 2 ^ s : Nat) := by exact_mod_cast (Nat.div_add_mod n (2 ^ s)).symm
      rw [unit]
      nth_rewrite 1 [divide]
      ring
    · rw [unit]; push_cast; rw [halves]; ring

/-- What is cut off is less than a last place. -/
theorem FFmt.cut_lt (f : FFmt) (n : Nat) (e : Int) : f.cut n e < 2 * f.half n e := by
  unfold FFmt.cut FFmt.half
  split
  · decide
  · rw [← pow_succ', Nat.sub_add_cancel (by omega)]
    exact Nat.mod_lt _ (Nat.two_pow_pos _)

/-- A code is even where its last places kept are. -/
theorem FFmt.floorCode_parity {f : FFmt} (h : f.Ieee) (n : Nat) (e : Int) : f.floorCode n e % 2 = f.kept n e % 2 := by
  rw [f.floorCode_eq h, Nat.add_mod, f.binade_even h, Nat.zero_add, Nat.mod_mod]

/-- RNE takes the nearest code, the even one of two as near, and the number itself exactly where nothing is cut off. -/
theorem FFmt.rneCode_nearest {f : FFmt} (h : f.Ieee) {n : Nat} (hn : n ≠ 0) (e : Int) :
    f.Nearest ((n : Rat) * 2 ^ e) (f.rneCode n e) ∧ (f.mag (f.rneCode n e) ≠ (n : Rat) * 2 ^ e ↔ f.cut n e ≠ 0) := by
  obtain ⟨w, hw, below, above⟩ := f.floorCode_mag h hn e
  have parity := f.floorCode_parity h n e
  have lt := f.cut_lt n e
  generalize (n : Rat) * 2 ^ e = X at *
  have ltw : (f.cut n e : Rat) * w < 2 * f.half n e * w := mul_lt_mul_of_pos_right (by exact_mod_cast lt) hw
  have up_iff : roundsUp .rne false (f.kept n e) (f.cut n e) (f.half n e) false = true ↔
      f.half n e < f.cut n e ∨ (f.cut n e = f.half n e ∧ f.kept n e % 2 = 1) := by
    have : 0 < f.half n e := by omega
    by_cases z : f.cut n e = 0
    · simp [roundsUp, z]; omega
    · simp [roundsUp, z]
  unfold FFmt.rneCode
  by_cases up : roundsUp .rne false (f.kept n e) (f.cut n e) (f.half n e) false = true
  · rw [if_pos up]
    refine ⟨f.nearest_above (by linarith) ?_, iff_of_true (by linarith) ?_⟩
    · rcases up_iff.mp up with more | ⟨tie, odd⟩
      · have : (f.half n e : Rat) * w < f.cut n e * w := mul_lt_mul_of_pos_right (by exact_mod_cast more) hw
        exact .inl (by linarith)
      · rw [tie] at below
        exact .inr ⟨by linarith, parity.trans odd⟩
    · rcases up_iff.mp up with more | ⟨tie, _⟩ <;> omega
  · rw [if_neg up, Nat.add_zero]
    have up' := mt up_iff.mpr up
    have cutw : 0 ≤ (f.cut n e : Rat) * w := by positivity
    refine ⟨f.nearest_below (by linarith) ?_, ?_⟩
    · rcases Nat.lt_or_ge (f.cut n e) (f.half n e) with less | more
      · have : (f.cut n e : Rat) * w < f.half n e * w := mul_lt_mul_of_pos_right (by exact_mod_cast less) hw
        exact .inl (by linarith)
      · have tie : f.cut n e = f.half n e := by omega
        rw [tie] at below
        exact .inr ⟨by linarith, by omega⟩
    · rw [below, ne_eq, left_eq_add, mul_eq_zero, Nat.cast_eq_zero, or_iff_left hw.ne']

/-- Every code below the one that RNE gives stands for the number or less. -/
theorem FFmt.mag_le_of_lt_rneCode {f : FFmt} (h : f.Ieee) {n : Nat} (hn : n ≠ 0) (e : Int) {d : Nat} (hd : d < f.rneCode n e) :
    f.mag d ≤ (n : Rat) * 2 ^ e := by
  obtain ⟨w, hw, below, _⟩ := f.floorCode_mag h hn e
  have le : d ≤ f.floorCode n e := by unfold FFmt.rneCode at hd; split at hd <;> omega
  have cutw : 0 ≤ (f.cut n e : Rat) * w := by positivity
  have := f.mag_strictMono.monotone le
  linarith

/-- Zero rounds to the zero of its sign, and raises no flag. -/
theorem FFmt.round_zero {f : FFmt} (h : f.Ieee) (neg : Bool) (e : Int) :
    f.round .rne neg 0 e false = (f.signBit neg + 0, 0) := by
  simp [FFmt.round, h.sat]

/-- What a result within the range of a type is to be: nearest to `x`, even where another number is as near, with INX exactly where
it differs. -/
def FFmt.RoundsTo (f : FFmt) (x : Rat) (r : Nat × Nat) (v : Rat) : Prop :=
  (∀ c y, c < 2 ^ (1 + f.exp + f.man) → (f.val c).rat = some y →
    |v - x| ≤ |y - x| ∧ (|v - x| = |y - x| → y ≠ v → r.1 % 2 = 0)) ∧ (r.2 &&& 1 = 1 ↔ v ≠ x)

/-- A nonzero number within the range rounds as it should. -/
theorem FFmt.roundsTo_rneCode {f : FFmt} (h : f.Ieee) (neg : Bool) {n : Nat} (hn : n ≠ 0) (e : Int) {fl : Nat}
    (hfl : fl &&& 1 = 1 ↔ f.cut n e ≠ 0) :
    f.RoundsTo (sgn neg * (n * 2 ^ e)) (f.signBit neg + f.rneCode n e, fl) (sgn neg * f.mag (f.rneCode n e)) := by
  obtain ⟨near, inexact⟩ := f.rneCode_nearest h hn e
  have hX : (0 : Rat) < n * 2 ^ e := by have := Nat.pos_of_ne_zero hn; positivity
  have signEven : f.signBit neg % 2 = 0 := by
    rw [f.signBit_eq h, pow_add, ← Nat.mul_assoc]; exact f.binade_even h _
  refine ⟨fun c y hc hy => ?_, ?_⟩
  · obtain ⟨s, d, _, rfl⟩ := f.of_val_rat h hc hy
    obtain ⟨le, even⟩ := near.signed hX neg s d
    exact ⟨le, fun tie ne => by have := even tie ne; dsimp only; omega⟩
  · have sign : sgn neg ≠ 0 := by cases neg <;> simp [sgn]
    rw [hfl, ← inexact, ne_eq, ne_eq, mul_right_inj' sign]

/-- Settles O3: a number is rounded to the code nearest in magnitude (`FFmt.rneCode_nearest`), whose numbers are those of both signs
(`FFmt.val_rat`, `FFmt.of_val_rat`); the code after the largest finite one is an infinity's (`FFmt.val_inf`). -/
theorem roundingIsNearestEven : Obligations.RoundingIsNearestEven := by
  intro ty neg n e x isFloat hx
  obtain ⟨h, width⟩ := fmtOf_ieee isFloat
  obtain rfl : sgn neg * (n * 2 ^ e) = x := by simpa using hx
  rw [width]
  generalize fmtOf ty = f at *
  dsimp only
  rcases Nat.eq_zero_or_pos n with rfl | pos
  · have value : (f.val (f.signBit neg + 0)).rat = some 0 := by
      rw [f.val_rat h neg (f.infCode_pos h)]; simp [FFmt.mag]
    rw [f.round_zero h]
    refine ⟨fun v hv => ?_, fun none_ => by rw [value] at none_; cases none_⟩
    obtain rfl : 0 = v := Option.some.inj (value.symm.trans hv)
    simp only [Nat.cast_zero, zero_mul, mul_zero, sub_zero, abs_zero]
    exact ⟨fun c y _ _ => ⟨abs_nonneg y, fun tie ne => absurd (abs_eq_zero.mp tie.symm) ne⟩, by simp⟩
  · obtain ⟨beyond, within⟩ := f.round_rne h neg pos.ne' e
    rcases Nat.lt_or_ge (f.rneCode n e) f.infCode with fits | big
    · obtain ⟨fl, hr, hfl⟩ := within fits
      have value := f.val_rat h neg fits
      rw [hr]
      refine ⟨fun v hv => ?_, fun none_ => by rw [value] at none_; cases none_⟩
      obtain rfl : _ = v := Option.some.inj (value.symm.trans hv)
      exact f.roundsTo_rneCode h neg pos.ne' e hfl
    · have value := f.val_inf h neg
      rw [beyond big]
      refine ⟨fun v hv => (by rw [value] at hv; cases hv), fun _ => ⟨value, rfl, fun c y hc hy => ?_⟩⟩
      obtain ⟨s, d, hd, rfl⟩ := f.of_val_rat h hc hy
      rw [abs_sgn_mul, abs_sgn_mul, abs_of_nonneg (f.mag_nonneg d), abs_of_nonneg (by positivity)]
      exact f.mag_le_of_lt_rneCode h pos.ne' e (hd.trans_le big)

end Sys2Proof.Machine
end

section
/-! What a firing of an instruction that only computes can do: it performs, or one of the checks at its issue refuses it (R57, R80,
R95, R100; O29). -/
namespace Sys2Proof.Machine

/-- The reasons for which issuing can refuse a firing: a trapped flag (R80), a tag that overflows (R57), too many exits (R100). -/
def IssueRefusal (code : FCode) : Prop := code = .arith ∨ code = .tagOverflow ∨ code = .exitExcess

/-- Issuing a firing, with the reason where it is refused. -/
theorem issue_refusals (s : State) (f : Firing) (o : Out) (k : State → List Tok → State) :
    (∃ code arg, IssueRefusal code ∧ s.issue f o k = s.refuse f code arg 0) ∨
      ∃ toks, s.issue f o k = k (s.issued f o toks) toks := by
  unfold State.issue
  dsimp only
  split
  case isTrue trapped => exact .inl ⟨.arith, o.flags, .inl rfl, rfl⟩
  case isFalse untrapped =>
    split
    case h_1 overflows => exact .inl ⟨.tagOverflow, 0, .inr (.inl rfl), rfl⟩
    case h_2 toks sent =>
      split
      case isTrue excess => exact .inl ⟨.exitExcess, 0, .inr (.inr rfl), rfl⟩
      case isFalse within => exact .inr ⟨toks, rfl⟩

/-- A firing that needs nothing but S6 is refused for one of these reasons, or keeps the rest. -/
theorem fire_refusals (s : State) (f : Firing) (o : Out) :
    (∃ code arg, IssueRefusal code ∧ s.fire f o = s.refuse f code arg 0) ∨ Kept s (s.fire f o) f := by
  rcases issue_refusals s f o (fun s toks => s.depart f o.n toks) with refused | ⟨toks, performs⟩
  · exact .inl refused
  · rw [State.fire, performs]
    exact .inr ((issued_spec s f o toks).kept.trans (depart_spec _ f o.n toks).1)

/-- The instruction needs nothing but S6 in any state: its firing is one `fire`. -/
def OnlyFires (i : Instr) : Prop := ∃ k : State → Firing → State, (∀ s, exec i s = s.firing k) ∧ ∀ s f, ∃ o, k s f = s.fire f o

/-- An elementwise instruction only fires. -/
theorem OnlyFires.of_runElems {i : Instr} (h : Hdr) (l : Lit) (fmt : Ty) (n : Firing → Nat) (op : Nat → Nat → Nat → Nat × Nat)
    (hi : ∀ s, exec i s = s.runElems h l fmt n op) : OnlyFires i :=
  ⟨fun s f => s.fire f (elementwise f h l fmt (n f) op), hi, fun _ _ => ⟨_, rfl⟩⟩

/-- An instruction whose firing has one output in each state only fires. -/
theorem OnlyFires.of_out {i : Instr} (o : State → Firing → Out) (hi : ∀ s, exec i s = s.firing (fun s f => s.fire f (o s f))) :
    OnlyFires i :=
  ⟨_, hi, fun _ _ => ⟨_, rfl⟩⟩

/-- A mask instruction only fires (R198). -/
theorem OnlyFires.of_remask {i : Instr} (h : Hdr) (m : Firing → BitVec 16)
    (hi : ∀ s, exec i s = s.firing (fun s f => s.remask f h (m f))) : OnlyFires i :=
  .of_out (fun _ f => laneOut f h 1 0
    { fwdTok f h (usedBy f h) (f.op 0) false with lmask := if (f.op 0).vec then m f else 1 }) hi

/-- Where either way of a choice only fires, the choice does. -/
theorem exists_fire_ite {s : State} {f : Firing} {c : Prop} [Decidable c] {a b : State} (ha : ∃ o, a = s.fire f o)
    (hb : ∃ o, b = s.fire f o) : ∃ o, (if c then a else b) = s.fire f o := by
  split
  · exact ha
  · exact hb

/-- CVTNF converts one way or the other; either way it only fires (R131). -/
theorem cvtnf_onlyFires (h : Hdr) (c : CvtNfCtl) : OnlyFires (.cvtnf h c) :=
  ⟨_, fun s => (show exec (.cvtnf h c) s = execCvtnf h c s from rfl).trans rfl,
    fun _ _ => exists_fire_ite ⟨_, rfl⟩ ⟨_, rfl⟩⟩

/-- SHUF passes an empty vector or a scalar on, or selects lanes (R93, R191). -/
theorem shuf_onlyFires (h : Hdr) (p : Option W64) : OnlyFires (.shuf h p) :=
  ⟨_, fun s => (show exec (.shuf h p) s = execShuf h p s from rfl).trans rfl,
    fun _ _ => exists_fire_ite ⟨_, rfl⟩ (exists_fire_ite ⟨_, rfl⟩ ⟨_, rfl⟩)⟩

/-- BCAST passes an empty vector on, or spreads an element (R93, R192). -/
theorem bcast_onlyFires (h : Hdr) (side : Bool) (idx : Nat) : OnlyFires (.bcast h side idx) :=
  ⟨_, fun s => (show exec (.bcast h side idx) s = execBcast h side idx s from rfl).trans rfl,
    fun _ _ => exists_fire_ite ⟨_, rfl⟩ ⟨_, rfl⟩⟩

/-- SCAN passes an empty vector on, or folds (R93, R195). -/
theorem scan_onlyFires (h : Hdr) (c : RedCtl) : OnlyFires (.scan h c) :=
  ⟨_, fun s => (show exec (.scan h c) s = execScan h c s from rfl).trans rfl,
    fun _ _ => exists_fire_ite ⟨_, rfl⟩ ⟨_, rfl⟩⟩

/-- PACK sends a scalar, an empty vector or the packed elements (R197). -/
theorem pack_onlyFires (h : Hdr) (freg : Nat) : OnlyFires (.pack h freg) :=
  ⟨_, fun s => (show exec (.pack h freg) s = execPack h freg s from rfl).trans rfl,
    fun _ _ => exists_fire_ite ⟨_, rfl⟩ (exists_fire_ite ⟨_, rfl⟩ ⟨_, rfl⟩)⟩

/-- UNPACK sends a scalar, an empty vector or the spread elements (R197). -/
theorem unpack_onlyFires (h : Hdr) (freg : Nat) : OnlyFires (.unpack h freg) :=
  ⟨_, fun s => (show exec (.unpack h freg) s = execUnpack h freg s from rfl).trans rfl,
    fun _ _ => exists_fire_ite ⟨_, rfl⟩ (exists_fire_ite ⟨_, rfl⟩ ⟨_, rfl⟩)⟩

/-- Every instruction of the groups 0x2 to 0x7 only fires. -/
theorem onlyFires_of_computes {i : Instr} (hi : computes i = true) : OnlyFires i := by
  cases i
  -- integer arithmetic, logic, compare and select; float arithmetic and the special functions
  case add | addSat | sub | subSat | mul | mulh | div | rem | mad | madSat | min | max | abs | neg
    | and | or | xor | not | shl | shr | sar | rot | clz | popc | cmpEq | cmpNe | cmpLt | cmpLe | cmpGt | cmpGe | sel
    | fadd | fsub | fmul | ffma | fmin | fmax | fdiv | fsqrt | fabs | fneg
    | fcmpEq | fcmpNe | fcmpLt | fcmpLe | fcmpGt | fcmpGe | fcmpUn | frcp | frsq | fexp2 | flog2 | ftanh | fsigm | ferf =>
    exact .of_runElems _ _ _ _ _ (fun _ => rfl)
  -- conversion, and the lane instructions of one output
  case cvt h c => exact .of_out _ (fun s => (show exec (.cvt h c) s = execCvt h c s from rfl).trans rfl)
  case reduce h c => exact .of_out _ (fun s => (show exec (.reduce h c) s = execReduce h c s from rfl).trans rfl)
  case dot16 h => exact .of_out _ (fun s => (show exec (.dot16 h) s = execDot16 h s from rfl).trans rfl)
  case lmget h => exact .of_out _ (fun s => (show exec (.lmget h) s = execLmget h s from rfl).trans rfl)
  case cvtnf h c => exact cvtnf_onlyFires h c
  case shuf h p => exact shuf_onlyFires h p
  case bcast h side idx => exact bcast_onlyFires h side idx
  case scan h c => exact scan_onlyFires h c
  case pack h freg => exact pack_onlyFires h freg
  case unpack h freg => exact unpack_onlyFires h freg
  case lmset h m => exact .of_remask h (fun _ => m) (fun _ => rfl)
  case lmand h m => exact .of_remask h (fun f => (f.op 0).lmask &&& if h.arity > 1 then (f.op 1).lmask else m) (fun _ => rfl)
  case lmor h m => exact .of_remask h (fun f => (f.op 0).lmask ||| if h.arity > 1 then (f.op 1).lmask else m) (fun _ => rfl)
  case lmnot h => exact .of_remask h (fun f => ~~~ (f.op 0).lmask) (fun _ => rfl)
  case lmpred h => exact .of_remask h _ (fun _ => rfl)
  -- every other step is of another group, or an event
  all_goals simp [computes, parts, zParts, opParts, cParts] at hi

/-- Settles O29: an instruction that only computes only fires (`onlyFires_of_computes`), and a firing is refused for one of three
reasons or keeps the rest (`fire_refusals`). -/
theorem computingKeepsTheRest : Obligations.ComputingKeepsTheRest := by
  intro i s t f hi cur next
  obtain ⟨k, runs, fires⟩ := onlyFires_of_computes hi
  obtain ⟨o, ho⟩ := fires { s with cur := none } f
  have ht : State.fire { s with cur := none } f o = t := by
    rw [runs, firing_cur s f k cur, ho] at next
    exact Host.Outcome.next.inj next
  subst ht
  rcases fire_refusals { s with cur := none } f o with ⟨code, arg, reason, refused⟩ | kept
  · exact .inr ⟨code, arg, reason, refused⟩
  · exact .inl ((kept_cur s f none).trans kept)

end Sys2Proof.Machine
end

section
/-! What the device's own reads and writes at the homes of bytes change (R232 to R254): small changes of seven kinds, one after another.
A relation between states that each of these keeps is kept by them all. -/
namespace Sys2Proof.Machine

/-- A relation that holds along every small change which finding the homes of bytes can make: to the memory system, to a byte, a poison
mark or the count of free values, to a memory tile, and to the samplers and wakes of a die. -/
structure HomeFrame (R : State → State → Prop) : Prop where
  refl : ∀ s, R s s
  trans : ∀ {s t u}, R s t → R t u → R s u
  modMem : ∀ s f, R s (s.modMem f)
  setByte : ∀ s a b, R s (s.setByte a b)
  setPoison : ∀ s a n, R s (s.setPoison a n)
  freeVal : ∀ s, R s s.freeVal.2
  tile : ∀ s x (g : Cell → MTile), R s (s.modCell x (fun c => { c with mt := g c }))
  sampler : ∀ s d (g : Die → Table Sampler), R s (s.modDie d (fun e => { e with samp := g e }))
  wakes : ∀ s d (g : Die → Power), R s (s.modDie d (fun e => { e with power := g e }))

namespace HomeFrame
variable {R : State → State → Prop} (hR : HomeFrame R)
include hR

/-- What every step of a fold keeps, the fold keeps. -/
theorem foldl {α : Type} (f : State → α → State) (h : ∀ s a, R s (f s a)) (l : List α) (s : State) : R s (l.foldl f s) := by
  induction l generalizing s with
  | nil => exact hR.refl s
  | cons a l ih => exact hR.trans (h s a) (ih _)

theorem setBytes (s : State) (a : Nat) (l : List Byte) : R s (s.setBytes a l) := by
  induction l generalizing s a with
  | nil => exact hR.refl s
  | cons b l ih => exact hR.trans (hR.setByte s a b) (ih _ _)

theorem touch (s : State) (pa policy : Nat) : R s (s.touch pa policy) := by
  unfold State.touch
  split
  · exact hR.refl s
  dsimp only
  split
  · exact hR.modMem s _
  split
  · exact hR.refl s
  · exact hR.modMem s _

theorem touchWrite (s : State) (pa policy : Nat) : R s (s.touchWrite pa policy) := by
  unfold State.touchWrite
  split
  · exact hR.refl s
  · exact hR.trans (hR.touch s pa policy) (hR.modMem _ _)

/-- A number is written, and its line takes a new version. -/
theorem setNum_touchWrite (s : State) (a n v b p : Nat) : R s ((s.setNum a n v).touchWrite b p) :=
  hR.trans (hR.setBytes s a _) (hR.touchWrite _ b p)

theorem walk (s : State) (die tenant va : Nat) : R s (s.walk die tenant va).2 := hR.foldl _ (fun s a => hR.touch s a 0) _ s

theorem orPte (s : State) (a bits : Nat) : R s (s.orPte a bits) := by
  unfold State.orPte
  dsimp only
  split
  · exact hR.refl s
  · exact hR.setNum_touchWrite s a 8 _ a 0

theorem fillTlb (s : State) (die place col tenant va : Nat) (e : Pte) : R s (s.fillTlb die place col tenant va e) := by
  unfold State.fillTlb
  split
  · exact hR.refl s
  · exact hR.modMem s _

/-- A walk changes lines, and marks in an entry; the TLBs fill (R245, R248). -/
theorem lookup (s : State) (die place col tenant va : Nat) (write : Bool) : R s (s.lookup die place col tenant va write).2 := by
  have walked := hR.walk s die tenant va
  unfold State.lookup
  split
  case h_1 c s1 h => rw [h] at walked; exact walked
  case h_2 e a s1 h =>
    rw [h] at walked
    refine hR.trans walked ?_
    have marked (bits : Nat) (e : Pte) : R s1 ((s1.orPte a bits).fillTlb die place col tenant va e) :=
      hR.trans (hR.orPte s1 a bits) (hR.fillTlb _ _ _ _ _ _ _)
    dsimp only
    split
    · exact hR.refl s1
    split
    · exact hR.refl s1
    split
    · exact marked 4 _
    split
    · exact hR.refl s1
    split
    · exact marked 12 _
    split
    · exact hR.refl s1
    split
    · exact hR.trans (hR.setNum_touchWrite s1 a 8 _ a 0) (hR.fillTlb _ _ _ _ _ _ _)
    split <;> exact hR.refl s1

theorem lookRange (s : State) (die place col tenant : Nat) (write useTlb : Bool) (fuel va n : Nat) (acc : List Page) :
    R s (s.lookRange die place col tenant write useTlb fuel va n acc).2 := by
  induction fuel generalizing s va n acc with
  | zero => exact hR.refl s
  | succ fuel ih =>
    unfold State.lookRange
    split
    · exact hR.refl s
    extract_lets r
    have looked : R s r.2 := by
      unfold r
      split
      · exact hR.refl s
      split
      · exact hR.refl s
      · exact hR.lookup s die place col tenant va write
    clear_value r
    obtain ⟨l, s1⟩ := r
    cases l
    case ok p => exact hR.trans looked (ih s1 _ _ _)
    all_goals exact looked

theorem reach (s : State) (x : Site) (pa page : Nat) : R s (s.reach x pa page) := by
  have hot : R s (s.hot pa page) := by
    unfold State.hot
    split
    · exact hR.setNum_touchWrite s _ _ _ _ _
    · exact hR.refl s
  unfold State.reach
  split
  · exact hR.refl s
  · exact hR.trans hot (hR.sampler _ _ _)

theorem reachVa (s : State) (x : Site) (ps : List Page) (va : Nat) : R s (s.reachVa x ps va) := by
  unfold State.reachVa
  split
  · exact hR.reach s x _ _
  · exact hR.refl s

theorem handleEntry (s : State) (x : Site) (c k : Nat) : R s (s.handleEntry x c k).2 := by
  unfold State.handleEntry
  dsimp only
  split
  · exact hR.refl s
  split
  · exact hR.refl s
  have looked := hR.lookRange s x.die (s.pairOf x) (colCache (s.pos x).1) (s.ctx c).tenant false true 2
    (((s.ctx c).htbase + 16 * k) % 2 ^ 57) 16 []
  split
  case h_1 h => rw [h] at looked; exact looked
  case h_2 h => rw [h] at looked; exact looked
  case h_3 ps s1 h =>
    rw [h] at looked
    refine hR.trans looked ?_
    split
    · exact hR.refl s1
    · have reached (pa va : Nat) : R s1 ((s1.touch pa 0).reachVa x ps va) := hR.trans (hR.touch s1 pa 0) (hR.reachVa _ x ps _)
      split
      · exact reached _ _
      · dsimp only
        exact hR.trans (reached _ _) (hR.modMem _ _)

theorem checkHandle (s : State) (x : Site) (c h o n : Nat) : R s (s.checkHandle x c h o n).2 := by
  have entry := hR.handleEntry s x c h
  unfold State.checkHandle
  split
  · exact hR.refl s
  split
  case h_1 hs => rw [hs] at entry; exact entry
  case h_2 hs =>
    rw [hs] at entry
    repeat' split
    all_goals exact entry

theorem bankCheck (s : State) (x : Site) (a n : Nat) : R s (s.bankCheck x a n).2 := by
  have wake (s : State) (k : Nat) : R s (s.wake x k) := by
    unfold State.wake
    split
    · exact hR.refl s
    · exact hR.tile s x _
  unfold State.bankCheck
  dsimp only
  split
  · exact hR.refl s
  split
  · exact hR.refl s
  · exact hR.foldl _ wake _ s

theorem sdmCheck (s : State) (die a n : Nat) : R s (s.sdmCheck die a n).2 := by
  have wake (s : State) (g : Nat) : R s (s.sdmWake die g) := by
    unfold State.sdmWake
    split
    · exact hR.refl s
    · exact hR.wakes s die _
  unfold State.sdmCheck
  extract_lets gibs is
  split
  · exact hR.refl s
  split
  · exact hR.refl s
  · exact hR.foldl _ wake _ s

theorem mtAdvance (s : State) (x : Site) (k n : Nat) (write : Bool) : R s (s.mtAdvance x k n write) := by
  have put (s : State) (r : MtReg) : R s (s.modCell x (fun c => { c with mt := { c.mt with regs := c.mt.regs.set k r } })) :=
    hR.tile s x _
  unfold State.mtAdvance
  dsimp only
  split
  · repeat' split
    all_goals exact put s _
  · split <;> exact put s _
  · split
    · exact hR.refl s
    split
    · exact put s _
    · refine hR.trans (hR.trans (hR.setBytes s _ _) (hR.foldl _ (fun t i => ?_) _ _)) (put _ _)
      split
      · exact hR.setPoison t _ _
      · exact hR.refl t

theorem virtRange (s : State) (x : Site) (c va n : Nat) (write : Bool) : R s (s.virtRange x c va n write).2 := by
  have looked := hR.lookRange s x.die (s.pairOf x) (colCache (s.pos x).1) (s.ctx c).tenant write true (n / 4096 + 2) va n []
  unfold State.virtRange
  split
  · exact hR.refl s
  split <;> (rename_i hs; rw [hs] at looked; exact looked)

theorem virtHome (s : State) (x : Site) (ps : List Page) (va n : Nat) (write : Bool) (policy : Nat) :
    R s (s.virtHome x ps va n write policy).2 := by
  have asked (pas : List Nat) : R s (s.remoteRefuses pas).2 := by
    unfold State.remoteRefuses
    split
    · exact hR.freeVal s
    · exact hR.refl s
  unfold State.virtHome
  dsimp only
  split
  · exact hR.refl s
  split
  · exact hR.refl s
  split
  · exact asked _
  · refine hR.trans (asked _) (hR.foldl _ (fun t v => hR.trans ?_ (hR.reachVa _ x ps v)) _ _)
    split
    · exact hR.touchWrite t _ _
    · exact hR.touch t _ _

theorem tileSpots (s : State) (place : Nat) (x : Site) (k o n : Nat) (write : Bool) : R s (s.tileSpots place x k o n write).2 := by
  unfold State.tileSpots
  split
  · exact hR.refl s
  split
  · exact hR.refl s
  split
  · exact hR.refl s
  case _ at_ _ =>
    have woken := hR.bankCheck s x (s.bankByte x at_) n
    split
    case h_1 h => rw [h] at woken; exact woken
    case h_2 h => rw [h] at woken; exact woken
    case h_3 h => rw [h] at woken; exact hR.trans woken (hR.mtAdvance _ x k n write)

/-- Finding the homes of bytes by a handle (R236 to R254) keeps what its small changes keep. -/
theorem spots (s : State) (x : Site) (c h o n : Nat) (write : Bool) : R s (s.spots x c h o n write).2 := by
  have checked := hR.checkHandle s x c h o n
  unfold State.spots State.spotsAt
  split
  case h_1 hs => rw [hs] at checked; exact checked
  case h_2 e s1 hs =>
    rw [hs] at checked
    refine hR.trans checked ?_
    split
    · exact hR.refl s1
    dsimp only
    split
    · have ranged := hR.virtRange s1 x c (e.base + o) n write
      split
      case h_1 h => rw [h] at ranged; exact ranged
      case h_2 ps s2 h =>
        rw [h] at ranged
        refine hR.trans ranged ?_
        have homed := hR.virtHome s2 x ps (e.base + o) n write e.policy
        split <;> (rename_i h; rw [h] at homed; exact homed)
    split
    · split
      · exact hR.refl s1
      split
      · exact hR.refl s1
      have woken := hR.sdmCheck s1 x.die (e.base + o) n
      split <;> (rename_i h; rw [h] at woken; exact woken)
    · exact hR.tileSpots s1 _ x e.base o n write

end HomeFrame

end Sys2Proof.Machine
end

section
/-! The islands of a die, and what leaves its engines as they were (R315 to R327). -/
namespace Sys2Proof.Machine

/-- The island just changed. -/
@[simp] theorem island_modIsl_same (s : State) (die isl : Nat) (f : Island → Island) :
    (s.modIsl die isl f).island die isl = f (s.island die isl) := by
  simp [State.island, State.modIsl, State.modEng]

/-- A watchdog that starts anew leaves every island. -/
@[simp] theorem island_progress (s : State) (c die isl : Nat) : (s.progress c).island die isl = s.island die isl := by
  unfold State.progress; split <;> rfl

/-- The first element that satisfies `p`, after those that do have changed into others that do. -/
theorem find?_lmap {α : Type} (p : α → Bool) (f : α → α) (hf : ∀ a, p a = true → p (f a) = true) (l : List α) :
    (lmap p f l).find? p = (l.find? p).map f := by
  induction l with
  | nil => rfl
  | cons a l ih =>
    cases h : p a
    · simpa [lmap, h] using ih
    · simp [lmap, h, hf a h]

/-- A slot that has changed, and no other part of its island. -/
theorem modSlot_spec (s : State) (die isl n : Nat) (f : CSlot → CSlot) (hf : ∀ k, (f k).n = k.n) :
    ((s.modSlot die isl n f).island die isl).slot n = ((s.island die isl).slot n).map f ∧
      ((s.modSlot die isl n f).island die isl).tiles = (s.island die isl).tiles ∧
      ((s.modSlot die isl n f).island die isl).drains = (s.island die isl).drains := by
  refine ⟨?_, ?_, ?_⟩ <;> simp only [State.modSlot, island_modIsl_same]
  exact find?_lmap _ f (fun k h => by simpa [hf] using h) _

/-- A drain that has changed, and no slot of its island. -/
theorem modDrain_spec (s : State) (die isl id : Nat) (f : Drain → Drain) :
    ((s.modDrain die isl id f).island die isl).drains = lmap (fun d => d.id == id) f (s.island die isl).drains ∧
      ∀ n, ((s.modDrain die isl id f).island die isl).slot n = (s.island die isl).slot n := by
  simp [State.modDrain, Island.slot]

/-- The number of a slot is the one it is found by. -/
theorem slot_n {i : Island} {n : Nat} {k : CSlot} (h : i.slot n = some k) : k.n = n := by
  simpa using List.find?_some h

/-- The engines of every die are as they were. -/
def SameEng (s t : State) : Prop := ∀ d, (t.die d).eng = (s.die d).eng

namespace SameEng

theorem refl (s : State) : SameEng s s := fun _ => rfl

theorem trans {s t u : State} (h : SameEng s t) (k : SameEng t u) : SameEng s u := fun d => (k d).trans (h d)

theorem island {s t : State} (h : SameEng s t) (die isl : Nat) : t.island die isl = s.island die isl := by
  unfold State.island; rw [h]

/-- A step that changes no die. -/
theorem of_dies {s t : State} (h : t.dies = s.dies) : SameEng s t := fun d => by unfold State.die; rw [h]

theorem modDie (s : State) (d : Nat) (f : Die → Die) (h : (f (s.die d)).eng = (s.die d).eng) : SameEng s (s.modDie d f) := by
  intro e
  by_cases he : e = d
  · subst he; rw [die_modDie_same, h]
  · rw [die_modDie_ne s he]

theorem setByte (s : State) (a : Nat) (b : Byte) : SameEng s (s.setByte a b) := by
  unfold State.setByte
  split
  · exact refl s
  · exact of_dies rfl

/-- Finding the homes of bytes leaves every engine. -/
theorem homeFrame : HomeFrame SameEng where
  refl := refl
  trans := trans
  modMem _ _ := of_dies rfl
  setByte := setByte
  setPoison _ _ _ := of_dies rfl
  freeVal _ := of_dies rfl
  tile _ _ _ := of_dies rfl
  sampler s d _ := modDie s d _ rfl
  wakes s d _ := modDie s d _ rfl

/-- A trace record leaves every engine. -/
theorem trace (s : State) (die u : Nat) (e : Event) : SameEng s (s.trace die u e) := by
  rcases trace_spec s die u e with h | ⟨l, h⟩ <;> rw [h]
  · exact refl s
  · exact modDie s die _ rfl

/-- A record of a cell, of a state with the same dies. -/
theorem traceCell {s t : State} (h : t.dies = s.dies) (x : Site) (e : Event) : SameEng s (t.traceCell x e) :=
  (of_dies h).trans (trace t _ _ _)

/-- What waited on a page and is released leaves every engine. -/
theorem releaseAct (s : State) (a : Act) : SameEng s (s.releaseAct a) := by
  unfold State.releaseAct
  extract_lets next
  have follows {t : State} (h : SameEng s t) : SameEng s (next t) := h.trans (of_dies rfl)
  split
  · split
    · exact follows (traceCell rfl _ _)
    · exact refl s
  · split
    · split
      · exact follows (traceCell rfl _ _)
      · exact refl s
    · exact refl s
  · exact follows (refl s)

theorem pteWritten (s : State) (pa n : Nat) : SameEng s (s.pteWritten pa n) := by
  unfold State.pteWritten State.releasePage
  split
  · exact refl s
  · exact (of_dies rfl).trans (homeFrame.foldl _ releaseAct _ _)

theorem putBytes (s : State) (a : Nat) (l : List (Option Byte)) : SameEng s (s.putBytes a l) := by
  induction l generalizing s a with
  | nil => exact refl s
  | cons b l ih =>
    cases b with
    | none => exact ih s _
    | some b => exact (setByte s a b).trans (ih _ _)

/-- A write of the device itself leaves every engine. -/
theorem endWrite (s : State) (l : List Spot) (bs : List Byte) (psn : List Bool) : SameEng s (s.endWrite l bs psn) := by
  cases l with
  | nil => exact refl s
  | cons p l =>
    have marked (t : State) (b : Bool) (a : Nat) : SameEng t (if b then t.setPoison a 1 else t) := by
      split
      · exact of_dies rfl
      · exact refl t
    have put (a : Nat) : SameEng s (psn.zipIdx.foldl (fun t q => if q.1 then t.setPoison (a + q.2) 1 else t)
        ((s.putBytes a (bs.map some)).mark false a bs.length (bs.map some))) :=
      ((putBytes s a _).trans (of_dies rfl)).trans (homeFrame.foldl _ (fun t (q : Bool × Nat) => marked t q.1 _) _ _)
    cases p with
    | phys pa => exact (put _).trans (pteWritten _ _ _)
    | sdm die a => exact put _
    | mt x a => exact put _

/-- The pieces of a row leave every engine, however many are written. -/
theorem rowWrite (s : State) (d : Drain) (o : Nat) (poison : Bool) (i : Nat) (l : List (List Byte)) :
    SameEng s (s.rowWrite d o poison i l).2.2 := by
  induction l generalizing s i with
  | nil => exact refl s
  | cons p rest ih =>
    have found := homeFrame.spots s d.x d.ctx d.handle (o + 64 * i) 64 true
    unfold State.rowWrite
    split
    case h_1 b s1 h => rw [h] at found; exact found
    case h_2 l s1 h => rw [h] at found; exact (found.trans (endWrite s1 l p _)).trans (ih _ _)

end SameEng

end Sys2Proof.Machine
end

section
/-! Proofs of the statements on scales, pairs and drains of an island (R320 to R326; O48). -/
namespace Sys2Proof.Machine

/-! Integers as elements (R68, R69). -/

/-- An element of a signed type is the integer of its bits. -/
theorem intVal_toInt {ty : Ty} (h : ty.isSigned = true) (v : Nat) : intVal ty v = (BitVec.ofNat ty.width v).toInt := by
  have half : 2 ^ ty.width = 2 * 2 ^ (ty.width - 1) := by rw [← pow_succ', Nat.sub_add_cancel (width_pos ty)]
  unfold intVal
  simp only [h, Bool.true_and, decide_eq_true_eq, BitVec.toInt_eq_toNat_cond, BitVec.toNat_ofNat]
  generalize v % 2 ^ ty.width = u
  by_cases low : 2 * u < 2 ^ ty.width
  · rw [if_pos low, if_neg (by omega)]
  · rw [if_neg low, if_pos (by omega)]; push_cast; rfl

/-- A wrapped integer is the integer's bits. -/
theorem ofNat_wrapInt (w : Nat) (v : Int) : BitVec.ofNat w (wrapInt w v) = BitVec.ofInt w v := by
  apply BitVec.eq_of_toNat_eq
  have pos : (0 : Int) < 2 ^ w := by positivity
  have lt := Int.emod_lt_of_pos v pos
  rw [BitVec.toNat_ofNat, BitVec.toNat_ofInt, wrapInt, Nat.mod_eq_of_lt (by zify; omega)]
  push_cast; rfl

/-- An integer clamped to a signed type is the nearest the type holds, and SAT says whether it lay beyond. -/
theorem clampInt_signed {ty : Ty} (h : ty.isSigned = true) (v : Int) :
    (BitVec.ofNat ty.width (clampInt ty v).1).toInt = max (-(2 ^ (ty.width - 1))) (min (2 ^ (ty.width - 1) - 1) v) ∧
      ((clampInt ty v).2 &&& flagSat ≠ 0 ↔ v < -(2 ^ (ty.width - 1)) ∨ 2 ^ (ty.width - 1) - 1 < v) := by
  have half : (2 : Int) ^ ty.width = 2 * 2 ^ (ty.width - 1) := by rw [← pow_succ', Nat.sub_add_cancel (width_pos ty)]
  have pos : (0 : Int) < 2 ^ (ty.width - 1) := by positivity
  have kept (u : Int) (lo : -(2 ^ (ty.width - 1)) ≤ u) (hi : u ≤ 2 ^ (ty.width - 1) - 1) :
      (BitVec.ofNat ty.width (wrapInt ty.width u)).toInt = u := by
    rw [ofNat_wrapInt]
    exact BitVec.toInt_ofInt_eq_self (width_pos ty) lo (by omega)
  simp only [clampInt, intRange, h, if_true]
  generalize (2 : Int) ^ (ty.width - 1) = m at *
  by_cases low : v < -m
  · rw [if_pos low, kept _ le_rfl (by omega)]
    exact ⟨by omega, by simp [flagSat, low]⟩
  · by_cases high : v > m - 1
    · rw [if_neg low, if_pos high, kept _ (by omega) le_rfl]
      exact ⟨by omega, by simp [flagSat]; omega⟩
    · rw [if_neg low, if_neg high, kept _ (by omega) (by omega)]
      exact ⟨by omega, by simp [flagSat]; omega⟩

/-! A scale arrives (R84, R322). -/

/-- A scale that the store takes enters it. -/
theorem scaleArrival_stores (die isl : Nat) (s : State) (t : Tok) (rest : List Tok) (spilled : (s.island die isl).sspill = [])
    (first : (s.island die isl).scaleq = t :: rest) (lives : s.gone t.ctx = false) (takes : (s.island die isl).takes t = true) :
    ∃ u, exec (.scaleArrival die isl) s = .next u ∧ (u.island die isl).scaleq = rest ∧
      (u.island die isl).scales = (s.island die isl).scales ++
        [⟨t.ctx, t.site / 32, t.side.getLsbD 0, t.tag, t.depth, t.data.toNat % 2 ^ 16, t.flag .poison, t.sent, 0⟩] := by
  have run : exec (.scaleArrival die isl) s =
      .next ((s.modIsl die isl (fun i => Island.store { i with scaleq := rest } t)).progress t.ctx) := by
    show execScaleArrival die isl s = _
    simp [execScaleArrival, spilled, first, lives, takes, State.ringScale]
  exact ⟨_, run, by simp [Island.store], by simp [Island.store, scaleSlot, scaleB]⟩

/-! A pair fires (R320, R321). -/

theorem firstPair_mem {l : List Pair} {p : Pair} (h : firstPair l = some p) : p ∈ l := by
  induction l with
  | nil => cases h
  | cons q t ih =>
    unfold firstPair at h
    split at h
    case h_1 => cases h; exact List.mem_cons_self
    case h_2 r hr =>
      split at h <;> cases h
      · exact List.mem_cons_of_mem _ (ih hr)
      · exact List.mem_cons_self

/-- The bank in which a pair may fire is one of two. -/
theorem bankFor_lt {k : CSlot} {key : W64} {depth j b : Nat} (h : k.bankFor key depth j = some b) : b < 2 := by
  have two {q : Nat → Bool} (h : (List.range 2).find? q = some b) : b < 2 := List.mem_range.mp (List.mem_of_find?_eq_some h)
  unfold CSlot.bankFor at h
  dsimp only at h
  split at h
  case h_1 c hc => cases h; exact two hc
  case h_2 =>
    split at h
    · exact two h
    · cases h

/-- A fireable pair has a bank of its slot. -/
theorem pairsOf_bank {s : State} {die isl : Nat} {p : Pair} (h : p ∈ s.pairsOf die isl) : p.bank < 2 := by
  have ready := List.mem_of_mem_filter h
  simp only [State.tilePairs, List.mem_flatten, List.mem_map] at ready
  obtain ⟨_, ⟨k, _, rfl⟩, hp⟩ := ready
  split at hp
  · cases hp
  · obtain ⟨a, _, ha⟩ := List.mem_filterMap.mp hp
    split at ha
    · cases ha
    · split at ha
      · cases ha
      case _ c hc =>
        split at ha <;> cases ha
        exact bankFor_lt hc

/-- An element of rows of one length laid end to end. -/
theorem getD_flatten {α : Type} (n : Nat) (z : α) (l : List (List α)) (hl : ∀ r ∈ l, r.length = n) (r c : Nat) (hc : c < n) :
    l.flatten.getD (n * r + c) z = (l.getD r []).getD c z := by
  induction l generalizing r with
  | nil => simp
  | cons a l ih =>
    have len : a.length = n := hl a List.mem_cons_self
    rw [List.flatten_cons]
    cases r with
    | zero => rw [List.getD_append _ _ _ _ (by omega)]; simp
    | succ r =>
      have past : n * (r + 1) + c = a.length + (n * r + c) := by rw [len]; ring
      rw [List.getD_append_right _ _ _ _ (by omega), past, Nat.add_sub_cancel_left, ih (fun b hb => hl b (List.mem_cons_of_mem _ hb))]
      simp

/-- What a pair leaves in its bank, before its poison and its times (R320, R321). -/
structure Pair.Left (p : Pair) (s : State) (i : Island) (b : Bank) : Prop where
  st : b.st = if p.k = p.slot.cmd.ksm1 then .done else .acc
  next : b.next = p.k + 1
  vals : ∀ r c, r < 128 → c < 128 → b.vals.getD (128 * r + c) 0 = p.cell (s.scaleVals i p false) (s.scaleVals i p true)
    ((p.slot.banks.getD p.bank {}).vals.getD (128 * r + c) 0) r c

/-- A pair's firing: its bank is set and its tiles leave; a trace record changes no island. -/
theorem island_firePair (s : State) (die isl : Nat) (p : Pair) (hk : (s.island die isl).slot p.slot.n = some p.slot) :
    ∃ b, p.Left s (s.island die isl) b ∧
      ((s.firePair die isl p).island die isl).slot p.slot.n = some { p.slot with banks := p.slot.banks.set p.bank b } ∧
      ((s.firePair die isl p).island die isl).tiles =
        (s.island die isl).tiles.filter (fun u => u.ord != p.a.ord && u.ord != p.b.ord) := by
  unfold State.firePair
  extract_lets i k tl old sa sb vals psn nb s1 s2 ten q ev
  have left : p.Left s i nb := by
    refine ⟨rfl, rfl, fun r c hr hc => ?_⟩
    have rows := getD_flatten 128 0 ((List.range 128).map (fun r => (List.range 128).map
      (fun c => p.cell sa sb (old.vals.getD (128 * r + c) 0) r c))) (by simp) r c hc
    rw [rows]
    simp [hr, hc, old, sa, sb, i, k]
  have same : ∀ u, u = (if p.a.trace || p.b.trace then s2.trace die (unitIsland isl) ev else s2) → SameEng s2 u := by
    rintro u rfl
    split
    · exact SameEng.trace s2 _ _ _
    · exact SameEng.refl s2
  obtain ⟨slot, tiles, _⟩ := modSlot_spec s1 die isl k.n (fun k => { k with banks := k.banks.set p.bank nb }) (fun _ => rfl)
  refine ⟨nb, left, ?_, ?_⟩
  · rw [(same _ rfl).island, slot]
    simp only [s1, island_modIsl_same]
    exact congrArg _ hk
  · rw [(same _ rfl).island, tiles]
    simp [s1, Island.useScales]

/-- An integer pair's cell (R81, R321): the exact sum of its products and what its bank held, wrapped. -/
theorem cell_s8 {p : Pair} (ha : p.slot.cmd.atype = .s8) (hb : p.slot.cmd.btype = .s8) (sa sb : List (Option Nat)) (old r c : Nat) :
    BitVec.ofNat 32 (p.cell sa sb old r c) = BitVec.ofInt 32 (((List.range 64).map (fun kk =>
      (BitVec.ofNat p.slot.width (fld (p.a.rows.getD r 0) (p.slot.width * kk) p.slot.width)).toInt *
        (BitVec.ofNat p.slot.width (fld (p.b.rows.getD c 0) (p.slot.width * kk) p.slot.width)).toInt)).sum
      + (if p.k = 0 then 0 else (old : Int))) := by
  have width : p.slot.width = Ty.s8.width := by rw [CSlot.width, mxWidth, ha]; rfl
  have kt : p.slot.kt = 64 := by rw [CSlot.kt, width]; rfl
  have int : p.slot.isInt = true := by rw [CSlot.isInt, ha]; rfl
  rw [width]
  unfold Pair.cell
  simp only [int, if_true, kt, ha, hb, width, intVal_toInt (ty := .s8) rfl, ofNat_wrapInt]
  rw [List.sum_eq_foldl, List.foldl_map]

/-- A pair that nothing holds fires. -/
theorem pairFire_fires (die isl : Nat) (s : State) (p : Pair) (first : firstPair (s.pairsOf die isl) = some p)
    (hk : (s.island die isl).slot p.slot.n = some p.slot) (two : p.slot.banks.length = 2) (free : s.pairHeld die isl p = false) :
    ∃ t b, exec (.pairFire die isl) s = .next t ∧ p.Left s (s.island die isl) b ∧
      (t.island die isl).slot p.slot.n = some { p.slot with banks := p.slot.banks.set p.bank b } ∧
      (p.slot.banks.set p.bank b).getD p.bank {} = b ∧
      (t.island die isl).tiles = (s.island die isl).tiles.filter (fun u => u.ord != p.a.ord && u.ord != p.b.ord) := by
  obtain ⟨b, left, slot, tiles⟩ := island_firePair s die isl p hk
  have run : exec (.pairFire die isl) s = .next ((s.firePair die isl p).progress p.slot.ctx) := by
    show execPairFire die isl s = _
    simp [execPairFire, first, free]
  have bank := pairsOf_bank (firstPair_mem first)
  exact ⟨_, b, run, left, by rw [island_progress]; exact slot, by simp [two, bank], by rw [island_progress]; exact tiles⟩

/-- Scales and pairs, each by the lemma of its event. -/
theorem pairsAndScales : Claims.PairsAndScales := by
  refine ⟨scaleArrival_stores, fun die isl s p first hk two free => ?_⟩
  obtain ⟨t, b, run, left, slot, set, tiles⟩ := pairFire_fires die isl s p first hk two free
  refine ⟨t, _, run, slot, ?_⟩
  dsimp only
  rw [set]
  refine ⟨left.st, left.next, tiles, fun ha hb r c hr hc => ?_⟩
  rw [left.vals r c hr hc, cell_s8 ha hb, Nat.cast_ite, Nat.cast_zero]

/-! Drains (R325, R326). -/

/-- The conditions under which an island goes on with its first queued drain: nothing comes back to its queue, its context may start
work and is not being pre-empted, no record holds it, and the slot of its command is its own. -/
structure DrainGoes (die isl : Nat) (s : State) (d : Drain) (k : CSlot) : Prop where
  queue : s.queueDrains die isl = (false, s)
  first : (s.island die isl).drains.find? (fun d => !d.parked && d.spilt.isNone) = some d
  starts : s.startable d.x d.ctx = true
  phase : (s.ctx d.ctx).pre.phase ≠ 1
  free : (s.die die).loupe.waits (unitIsland isl) = false
  untraced : d.trace = false
  replayed : d.parkAt = none
  slot : (s.island die isl).slot d.cslot = some k
  own : k.ctx = d.ctx

/-- The done bank of a drain's key (R326). -/
def State.doneBank (s : State) (d : Drain) (k : CSlot) : Option Nat :=
  (List.range 2).find? (fun b => (k.banks.getD b {}).st == .done && (k.banks.getD b {}).tag == outKey (s.ctx d.ctx).tl d.tag
    && (k.banks.getD b {}).depth == d.depth)

/-- A drain without a bank takes the done one of its key. -/
theorem islandDrain_takes {die isl : Nat} {s : State} {d : Drain} {k : CSlot} (h : DrainGoes die isl s d k) {b : Nat}
    (none_ : d.bank = none) (done : s.doneBank d k = some b) :
    exec (.islandDrain die isl d.cslot) s = .next (((s.modSlot die isl k.n
      (fun k => { k with banks := k.banks.set b { k.banks.getD b {} with st := .drain } })).modDrain die isl d.id
        (fun d => { d with bank := some b })).progress d.ctx) := by
  show execIslandDrain die isl d.cslot s = _
  unfold State.doneBank at done
  simp only [execIslandDrain, h.queue, Bool.false_eq_true, ↓reduceIte, h.first, ne_eq, not_true_eq_false, decide_false, h.starts,
    Bool.true_or, Bool.not_true, Bool.or_self, h.phase, h.free, h.untraced, Bool.false_and, h.slot, h.own, none_, done]

/-- A drain with a bank computes and writes its next row. -/
theorem islandDrain_writes {die isl : Nat} {s : State} {d : Drain} {k : CSlot} (h : DrainGoes die isl s d k) {b : Nat}
    (has : d.bank = some b) : exec (.islandDrain die isl d.cslot) s = .next (s.drainRow die isl d k b) := by
  show execIslandDrain die isl d.cslot s = _
  simp [execIslandDrain, h.queue, h.first, h.starts, h.phase, h.free, h.untraced, h.slot, h.own, has]

/-- A row that nothing stops is written, and the drain goes on to the next. -/
theorem drainRow_next {die isl : Nat} {s s2 : State} {d : Drain} {k : CSlot} {b m : Nat} (replayed : d.parkAt = none)
    (more : d.row < 127)
    (written : s.rowWrite d (d.off + d.row * 64 * (k.outBits / 4)) (k.banks.getD b {}).poison d.piece
      ((pieces (k.outBits / 4) (k.row (k.banks.getD b {}) d.row).1).drop d.piece) = (none, m, s2)) :
    s.drainRow die isl d k b = (s2.modDrain die isl d.id (fun e =>
      { e with row := d.row + 1, piece := 0, clamps := d.clamps + (k.row (k.banks.getD b {}) d.row).2 })).progress d.ctx := by
  have here : s.replayDrain die isl d = s := by rw [State.replayDrain, replayed]
  unfold State.drainRow
  simp only [here, written, if_neg more.ne]

/-- A watchdog that starts anew, and a change of an island, leave memory. -/
theorem byte_modDrain_progress (s : State) (die isl id c : Nat) (f : Drain → Drain) (a : Nat) :
    ((s.modDrain die isl id f).progress c).byte a = s.byte a := by
  unfold State.progress; split <;> rfl

/-- With no stage of the epilogue an S32 is saturated to S8 (R325). -/
theorem epilogue_s8 {k : CSlot} (t : MxTabs) (v j : Nat) (bias : k.cmd.bias = false) (act : k.cmd.act = false) (rq : k.cmd.rq = false)
    (ha : k.cmd.atype = .s8) (ho : k.cmd.otype = .s8) :
    k.epilogue t v j = ((clampInt .s8 (BitVec.ofNat 32 v).toInt).1,
      decide ((clampInt .s8 (BitVec.ofNat 32 v).toInt).2 &&& flagSat ≠ 0)) := by
  have int : k.isInt = true := by rw [CSlot.isInt, ha]; rfl
  have value : intVal .s32 v = (BitVec.ofNat 32 v).toInt := intVal_toInt (ty := .s32) rfl v
  have narrow : convElem .s32 .s8 true .rne v = clampInt .s8 (BitVec.ofNat 32 v).toInt := by rw [← value]; rfl
  unfold CSlot.epilogue
  simp only [bias, act, rq, int, ho, narrow, Bool.not_false, Bool.and_self, if_true]
  rfl

/-- Drains, each clause by the lemma of its step. -/
theorem drainsWriteRows : Claims.DrainsWriteRows := by
  refine ⟨fun die isl s d k queue first starts phase free untraced replayed slot own => ?_, fun k t v j bias act rq ha ho => ?_⟩
  · have goes : DrainGoes die isl s d k := ⟨queue, first, starts, phase, free, untraced, replayed, slot, own⟩
    refine ⟨fun b none_ done lt => ?_, fun b m s2 has written more => ?_⟩
    · refine ⟨_, { k with banks := k.banks.set b { k.banks.getD b {} with st := .drain } }, islandDrain_takes goes none_ done, ?_⟩
      obtain ⟨slots, _, drains⟩ := modSlot_spec s die isl k.n
        (fun k => { k with banks := k.banks.set b { k.banks.getD b {} with st := .drain } }) (fun _ => rfl)
      rw [slot_n slot, slot] at slots
      rw [island_progress, (modDrain_spec ..).1, (modDrain_spec ..).2, drains, slot_n slot, slots]
      simp [lt, slot_n slot]
    · refine ⟨_, islandDrain_writes goes has, ?_⟩
      have kept := SameEng.rowWrite s d (d.off + d.row * 64 * (k.outBits / 4)) (k.banks.getD b {}).poison d.piece
        ((pieces (k.outBits / 4) (k.row (k.banks.getD b {}) d.row).1).drop d.piece)
      rw [written] at kept
      rw [drainRow_next replayed more written]
      refine ⟨byte_modDrain_progress s2 die isl d.id d.ctx _, ?_⟩
      rw [island_progress, (modDrain_spec ..).1, kept.island]
  · obtain ⟨value, sat⟩ := clampInt_signed (ty := .s8) rfl (BitVec.ofNat 32 v).toInt
    dsimp only
    rw [epilogue_s8 t v j bias act rq ha ho]
    exact ⟨value, decide_eq_decide.mpr sat⟩

/-- Settles O48: scales and pairs (`pairsAndScales`), and drains (`drainsWriteRows`), whose rows leave the islands as they were
(`SameEng.rowWrite`). -/
theorem islandPairsAndDrains : Obligations.IslandPairsAndDrains := ⟨pairsAndScales, drainsWriteRows⟩

end Sys2Proof.Machine
end

section
/-! Proofs of the statements on integer arithmetic (R113, R114; O1, O31). -/
namespace Sys2Proof.Machine

/-! What a well-formed header says of its row of the opcode map (R62). -/

/-- The type and the ARITY of a well-formed header are among those of its row. -/
theorem wf_row {opc : Nat} {h : Hdr} {row : OpRow} (known : opRow opc = some row) (w : h.wf opc = true) :
    h.fmt.code ∈ row.types ∧ h.arity ∈ row.ars := by
  unfold Hdr.wf at w
  simp only [known, Bool.and_eq_true, List.contains_iff_mem] at w
  obtain ⟨⟨⟨⟨⟨⟨⟨type, -⟩, arity⟩, -⟩, -⟩, -⟩, -⟩, -⟩ := w
  exact ⟨type, arity⟩

/-- An operation with a literal operand has a well-formed header. -/
theorem hdr_of_litWf {opc : Nat} {h : Hdr} {l : Lit} (w : litWf opc h l = true) : h.wf opc = true :=
  (Bool.and_eq_true_iff.mp w).1

/-- A row whose ARITY values are all positive has no firing without an operand. -/
theorem arity_pos {opc : Nat} {h : Hdr} (row : OpRow) (known : opRow opc = some row) (pos : ∀ a ∈ row.ars, 1 ≤ a)
    (w : h.wf opc = true) : 1 ≤ h.arity := pos _ (wf_row known w).2

/-! Elements as integers, by type (R68, R69). -/

/-- An element read by its type is the integer of its bits. -/
theorem intVal_elInt (ty : Ty) (x : BitVec ty.width) : intVal ty x.toNat = elInt ty.isSigned x := by
  cases signed : ty.isSigned with
  | true => rw [intVal_toInt signed, BitVec.ofNat_toNat, BitVec.setWidth_eq]; simp [elInt]
  | false => simp [intVal, elInt, signed]

/-- The bits of the integer that an element stands for are the element. -/
@[simp] theorem ofInt_elInt {w : Nat} (sg : Bool) (x : BitVec w) : BitVec.ofInt w (elInt sg x) = x := by
  cases sg <;> simp [elInt]

/-- A negative element is one of a signed type with its top bit set. -/
theorem elInt_neg {w : Nat} (sg : Bool) (x : BitVec w) : elInt sg x < 0 ↔ (sg && x.msb) = true := by
  cases sg with
  | true => simp [elInt, BitVec.msb_eq_toInt]
  | false => simp [elInt]

/-- Elements are ordered as the integers they stand for. -/
theorem elLe_iff {w : Nat} (sg : Bool) (x y : BitVec w) : elLe sg x y = true ↔ elInt sg x ≤ elInt sg y := by
  cases sg with
  | true => simp [elLe, elInt, BitVec.sle_iff_toInt_le]
  | false => simp [elLe, elInt, BitVec.ule_iff_toNat_le]

/-- Only zero stands for zero. -/
theorem elInt_zero {w : Nat} (sg : Bool) (x : BitVec w) : elInt sg x = 0 ↔ x = 0 := by
  refine ⟨fun h => ?_, fun h => by subst h; cases sg <;> simp [elInt]⟩
  rw [← ofInt_elInt sg x, h]; rfl

/-- Subtraction of bits is that of integers, wrapped. -/
theorem ofInt_sub (w : Nat) (u v : Int) : BitVec.ofInt w (u - v) = BitVec.ofInt w u - BitVec.ofInt w v := by
  rw [Int.sub_eq_add_neg, BitVec.ofInt_add, BitVec.ofInt_neg, ← BitVec.sub_eq_add_neg]

/-- An integer clamped to a type is clamped to the range of its width and signedness (R69). -/
theorem ofNat_clampInt (ty : Ty) (v : Int) :
    (BitVec.ofNat ty.width (clampInt ty v).1, (clampInt ty v).2) = satEl ty.width ty.isSigned v := by
  have clamp (lo hi : Int) :
      (BitVec.ofNat ty.width (if v < lo then (wrapInt ty.width lo, flagSat) else if v > hi then (wrapInt ty.width hi, flagSat)
          else (wrapInt ty.width v, 0)).1,
        (if v < lo then (wrapInt ty.width lo, flagSat) else if v > hi then (wrapInt ty.width hi, flagSat) else (wrapInt ty.width v, 0)).2)
      = (BitVec.ofInt ty.width (if v < lo then lo else if hi < v then hi else v), if v < lo ∨ hi < v then 64 else 0) := by
    by_cases low : v < lo
    · simp only [low, if_true, true_or, ofNat_wrapInt, flagSat]
    · by_cases high : v > hi
      · simp only [low, high, if_true, if_false, or_true, ofNat_wrapInt, flagSat]
      · simp only [low, high, if_false, or_self, ofNat_wrapInt]
  unfold clampInt satEl intRange
  cases ty.isSigned
  · exact clamp 0 _
  · exact clamp _ _

/-- A function of the integers that the elements stand for, wrapped to the type, is the function on bits that gives the bits of its
value (R69). -/
theorem OnBits.wrap {ty : Ty} {op : Nat → Nat → Nat → Nat × Nat}
    {r : BitVec ty.width → BitVec ty.width → BitVec ty.width → BitVec ty.width}
    (v : Int → Int → Int → Int) (hop : ∀ a b c, op a b c = wrapTo ty (v (intVal ty a) (intVal ty b) (intVal ty c)))
    (hr : ∀ x y z, BitVec.ofInt ty.width (v (elInt ty.isSigned x) (elInt ty.isSigned y) (elInt ty.isSigned z)) = r x y z) :
    OnBits op (fun x y z => plainEl (r x y z)) := by
  intro x y z
  simp only [hop, wrapTo, intVal_elInt, ofNat_wrapInt, hr, plainEl, and_self]

/-- A function of the integers that the elements stand for, clamped to the type (R69). -/
theorem OnBits.clamp {ty : Ty} {op : Nat → Nat → Nat → Nat × Nat} (v : Int → Int → Int → Int)
    (hop : ∀ a b c, op a b c = clampInt ty (v (intVal ty a) (intVal ty b) (intVal ty c))) :
    OnBits op (fun x y z => satEl ty.width ty.isSigned (v (elInt ty.isSigned x) (elInt ty.isSigned y) (elInt ty.isSigned z))) := by
  intro x y z
  simp only [hop, intVal_elInt, ← ofNat_clampInt, and_self]

/-- The upper half of the bits of an integer is its floor over 2^w. -/
theorem upperHalf_ofInt (w : Nat) (v : Int) : (BitVec.ofInt (2 * w) v >>> w).setWidth w = BitVec.ofInt w (v.fdiv (2 ^ w)) := by
  have pos : (0 : Int) < 2 ^ w := by positivity
  have half : v % 2 ^ (2 * w) / 2 ^ w % 2 ^ w = v / 2 ^ w % 2 ^ w := by
    have split : v % (2 ^ w * 2 ^ w) = v + 2 ^ w * -(2 ^ w * (v / (2 ^ w * 2 ^ w))) := by rw [Int.emod_def]; ring
    rw [Nat.two_mul, pow_add, split, Int.add_mul_ediv_left _ _ pos.ne', ← mul_neg, Int.add_mul_emod_self_left]
  apply BitVec.eq_of_toNat_eq
  zify
  rw [Int.fdiv_eq_ediv_of_nonneg _ pos.le, BitVec.toNat_setWidth, BitVec.toNat_ushiftRight, Nat.shiftRight_eq_div_pow]
  push_cast
  rw [BitVec.toNat_ofInt, BitVec.toNat_ofInt, Int.toNat_of_nonneg (Int.emod_nonneg _ (by positivity)),
    Int.toNat_of_nonneg (Int.emod_nonneg _ (by positivity))]
  push_cast
  exact half

/-- The upper half of a product is the floor of the exact one over 2^w (R113). -/
theorem ofInt_fdiv_mul {w : Nat} (sg : Bool) (x y : BitVec w) :
    BitVec.ofInt w (Int.fdiv (elInt sg x * elInt sg y) (2 ^ w)) = mulHigh sg x y := by
  have wide (z : BitVec w) : BitVec.ofInt (2 * w) (elInt sg z) = if sg then z.signExtend (2 * w) else z.setWidth (2 * w) := by
    cases sg
    · exact (BitVec.ofInt_natCast ..).trans (BitVec.ofNat_toNat ..)
    · rfl
  rw [← upperHalf_ofInt, BitVec.ofInt_mul, wide, wide, mulHigh]
  cases sg <;> rfl

/-- A quotient of integers truncated towards zero, wrapped, is that of bits (R114). -/
theorem ofInt_tdiv {w : Nat} (sg : Bool) (x y : BitVec w) :
    BitVec.ofInt w (Int.tdiv (elInt sg x) (elInt sg y)) = if sg then x.sdiv y else x.udiv y := by
  cases sg with
  | true =>
    apply BitVec.eq_of_toInt_eq
    rw [BitVec.toInt_ofInt]
    exact (BitVec.toInt_sdiv x y).symm
  | false => 
    rw [if_neg (by decide)]
    show BitVec.ofInt w ((x.toNat / y.toNat : Nat) : Int) = x.udiv y
    rw [BitVec.ofInt_natCast]
    exact (BitVec.udiv_def).symm
/-- A remainder of integers is that of bits (R114). -/
theorem ofInt_tmod {w : Nat} (sg : Bool) (x y : BitVec w) :
    BitVec.ofInt w (Int.tmod (elInt sg x) (elInt sg y)) = if sg then x.srem y else x.umod y := by
  cases sg with
  | true => 
    show BitVec.ofInt w (Int.tmod x.toInt y.toInt) = x.srem y
    rw [← BitVec.toInt_srem, BitVec.ofInt_toInt]
  | false => 
    show BitVec.ofInt w ((x.toNat % y.toNat : Nat) : Int) = x.umod y
    rw [BitVec.ofInt_natCast]
    exact (BitVec.umod_def).symm

/-! The instructions (R113, R114), each by the function of integers that it computes. -/

/-- An elementwise instruction whose record may hold a literal, at an ARITY that its row allows. -/
theorem computes_lit {i : Instr} {opc : Nat} {h : Hdr} {l : Lit} {out : Ty} {n : Firing → Nat} {op : Nat → Nat → Nat → Nat × Nat}
    {g : ElFn h.fmt.width} (row : OpRow) (known : opRow opc = some row) (pos : ∀ a ∈ row.ars, 1 ≤ a)
    (wf : WellFormed i = litWf opc h l) (runs : ∀ s, exec i s = s.runElems h l out n op) (op_g : OnBits op g) :
    Computes i h l out n g :=
  runElems_computes i h l out n op g runs (fun w => arity_pos row known pos (hdr_of_litWf (wf.symm.trans w))) (fun _ => op_g)

/-- An elementwise instruction whose record holds no literal. -/
theorem computes_plain {i : Instr} {opc : Nat} {h : Hdr} {out : Ty} {n : Firing → Nat} {op : Nat → Nat → Nat → Nat × Nat}
    {g : ElFn h.fmt.width} (row : OpRow) (known : opRow opc = some row) (pos : ∀ a ∈ row.ars, 1 ≤ a)
    (wf : WellFormed i = plainWf opc h) (runs : ∀ s, exec i s = s.runElems h noLit out n op) (op_g : OnBits op g) :
    Computes i h noLit out n g :=
  runElems_computes i h noLit out n op g runs (fun w => arity_pos row known pos (wf.symm.trans w)) (fun _ => op_g)

/-- Cycles of a multiplication, as the model counts them (R96). -/
theorem mulTime_eq (h : Hdr) : (fun f => mulTime h.fmt h f) = mulCycles h := by
  funext f; simp [mulTime, mulCycles]

/-- Each instruction wraps the exact integer result of its elements, which on bits is one operation (`OnBits.wrap`). -/
theorem integerArithmeticWraps : Claims.IntegerArithmeticWraps := by
  intro h l
  refine ⟨?_, ?_, ?_, ?_, ?_, ?_, ?_, ?_, ?_⟩
  · exact computes_lit (opc := 0x080) _ rfl (by decide) rfl (fun _ => rfl)
      (.wrap (fun a b _ => a + b) (fun _ _ _ => rfl) fun x y _ => by rw [BitVec.ofInt_add, ofInt_elInt, ofInt_elInt])
  · exact computes_lit (opc := 0x082) _ rfl (by decide) rfl (fun _ => rfl)
      (.wrap (fun a b _ => a - b) (fun _ _ _ => rfl) fun x y _ => by rw [ofInt_sub, ofInt_elInt, ofInt_elInt])
  · rw [← mulTime_eq]
    exact computes_lit (opc := 0x084) _ rfl (by decide) rfl (fun _ => rfl)
      (.wrap (fun a b _ => a * b) (fun _ _ _ => rfl) fun x y _ => by rw [BitVec.ofInt_mul, ofInt_elInt, ofInt_elInt])
  · rw [← mulTime_eq]
    exact computes_lit (opc := 0x085) _ rfl (by decide) rfl (fun _ => rfl)
      (.wrap (fun a b _ => Int.fdiv (a * b) (2 ^ h.fmt.width)) (fun _ _ _ => rfl) fun x y _ => ofInt_fdiv_mul _ x y)
  · rw [← mulTime_eq]
    exact computes_lit (opc := 0x088) _ rfl (by decide) rfl (fun _ => rfl)
      (.wrap (fun a b c => a * b + c) (fun _ _ _ => rfl) fun x y z => by
        rw [BitVec.ofInt_add, BitVec.ofInt_mul, ofInt_elInt, ofInt_elInt, ofInt_elInt])
  · exact computes_plain (opc := 0x08C) _ rfl (by decide) rfl (fun _ => rfl)
      (.wrap (fun a _ _ => -a) (fun _ _ _ => rfl) fun x _ _ => by rw [BitVec.ofInt_neg, ofInt_elInt])
  · exact computes_plain (opc := 0x08B) _ rfl (by decide) rfl (fun _ => rfl)
      (.wrap (fun a _ _ => if a < 0 then -a else a) (fun _ _ _ => rfl) fun x _ _ => by
        simp only [elInt_neg, apply_ite (BitVec.ofInt _), BitVec.ofInt_neg, ofInt_elInt])
  · exact computes_lit (opc := 0x089) _ rfl (by decide) rfl (fun _ => rfl)
      (.wrap (fun a b _ => if a ≤ b then a else b) (fun _ _ _ => rfl) fun x y _ => by
        simp only [← elLe_iff, apply_ite (BitVec.ofInt _), ofInt_elInt])
  · exact computes_lit (opc := 0x08A) _ rfl (by decide) rfl (fun _ => rfl)
      (.wrap (fun a b _ => if b ≤ a then a else b) (fun _ _ _ => rfl) fun x y _ => by
        simp only [← elLe_iff, apply_ite (BitVec.ofInt _), ofInt_elInt])

/-- Each saturating instruction clamps the exact integer result of its elements once (`OnBits.clamp`). -/
theorem integerArithmeticSaturates : Claims.IntegerArithmeticSaturates := by
  intro h l
  refine ⟨?_, ?_, ?_⟩
  · exact computes_lit (opc := 0x081) _ rfl (by decide) rfl (fun _ => rfl) (.clamp (fun a b _ => a + b) fun _ _ _ => rfl)
  · exact computes_lit (opc := 0x083) _ rfl (by decide) rfl (fun _ => rfl) (.clamp (fun a b _ => a - b) fun _ _ _ => rfl)
  · rw [← mulTime_eq h]
    exact computes_lit (opc := 0x08D) _ rfl (by decide) rfl (fun _ => rfl) (.clamp (fun a b c => a * b + c) fun _ _ _ => rfl)

/-- Settles O31: results wrapped (`integerArithmeticWraps`) and saturated (`integerArithmeticSaturates`). -/
theorem integerArithmetic : Obligations.IntegerArithmetic := ⟨integerArithmeticWraps, integerArithmeticSaturates⟩

/-- A division by type: all ones with IDZ for a zero divisor (R114). -/
theorem OnBits.divide {ty : Ty} {op : Nat → Nat → Nat → Nat × Nat} {r : BitVec ty.width → BitVec ty.width → BitVec ty.width}
    (v : Int → Int → Int)
    (hop : ∀ a b c, op a b c = if intVal ty b = 0 then (2 ^ ty.width - 1, flagIdz) else wrapTo ty (v (intVal ty a) (intVal ty b)))
    (hr : ∀ x y, BitVec.ofInt ty.width (v (elInt ty.isSigned x) (elInt ty.isSigned y)) = r x y) :
    OnBits op (fun x y _ => if y = 0 then (BitVec.allOnes _, 32) else plainEl (r x y)) := by
  intro x y z
  by_cases zero : y = 0
  · simp only [hop, intVal_elInt, elInt_zero, zero, if_true]
    exact ⟨BitVec.eq_of_toNat_eq (by simp), rfl⟩
  · simp only [hop, intVal_elInt, elInt_zero, zero, if_false, wrapTo, ofNat_wrapInt, hr, plainEl, and_self]

/-- Settles O1: the quotient and the remainder of integers truncated towards zero are those of bits (`ofInt_tdiv`, `ofInt_tmod`), at
every type. -/
theorem divisionTruncates : Obligations.DivisionTruncates := by
  intro h l
  exact ⟨computes_lit (opc := 0x086) _ rfl (by decide) rfl (fun _ => rfl) (.divide Int.tdiv (fun _ _ _ => rfl) (ofInt_tdiv _)),
    computes_lit (opc := 0x087) _ rfl (by decide) rfl (fun _ => rfl) (.divide Int.tmod (fun _ _ _ => rfl) (ofInt_tmod _))⟩

end Sys2Proof.Machine
end

section
/-! Proofs of the statement on logic, shifts, counts, compares and SEL (R115 to R119; O32). -/
namespace Sys2Proof.Machine

/-! Functions on numbers that raise no flag, as functions on bits. -/

/-- A function on numbers that raises no flag, on bits. -/
theorem OnBits.plain {w : Nat} {op : Nat → Nat → Nat → Nat × Nat} {r : BitVec w → BitVec w → BitVec w → BitVec w}
    (n : Nat → Nat → Nat → Nat) (hop : ∀ a b c, op a b c = (n a b c, 0))
    (hr : ∀ x y z, BitVec.ofNat w (n x.toNat y.toNat z.toNat) = r x y z) : OnBits op (fun x y z => plainEl (r x y z)) := by
  intro x y z
  simp only [hop, hr, plainEl, and_self]

/-- The bits that a logic instruction acts on: bit 0 alone for PRED, and every bit for any other type (R115). -/
theorem ofNat_and_logicMask (ty : Ty) (n : Nat) : BitVec.ofNat ty.width (n &&& logicMask ty) =
    if ty = .pred then BitVec.ofNat ty.width n &&& 1 else BitVec.ofNat ty.width n := by
  by_cases pred : ty = .pred
  · subst pred
    rw [if_pos rfl, BitVec.ofNat_and]; rfl
  · have mask : BitVec.ofNat ty.width (2 ^ ty.width - 1) = BitVec.allOnes _ := BitVec.eq_of_toNat_eq (by simp)
    rw [if_neg pred, logicMask, if_neg (by simpa using pred), BitVec.ofNat_and, mask, BitVec.and_allOnes]

/-- A logic instruction acts bit by bit, on the bits of its type (R115). -/
theorem OnBits.logic {ty : Ty} {op : Nat → Nat → Nat → Nat × Nat}
    {r : BitVec ty.width → BitVec ty.width → BitVec ty.width → BitVec ty.width}
    (n : Nat → Nat → Nat → Nat) (hop : ∀ a b c, op a b c = (n a b c &&& logicMask ty, 0))
    (hr : ∀ x y z, BitVec.ofNat ty.width (n x.toNat y.toNat z.toNat) = r x y z) :
    OnBits op (fun x y z => plainEl (if ty = .pred then r x y z &&& 1 else r x y z)) :=
  .plain (fun a b c => n a b c &&& logicMask ty) hop fun x y z => by rw [ofNat_and_logicMask, hr]

/-- The complement of an element's bits (R115). -/
theorem ofNat_xor_ones {w : Nat} (x : BitVec w) : BitVec.ofNat w (x.toNat ^^^ (2 ^ w - 1)) = ~~~x := by
  have mask : BitVec.ofNat w (2 ^ w - 1) = BitVec.allOnes w := BitVec.eq_of_toNat_eq (by simp)
  rw [BitVec.ofNat_xor, mask, BitVec.ofNat_toNat, BitVec.setWidth_eq, BitVec.xor_allOnes]

/-- A shift to the left by any number (R116). -/
theorem ofNat_shl {w : Nat} (x : BitVec w) (k : Nat) : BitVec.ofNat w (if k ≥ w then 0 else x.toNat * 2 ^ k % 2 ^ w) = x <<< k := by
  by_cases out : k ≥ w
  · rw [if_pos out, BitVec.shiftLeft_eq_zero out]
  · rw [if_neg out]
    exact BitVec.eq_of_toNat_eq (by simp [Nat.shiftLeft_eq])

/-- A logical shift to the right by any number (R116). -/
theorem ofNat_shr {w : Nat} (x : BitVec w) (k : Nat) : BitVec.ofNat w (if k ≥ w then 0 else x.toNat / 2 ^ k) = x >>> k := by
  by_cases out : k ≥ w
  · rw [if_pos out, BitVec.ushiftRight_eq_zero out]
  · rw [if_neg out]
    apply BitVec.eq_of_toNat_eq
    rw [BitVec.toNat_ushiftRight, Nat.shiftRight_eq_div_pow, BitVec.toNat_ofNat]
    exact Nat.mod_eq_of_lt (Nat.lt_of_le_of_lt (Nat.div_le_self ..) x.isLt)

/-- An arithmetic shift to the right by any number, the element read as signed (R116). -/
theorem ofNat_sar {ty : Ty} (x : BitVec ty.width) (k c : Nat) :
    BitVec.ofNat ty.width (elSar ty x.toNat k c).1 = x.sshiftRight k := by
  have neg : x.msb = decide (2 ^ (ty.width - 1) ≤ x.toNat) := BitVec.msb_eq_decide x
  have value : (if 2 ^ (ty.width - 1) ≤ x.toNat then (x.toNat : Int) - 2 ^ ty.width else x.toNat) = x.toInt := by
    rw [BitVec.toInt_eq_msb_cond, neg]; simp
  by_cases out : k ≥ ty.width
  · have fill : x.sshiftRight k = if x.msb then BitVec.allOnes _ else 0 := by
      ext i hi
      rw [BitVec.getElem_sshiftRight, dif_neg (by omega)]
      cases x.msb <;> simp
    rw [fill, neg]
    simp only [elSar, if_pos out, decide_eq_true_eq, apply_ite (BitVec.ofNat ty.width)]
    congr 1
    exact BitVec.eq_of_toNat_eq (by simp)
  · simp only [elSar, if_neg out, ofNat_wrapInt, value]
    rw [BitVec.sshiftRight_eq, Int.shiftRight_eq_div_pow, Int.fdiv_eq_ediv_of_nonneg _ (by positivity)]
    push_cast; rfl

/-- A rotation to the left (R116). -/
theorem ofNat_rot {w : Nat} (x : BitVec w) (k : Nat) :
    BitVec.ofNat w ((x.toNat * 2 ^ (k % w) ||| x.toNat / 2 ^ (w - k % w)) % 2 ^ w) = x.rotateLeft k := by
  apply BitVec.eq_of_toNat_eq
  rw [BitVec.rotateLeft_def, BitVec.toNat_or, BitVec.toNat_shiftLeft, BitVec.toNat_ushiftRight, Nat.shiftLeft_eq,
    Nat.shiftRight_eq_div_pow, BitVec.toNat_ofNat, Nat.mod_mod, Nat.or_mod_two_pow,
    Nat.mod_eq_of_lt (a := x.toNat / _) (Nat.lt_of_le_of_lt (Nat.div_le_self ..) x.isLt)]

/-- The zeros above the highest one bit (R117). -/
theorem ofNat_clz {w : Nat} (pos : 0 < w) (x : BitVec w) : BitVec.ofNat w (w - bitLen x.toNat) = x.clz := by
  by_cases zero : x = 0
  · rw [BitVec.clz_eq_iff_eq_zero.mpr zero, zero]; rfl
  · have nonzero : x.toNat ≠ 0 := fun h => zero (BitVec.eq_of_toNat_eq (by simpa using h))
    have some_ : x.clz.toNat < w := by
      have lt := BitVec.lt_def.mp (BitVec.clz_lt_iff_ne_zero.mpr zero)
      rwa [BitVec.natCast_eq_ofNat, BitVec.toNat_ofNat, Nat.mod_eq_of_lt Nat.lt_two_pow_self] at lt
    have top : x.toNat.log2 = w - 1 - x.clz.toNat := (Nat.log2_eq_iff nonzero).mpr
      ⟨BitVec.two_pow_sub_clz_le_toNat_of_ne_zero pos zero,
        by rw [show w - 1 - x.clz.toNat + 1 = w - x.clz.toNat by omega]; exact BitVec.toNat_lt_two_pow_sub_clz⟩
    rw [bitLen, if_neg nonzero, top, show w - (w - 1 - x.clz.toNat + 1) = x.clz.toNat by omega]
    simp

/-- The one bits among the low `n` and the one above them. -/
theorem popCount_succ (n a : Nat) : popCount (n + 1) a = popCount n a + (a.testBit n).toNat := by
  induction n generalizing a with
  | zero => simp only [popCount, Nat.testBit_zero]; rcases Nat.mod_two_eq_zero_or_one a with h | h <;> simp [h]
  | succ n ih => rw [popCount, ih, popCount, Nat.testBit_succ]; omega

/-- The one bits of an element (R117). -/
theorem ofNat_popCount {w : Nat} (x : BitVec w) : BitVec.ofNat w (popCount w x.toNat) = x.cpop := by
  have low (n : Nat) : popCount n x.toNat = x.cpopNatRec n 0 := by
    induction n with
    | zero => rfl
    | succ n ih => rw [popCount_succ, ih, BitVec.cpopNatRec_succ, Nat.zero_add,
      BitVec.cpopNatRec_eq (acc := (x.getLsbD n).toNat)]; rfl
  rw [low]; rfl

/-- Each of these instructions is one operation on bits: logic on the bits of its type, the rest on every bit. -/
theorem logicShiftsAndCounts : Claims.LogicShiftsAndCounts := by
  intro h l bits
  have self (x : BitVec h.fmt.width) : BitVec.ofNat h.fmt.width x.toNat = x := by simp
  refine ⟨?_, ?_, ?_, ?_, ?_, ?_, ?_, ?_, ?_, ?_⟩
  · exact computes_lit (opc := 0x0C0) _ rfl (by decide) rfl (fun _ => rfl)
      (.logic (fun a b _ => a &&& b) (fun _ _ _ => rfl) fun x y _ => by rw [BitVec.ofNat_and, self, self])
  · exact computes_lit (opc := 0x0C1) _ rfl (by decide) rfl (fun _ => rfl)
      (.logic (fun a b _ => a ||| b) (fun _ _ _ => rfl) fun x y _ => by rw [BitVec.ofNat_or, self, self])
  · exact computes_lit (opc := 0x0C2) _ rfl (by decide) rfl (fun _ => rfl)
      (.logic (fun a b _ => a ^^^ b) (fun _ _ _ => rfl) fun x y _ => by rw [BitVec.ofNat_xor, self, self])
  · exact computes_plain (opc := 0x0C3) _ rfl (by decide) rfl (fun _ => rfl)
      (.logic (fun a _ _ => a ^^^ (2 ^ h.fmt.width - 1)) (fun _ _ _ => rfl) fun x _ _ => ofNat_xor_ones x)
  · exact computes_lit (opc := 0x0C4) _ rfl (by decide) rfl (fun _ => rfl)
      (.plain (fun a b _ => if b ≥ h.fmt.width then 0 else a * 2 ^ b % 2 ^ h.fmt.width) (fun _ _ _ => rfl)
        fun x y _ => ofNat_shl x y.toNat)
  · exact computes_lit (opc := 0x0C5) _ rfl (by decide) rfl (fun _ => rfl)
      (.plain (fun a b _ => if b ≥ h.fmt.width then 0 else a / 2 ^ b) (fun _ _ _ => rfl) fun x y _ => ofNat_shr x y.toNat)
  · exact computes_lit (opc := 0x0C6) _ rfl (by decide) rfl (fun _ => rfl)
      (.plain (fun a b c => (elSar h.fmt a b c).1) (fun a b c => by unfold elSar; dsimp only; split <;> rfl)
        fun x y z => ofNat_sar x y.toNat z.toNat)
  · exact computes_lit (opc := 0x0C7) _ rfl (by decide) rfl (fun _ => rfl)
      (.plain (fun a b _ => (a * 2 ^ (b % h.fmt.width) ||| a / 2 ^ (h.fmt.width - b % h.fmt.width)) % 2 ^ h.fmt.width)
        (fun _ _ _ => rfl) fun x y _ => ofNat_rot x y.toNat)
  · exact computes_plain (opc := 0x0C8) _ rfl (by decide) rfl (fun _ => rfl)
      (.plain (fun a _ _ => h.fmt.width - bitLen a) (fun _ _ _ => rfl) fun x _ _ => ofNat_clz (width_pos h.fmt) x)
  · exact computes_plain (opc := 0x0C9) _ rfl (by decide) rfl (fun _ => rfl)
      (.plain (fun a _ _ => popCount h.fmt.width a) (fun _ _ _ => rfl) fun x _ _ => ofNat_popCount x)

/-- A comparison of the integers that the elements stand for, as one of bits: 1 where it holds, 0 where it does not (R118). -/
theorem OnBits.compare {ty : Ty} (rel : Int → Int → Bool) {r : BitVec ty.width → BitVec ty.width → Bool}
    (hr : ∀ x y, rel (elInt ty.isSigned x) (elInt ty.isSigned y) = r x y) :
    OnBits (elCmp rel ty) (fun x y _ => plainEl (if r x y then 1 else 0)) :=
  .plain (fun a b _ => (rel (intVal ty a) (intVal ty b)).toNat) (fun _ _ _ => rfl) fun x y _ => by
    rw [intVal_elInt, intVal_elInt, hr]
    cases r x y <;> rfl

/-- Elements that stand for one integer are equal. -/
theorem elInt_inj {w : Nat} {sg : Bool} {x y : BitVec w} : elInt sg x = elInt sg y ↔ x = y :=
  ⟨fun h => by rw [← ofInt_elInt sg x, h, ofInt_elInt], fun h => h ▸ rfl⟩

/-- The element type of a comparison's result (R118). -/
theorem cmpFmt_eq (ty : Ty) : cmpFmt ty = if ty = .tag then .s64 else if ty.width = 32 then .pred else ty := by simp [cmpFmt]

/-- A comparison by one relation on integers, whose record may hold a literal (R118). -/
theorem computes_cmp {i : Instr} {opc : Nat} {h : Hdr} {l : Lit} (rel : Int → Int → Bool)
    {r : BitVec h.fmt.width → BitVec h.fmt.width → Bool} (row : OpRow) (known : opRow opc = some row) (pos : ∀ a ∈ row.ars, 1 ≤ a)
    (wf : WellFormed i = litWf opc h l) (runs : ∀ s, exec i s = s.runElems h l (cmpFmt h.fmt) (fun _ => 1) (elCmp rel h.fmt))
    (hr : ∀ x y, rel (elInt h.fmt.isSigned x) (elInt h.fmt.isSigned y) = r x y) :
    Computes i h l (if h.fmt = .tag then .s64 else if h.fmt.width = 32 then .pred else h.fmt) oneCycle
      (fun x y _ => plainEl (if r x y then 1 else 0)) := by
  rw [← cmpFmt_eq]
  exact computes_lit row known pos wf runs (.compare rel hr)

/-- Each comparison is one of the integers that the elements stand for (`OnBits.compare`); SEL reads bit 0 of C. -/
theorem compareAndSelect : Claims.CompareAndSelect := by
  intro h l sg out rel
  have le (x y : BitVec h.fmt.width) : decide (elInt sg x ≤ elInt sg y) = elLe sg x y := by
    rw [Bool.eq_iff_iff, decide_eq_true_iff, elLe_iff]
  have lt (x y : BitVec h.fmt.width) : decide (elInt sg x < elInt sg y) = !elLe sg y x := by
    rw [← le, ← decide_not]; exact decide_eq_decide.mpr not_le.symm
  have eq (x y : BitVec h.fmt.width) : (elInt sg x == elInt sg y) = (x == y) := by
    simp only [beq_eq_decide]; exact decide_eq_decide.mpr elInt_inj
  refine ⟨?_, ?_, ?_, ?_, ?_, ?_, ?_⟩
  · exact computes_cmp (opc := 0x0D0) _ _ rfl (by decide) rfl (fun _ => rfl) eq
  · exact computes_cmp (opc := 0x0D1) _ _ rfl (by decide) rfl (fun _ => rfl) fun x y => congrArg (!·) (eq x y)
  · exact computes_cmp (opc := 0x0D2) _ _ rfl (by decide) rfl (fun _ => rfl) lt
  · exact computes_cmp (opc := 0x0D3) _ _ rfl (by decide) rfl (fun _ => rfl) le
  · exact computes_cmp (opc := 0x0D4) _ _ rfl (by decide) rfl (fun _ => rfl) fun x y => lt y x
  · exact computes_cmp (opc := 0x0D5) _ _ rfl (by decide) rfl (fun _ => rfl) fun x y => le y x
  · exact computes_plain (opc := 0x0D8) _ rfl (by decide) rfl (fun _ => rfl)
      (.plain (fun a b c => if c % 2 = 1 then a else b) (fun _ _ _ => rfl) fun x y z => by
        have bit : z.getLsbD 0 = decide (z.toNat % 2 = 1) := by simp [BitVec.getLsbD, Nat.testBit_zero]
        simp only [bit, decide_eq_true_eq, apply_ite (BitVec.ofNat _), BitVec.ofNat_toNat, BitVec.setWidth_eq])

/-! The records (R62, R115 to R119). -/

/-- The types of class I are the integer types (R58). -/
theorem mem_clsI (ty : Ty) : ty.code ∈ clsI ↔ ty.isInt = true := by cases ty <;> decide
/-- Class I with PRED (R58, R115). -/
theorem mem_clsIP (ty : Ty) : ty.code ∈ clsIP ↔ ty.isInt = true ∨ ty = .pred := by cases ty <;> decide
/-- Class I with TAG (R58, R118). -/
theorem mem_clsIT (ty : Ty) : ty.code ∈ clsIT ↔ ty.isInt = true ∨ ty = .tag := by cases ty <;> decide

/-- An operation whose row takes no EXT record has no upper word of its literal (R62). -/
theorem lit_hi_none {opc : Nat} {h : Hdr} {l : Lit} {row : OpRow} (known : opRow opc = some row) (no : row.ext = .no)
    (w : litWf opc h l = true) : l.hi = none := by
  obtain ⟨-, w⟩ := Bool.and_eq_true_iff.mp w
  unfold Lit.wf at w
  simp only [known, no, Bool.false_and, Bool.or_false, Bool.and_eq_true, Option.isNone_iff_eq_none] at w
  obtain ⟨⟨-, none_⟩, -⟩ := w
  exact none_

/-- A well-formed record of each code has a type and an ARITY of its row of Table 8. -/
theorem logicCompareAndSelectRecords : Claims.LogicCompareAndSelectRecords := by
  intro h l code
  have one {n : Nat} (m : n ∈ [1]) : n = 1 := List.mem_singleton.mp m
  have two {n : Nat} (m : n ∈ [1, 2]) : n = 1 ∨ n = 2 := by simpa using m
  refine ⟨rfl, fun w => ?_, fun w => ?_, fun w => ?_, fun w => ?_, fun w => ?_, fun w => ?_⟩
  · have row : h.fmt.code ∈ clsIP ∧ h.arity ∈ [1, 2] := by
      obtain w | w | w := w <;> exact wf_row rfl (hdr_of_litWf w)
    exact ⟨(mem_clsIP _).mp row.1, two row.2⟩
  · have row : h.fmt.code ∈ clsIP ∧ h.arity ∈ [1] := wf_row (opc := 0x0C3) rfl w
    exact ⟨(mem_clsIP _).mp row.1, one row.2⟩
  · have row : (h.fmt.code ∈ clsI ∧ h.arity ∈ [1, 2]) ∧ l.hi = none := by
      obtain w | w | w | w := w <;> exact ⟨wf_row rfl (hdr_of_litWf w), lit_hi_none rfl rfl w⟩
    exact ⟨(mem_clsI _).mp row.1.1, two row.1.2, row.2⟩
  · have row : h.fmt.code ∈ clsI ∧ h.arity ∈ [1] := by
      obtain w | w := w
      · exact wf_row (opc := 0x0C8) rfl w
      · exact wf_row (opc := 0x0C9) rfl w
    exact ⟨(mem_clsI _).mp row.1, one row.2⟩
  · have row : h.fmt.code ∈ clsIT ∧ h.arity ∈ [1, 2] := by
      obtain w | w | w | w | w | w := w <;> exact wf_row rfl (hdr_of_litWf w)
    exact ⟨(mem_clsIT _).mp row.1, two row.2⟩
  · exact List.mem_singleton.mp (wf_row (opc := 0x0D8) rfl w).2

/-- Settles O32: logic, shifts and counts (`logicShiftsAndCounts`), compares and SEL (`compareAndSelect`), and what their records may
hold (`logicCompareAndSelectRecords`). -/
theorem logicCompareAndSelect : Obligations.LogicCompareAndSelect :=
  ⟨logicShiftsAndCounts, compareAndSelect, logicCompareAndSelectRecords⟩

end Sys2Proof.Machine
end

section
/-! Proofs of the statement on the tag instructions, LCARRY and MARK, and on tag actions (R13, R56, R108 to R111, R199, R202; O35). -/
namespace Sys2Proof.Machine

/-! Instructions that send one token, or a list of tokens and markers. -/

/-- An instruction whose clear firings send one token `k` on its targets sends that token. -/
theorem sends_of_fire {i : Instr} {ts : Firing → List Target} {ports : State → Firing → List Nat} {n : Firing → Nat}
    {flags : State → Firing → Nat} {tag : State → Firing → W64 × Nat} {ok : State → Firing → Prop}
    {P : State → Firing → Tok → Prop} (k : State → Firing → Tok) (used : State → Firing → List Tok)
    (runs : ∀ s f, WellFormed i = true → ok s f → s.cur = some f → exec i s = .next (State.fire { s with cur := none } f
      { sends := (ts f).map (fun g => .tok g (k s f)), n := n f, ports := ports s f, used := used s f, flags := flags s f }))
    (tagged : ∀ s f, ok s f → ((k s f).tag, (k s f).depth) = tag s f)
    (holds : ∀ s f, WellFormed i = true → ok s f → P s f (k s f)) : Sends i ts ports n flags tag ok P := by
  intro s f w hok clear
  obtain ⟨emits, kept⟩ := fire_targets s f
    { sends := (ts f).map (fun g => .tok g (k s f)), n := n f, ports := ports s f, used := used s f, flags := flags s f } (ts f) (k s f) rfl
    (by rw [tagged s f hok]; exact clear)
  exact ⟨k s f, _, holds s f w hok, runs s f w hok clear.cur, emits, kept⟩

/-- Which firing is under way is no matter to what consuming operands leaves of a cell. -/
theorem cell_consume_cur (s : State) (f : Firing) (c : Option Firing) (ports : List Nat) (y : Site) :
    (State.consume { s with cur := c } f ports).cell y = (s.consume f ports).cell y := by
  unfold State.consume
  split <;> rfl

/-- Which firing is under way is no matter to what a firing sends. -/
theorem Emits.of_cur {s t : State} {f : Firing} {c : Option Firing} {n flags : Nat} {ports : List Nat} {toks : List Tok}
    (h : Emits { s with cur := c } t f n flags ports toks) : Emits s t f n flags ports toks :=
  ⟨h.deps, h.inner, h.slots.trans (by rw [cell_consume_cur]), h.stages, h.aflags, h.busy, h.done⟩

/-- An instruction whose firings send a list in one cycle with no flag issues that list. -/
theorem issues_of_fire {i : Instr} {sends : State → Firing → List Send} {ports : State → Firing → List Nat}
    {ok : State → Firing → Prop}
    (used : State → Firing → List Tok)
    (runs : ∀ s f, ok s f → s.cur = some f → exec i s = .next (State.fire { s with cur := none } f
      { sends := sends s f, ports := ports s f, used := used s f })) : Issues i sends ports ok := by
  intro s f toks _ hok cur sent exits
  obtain ⟨emits, kept⟩ := fire_clear { s with cur := none } f { sends := sends s f, ports := ports s f, used := used s f } toks
    (Nat.zero_and _) sent (by rw [Nat.zero_add]; exact exits) rfl
  exact ⟨_, runs s f hok cur, emits.of_cur, (kept_cur s f none).trans kept⟩

/-! Levels of a tag (R12, R13). -/

/-- A field is read from the bits below its end. -/
theorem fld_mod (v lo w n : Nat) (h : lo + w ≤ n) : fld (v % 2 ^ n) lo w = fld v lo w := by
  rw [fld, fld, ← Nat.mod_mul_right_div_self, ← Nat.mod_mul_right_div_self, ← pow_add,
    Nat.mod_mod_of_dvd _ (Nat.pow_dvd_pow 2 h)]

/-- A field is read from the bits above any place below it. -/
theorem fld_div (v lo w n : Nat) (h : n ≤ lo) : fld v lo w = fld (v / 2 ^ n) (lo - n) w := by
  rw [fld, fld, Nat.div_div_eq_div_mul, ← pow_add, Nat.add_sub_cancel' h]

/-- A number with the `w` bits from `lo` up set to `v`. -/
def putFld (t lo w v : Nat) : Nat := t % 2 ^ lo + v % 2 ^ w * 2 ^ lo + t / 2 ^ (lo + w) * 2 ^ (lo + w)

/-- The bits of a field stand between those below and those above it. -/
theorem putFld_eq (t lo w v : Nat) : putFld t lo w v = t % 2 ^ lo + 2 ^ lo * (v % 2 ^ w + 2 ^ w * (t / 2 ^ (lo + w))) := by
  rw [putFld, pow_add]; ring

/-- What a field leaves below it. -/
theorem putFld_mod (t lo w v : Nat) : putFld t lo w v % 2 ^ lo = t % 2 ^ lo := by
  rw [putFld_eq, Nat.add_mul_mod_self_left, Nat.mod_mod]

/-- The field and what stands above it. -/
theorem putFld_div_lo (t lo w v : Nat) : putFld t lo w v / 2 ^ lo = v % 2 ^ w + 2 ^ w * (t / 2 ^ (lo + w)) := by
  rw [putFld_eq, Nat.add_mul_div_left _ _ (Nat.two_pow_pos lo), Nat.div_eq_of_lt (Nat.mod_lt _ (Nat.two_pow_pos lo)), Nat.zero_add]

/-- What a field leaves above it. -/
theorem putFld_div (t lo w v : Nat) : putFld t lo w v / 2 ^ (lo + w) = t / 2 ^ (lo + w) := by
  rw [pow_add, ← Nat.div_div_eq_div_mul, putFld_div_lo, Nat.add_mul_div_left _ _ (Nat.two_pow_pos w),
    Nat.div_eq_of_lt (Nat.mod_lt _ (Nat.two_pow_pos w)), Nat.zero_add, pow_add]

/-- The field that was set. -/
theorem fld_putFld (t lo w v : Nat) : fld (putFld t lo w v) lo w = v % 2 ^ w := by
  rw [fld, putFld_div_lo, Nat.add_mul_mod_self_left, Nat.mod_mod]

/-- A field below another is left by it. -/
theorem fld_putFld_below (t lo w v l u : Nat) (h : l + u ≤ lo) : fld (putFld t lo w v) l u = fld t l u := by
  rw [← fld_mod _ _ _ _ h, putFld_mod, fld_mod _ _ _ _ h]

/-- A field above another is left by it. -/
theorem fld_putFld_above (t lo w v l u : Nat) (h : lo + w ≤ l) : fld (putFld t lo w v) l u = fld t l u := by
  rw [fld_div _ _ _ _ h, putFld_div, ← fld_div _ _ _ _ h]

/-- A number stays below any power of two that its field stands below. -/
theorem putFld_lt {t lo w n : Nat} (v : Nat) (ht : t < 2 ^ n) (h : lo + w ≤ n) : putFld t lo w v < 2 ^ n := by
  have split : 2 ^ n = 2 ^ (n - (lo + w)) * 2 ^ (lo + w) := by rw [← pow_add, Nat.sub_add_cancel h]
  rw [split, ← Nat.div_lt_iff_lt_mul (Nat.two_pow_pos _)] at ht ⊢
  rwa [putFld_div]

/-- A level stands between the levels below it and those above it. -/
theorem lvlLo_pred {k : Nat} (tl : BitVec 96) (pos : 1 ≤ k) : lvlLo tl (k - 1) + lvlWidth tl k = lvlLo tl k := by
  obtain ⟨j, rfl⟩ := Nat.exists_eq_add_of_le' pos
  rfl

/-- Higher levels stand higher. -/
theorem lvlLo_mono (tl : BitVec 96) : Monotone (lvlLo tl) := monotone_nat_of_le_succ fun _ => Nat.le_add_right ..

/-- The bits of a tag with a level set, where the level fits the tag. -/
theorem setLvl_toNat {tl : BitVec 96} {k : Nat} (tag : W64) (v : Nat) (pos : 1 ≤ k) (fits : lvlLo tl k ≤ 64) :
    (setLvl tl tag k v).toNat = putFld tag.toNat (lvlLo tl (k - 1)) (lvlWidth tl k) v :=
  (BitVec.toNat_ofNat ..).trans (Nat.mod_eq_of_lt (putFld_lt v tag.isLt (by rwa [lvlLo_pred tl pos])))

/-- The level just set. -/
theorem lvl_setLvl_same {tl : BitVec 96} {k : Nat} (tag : W64) {v : Nat} (pos : 1 ≤ k) (fits : lvlLo tl k ≤ 64)
    (lt : v < 2 ^ lvlWidth tl k) : lvl tl (setLvl tl tag k v) k = v := by
  rw [lvl, setLvl_toNat tag v pos fits, fld_putFld, Nat.mod_eq_of_lt lt]

/-- Setting a level leaves every other. -/
theorem lvl_setLvl_ne {tl : BitVec 96} {k j : Nat} (tag : W64) (v : Nat) (pos : 1 ≤ k) (fits : lvlLo tl k ≤ 64) (hj : 1 ≤ j)
    (ne : j ≠ k) : lvl tl (setLvl tl tag k v) j = lvl tl tag j := by
  rw [lvl, setLvl_toNat tag v pos fits, lvl]
  rcases Nat.lt_or_gt_of_ne ne with below | above
  · exact fld_putFld_below _ _ _ _ _ _ (by rw [lvlLo_pred tl hj]; exact lvlLo_mono tl (Nat.le_sub_one_of_lt below))
  · exact fld_putFld_above _ _ _ _ _ _ (by rw [lvlLo_pred tl pos]; exact lvlLo_mono tl (Nat.le_sub_one_of_lt above))

/-- A tag cut to its lower levels keeps those, and reads 0 above them (R13). -/
theorem lvl_tagUpTo {tl : BitVec 96} {j : Nat} (tag : W64) (d : Nat) (hj : 1 ≤ j) :
    lvl tl (tagUpTo tl tag d) j = if j ≤ d then lvl tl tag j else 0 := by
  have bits : (tagUpTo tl tag d).toNat = tag.toNat % 2 ^ lvlLo tl d :=
    (BitVec.toNat_ofNat ..).trans (Nat.mod_eq_of_lt (Nat.lt_of_le_of_lt (Nat.mod_le ..) tag.isLt))
  rw [lvl, bits]
  split
  case isTrue le => exact fld_mod _ _ _ _ (by rw [lvlLo_pred tl hj]; exact lvlLo_mono tl le)
  case isFalse gt =>
    have low : tag.toNat % 2 ^ lvlLo tl d < 2 ^ lvlLo tl (j - 1) :=
      Nat.lt_of_lt_of_le (Nat.mod_lt _ (Nat.two_pow_pos _)) (Nat.pow_le_pow_right (by decide) (lvlLo_mono tl (by omega)))
    rw [fld, Nat.div_eq_of_lt low, Nat.zero_mod]

/-! Tag actions (R13, R56). -/

/-- A push is possible where a level is free and the value fits it. -/
theorem tagPush_eq (tl : BitVec 96) (tag : W64) (d v : Nat) : tagPush tl (tag, d) v =
    if d < nlev tl ∧ v < 2 ^ lvlWidth tl (d + 1) then some (setLvl tl tag (d + 1) v, d + 1) else none := by
  rw [tagPush, ← ite_not]; congr 1; simp
/-- A pop is possible where a level is in use. -/
theorem tagPop_eq (tl : BitVec 96) (tag : W64) (d : Nat) : tagPop tl (tag, d) =
    if 0 < d then some (setLvl tl tag d 0, d - 1) else none := by
  rw [tagPop, ← ite_not]; congr 1; simp [Nat.pos_iff_ne_zero]
/-- An increase is possible where a level is in use and the sum fits it. -/
theorem tagIncBy_eq (tl : BitVec 96) (tag : W64) (d v : Nat) : tagIncBy tl (tag, d) v =
    if 0 < d ∧ lvl tl tag d + v < 2 ^ lvlWidth tl d then some (setLvl tl tag d (lvl tl tag d + v), d) else none := by
  rw [tagIncBy, ← ite_not]; congr 1; simp [Nat.pos_iff_ne_zero]
/-- The current level can be set where one is in use and the value fits it. -/
theorem tagSetCur_eq (tl : BitVec 96) (tag : W64) (d v : Nat) : tagSetCur tl (tag, d) v =
    if 0 < d ∧ v < 2 ^ lvlWidth tl d then some (setLvl tl tag d v, d) else none := by
  rw [tagSetCur, ← ite_not]; congr 1; simp [Nat.pos_iff_ne_zero]
/-- A pop to a DEPTH is possible where that many levels are in use. -/
theorem tagAct_popto_eq (tl : BitVec 96) (tag : W64) (d v : Nat) : tagAct tl (.popto v) (tag, d) =
    if v ≤ d then some (tagUpTo tl tag v, v) else none := by
  rw [tagAct, ← ite_not]; congr 1; simp

/-- What is possible under a condition alone, and gives one result then. -/
theorem ite_some {α : Type} {p : Prop} [Decidable p] {o : Option α} {a : α} (h : o = if p then some a else none) :
    (o.isSome = true ↔ p) ∧ ∀ r, o = some r → p ∧ r = a := by
  subst h
  split
  case isTrue hp => exact ⟨by simp [hp], fun r hr => ⟨hp, (Option.some.inj hr).symm⟩⟩
  case isFalse hp => exact ⟨by simp [hp], fun r hr => nomatch hr⟩

/-- What each tag action gives is a tag with one level set, or cut to its lower levels. -/
theorem tagActionsChangeLevels : Claims.TagActionsChangeLevels := by
  intro tl tag d v fits deep _
  have set {k n : Nat} (hk : 1 ≤ k) (le : k ≤ nlev tl) (lt : n < 2 ^ lvlWidth tl k) : lvl tl (setLvl tl tag k n) k = n ∧
      ∀ j, 1 ≤ j → j ≤ nlev tl → j ≠ k → lvl tl (setLvl tl tag k n) j = lvl tl tag j :=
    ⟨lvl_setLvl_same tag hk ((lvlLo_mono tl le).trans fits) lt,
      fun j hj _ ne => lvl_setLvl_ne tag n hk ((lvlLo_mono tl le).trans fits) hj ne⟩
  obtain ⟨pushes, pushed⟩ := ite_some (tagPush_eq tl tag d v)
  obtain ⟨pops, popped⟩ := ite_some (tagPop_eq tl tag d)
  obtain ⟨incs, incremented⟩ := ite_some (tagIncBy_eq tl tag d v)
  obtain ⟨sets, setTo⟩ := ite_some (tagSetCur_eq tl tag d v)
  obtain ⟨cuts, cut⟩ := ite_some (tagAct_popto_eq tl tag d v)
  refine ⟨pushes, fun r hr => ?_, pops, fun r hr => ?_, incs, fun r hr => ?_, sets, fun r hr => ?_, cuts, fun r hr => ?_⟩
  · obtain ⟨⟨free, lt⟩, rfl⟩ := pushed r hr
    exact ⟨rfl, set (Nat.le_add_left ..) free lt⟩
  · obtain ⟨used, rfl⟩ := popped r hr
    exact ⟨rfl, set used deep (Nat.two_pow_pos _)⟩
  · obtain ⟨⟨used, lt⟩, rfl⟩ := incremented r hr
    exact ⟨rfl, set used deep lt⟩
  · obtain ⟨⟨used, lt⟩, rfl⟩ := setTo r hr
    exact ⟨rfl, set used deep lt⟩
  · obtain ⟨-, rfl⟩ := cut r hr
    exact ⟨rfl, fun k hk _ => lvl_tagUpTo tag v hk⟩

/-! Tag instructions (R108 to R111). -/

/-- An operation whose meaning is that of the firing under way, run by that firing. -/
theorem exec_firing {i : Instr} {s t : State} {f : Firing} {k : State → Firing → State} (arm : exec i s = s.firing k)
    (cur : s.cur = some f) (run : k { s with cur := none } f = t) : exec i s = .next t :=
  arm.trans ((firing_cur s f k cur).trans (congrArg _ run))

/-- A Z32 operand is the low word of its payload. -/
theorem w32_eq (t : Tok) : t.w32 = (t.data.extractLsb' 0 32).toNat := by simp [Tok.w32]

/-- An instruction that changes the tag of A by `r` sends A with the tag that `r` gives (R108 to R110). -/
theorem tagSends_of_retag {i : Instr} {h : Hdr} {r : State → Firing → Option (W64 × Nat)}
    (runs : ∀ s f, WellFormed i = true → s.cur = some f → exec i s = .next (State.retag { s with cur := none } f h (r s f))) :
    TagSends i h r := by
  refine sends_of_fire (fun s f => { fwdTok f h (f.first h.arity) (f.op 0) false with
      tag := ((r s f).getD f.tagOf).1, depth := ((r s f).getD f.tagOf).2 }) (fun _ f => usedBy f h)
    (fun s f w given cur => ?_) (fun s f _ => rfl) (fun s f _ given => ?_)
  · obtain ⟨q, hq⟩ := Option.isSome_iff_exists.mp given
    rw [runs s f w cur, hq]
    rfl
  · obtain ⟨q, hq⟩ := Option.isSome_iff_exists.mp given
    exact ⟨q, hq, by rw [hq]; rfl⟩

/-- An instruction that sends one token on both targets, all its operands consumed, in one cycle with no flag. -/
theorem laneSends_of_fire {i : Instr} {h : Hdr} {P : State → Firing → Tok → Prop} (k : State → Firing → Tok)
    (runs : ∀ s f, s.cur = some f → exec i s = .next (State.fire { s with cur := none } f
      { sends := both h (k s f), ports := portsOf h, used := usedBy f h }))
    (tagged : ∀ s f, ((k s f).tag, (k s f).depth) = f.tagOf) (holds : ∀ s f, P s f (k s f)) : LaneSends i h oneCycle noFlags P :=
  sends_of_fire k (fun _ f => usedBy f h) (fun s f _ _ cur => runs s f cur) (fun s f _ => tagged s f) (fun s f _ _ => holds s f)

/-- What TAGGET reads (R111): the type and the value of its result. -/
def tagRead (tl : BitVec 96) (f : Firing) (sel : TagSel) (level : Nat) : Ty × Nat :=
  match sel with
  | .tagv => (.tag, f.ent.tag.toNat)
  | .lvl => (.z32, if levelOf f level = 0 || levelOf f level > f.ent.depth then 0 else lvl tl f.ent.tag (levelOf f level))
  | .dep => (.z32, f.ent.depth)

/-- A level that is set is one in use, and the value fits it (R110). -/
theorem ite_level {α : Type} (k d v n : Nat) (x : α) :
    (if k = 0 || k > d || v ≥ n then none else some x) = if 1 ≤ k ∧ k ≤ d ∧ v < n then some x else none := by
  rw [← ite_not]
  congr 1
  simp only [Bool.or_eq_true, decide_eq_true_eq]
  exact propext (by omega)

/-- A level that is read is one in use (R111). -/
theorem ite_level_read {α : Type} (k d : Nat) (x y : α) :
    (if k = 0 || k > d then y else x) = if 1 ≤ k ∧ k ≤ d then x else y := by
  rw [← ite_not]
  congr 1
  simp only [Bool.or_eq_true, decide_eq_true_eq]
  exact propext (by omega)

/-- The tag instructions change the tag of A as their rules say, and TAGGET reads it. -/
theorem tagInstructionsSend : Claims.TagInstructionsSend := by
  intro h l sel level tl
  refine ⟨?_, ?_, ?_, ?_, ?_⟩
  · refine tagSends_of_retag fun s f w cur => exec_firing (show exec (.tagpush h l) s = execTagpush h l s from rfl) cur ?_
    have ports : h.arity ∈ [1, 2] := (wf_row (opc := 0x040) rfl (hdr_of_litWf w)).2
    have operand : tagOperand f h l = if h.arity = 2 then ((f.op 1).data.extractLsb' 0 32).toNat else l.lo.toNat := by
      rw [tagOperand, w32_eq]
      congr 1
      have : h.arity = 1 ∨ h.arity = 2 := by simpa using ports
      exact propext (by omega)
    rw [operand]
    rfl
  · exact tagSends_of_retag fun s f _ cur => exec_firing (show exec (.tagpop h) s = execTagpop h s from rfl) cur rfl
  · exact tagSends_of_retag fun s f _ cur => exec_firing (show exec (.taginc h) s = execTaginc h s from rfl) cur rfl
  · refine tagSends_of_retag fun s f _ cur => exec_firing (show exec (.tagset h level) s = execTagset h level s from rfl) cur ?_
    rw [← w32_eq]
    exact congrArg (State.retag _ f h) (ite_level ..)
  · refine laneSends_of_fire
      (fun s f => newScalar f h (tagRead (tl s f) f sel level).1 (BitVec.ofNat 512 (tagRead (tl s f) f sel level).2))
      (fun s f cur => exec_firing (show exec (.tagget h sel level) s = execTagget h sel level s from rfl) cur ?_)
      (fun s f => ?_) (fun s f => ?_)
    · cases sel <;> rfl
    · exact Prod.ext (newTok_tag ..) (newTok_depth ..)
    · cases sel with
      | tagv => exact congrArg _ (BitVec.ofNat_toNat ..)
      | lvl =>
        dsimp only [tagRead]
        rw [apply_ite (BitVec.ofNat 512), ← ite_level_read]
        rfl
      | dep => rfl

/-! LCARRY and MARK (R199, R202). -/


/-- A received token sent on (R102) by a firing of no STREAM_END alone. -/
theorem flowSends_of_fire {i : Instr} {h : Hdr} {ts : Firing → List Target} {req : Bool} {port : State → Firing → Nat}
    {more : List Nat} {ok : State → Firing → Prop}
    (runs : ∀ s f, WellFormed i = true → ok s f → s.cur = some f → exec i s = .next (State.fire { s with cur := none } f
      (forwardOut f h (port s f :: more) (f.op (port s f)) req (ts f)))) : FlowSends i h ts req port more ok :=
  sends_of_fire (fun s f => sentOn f h (port s f :: more) (f.op (port s f)) req) (fun s f => (port s f :: more).map f.op)
    runs (fun _ _ _ => Prod.ext (fwdTok_tag ..) (fwdTok_depth ..)) (fun _ _ _ _ => rfl)

/-- The port whose token arrived first is the one that the model finds (R103). -/
theorem firstPort_eq {s : State} {f : Firing} {p : Nat} (hp : p < 2) (first : arrivedFirst p s f) : s.firstPort f = p := by
  obtain ⟨-, order⟩ := first
  unfold arrivedAt at order
  unfold State.firstPort
  obtain rfl | rfl : p = 0 ∨ p = 1 := by omega
  · cases h0 : s.arrival f 0 <;> cases h1 : s.arrival f 1 <;> simp_all
    omega
  · cases h0 : s.arrival f 0 <;> cases h1 : s.arrival f 1 <;> simp_all

/-- The two checks of LCARRY as one: a level in use, and the port of the level's iteration (R199). -/
theorem ite_carry {α : Type} (k d p v : Nat) (x y : α) :
    (if k = 0 || k > d then y else if (p = 0) != (v = 0) then y else x) = if (1 ≤ k ∧ k ≤ d) ∧ (p = 0 ↔ v = 0) then x else y := by
  have order : (decide (p = 0) != decide (v = 0)) = true ↔ ¬ (p = 0 ↔ v = 0) := by rw [bne_iff_ne, ne_eq, decide_eq_decide]
  simp only [ite_level_read, order, ite_not, ite_and]

/-- Where no STREAM_END fires it alone, LCARRY passes the port whose token arrived first if its level is in use, and is at iteration 0
exactly where that is port 0; any other firing is refused, its token kept (R199). -/
theorem execLcarry_eq {h : Hdr} {level : Nat} {s : State} {f : Firing} (cur : s.cur = some f) (alone : f.ent.alone = none) :
    exec (.lcarry h level) s = .next (
      if (1 ≤ levelOf f level ∧ levelOf f level ≤ f.ent.depth) ∧
          (s.firstPort f = 0 ↔ lvl (s.ctx f.ent.ctx).tl f.ent.tag (levelOf f level) = 0) then
        State.fire { s with cur := none } f (forwardOut f h [s.firstPort f] (f.op (s.firstPort f)) false [h.t0, h.t1])
      else State.refuse { s with cur := none } f .loopOrder 0 0) := by
  refine exec_firing (show exec (.lcarry h level) s = execLcarry h level s from rfl) cur ?_
  have not_alone : f.ent.alone.isSome = false := by rw [alone]; rfl
  rw [if_neg (by simp [not_alone])]
  exact ite_carry ..

/-- The marker that MARK makes, field by field (R202). -/
theorem markTok_eq (tl : BitVec 96) (f : Firing) (h : Hdr) (k : Nat) : markTok tl f h k =
    { ctx := f.ent.ctx, depth := k - 1, tag := tagUpTo tl f.ent.tag (k - 1), ma := outMa h, pri := outPri f h,
      side := BitVec.ofNat 32 k, flags := 2 } := by
  simp [markTok, Tok.setFlag, Flag.bit]

/-- LCARRY by the port whose token arrived first (`execLcarry_eq`), and MARK, whose A can be sent where the tag actions apply to the
firing's tag. -/
theorem loopCarryAndMark : Claims.LoopCarryAndMark := by
  intro h level pass at_ inRange
  refine ⟨?_, ?_, fun s f cur alone wrong => ?_, ?_⟩
  · refine flowSends_of_fire fun s f _ ⟨first, used, zero⟩ cur => ?_
    rw [execLcarry_eq cur first.1, firstPort_eq (by decide) first, if_pos ⟨used, iff_of_true rfl zero⟩]
  · refine flowSends_of_fire fun s f _ ⟨first, used, nonzero⟩ cur => ?_
    rw [execLcarry_eq cur first.1, firstPort_eq (by decide) first, if_pos ⟨used, iff_of_false (by decide) nonzero⟩]
  · rw [execLcarry_eq cur alone]
    refine congrArg _ (if_neg fun ⟨used, order⟩ => ?_)
    obtain unused | ⟨first, nonzero⟩ | ⟨first, zero⟩ := wrong
    · exact unused used
    · exact nonzero (order.mp (firstPort_eq (by decide) first))
    · exact absurd (order.mpr zero) (by rw [firstPort_eq (by decide) first]; decide)
  · refine issues_of_fire (fun _ f => usedBy f h) fun s f ⟨used, apply⟩ cur =>
      exec_firing (show exec (.mark h level pass) s = execMark h level pass s from rfl) cur ?_
    have range : (levelOf f level = 0 || levelOf f level > f.ent.depth) = false := by
      simp only [Bool.or_eq_false_iff, decide_eq_false_iff_not]; omega
    have sent : (sendList (s.ctx f.ent.ctx).tl f.x [.tok h.t0 (fwdTok f h (usedBy f h) (f.op 0) false),
        .tok h.t1 (fwdTok f h (usedBy f h) (f.op 0) false)]).isNone = false := by
      obtain ⟨sent, -⟩ := sendList_targets (s.ctx f.ent.ctx).tl f.x [h.t0, h.t1] (fwdTok f h (usedBy f h) (f.op 0) false)
        (by rw [fwdTok_tag, fwdTok_depth]; exact apply)
      simp only [List.map_cons, List.map_nil] at sent
      rw [sent]; rfl
    refine (if_neg (ne_true_of_eq_false range)).trans ((if_neg (ne_true_of_eq_false sent)).trans ?_)
    simp only [← markTok_eq]
    cases pass <;> rfl

/-- Settles O35: the tag instructions by the change of tag of each (`tagInstructionsSend`), LCARRY and MARK (`loopCarryAndMark`), and
what setting a level does to the others (`tagActionsChangeLevels`). -/
theorem tagInstructions : Obligations.TagInstructions := ⟨tagInstructionsSend, loopCarryAndMark, tagActionsChangeLevels⟩

end Sys2Proof.Machine
end

section
/-! Proofs of the statement on EXIT and the flow instructions (R100 to R107, R112, R371; O36). -/
namespace Sys2Proof.Machine

/-! Flow instructions for data tokens (R101 to R106, R112). -/

/-- Bit 0 of a control operand. -/
theorem bit0_eq (t : Tok) : t.data.getLsbD 0 = decide (t.w64 % 2 = 1) := by
  rw [Tok.w64, Nat.mod_mod_of_dvd _ ⟨2 ^ 63, by norm_num⟩, BitVec.getLsbD, Nat.testBit_zero]

/-- A firing of no STREAM_END alone takes the second way of a stream-aware node. -/
theorem ite_not_alone {α : Type} {f : Firing} (alone : f.ent.alone = none) (x y : α) : (if f.ent.alone.isSome then x else y) = y :=
  if_neg (by rw [alone]; decide)

/-- Each flow instruction sends the token that its rule names, and takes no other port. -/
theorem flowInstructionsSend : Claims.FlowInstructionsSend := by
  intro h l t2 t3 both_
  refine ⟨?_, ?_, ?_, ?_, fun one => ?_, fun none_ => ?_, ?_, ?_, ?_⟩
  · refine flowSends_of_fire fun s f _ alone cur =>
      exec_firing (show exec (.steer h) s = execSteer h s from rfl) cur ((ite_not_alone alone _ _).trans ?_)
    simp only [bit0_eq, decide_eq_true_eq]
  · refine flowSends_of_fire fun s f _ first cur =>
      exec_firing (show exec (.merge h) s = execMerge h s from rfl) cur ((ite_not_alone first.1 _ _).trans ?_)
    rw [show State.firstPort { s with cur := none } f = 0 from firstPort_eq (by decide) first]
  · refine flowSends_of_fire fun s f _ first cur =>
      exec_firing (show exec (.merge h) s = execMerge h s from rfl) cur ((ite_not_alone first.1 _ _).trans ?_)
    rw [show State.firstPort { s with cur := none } f = 1 from firstPort_eq (by decide) first]
  · refine flowSends_of_fire fun s f _ alone cur =>
      exec_firing (show exec (.mergeOrd h) s = execMergeOrd h s from rfl) cur ((ite_not_alone alone _ _).trans ?_)
    have sel : (f.op 2).w64 % 2 = if (f.op 2).data.getLsbD 0 then 1 else 0 := by
      rw [bit0_eq]; rcases Nat.mod_two_eq_zero_or_one (f.op 2).w64 with e | e <;> simp [e]
    rw [sel]
  · exact flowSends_of_fire fun s f _ alone cur => exec_firing (show exec (.mov h l) s = execMov h l s from rfl) cur
      ((ite_not_alone alone _ _).trans (if_neg (by omega)))
  · refine sends_of_fire (fun s f => newTok f h [] none h.fmt false (scalarData h.fmt h.fmt.width (litVal h.fmt l))) (fun _ _ => [])
      (fun s f _ alone cur => exec_firing (show exec (.mov h l) s = execMov h l s from rfl) cur
        ((ite_not_alone alone _ _).trans (if_pos none_)))
      (fun s f _ => Prod.ext (newTok_tag ..) (newTok_depth ..)) (fun s f _ _ => ⟨_, rfl, ?_⟩)
    have value : BitVec.ofNat h.fmt.width (litVal h.fmt l) = (litBits h.fmt l).setWidth _ :=
      BitVec.eq_of_toNat_eq ((BitVec.toNat_ofNat ..).trans (litVal_bits h.fmt l _ (width_le h.fmt)))
    rw [scalarData_bits _ _ (width_le h.fmt) (width_pos h.fmt), value]
    rfl
  · exact flowSends_of_fire fun s f _ alone cur => exec_firing (show exec (.mov4 h t2 t3) s = execMov4 h t2 t3 s from rfl) cur
      (ite_not_alone alone _ _)
  · exact laneSends_of_fire _ (fun s f cur => exec_firing (show exec (.null h) s = execNull h s from rfl) cur rfl)
      (fun s f => Prod.ext (newTok_tag ..) (newTok_depth ..)) (fun s f => rfl)
  · exact laneSends_of_fire _ (fun s f cur => exec_firing (show exec (.purge h) s = execPurge h s from rfl) cur rfl)
      (fun s f => Prod.ext (newTok_tag ..) (newTok_depth ..)) (fun s f => rfl)

/-! A STREAM_END that fires a stream-aware node alone (R107). -/

/-- An instruction that a STREAM_END fires alone sends it on every target. -/
theorem issues_streamOut {i : Instr} {h : Hdr} (ts : List Target)
    (runs : ∀ s f, f.ent.alone.isSome = true → s.cur = some f →
      exec i s = .next (State.fire { s with cur := none } f (streamOut f h ts))) :
    Issues i (fun _ f => ts.map (fun g => .marker g (fwdTok f h [f.ent.alone.getD {}] (f.ent.alone.getD {}) false))) (fun _ _ => [])
      (fun _ f => f.ent.alone.isSome = true) :=
  issues_of_fire (fun _ f => [f.ent.alone.getD {}]) runs

/-- Each stream-aware node begins with this way, and a marker's level follows the change of DEPTH. -/
theorem streamEndsPassFlowNodes : Claims.StreamEndsPassFlowNodes := by
  intro h l t2 t3 level sends ok none_
  refine ⟨?_, ?_, ?_, ?_, ?_, ?_, fun tl x g t => ⟨fun zero => if_pos zero, fun nonzero => if_neg nonzero⟩⟩
  · exact issues_streamOut _ fun s f alone cur => exec_firing (show exec (.mov h l) s = execMov h l s from rfl) cur (if_pos alone)
  · exact issues_streamOut _ fun s f alone cur =>
      exec_firing (show exec (.mov4 h t2 t3) s = execMov4 h t2 t3 s from rfl) cur (if_pos alone)
  · exact issues_streamOut _ fun s f alone cur => exec_firing (show exec (.steer h) s = execSteer h s from rfl) cur (if_pos alone)
  · exact issues_streamOut _ fun s f alone cur => exec_firing (show exec (.merge h) s = execMerge h s from rfl) cur (if_pos alone)
  · exact issues_streamOut _ fun s f alone cur => exec_firing (show exec (.mergeOrd h) s = execMergeOrd h s from rfl) cur (if_pos alone)
  · exact issues_streamOut _ fun s f alone cur =>
      exec_firing (show exec (.lcarry h level) s = execLcarry h level s from rfl) cur (if_pos alone)

/-! EXIT (R100): its poison counts, its exit counts, and its directory entry may retire. -/

/-- What a firing keeps of its own cell: its blocks. -/
theorem Kept.blks {s t : State} {f : Firing} (h : Kept s t f) : (t.cell f.x).blks = (s.cell f.x).blks := (congrArg Cell.blks h.cell :)
/-- What a firing keeps of its own cell: its counters. -/
theorem Kept.ctr {s t : State} {f : Firing} (h : Kept s t f) : (t.cell f.x).ctr = (s.cell f.x).ctr := (congrArg Cell.ctr h.cell :)

/-- Poison that a sink consumes counts in PSNDROP, and changes nothing else (R100). -/
theorem cell_psnDrop (s : State) (x : Site) (l : List Tok) : (s.psnDrop x l).cell x = { s.cell x with ctr := { (s.cell x).ctr with
    psndrop := if poisoned l = 0 then (s.cell x).ctr.psndrop else satAdd 48 (s.cell x).ctr.psndrop (poisoned l) } } := by
  unfold State.psnDrop poisoned
  dsimp only
  split
  · rfl
  · exact cell_modCell_same ..

/-- Poison that a sink consumes is counted at its cell, and nowhere else. -/
theorem psnDrop_spec (s : State) (x : Site) (l : List Tok) : (s.psnDrop x l).cycle = s.cycle ∧ (s.psnDrop x l).cur = s.cur ∧
    (s.psnDrop x l).ctxs = s.ctxs ∧ (s.psnDrop x l).dies = s.dies := by
  unfold State.psnDrop
  dsimp only
  split <;> exact ⟨rfl, rfl, rfl, rfl⟩

/-- Among tokens of which none is poisoned, none counts. -/
theorem psnDrop_nil (s : State) (x : Site) : s.psnDrop x [] = s := rfl

/-- A node looked at again after its issue leaves all but the ready queue and READY bits. -/
theorem Marks.again (s : State) (f : Firing) : Marks f.x s (s.again f) := by
  unfold State.again
  split
  · dsimp only
    split
    · exact Marks.setReady ..
    · exact Marks.refl ..
  · exact Marks.refl ..

/-- A watchdog that starts anew leaves every cell. -/
theorem cell_progress (s : State) (c : Nat) (y : Site) : (s.progress c).cell y = s.cell y := by
  unfold State.progress; split <;> rfl

/-- Flags that enter AFLAGS leave every cell. -/
theorem cell_raise (s : State) (c fl : Nat) (y : Site) : (s.raise c fl).cell y = s.cell y := by
  unfold State.raise; split <;> rfl

/-- An entry is there once a node is looked at again, but for its READY bits. -/
theorem again_ent {s : State} {f : Firing} {u : Nat} {e : DirEnt} (he : (s.cell f.x).ent u = some e) :
    ∃ r, ((s.again f).cell f.x).ent u = some { e with ready := r } := by
  obtain ⟨d, hd, same⟩ := (Marks.again s f).ent he
  refine ⟨d.ready, hd.trans (congrArg some ?_)⟩
  have := congrArg (fun c : DirEnt => { c with ready := d.ready }) same
  exact this

/-- The directory entry of a firing is there once it has issued, but for its READY bits. -/
theorem issued_ent {s : State} {f : Firing} {o : Out} (toks : List Tok) {u : Nat} {e : DirEnt}
    (he : ((s.consume f o.ports).cell f.x).ent u = some e) :
    ∃ r, ((s.issued f o toks).cell f.x).ent u = some { e with ready := r } := by
  have traced (s1 : State) : (if f.taken then s1 else s1.traceFire f (s.opcOf f) o.used toks).cell f.x = s1.cell f.x := by
    rcases traced_spec s1 f (s.opcOf f) o.used toks with h | ⟨l, h⟩
    · rw [h]
    · rw [h]; rfl
  unfold State.issued
  dsimp only
  rw [cell_progress]
  refine again_ent ?_
  rw [cell_modCell_same, traced, cell_raise]
  exact he

/-- An entry that is freed is there no more. -/
theorem freeEnt_ent (c : Cell) (u : Nat) : (c.freeEnt u).ent u = none := by
  unfold Cell.freeEnt
  split
  · assumption
  · exact List.find?_eq_none.mpr fun d hd => by simpa using (List.mem_filter.mp hd).2

/-- What is left to leave for a directory entry depends on what is on its way at its cell and on the mesh. -/
theorem exitsLeft_congr {s t : State} {x : Site} (deps : (t.cell x).pipe.deps = (s.cell x).pipe.deps)
    (ans : (t.cell x).pipe.ans = (s.cell x).pipe.ans) (net : (t.die x.die).net = (s.die x.die).net) (u : Nat) :
    t.exitsLeft x u = s.exitsLeft x u := by
  simp only [State.exitsLeft, State.answersTo, deps, ans, net]

/-- A live entry retires exactly where its exits are made, its stores have performed and nothing of it is left to leave (R23, R100). -/
theorem tryRetire_live {s : State} {x : Site} {u : Nat} {e : DirEnt} {b : Blk} (he : (s.cell x).ent u = some e) (live : e.bind = false)
    (lives : e.dying = false) (hb : (s.cell x).blkAt e.ctx e.blk = some b) :
    s.tryRetire x u = if e.xfired = b.exits ∧ b.stores &&& ~~~e.sdone = 0 ∧ s.exitsLeft x u = false then
      (s.modCell x (fun c => c.freeEnt u)).forget x u else s := by
  unfold State.tryRetire
  simp [he, live, lives, hb, and_assoc]

/-- One exit of a live entry counts there. -/
theorem countExit_ent {s : State} {x : Site} {u : Nat} {e : DirEnt} (he : (s.cell x).ent u = some e) (lives : e.dying = false) :
    ((s.countExit x (some u)).cell x).ent u = some { e with xfired := e.xfired + 1 } := by
  unfold State.countExit
  rw [cell_modCell_same, Cell.ent, Cell.modEnt, find?_lmap _ _ (fun d hd => by split <;> exact hd)]
  exact (congrArg _ he).trans (by simp [lives])

/-- EXIT at a site that is compared by no comparator, where nothing refuses it (R100). -/
theorem execExit_eq {h : Hdr} {s : State} {f : Firing} (clear : Clear s f [] f.tagOf 0 1) (alone : s.dualSite f.x f.ent.ctx = false) :
    exec (.exit h) s = .next ((((State.issued { s with cur := none } f
      { sends := [], ports := portsOf h, used := usedBy f h, exits := 1 } []).psnDrop f.x (usedBy f h)).countExit f.x f.ent.uid).retire
        f.x f.ent.uid) := by
  refine exec_firing (show exec (.exit h) s = execExit h s from rfl) clear.cur ?_
  exact (if_neg (ne_true_of_eq_false alone)).trans (issue_clear _ _ _ _ _ clear.trap rfl clear.exits)

/-- An exit that counts changes only the directory of its cell. -/
theorem countExit_spec (s : State) (x : Site) (uid : Option Nat) : ((s.countExit x uid).cell x).pipe = (s.cell x).pipe ∧
    ((s.countExit x uid).cell x).blks = (s.cell x).blks ∧ ((s.countExit x uid).cell x).ctr = (s.cell x).ctr ∧
    (s.countExit x uid).ctxs = s.ctxs ∧ (s.countExit x uid).dies = s.dies := by
  unfold State.countExit
  split
  · exact ⟨rfl, rfl, rfl, rfl, rfl⟩
  · rw [cell_modCell_same]; exact ⟨rfl, rfl, rfl, rfl, rfl⟩

/-- What the retirement of a directory entry leaves of its cell and of its context. -/
theorem freed_spec (s : State) (x : Site) (u : Nat) : (((s.modCell x (fun c => c.freeEnt u)).forget x u).cell x).ent u = none ∧
    (((s.modCell x (fun c => c.freeEnt u)).forget x u).cell x).pipe = (s.cell x).pipe ∧
    (((s.modCell x (fun c => c.freeEnt u)).forget x u).cell x).ctr = (s.cell x).ctr ∧
    ((s.modCell x (fun c => c.freeEnt u)).forget x u).ctxs = s.ctxs := by
  obtain ⟨-, -, -, ctr⟩ := freeEnt_sublist (s.cell x) u
  obtain ⟨-, pipe, -⟩ := freeEnt_rest (s.cell x) u
  rw [cell_forget, cell_modCell_same]
  refine ⟨freeEnt_ent _ u, pipe, ctr, ?_⟩
  unfold State.forget
  split
  · rfl
  · split <;> rfl

/-- A firing whose exit has counted, between `s`, in which it issues, and `c` (R100): `e` is its directory entry once its operands
are consumed. -/
structure Exited (s c : State) (f : Firing) (used : List Tok) (u : Nat) (e : DirEnt) : Prop where
  ent : ∃ r, (c.cell f.x).ent u = some { e with xfired := e.xfired + 1, ready := r }
  psndrop : (c.cell f.x).ctr.psndrop = if poisoned used = 0 then (s.cell f.x).ctr.psndrop
    else satAdd 48 (s.cell f.x).ctr.psndrop (poisoned used)
  deps : (c.cell f.x).pipe.deps = (s.cell f.x).pipe.deps
  ans : (c.cell f.x).pipe.ans = (s.cell f.x).pipe.ans
  blks : (c.cell f.x).blks = (s.cell f.x).blks
  aflags : (c.ctx f.ent.ctx).aflags = (s.ctx f.ent.ctx).aflags
  net : (c.die f.x.die).net = (s.die f.x.die).net

/-- An exit counts at its entry and its poison in PSNDROP, and no token is on its way for it. -/
theorem exited_of_issued {s : State} {f : Firing} {o : Out} {u : Nat} {e : DirEnt} (toks : List Tok) (flags : o.flags = 0)
    (he : ((s.consume f o.ports).cell f.x).ent u = some e) (lives : e.dying = false) :
    Exited s (((s.issued f o toks).psnDrop f.x o.used).countExit f.x (some u)) f o.used u e := by
  have issued := issued_spec s f o toks
  obtain ⟨r, ent⟩ := issued_ent toks he
  generalize s.issued f o toks = a at *
  obtain ⟨b, pipe, -⟩ := issued.pipe
  obtain ⟨l, die⟩ := issued.kept.dies f.x.die
  have blks : (a.cell f.x).blks = (s.cell f.x).blks := issued.kept.blks
  have ctr : (a.cell f.x).ctr = (s.cell f.x).ctr := issued.kept.ctr
  have counted := cell_psnDrop a f.x o.used
  obtain ⟨-, -, ctxsP, diesP⟩ := psnDrop_spec a f.x o.used
  generalize a.psnDrop f.x o.used = p at *
  obtain ⟨pipeC, blksC, ctrC, ctxsC, diesC⟩ := countExit_spec p f.x (some u)
  exact
    { ent := ⟨r, countExit_ent (e := { e with ready := r }) (by rw [counted]; exact ent) lives⟩
      psndrop := by rw [ctrC, counted, ctr]
      deps := by rw [pipeC, counted, pipe]
      ans := by rw [pipeC, counted, pipe]
      blks := by rw [blksC, counted, blks]
      aflags := by
        rw [State.ctx, ctxsC, ctxsP]
        exact issued.aflags.trans (by rw [flags]; exact BitVec.or_zero)
      net := by
        rw [State.die, diesC, diesP]
        exact (congrArg Die.net die :) }

/-- EXIT by its steps: its exit and its poison count (`exited_of_issued`), and its entry retires if it can (`tryRetire_live`). -/
theorem exitCountsAndRetires : Claims.ExitCountsAndRetires := by
  intro h s f u e b _ clear alone uid he live lives hb
  have exited := exited_of_issued (s := { s with cur := none }) (f := f) (u := u) (e := e)
    (o := { sends := [], ports := portsOf h, used := usedBy f h, exits := 1 }) [] rfl
    (by rw [cell_consume_cur]; exact he) lives
  refine ⟨_, execExit_eq clear alone, ?_⟩
  rw [uid]
  generalize State.countExit _ f.x (some u) = c at *
  obtain ⟨r, ent⟩ := exited.ent
  have left : c.exitsLeft f.x u = s.exitsLeft f.x u := exitsLeft_congr exited.deps exited.ans exited.net u
  have block : (c.cell f.x).blkAt e.ctx e.blk = some b := by rw [Cell.blkAt, exited.blks]; exact hb
  rw [show c.retire f.x (some u) = c.tryRetire f.x u from rfl, tryRetire_live ent live lives block, left]
  split
  case isTrue done =>
    obtain ⟨gone, pipe, ctr, ctxs⟩ := freed_spec c f.x u
    exact ⟨by rw [ctr]; exact exited.psndrop, by rw [pipe]; exact exited.deps, by rw [State.ctx, ctxs]; exact exited.aflags,
      fun _ => gone, fun stays => absurd done stays⟩
  case isFalse stays => exact ⟨exited.psndrop, exited.deps, exited.aflags, fun done => absurd done stays, fun _ => ⟨r, ent⟩⟩

/-! EXIT at a site that is compared (R371). -/

/-- A firing that has issued and then counted poison sends its tokens as any other. -/
theorem emits_psnDrop_depart {s : State} {f : Firing} {o : Out} (toks dropped : List Tok) (cur : s.cur = none) :
    Emits s (((s.issued f o toks).psnDrop f.x dropped).depart f o.n toks) f o.n o.flags o.ports toks := by
  have issued := issued_spec s f o toks
  generalize s.issued f o toks = a at *
  have counted := cell_psnDrop a f.x dropped
  obtain ⟨cycleP, curP, ctxsP, -⟩ := psnDrop_spec a f.x dropped
  generalize a.psnDrop f.x dropped = p at *
  obtain ⟨b, pipe, busy⟩ := issued.pipe
  have pipeP : (p.cell f.x).pipe = { (s.cell f.x).pipe with issue := b } := by rw [counted, pipe]
  have spat : (p.cell f.x).spat = (s.cell f.x).spat.taken (stageOf (s.opcOf f)) (s.cycle + o.n) := by rw [counted]; exact issued.spat
  have inward : (p.cell f.x).inward f.x = (s.cell f.x).inward f.x := by
    funext t
    have blks : (p.cell f.x).blks = (s.cell f.x).blks := by rw [counted]; exact issued.kept.blks
    simp only [Cell.inward, Cell.blkOf, spat, blks, SpatSt.taken_on]
  obtain ⟨-, curD, aflagsD, slotsD, busyD, spatD, due, dueLe, dueEq, depsD⟩ := depart_spec p f o.n toks
  rw [inward] at spatD depsD
  rw [cycleP, issued.kept.time.1] at dueLe dueEq
  rw [pipeP] at busyD dueEq depsD
  exact
    { deps := ⟨due, dueLe, dueEq, depsD⟩
      inner := by rw [spatD, spat, SpatSt.taken_inner]
      slots := slotsD.trans (by rw [counted]; exact issued.slots)
      stages := by rw [spatD, spat, SpatSt.taken_busy]
      aflags := aflagsD.trans (by rw [State.ctx, ctxsP]; exact issued.aflags)
      busy := Nat.le_trans busy busyD
      done := by rw [curD, curP, issued.cur, cur] }

/-- A departure leaves the counters of its cell. -/
theorem depart_ctr (s : State) (f : Firing) (n : Nat) (toks : List Tok) :
    ((s.depart f n toks).cell f.x).ctr = (s.cell f.x).ctr := (depart_spec s f n toks).1.ctr

/-- EXIT at a site that is compared, where nothing refuses it (R371). -/
theorem execExit_compared {h : Hdr} {s : State} {f : Firing} (dual : s.dualSite f.x f.ent.ctx = true)
    (clear : Clear s f [.special .none .exit] f.tagOf 0 0) :
    exec (.exit h) s = .next (((State.issued { s with cur := none } f
      { sends := [.tok (.special .none .exit) (newScalar f h .s4 0)], ports := portsOf h, used := usedBy f h }
      (onTargets (s.ctx f.ent.ctx).tl f.x [.special .none .exit] (newScalar f h .s4 0))).psnDrop f.x
        (((usedBy f h).filter (fun t => t.flag .poison)).drop 1)).depart f 1
      (onTargets (s.ctx f.ent.ctx).tl f.x [.special .none .exit] (newScalar f h .s4 0))) := by
  refine exec_firing (show exec (.exit h) s = execExit h s from rfl) clear.cur ((if_pos dual).trans ?_)
  obtain ⟨sent, exits⟩ := sendList_targets (s.ctx f.ent.ctx).tl f.x [.special .none .exit] (newScalar f h .s4 0)
    (by rw [newScalar, newTok_tag, newTok_depth]; exact clear.tags)
  exact issue_clear _ _ _ _ _ clear.trap sent (by rw [exits]; exact clear.exits)

/-- Poisoned tokens but for one. -/
theorem poisoned_drop (l : List Tok) : poisoned ((l.filter (fun t => t.flag .poison)).drop 1) = poisoned l - 1 := by
  have all : ((l.filter (fun t => t.flag .poison)).drop 1).filter (fun t => t.flag .poison) = (l.filter (fun t => t.flag .poison)).drop 1 :=
    List.filter_eq_self.mpr fun t ht => (List.mem_filter.mp (List.mem_of_mem_drop ht)).2
  rw [poisoned, all, List.length_drop, poisoned]

/-- EXIT at a site that is compared sends one token, and counts the further poison at once (`emits_psnDrop_depart`). -/
theorem exitOfComparedSite : Claims.ExitOfComparedSite := by
  intro h
  refine ⟨sends_of_fire (fun _ f => newScalar f h .s4 0) (fun _ f => usedBy f h) (fun s f _ ok cur => ?_)
    (fun _ _ _ => Prod.ext (newTok_tag ..) (newTok_depth ..)) (fun _ _ _ _ => rfl), fun s f _ dual clear => ?_⟩
  · refine exec_firing (show exec (.exit h) s = execExit h s from rfl) cur ((if_pos ok.1).trans ?_)
    have none_ : ((usedBy f h).filter (fun t => t.flag .poison)).drop 1 = [] := List.drop_eq_nil_of_le ok.2
    rw [none_]
    rfl
  · refine ⟨_, execExit_compared dual clear, ?_, ?_⟩
    · have emits := emits_psnDrop_depart (s := { s with cur := none }) (f := f)
        (o := { sends := [.tok (.special .none .exit) (newScalar f h .s4 0)], ports := portsOf h, used := usedBy f h })
        (onTargets (s.ctx f.ent.ctx).tl f.x [.special .none .exit] (newScalar f h .s4 0))
        (((usedBy f h).filter (fun t => t.flag .poison)).drop 1) rfl
      exact emits.of_cur
    · rw [depart_ctr, cell_psnDrop, (issued_spec ..).kept.ctr, poisoned_drop]
      show (if _ then _ else _) = _
      congr 1
      exact propext Nat.sub_eq_zero_iff_le

/-- Settles O36: data tokens (`flowInstructionsSend`), a STREAM_END (`streamEndsPassFlowNodes`), and EXIT at a site of its own
(`exitCountsAndRetires`) and at one that is compared (`exitOfComparedSite`). -/
theorem flowAndExit : Obligations.FlowAndExit :=
  ⟨flowInstructionsSend, streamEndsPassFlowNodes, exitCountsAndRetires, exitOfComparedSite⟩

end Sys2Proof.Machine
end

section
/-! What leaves the accesses of the memory system as they were (R256): no law of the frames above says so, since those allow any change of
the memory system. -/
namespace Sys2Proof.Machine

/-! What the device does at once at the homes of bytes (R232 to R254), what it records of a fault (R361 to R365) and what it traces (R345)
change lines, TLBs, waits and copies, and no access. -/

/-- The state that comes with a result, by the equation that splits the two. -/
theorem accs_of_snd {α : Type} {r : α × State} {a : α} {s t : State} (e : r = (a, t)) (h : r.2.msys.accs = s.msys.accs) :
    t.msys.accs = s.msys.accs := by rw [← h, e]

theorem accs_foldl {α : Type} {f : State → α → State} (h : ∀ s a, (f s a).msys.accs = s.msys.accs) (l : List α) (s : State) :
    (l.foldl f s).msys.accs = s.msys.accs := by
  induction l generalizing s with
  | nil => rfl
  | cons a l ih => exact (ih _).trans (h s a)

@[simp] theorem accs_modCell (s : State) (x : Site) (f : Cell → Cell) : (s.modCell x f).msys.accs = s.msys.accs := rfl
@[simp] theorem accs_modDie (s : State) (d : Nat) (f : Die → Die) : (s.modDie d f).msys.accs = s.msys.accs := rfl
@[simp] theorem accs_modCtx (s : State) (c : Nat) (f : Ctx → Ctx) : (s.modCtx c f).msys.accs = s.msys.accs := rfl
@[simp] theorem accs_modMem (s : State) (f : MemSys → MemSys) : (s.modMem f).msys.accs = (f s.msys).accs := rfl
@[simp] theorem accs_vclkTick (m : MemSys) (sl : Nat) : (vclkTick m sl).accs = m.accs := rfl
@[simp] theorem accs_setPoison (s : State) (a n : Nat) : (s.setPoison a n).msys.accs = s.msys.accs := rfl

@[simp] theorem accs_allocLine (m : MemSys) (sl ln policy now : Nat) (same : Nat → Bool) :
    (allocLine m sl ln policy now same).accs = m.accs := by
  unfold allocLine
  dsimp only
  split <;> rfl

@[simp] theorem accs_touch (s : State) (pa policy : Nat) : (s.touch pa policy).msys.accs = s.msys.accs := by
  unfold State.touch
  dsimp only
  repeat' split
  all_goals simp

@[simp] theorem accs_touchWrite (s : State) (pa policy : Nat) : (s.touchWrite pa policy).msys.accs = s.msys.accs := by
  unfold State.touchWrite
  split
  · rfl
  · dsimp only [accs_modMem]
    split <;> simp

@[simp] theorem accs_setByte (s : State) (a : Nat) (b : Byte) : (s.setByte a b).msys.accs = s.msys.accs := by
  unfold State.setByte
  split <;> rfl

@[simp] theorem accs_setBytes (s : State) (a : Nat) (l : List Byte) : (s.setBytes a l).msys.accs = s.msys.accs := by
  induction l generalizing s a with
  | nil => rfl
  | cons b l ih => exact (ih _ _).trans (accs_setByte s a b)

@[simp] theorem accs_setNum (s : State) (a n v : Nat) : (s.setNum a n v).msys.accs = s.msys.accs := accs_setBytes s a _

@[simp] theorem accs_writeSpots (s : State) (l : List Spot) (bs : List Byte) : (s.writeSpots l bs).msys.accs = s.msys.accs := by
  induction l generalizing s bs with
  | nil => cases bs <;> rfl
  | cons p l ih =>
    cases bs with
    | nil => rfl
    | cons b bs => exact (ih _ _).trans (accs_setByte s p.addr b)

/-! Page-table walks and TLBs (R243 to R248). -/

@[simp] theorem accs_walk (s : State) (die tenant va : Nat) : (s.walk die tenant va).2.msys.accs = s.msys.accs :=
  accs_foldl (fun s a => accs_touch s a 0) _ s

@[simp] theorem accs_orPte (s : State) (a bits : Nat) : (s.orPte a bits).msys.accs = s.msys.accs := by
  unfold State.orPte
  dsimp only
  split <;> simp

@[simp] theorem accs_fillTlb (s : State) (die place col tenant va : Nat) (e : Pte) :
    (s.fillTlb die place col tenant va e).msys.accs = s.msys.accs := by
  unfold State.fillTlb
  split <;> rfl

@[simp] theorem accs_lookup (s : State) (die place col tenant va : Nat) (write : Bool) :
    (s.lookup die place col tenant va write).2.msys.accs = s.msys.accs := by
  unfold State.lookup
  split <;> (rename_i walked; replace walked := accs_of_snd walked (accs_walk s die tenant va))
  · exact walked
  · rw [← walked]
    dsimp only
    repeat' split
    all_goals simp

@[simp] theorem accs_lookRange (s : State) (die place col tenant : Nat) (write useTlb : Bool) (fuel va n : Nat) (acc : List Page) :
    (s.lookRange die place col tenant write useTlb fuel va n acc).2.msys.accs = s.msys.accs := by
  induction fuel generalizing s va n acc with
  | zero => rfl
  | succ fuel ih =>
    unfold State.lookRange
    split
    · rfl
    extract_lets r
    have looked : r.2.msys.accs = s.msys.accs := by
      unfold r
      repeat' split
      all_goals simp
    clear_value r
    obtain ⟨l, s1⟩ := r
    cases l
    case ok p => exact (ih _ _ _ _).trans looked
    all_goals exact looked

@[simp] theorem accs_reachVa (s : State) (x : Site) (ps : List Page) (va : Nat) : (s.reachVa x ps va).msys.accs = s.msys.accs := by
  have hot (pa page : Nat) : (s.hot pa page).msys.accs = s.msys.accs := by
    unfold State.hot
    split <;> simp
  unfold State.reachVa State.reach
  repeat' split
  all_goals simp [hot]

/-! Handles, regions and the power of banks (R228 to R232, R236, R237). -/

@[simp] theorem accs_handleEntry (s : State) (x : Site) (c k : Nat) : (s.handleEntry x c k).2.msys.accs = s.msys.accs := by
  unfold State.handleEntry
  dsimp only
  split
  · rfl
  split
  · rfl
  split <;> (rename_i e; replace e := accs_of_snd e (accs_lookRange ..))
  · exact e
  · exact e
  · rw [← e]
    repeat' split
    all_goals simp

@[simp] theorem accs_checkHandle (s : State) (x : Site) (c h o n : Nat) : (s.checkHandle x c h o n).2.msys.accs = s.msys.accs := by
  unfold State.checkHandle
  split
  · rfl
  split <;> (rename_i e; replace e := accs_of_snd e (accs_handleEntry ..))
  · exact e
  · repeat' split
    all_goals exact e

@[simp] theorem accs_ctxBound (s : State) (c h : Nat) : (s.ctxBound c h).2.msys.accs = s.msys.accs := by
  unfold State.ctxBound
  split <;> (rename_i e; exact accs_of_snd e (accs_checkHandle ..))

@[simp] theorem accs_bankCheck (s : State) (x : Site) (a n : Nat) : (s.bankCheck x a n).2.msys.accs = s.msys.accs := by
  have wake (s : State) (k : Nat) : (s.wake x k).msys.accs = s.msys.accs := by
    unfold State.wake
    split <;> rfl
  unfold State.bankCheck
  dsimp only
  split
  · rfl
  split
  · rfl
  · exact accs_foldl wake _ s

@[simp] theorem accs_sdmCheck (s : State) (die a n : Nat) : (s.sdmCheck die a n).2.msys.accs = s.msys.accs := by
  have wake (s : State) (g : Nat) : (s.sdmWake die g).msys.accs = s.msys.accs := by
    unfold State.sdmWake
    split <;> rfl
  unfold State.sdmCheck
  extract_lets gibs is
  split
  · rfl
  split
  · rfl
  · exact accs_foldl wake _ s

@[simp] theorem accs_mtAdvance (s : State) (x : Site) (k n : Nat) (write : Bool) : (s.mtAdvance x k n write).msys.accs = s.msys.accs := by
  unfold State.mtAdvance
  dsimp only
  split
  · repeat' split
    all_goals rfl
  · split <;> rfl
  · split
    · rfl
    split
    · rfl
    · exact (accs_foldl (fun t i => by split <;> rfl) _ _).trans (accs_setBytes ..)

@[simp] theorem accs_virtRange (s : State) (x : Site) (c va n : Nat) (write : Bool) :
    (s.virtRange x c va n write).2.msys.accs = s.msys.accs := by
  unfold State.virtRange
  split
  · rfl
  split <;> (rename_i e; exact accs_of_snd e (accs_lookRange ..))

@[simp] theorem accs_virtHome (s : State) (x : Site) (ps : List Page) (va n : Nat) (write : Bool) (policy : Nat) :
    (s.virtHome x ps va n write policy).2.msys.accs = s.msys.accs := by
  have asked (pas : List Nat) : (s.remoteRefuses pas).2.msys.accs = s.msys.accs := by
    unfold State.remoteRefuses
    split <;> rfl
  unfold State.virtHome
  dsimp only
  split
  · rfl
  split
  · rfl
  split
  · exact asked _
  · exact (accs_foldl (fun t v => by split <;> simp) _ _).trans (asked _)

@[simp] theorem accs_tileSpots (s : State) (place : Nat) (x : Site) (k o n : Nat) (write : Bool) :
    (s.tileSpots place x k o n write).2.msys.accs = s.msys.accs := by
  unfold State.tileSpots
  split
  · rfl
  split
  · rfl
  split
  · rfl
  split <;> (rename_i e; replace e := accs_of_snd e (accs_bankCheck ..))
  · exact e
  · exact e
  · exact (accs_mtAdvance ..).trans e

@[simp] theorem accs_spots (s : State) (x : Site) (c h o n : Nat) (write : Bool) : (s.spots x c h o n write).2.msys.accs = s.msys.accs := by
  unfold State.spots State.spotsAt
  split <;> (rename_i e; replace e := accs_of_snd e (accs_checkHandle ..))
  · exact e
  rw [← e]
  split
  · rfl
  dsimp only
  split
  · split <;> (rename_i e; replace e := accs_of_snd e (accs_virtRange ..))
    · exact e
    · rw [← e]
      split <;> (rename_i e; exact accs_of_snd e (accs_virtHome ..))
  split
  · split
    · rfl
    split
    · rfl
    split <;> (rename_i e; exact accs_of_snd e (accs_sdmCheck ..))
  · exact accs_tileSpots ..

@[simp] theorem accs_ctxRead (s : State) (c h o n : Nat) : (s.ctxRead c h o n).2.msys.accs = s.msys.accs := by
  unfold State.ctxRead
  split <;> (rename_i e; exact accs_of_snd e (accs_spots ..))

/-! Copies of pages, traces, and the taking of a fault (R248, R345, R361 to R365). -/

@[simp] theorem accs_trace (s : State) (die u : Nat) (e : Event) : (s.trace die u e).msys.accs = s.msys.accs := by
  unfold State.trace
  split <;> rfl

@[simp] theorem accs_tracePark (s : State) (f : Firing) (code off : Nat) : (s.tracePark f code off).msys.accs = s.msys.accs :=
  accs_trace ..

@[simp] theorem accs_traceFire (s : State) (f : Firing) (opc : Nat) (used made : List Tok) :
    (s.traceFire f opc used made).msys.accs = s.msys.accs := by
  unfold State.traceFire
  split
  · exact accs_trace ..
  · rfl

@[simp] theorem accs_beginCow (s : State) (die tenant ctx va : Nat) (e : Pte) (at_ : Nat) (init : Option Act) (after : Nat) :
    (s.beginCow die tenant ctx va e at_ init after).2.msys.accs = s.msys.accs := by
  have framed (t : State) (size : Nat) : (t.takeFrame die tenant size).2.msys.accs = t.msys.accs := by
    unfold State.takeFrame
    dsimp only
    split <;> simp
  have drop (t : State) (va n : Nat) : (t.dropTlb tenant va n).msys.accs = t.msys.accs := rfl
  unfold State.beginCow
  dsimp only
  split <;> (rename_i taken; replace taken := accs_of_snd taken (framed _ _)) <;> rw [drop, accs_touchWrite, accs_setNum] at taken
  · split
    · simp [taken]
    · exact (accs_trace ..).trans taken
  · simp [taken]

@[simp] theorem accs_waitPage (s : State) (die ctx va : Nat) (a : Act) : (s.waitPage die ctx va a).msys.accs = s.msys.accs := by
  unfold State.waitPage
  split <;> rfl

@[simp] theorem accs_notify (s : State) (r : FRec) (seq : Nat) : (s.notify r seq).msys.accs = s.msys.accs := by
  unfold State.notify
  dsimp only
  split <;> rfl

@[simp] theorem accs_settle (s : State) (c : Nat) : (s.settle c).msys.accs = s.msys.accs := by
  unfold State.settle
  repeat' split
  all_goals rfl

/-- An attempt to write a record leaves the accesses as they were, however it ends. -/
def Put.SameAccs (s : State) : Put → Prop
  | .done t | .fault t | .wait t => t.msys.accs = s.msys.accs
  | .full => True

theorem putBlocked_sameAccs (s : State) (c : Nat) (b : Block) : (s.putBlocked c b).SameAccs s := by
  have own : (s.ownBlocked c b).2.msys.accs = s.msys.accs := by
    unfold State.ownBlocked
    split <;> simp
  unfold State.putBlocked
  split <;> (rename_i e; exact accs_of_snd e own)

theorem putRecord_sameAccs (s : State) (r : FRec) (what : Resume) : (s.putRecord r what).SameAccs s := by
  unfold State.putRecord
  dsimp only
  split <;> (rename_i bound; replace bound := accs_of_snd bound (accs_ctxBound ..))
  · exact putBlocked_sameAccs s r.ctx _
  split <;> (rename_i read; replace read := accs_of_snd read (accs_ctxRead ..))
  · exact putBlocked_sameAccs s r.ctx _
  split
  · trivial
  split <;> (rename_i spots; replace spots := accs_of_snd spots (accs_spots ..))
  · exact putBlocked_sameAccs s r.ctx _
  split <;> (rename_i word; replace word := accs_of_snd word (accs_spots ..))
  · exact putBlocked_sameAccs s r.ctx _
  · simp only [Put.SameAccs, accs_notify, accs_trace, accs_modCtx, accs_writeSpots, word, spots, read, bound]

@[simp] theorem accs_takeFault (s : State) (unit : Nat) (r : FRec) (what : Resume) :
    (s.takeFault unit r what).msys.accs = s.msys.accs := by
  unfold State.takeFault
  extract_lets latch s1
  have latched (host : Bool) (t : State) : (latch host t).msys.accs = t.msys.accs := by
    cases host <;> rfl
  split
  · rfl
  rw [accs_settle]
  have put := putRecord_sameAccs s r what
  unfold s1
  split
  · exact latched false s
  split <;> rename_i e <;> rw [e] at put
  · exact put
  · exact latched false s
  · exact (latched true _).trans put
  · exact (latched false _).trans put

/-- A firing that parks leaves the accesses as they were (R252). -/
theorem accs_park (s : State) (f : Firing) (ports : List Nat) (b : Block) : (s.park f ports b).msys.accs = s.msys.accs := by
  have id : (s.parkId f).2.msys.accs = s.msys.accs := by
    unfold State.parkId
    split <;> rfl
  have consume (t : State) : (t.consume f ports).msys.accs = t.msys.accs := by
    unfold State.consume
    split <;> rfl
  have taken : (if f.taken then (s.parkId f).2 else
      ((s.parkId f).2.consume f ports).traceFire f (s.opcOf f) (ports.map f.op) []).msys.accs = s.msys.accs := by
    split <;> simp [id, consume]
  unfold State.park
  dsimp only
  split
  · simp [taken]
  · simp [taken]
  · split <;> (rename_i cow; replace cow := accs_of_snd cow (accs_beginCow ..)) <;> simp [cow, taken]
  · exact taken

end Sys2Proof.Machine
end

section
/-! Proofs of the statement on what an access is checked for (R94, R228, R229, R237, R239, R274; O38). -/
namespace Sys2Proof.Machine

/-! Where an access goes (R228, R229, R237, R239, R274). -/

/-- What the mode of a region takes (R228, R229). -/
theorem regionModes : Claims.RegionModes := by
  intro m k off n write
  refine ⟨fun mode => ?_, fun mode => ?_, fun mode some_ => ?_, fun mode some_ => ?_, fun mode => ?_⟩
  · simp [MTile.check, mode]
  · simp [MTile.check, mode]
  · simp [MTile.check, mode, some_.ne']
  · simp [MTile.check, mode, some_.ne']
  · simp [MTile.check, mode]

/-- The place that the address of an access names, before the checks that depend on its space (R237, R239). -/
def State.named (s : State) (f : Firing) (q : Ask) (o : Nat) : Except Block Loc × State :=
  match q.c.region with
  | some hd => s.locHandle f.x f.ent.ctx hd o q.size
  | none => (s.locGeneric f.x o, s)

/-- The checks of an access that depend on the space of its place (R274). -/
def State.checksAt (s : State) (f : Firing) (q : Ask) (l : Loc) : Option FCode :=
  let isMem := match q.kind with | .mem _ => true | _ => false
  let isRmw := match q.kind with | .rmw _ => true | _ => false
  if isMem && l.space != .sdm then some .handleInvalid
  else if (q.kind == .ldr || q.kind == .cmls) && l.space != .virt then some .handleInvalid
  else if isRmw && l.space == .mt then some .mtMode
  else if l.space == .sdm && !s.sdmOwned l.die l.addr q.size (s.ctx f.ent.ctx).tenant then some .prot
  else if l.addr % q.align ≠ 0 then some .align
  else if l.space == .mt then (s.cell f.x).mt.check l.mtr l.addr q.size q.store
  else none

/-- Without a handle, an address is generic (R239). -/
theorem named_generic {q : Ask} (region : q.c.region = none) (s : State) (f : Firing) (o : Nat) :
    s.named f q o = (s.locGeneric f.x o, s) := by
  simp [State.named, region]

/-- With a handle, an address is an offset (R237). -/
theorem named_handle {q : Ask} {hd : Nat} (region : q.c.region = some hd) (s : State) (f : Firing) (o : Nat) :
    s.named f q o = s.locHandle f.x f.ent.ctx hd o q.size := by
  simp [State.named, region]

/-- What comes of an access whose checks end in a fault, or in none (R274). -/
def Loc.verdict (l : Loc) (s : State) : Option FCode → Except Block Loc × State
  | some code => (.error (.fault code l.name), s)
  | none => (.ok l, s)

section
variable {s s1 : State} {f : Firing} {q : Ask} {o : Nat} {l : Loc}

/-- An access whose address names no place has no place. -/
theorem place_unnamed {b : Block} (named : s.named f q o = (.error b, s1)) : s.place f q o = (.error b, s1) := by
  unfold State.named at named
  unfold State.place
  cases region : q.c.region <;> rw [region] at named <;> dsimp only at named ⊢ <;> rw [named]

/-- An access is checked at the place that its address names (R274). -/
theorem place_named (named : s.named f q o = (.ok l, s1)) : s.place f q o = l.verdict s1 (s1.checksAt f q l) := by
  have tile : (match (s1.cell f.x).mt.check l.mtr l.addr q.size q.store with
      | some code => (.error (.fault code l.name), s1)
      | none => (.ok l, s1)) = l.verdict s1 ((s1.cell f.x).mt.check l.mtr l.addr q.size q.store) := by
    split <;> rename_i e <;> rw [e] <;> rfl
  unfold State.named at named
  unfold State.place State.checksAt
  cases region : q.c.region <;> rw [region] at named <;> dsimp only at named ⊢ <;> rw [named] <;>
    simp only [apply_ite (l.verdict s1), ← tile] <;> rfl

/-- An access to virtual memory, of a kind other than LDM and STM, has its alignment checked (R274). -/
theorem place_virt (named : s.named f q o = (.ok l, s1)) (virt : l.space = .virt) (notMem : ∀ m, q.kind ≠ .mem m) :
    s.place f q o = if l.addr % q.align = 0 then (.ok l, s1) else (.error (.fault .align l.name), s1) := by
  have checks : s1.checksAt f q l = if l.addr % q.align = 0 then none else some .align := by
    unfold State.checksAt
    split
    · exact absurd ‹_› (notMem _)
    · simp [virt]
  rw [place_named named, checks]
  split <;> rfl

/-- An access to scratchpad memory, of a kind other than LDR and CMLS, has its owner checked, then its alignment (R232, R274). -/
theorem place_sdm (named : s.named f q o = (.ok l, s1)) (sdm : l.space = .sdm) (notLdr : q.kind ≠ .ldr) (notCmls : q.kind ≠ .cmls) :
    s.place f q o = if s1.sdmOwned l.die l.addr q.size (s1.ctx f.ent.ctx).tenant = false then (.error (.fault .prot l.name), s1)
      else if l.addr % q.align = 0 then (.ok l, s1) else (.error (.fault .align l.name), s1) := by
  have checks : s1.checksAt f q l = if s1.sdmOwned l.die l.addr q.size (s1.ctx f.ent.ctx).tenant = false then some .prot
      else if l.addr % q.align = 0 then none else some .align := by
    simp [State.checksAt, sdm, notLdr, notCmls]
  rw [place_named named, checks]
  split
  · rfl
  split <;> rfl

end

/-- A valid, unreserved handle of virtual memory whose bytes lie in the address space takes an access within its bound (R237). -/
theorem checkHandle_virt {s s1 : State} {x : Site} {c hd o n : Nat} {e : Handle} (last : hd ≤ (s.ctx c).htlast)
    (entry : s.handleEntry x c hd = (.ok e, s1)) (valid : e.valid = true) (virt : e.space = 0)
    (pclass : ¬ (12 ≤ e.pclass ∧ e.pclass ≤ 14)) (res : e.res = 0) (bound : e.bound ≠ 0) (end_ : e.base + e.bound ≤ 2 ^ 57) :
    s.checkHandle x c hd o n = if e.bound < o + n then (.error (.fault .handleBound (e.base + o)), s1) else (.ok e, s1) := by
  unfold State.checkHandle
  rw [if_neg (by omega), entry]
  dsimp only
  rw [if_neg (by simpa [valid, virt, res] using pclass), if_neg (by simpa [bound] using end_)]
  simp [virt]

/-- Where an access goes, and the fault that a failed check gives (R237, R239, R274). -/
theorem accessChecks : Claims.AccessChecks := by
  intro s f q o
  dsimp only
  refine ⟨fun region none_ => ?_, fun d b region mt none_ => ?_, fun d a region virt notMem => ?_,
    fun d a region sdm notLdr notCmls => ?_, fun hd region last => ?_, fun hd e s1 region last entry invalid => ?_,
    fun hd e s1 region last entry valid virt pclass res bound end_ notMem => ?_⟩
  · exact place_unnamed (by simp [named_generic region, State.locGeneric, none_])
  · exact place_unnamed (by simp [named_generic region, State.locGeneric, mt, none_])
  · exact place_virt (l := ⟨.virt, d, 0, a, 0, 0, o⟩) (by simp [named_generic region, State.locGeneric, virt]) rfl notMem
  · exact place_sdm (l := ⟨.sdm, d, 0, a, 0, 0, o⟩) (by simp [named_generic region, State.locGeneric, sdm]) rfl notLdr notCmls
  · exact place_unnamed (by simp [named_handle region, State.locHandle, State.checkHandle, last])
  · exact place_unnamed (by simp [named_handle region, State.locHandle, State.checkHandle, last.not_gt, entry, invalid])
  · have checked := checkHandle_virt (o := o) (n := q.size) last entry valid virt pclass res bound end_
    by_cases beyond : e.bound < o + q.size
    · rw [if_pos beyond] at checked ⊢
      exact place_unnamed (by simp [named_handle region, State.locHandle, checked])
    · rw [if_neg beyond] at checked ⊢
      exact place_virt (l := ⟨.virt, f.x.die, 0, e.base + o, e.policy, e.fmti, e.base + o⟩)
        (by simp [named_handle region, State.locHandle, checked, virt]) rfl notMem

/-! What stops an access at its checks (R94, R252, R258, R274, R361). -/

/-- The access that a firing leaves at its checks (R252, R258). -/
def State.atChecks (s : State) (f : Firing) (q : Ask) : Access :=
  { s.accessOf f q ⟨.virt, f.x.die, 0, 0, 0, 0, 0⟩ [] 0 0 s.msys.nextId with st := .check }

/-- A firing that parks at its checks for the first time has its access at the end of those in flight. -/
theorem accs_parkAsk {s : State} {f : Firing} (first : s.checking f = none) (q : Ask) (b : Block) :
    (s.parkAsk f q b).msys.accs = s.msys.accs ++ [s.atChecks f q] := by
  have spent (t : State) : (t.spendStore f q).msys.accs = t.msys.accs := by
    unfold State.spendStore
    repeat' split
    all_goals rfl
  unfold State.parkAsk
  rw [first]
  dsimp only
  rw [accs_park, spent]
  rfl

/-- A poisoned offset refuses a firing's access, and a failed check parks it (R94, R274). -/
def Stopped (s : State) (f : Firing) (q : Ask) (r : State) : Prop :=
  ((f.op 0).flag .poison = true → r = s.refuse f .poisonAddr (f.op 0).w64 0) ∧
  ∀ b s1, (f.op 0).flag .poison = false → s.place f q (f.op 0).w64 = (.error b, s1) → r = s1.parkAsk f q b

/-- An access that its firing's memory step makes is stopped by its checks (R274). -/
theorem stopped_memory (s : State) (f : Firing) (q : Ask) (sends : List Send) (b c : Nat) :
    Stopped s f q (s.memory f q (f.op 0).w64 sends b c) := by
  unfold State.memory
  exact ⟨fun poison => if_pos poison, fun _ _ clean failed => by rw [if_neg (by simp [clean]), failed]⟩

/-- The size and alignment of an access, as the model finds them (R273). -/
theorem askOf_eq (h : Hdr) (c : MemCtl) (kind : AccKind) (store vec : Bool) : askOf h c kind store vec =
    let n := if vec then 64 else scalarBytes h.fmt
    ⟨h, c, kind, store, vec, n, if vec then 4 else n⟩ := by
  cases vec <;> rfl

/-- A load is stopped by its checks (R274, R275). -/
theorem stopped_load (s : State) (f : Firing) (h : Hdr) (c : MemCtl) : Stopped s f (askOf h c .load false c.vec) (s.load f h c) := by
  rw [askOf_eq]
  exact stopped_memory ..

/-- A store is stopped by its checks, and one whose LMASK is zero too (R274, R276, R277). -/
theorem stopped_store (s : State) (f : Firing) (h : Hdr) (c : MemCtl) :
    Stopped s f (askOf h c .store true (f.op 1).vec) (s.store f h c) := by
  rw [askOf_eq]
  unfold State.store
  dsimp only
  by_cases masked : ((f.op 1).vec && (f.op 1).lmask == 0) = true
  · rw [if_pos masked]
    exact ⟨fun poison => if_pos poison, fun _ _ clean failed => by rw [if_neg (by simp [clean]), failed]⟩
  · rw [if_neg masked]
    exact stopped_memory ..

/-- A request of LDM or STM is stopped by its checks (R274, R278, R279). -/
theorem stopped_memReq (s : State) (f : Firing) (h : Hdr) (c : MemCtl) (st : Bool) :
    Stopped s f (askOf h c (.mem st.toNat) st (if st then (f.op 1).vec else c.vec)) (s.memReq f h c st) := by
  rw [askOf_eq]
  unfold State.memReq
  dsimp only
  exact ⟨fun poison => if_pos poison, fun _ _ clean failed => by rw [if_neg (by simp [clean]), failed]⟩

/-- An instruction's access is stopped by its checks, and keeps the place in its wave that it took as it issued (R252, R258). -/
def Stops (i : Instr) (s : State) (f : Firing) (q : Ask) : Prop :=
  ((f.op 0).flag .poison = true → exec i s = .next (State.refuse { s with cur := none } f .poisonAddr (f.op 0).w64 0)) ∧
  ∀ b s1, (f.op 0).flag .poison = false → State.place { s with cur := none } f q (f.op 0).w64 = (.error b, s1) →
    exec i s = .next (s1.parkAsk f q b) ∧
    (s1.checking f = none → ∃ a ∈ (s1.parkAsk f q b).msys.accs, a.id = s1.msys.nextId ∧ a.st = .check ∧ a.x = f.x ∧
      a.uid = f.ent.uid ∧ a.pos = f.pos ∧ a.store = q.store ∧ a.region = q.c.region ∧ a.wpred = q.c.wpred ∧ a.wsucc = q.c.wsucc)

/-- An instruction whose arm makes an access is stopped where the arm is. -/
theorem stops_of_stopped {i : Instr} {k : State → Firing → State} (arm : ∀ s, exec i s = s.firing k) {s : State} {f : Firing}
    {q : Ask} (cur : s.cur = some f) (stopped : Stopped { s with cur := none } f q (k { s with cur := none } f)) : Stops i s f q := by
  obtain ⟨refused, parked⟩ := stopped
  refine ⟨fun poison => exec_firing (arm s) cur (refused poison), fun b s1 clean failed =>
    ⟨exec_firing (arm s) cur (parked b s1 clean failed), fun first =>
      ⟨s1.atChecks f q, ?_, rfl, rfl, rfl, rfl, rfl, rfl, rfl, rfl, rfl⟩⟩⟩
  rw [accs_parkAsk first]
  exact List.mem_append_right _ (List.mem_singleton_self _)

/-- What stops the access of a memory instruction (R94, R252, R258, R274, R361). -/
theorem memoryChecksStopAccess : Claims.MemoryChecksStopAccess := by
  intro h c s f cur
  exact ⟨stops_of_stopped (show ∀ s, exec (.ld h c) s = execLd h c s from fun _ => rfl) cur (stopped_load ..),
    stops_of_stopped (show ∀ s, exec (.ldG h c) s = execLdG h c s from fun _ => rfl) cur (stopped_load ..),
    stops_of_stopped (show ∀ s, exec (.st h c) s = execSt h c s from fun _ => rfl) cur (stopped_store ..),
    stops_of_stopped (show ∀ s, exec (.stG h c) s = execStG h c s from fun _ => rfl) cur (stopped_store ..),
    stops_of_stopped (show ∀ s, exec (.ldr h c) s = execLdr h c s from fun _ => rfl) cur (stopped_memory ..),
    stops_of_stopped (show ∀ s, exec (.ldm h c) s = execLdm h c s from fun _ => rfl) cur (stopped_memReq _ f h c false),
    stops_of_stopped (show ∀ s, exec (.stm h c) s = execStm h c s from fun _ => rfl) cur (stopped_memReq _ f h c true),
    stops_of_stopped (show ∀ s, exec (.aadd h c) s = execAadd h c s from fun _ => rfl) cur (stopped_memory ..),
    stops_of_stopped (show ∀ s, exec (.acas h c) s = execAcas h c s from fun _ => rfl) cur (stopped_memory ..)⟩

/-- Settles O38: an access is refused or parks by what its checks say, at the place that its address names. -/
theorem memoryChecks : Obligations.MemoryChecks := ⟨memoryChecksStopAccess, accessChecks, regionModes⟩

end Sys2Proof.Machine
end

section
/-! Proof of the statement on exact sums, products and multiply-adds, and on the order of values (R122, R126; O2). -/
namespace Sys2Proof.Machine

/-! The numbers that finite values stand for. -/

/-- What stands for a number is a finite value, and the number is that of its sign and magnitude. -/
theorem exists_fin_of_rat {a : FVal} {p : Rat} (h : a.rat = some p) : ∃ s m e, a = .fin s m e ∧ p = sgn s * (m * 2 ^ e) := by
  cases a with
  | nan _ | inf _ => cases h
  | fin s m e => exact ⟨s, m, e, rfl, (Option.some.inj (h.symm.trans (rat_fin s m e)))⟩

/-- The number of the other sign. -/
theorem sgn_not (s : Bool) : sgn (!s) = -sgn s := by cases s <;> simp [sgn]

/-- The sign of a product. -/
theorem sgn_bne (s t : Bool) : sgn (s != t) = sgn s * sgn t := by cases s <;> cases t <;> simp [sgn]

/-- A magnitude with a sign, as an integer, is the number of that sign and magnitude. -/
theorem cast_signed (s : Bool) (m : Nat) : ((signed s m : Int) : Rat) = sgn s * m := by cases s <;> simp [signed, sgn]

/-- A finite value as an integer multiple of 2^e, for an exponent `e` not above its own. -/
theorem signed_mul_zpow (s : Bool) (m : Nat) {e g : Int} (le : e ≤ g) :
    ((signed s m * 2 ^ (g - e).toNat : Int) : Rat) * 2 ^ e = sgn s * (m * 2 ^ g) := by
  have split : (2 : Rat) ^ g = 2 ^ (g - e).toNat * 2 ^ e := by
    rw [← zpow_natCast, ← zpow_add₀ two_ne_zero, Int.toNat_of_nonneg (Int.sub_nonneg_of_le le), Int.sub_add_cancel]
  push_cast
  rw [cast_signed, split]
  ring

/-- An integer other than zero, as sign and magnitude, is itself. -/
theorem sgn_mul_natAbs (v : Int) : sgn (decide (v < 0)) * (v.natAbs : Rat) = v := by
  rcases lt_or_ge v 0 with neg | nonneg
  · simp [sgn, neg, Nat.cast_natAbs, abs_of_neg]
  · simp [sgn, nonneg.not_gt, Nat.cast_natAbs, abs_of_nonneg nonneg]

/-- The smaller of two exponents, to which both values are brought, is above neither. -/
theorem ite_le_both (e g : Int) : (if e ≤ g then e else g) ≤ e ∧ (if e ≤ g then e else g) ≤ g := by split <;> omega

/-! Sums and products (R122). -/

/-- The sum of two finite values stands for the sum of their numbers (R122). -/
theorem rat_finAdd (s t : Bool) (m n : Nat) (e g : Int) :
    (finAdd s m e t n g).rat = some (sgn s * (m * 2 ^ e) + sgn t * (n * 2 ^ g)) := by
  obtain ⟨le, lg⟩ := ite_le_both e g
  rw [← signed_mul_zpow s m le, ← signed_mul_zpow t n lg, ← add_mul, ← Int.cast_add]
  unfold finAdd
  dsimp only
  generalize signed s m * _ + signed t n * _ = v
  by_cases zero : v = 0
  · rw [if_pos zero, zero]; simp
  · rw [if_neg zero, rat_fin, ← mul_assoc, sgn_mul_natAbs]

section
variable {a b : FVal} {p q : Rat} (ha : a.rat = some p) (hb : b.rat = some q)
include ha hb

/-- An exact sum of numbers is their sum, and raises no flag (R122). -/
theorem exAdd_rat : (exAdd a b).1.rat = some (p + q) ∧ (exAdd a b).2 = 0 := by
  obtain ⟨s, m, e, rfl, rfl⟩ := exists_fin_of_rat ha
  obtain ⟨t, n, g, rfl, rfl⟩ := exists_fin_of_rat hb
  exact ⟨rat_finAdd s t m n e g, rfl⟩

/-- An exact product of numbers is their product, and raises no flag (R122). -/
theorem exMul_rat : (exMul a b).1.rat = some (p * q) ∧ (exMul a b).2 = 0 := by
  obtain ⟨s, m, e, rfl, rfl⟩ := exists_fin_of_rat ha
  obtain ⟨t, n, g, rfl, rfl⟩ := exists_fin_of_rat hb
  refine ⟨?_, rfl⟩
  show (FVal.fin (s != t) (m * n) (e + g)).rat = _
  rw [rat_fin, sgn_bne, zpow_add₀ two_ne_zero]
  push_cast
  congr 1
  ring

/-- Two numbers, brought to one exponent, are compared as integers (R126). -/
theorem cmpVal_rat : (cmpVal a b < 0 ↔ p < q) ∧ (cmpVal a b = 0 ↔ p = q) := by
  obtain ⟨s, m, e, rfl, rfl⟩ := exists_fin_of_rat ha
  obtain ⟨t, n, g, rfl, rfl⟩ := exists_fin_of_rat hb
  obtain ⟨le, lg⟩ := ite_le_both e g
  have unit : (0 : Rat) < 2 ^ (if e ≤ g then e else g) := by positivity
  rw [← signed_mul_zpow s m le, ← signed_mul_zpow t n lg, mul_lt_mul_iff_left₀ unit, mul_left_inj' unit.ne', Int.cast_lt, Int.cast_inj]
  exact ⟨Int.sign_neg_iff.trans sub_neg, Int.sign_eq_zero_iff_zero.trans sub_eq_zero⟩

end

/-- A multiply-add adds the exact product, and a number raises no flag of its own (R122). -/
theorem exFma_rat {a b c : FVal} {p q r : Rat} (ha : a.rat = some p) (hb : b.rat = some q) (hc : c.rat = some r) :
    (exFma a b c).1.rat = some (p * q + r) ∧ (exFma a b c).2 = 0 := by
  obtain ⟨product, noFlag⟩ := exMul_rat ha hb
  obtain ⟨sum, noFlag'⟩ := exAdd_rat product hc
  obtain ⟨t, n, g, rfl, -⟩ := exists_fin_of_rat hc
  exact ⟨sum, by simp [exFma, noFlag, noFlag', sigFlag]⟩

/-- A value of the other sign stands for the negated number (R122). -/
theorem neg_rat {a : FVal} {p : Rat} (ha : a.rat = some p) : a.neg.rat = some (-p) := by
  obtain ⟨s, m, e, rfl, rfl⟩ := exists_fin_of_rat ha
  rw [FVal.neg, rat_fin, sgn_not, neg_mul]

/-- Settles O2: exact sums (`exAdd_rat`), products (`exMul_rat`) and multiply-adds (`exFma_rat`), and the order of values
(`cmpVal_rat`), all by bringing finite values to one exponent (`signed_mul_zpow`). -/
theorem exactFloatValues : Obligations.ExactFloatValues := by
  intro a b c p q r ha hb hc
  exact ⟨(exAdd_rat ha hb).1, (exAdd_rat ha hb).2, (exMul_rat ha hb).1, (exMul_rat ha hb).2, (exFma_rat ha hb hc).1,
    (exFma_rat ha hb hc).2, neg_rat ha, (cmpVal_rat ha hb).1, (cmpVal_rat ha hb).2⟩

end Sys2Proof.Machine
end

section
/-! Proof of the statement on the float instructions (R121 to R127; O33). -/
namespace Sys2Proof.Machine

/-! Cycles and types of the results (R121, R126). -/

/-- Cycles of a float instruction, as the model counts them (R121). -/
theorem f64Time_eq (h : Hdr) : (fun f => f64Time h f) = fpCycles h := by
  funext f; simp [f64Time, fpCycles]

/-- Cycles of FDIV and FSQRT, as the model counts them (R121). -/
theorem fdivTime_eq (ty : Ty) : fdivTime ty = if ty = .fp64 then 16 else 8 := by simp [fdivTime]

/-- The type of a float comparison's result (R126). -/
theorem fcmpFmt_eq (ty : Ty) : fcmpFmt ty = if ty = .fp32 then .pred else if ty = .fp64 then .s64 else .s16 := by
  cases ty <;> rfl

/-! The instructions that round one exact value (R122, R124, R127). -/

/-- A function that gives a code and its flags is itself on bits. -/
theorem OnBits.code {w : Nat} (op : Nat → Nat → Nat → Nat × Nat) : OnBits op (fun x y z => codeEl w (op x.toNat y.toNat z.toNat)) :=
  fun _ _ _ => ⟨rfl, rfl⟩

/-- Each of these instructions gives the code and the flags of its exact value, rounded once. -/
theorem floatArithmeticRoundsOnce : Claims.FloatArithmeticRoundsOnce := by
  intro h l F w v
  rw [← f64Time_eq, ← fdivTime_eq]
  refine ⟨?_, ?_, ?_, ?_, ?_, ?_⟩
  · exact computes_lit (opc := 0x100) _ rfl (by decide) rfl (fun _ => rfl) (.code (elFadd h.fmt))
  · exact computes_lit (opc := 0x101) _ rfl (by decide) rfl (fun _ => rfl) (.code (elFsub h.fmt))
  · exact computes_lit (opc := 0x102) _ rfl (by decide) rfl (fun _ => rfl) (.code (elFmul h.fmt))
  · exact computes_lit (opc := 0x103) _ rfl (by decide) rfl (fun _ => rfl) (.code (elFfma h.fmt))
  · exact computes_lit (opc := 0x106) _ rfl (by decide) rfl (fun _ => rfl) (.code (elFdiv h.fmt))
  · exact computes_plain (opc := 0x107) _ rfl (by decide) rfl (fun _ => rfl) (.code (elFsqrt h.fmt))

/-- Each of these instructions gives the code and the flags of its algorithm. -/
theorem specialFunctions : Claims.SpecialFunctions := by
  intro h w F
  refine ⟨?_, ?_, ?_, ?_, ?_, ?_, ?_⟩
  · exact computes_plain (opc := 0x140) _ rfl (by decide) rfl (fun _ => rfl) (.code (elFrcp h.fmt))
  · exact computes_plain (opc := 0x141) _ rfl (by decide) rfl (fun _ => rfl) (.code (elFrsq h.fmt))
  · exact computes_plain (opc := 0x142) _ rfl (by decide) rfl (fun _ => rfl) (.code (elSpecial (fun v => (fexp2 v, 0)) h.fmt))
  · exact computes_plain (opc := 0x143) _ rfl (by decide) rfl (fun _ => rfl) (.code (elSpecial flog2 h.fmt))
  · exact computes_plain (opc := 0x144) _ rfl (by decide) rfl (fun _ => rfl) (.code (elSpecial (fun v => (ftanh v, 0)) h.fmt))
  · exact computes_plain (opc := 0x145) _ rfl (by decide) rfl (fun _ => rfl) (.code (elSpecial (fun v => (fsigm v, 0)) h.fmt))
  · exact computes_plain (opc := 0x146) _ rfl (by decide) rfl (fun _ => rfl) (.code (elSpecial (fun v => (ferf v, 0)) h.fmt))

/-! Selection, sign and comparison (R123, R125, R126). -/

/-- INV for a signalling NaN among the operands, as the model finds it (R71). -/
theorem sigFlag_eq (l : List FVal) : sigFlag l = sigInv l := by
  simp [sigFlag, sigInv, flagInv]

/-- −0 beside +0: the two values that are equal and still ordered (R123). -/
def FVal.zerosApart : FVal → FVal → Bool
  | .fin true 0 _, .fin false 0 _ => true
  | _, _ => false

/-- Two finite values are −0 and +0 where their signs say so and both magnitudes are zero. -/
theorem zerosApart_fin (s t : Bool) (m n : Nat) (e g : Int) :
    (FVal.fin s m e).zerosApart (.fin t n g) = (s && !t && m == 0 && n == 0) := by
  cases s <;> cases t <;> cases m <;> cases n <;> rfl

/-- A value with the sign is equal to one without it only where both are zero. -/
theorem cmpVal_signs_apart (m n : Nat) (e g : Int) : cmpVal (.fin true m e) (.fin false n g) = 0 ↔ m = 0 ∧ n = 0 := by
  have left : (0 : Rat) ≤ m * 2 ^ e := by positivity
  have right : (0 : Rat) ≤ n * 2 ^ g := by positivity
  have zero (k : Nat) (i : Int) : (k : Rat) * 2 ^ i = 0 ↔ k = 0 := by simp [zpow_ne_zero]
  rw [(cmpVal_rat (rat_fin ..) (rat_fin ..)).2, ← zero m e, ← zero n g]
  simp only [sgn, if_true, Bool.false_eq_true, if_false]
  constructor
  · intro eq
    constructor <;> linarith only [left, right, eq]
  · rintro ⟨zero, zero'⟩
    rw [zero, zero', mul_zero, mul_zero]

/-- A value comes before another where it is less, or is −0 beside +0 (R123). -/
theorem lesser_eq (a b : FVal) : lesser a b = (decide (cmpVal a b < 0) || a.zerosApart b) := by
  unfold lesser
  by_cases eq : cmpVal a b = 0
  · cases a with
    | nan _ | inf _ => simp [eq, FVal.zerosApart]
    | fin s m e => cases b with
      | nan _ | inf _ => simp [eq, FVal.zerosApart]
      | fin t n g =>
        simp only [eq, zerosApart_fin]
        cases s with
        | false => rfl
        | true => cases t with
          | true => rfl
          | false =>
            obtain ⟨rfl, rfl⟩ := (cmpVal_signs_apart ..).mp eq
            rfl
  · have apart : a.zerosApart b = false := by
      by_contra h
      unfold FVal.zerosApart at h
      split at h
      · exact eq ((cmpVal_signs_apart ..).mpr ⟨rfl, rfl⟩)
      · exact h rfl
    simp [eq, apart]

/-- What FMIN and FMAX give, by the order in which −0 comes before +0 (R123). -/
theorem fminEl_eq (h : Hdr) (max : Bool) (x y z : BitVec h.fmt.width) : fminEl h max x y z =
    let a := (fmtOf h.fmt).val x.toNat
    let b := (fmtOf h.fmt).val y.toNat
    (if a.isNan && b.isNan then BitVec.ofNat _ (fmtOf h.fmt).nan.1
      else if a.isNan then y
      else if b.isNan then x
      else if max then (if lesser a b then y else x) else (if lesser b a then y else x), sigFlag [a, b]) := by
  simp only [lesser_eq, sigFlag_eq]
  rfl

/-- FMIN and FMAX give one of their operands, or the canonical NaN, and one flag in every case (R123). -/
theorem OnBits.minMax (h : Hdr) (max : Bool) : OnBits (elMinMax max h.fmt) (fminEl h max) := by
  intro x y z
  simp only [fminEl_eq, elMinMax, apply_ite Prod.fst, apply_ite Prod.snd, apply_ite (BitVec.ofNat _), BitVec.ofNat_toNat,
    BitVec.setWidth_eq, ite_self, and_self]

/-- The sign bit cleared (R125). -/
theorem ofNat_mod_signMask {w : Nat} (x : BitVec w) : BitVec.ofNat w (x.toNat % 2 ^ (w - 1)) = x &&& ~~~ signMask w := by
  apply BitVec.eq_of_getLsbD_eq
  intro i hi
  have below : i < w - 1 ↔ ¬ i = w - 1 := by omega
  rw [BitVec.getLsbD_ofNat, Nat.testBit_mod_two_pow, BitVec.testBit_toNat]
  simp [signMask, hi, below, Bool.and_comm]

/-- The sign bit changed (R125). -/
theorem ofNat_xor_signMask {w : Nat} (x : BitVec w) : BitVec.ofNat w (x.toNat ^^^ 2 ^ (w - 1)) = x ^^^ signMask w := by
  have mask : BitVec.ofNat w (2 ^ (w - 1)) = signMask w :=
    BitVec.eq_of_toNat_eq (by rw [BitVec.toNat_ofNat, signMask, BitVec.toNat_twoPow])
  rw [BitVec.ofNat_xor, BitVec.ofNat_toNat, BitVec.setWidth_eq, mask]

/-- FABS and FNEG change the sign bit of a number or an infinity, and make a NaN the canonical one (R125). -/
theorem OnBits.sign (h : Hdr) {op : Nat → Nat → Nat → Nat × Nat} (n : Nat → Nat) {g : BitVec h.fmt.width → BitVec h.fmt.width}
    (hop : ∀ a b c, op a b c = if ((fmtOf h.fmt).val a).isNan then ((fmtOf h.fmt).nan.1, sigFlag [(fmtOf h.fmt).val a]) else (n a, 0))
    (hg : ∀ x, BitVec.ofNat h.fmt.width (n x.toNat) = g x) : OnBits op (signEl h g) := by
  intro x y z
  simp only [hop, signEl, sigFlag_eq]
  split
  · exact ⟨rfl, rfl⟩
  · exact ⟨hg x, rfl⟩

/-- A comparison gives 1 or 0, by the order of two numbers or for a NaN (R126). -/
theorem OnBits.fcmp (h : Hdr) (rel : Int → Bool) (nan quiet : Bool) : OnBits (elFcmp rel nan quiet h.fmt) (fcmpEl h rel nan quiet) := by
  have bit (b : Bool) : BitVec.ofNat h.fmt.width b.toNat = if b then 1 else 0 := by cases b <;> rfl
  intro x y z
  simp only [elFcmp, fcmpEl, sigFlag_eq]
  split
  · exact ⟨bit nan, rfl⟩
  · exact ⟨bit _, rfl⟩

/-- FMIN and FMAX (`OnBits.minMax`), FABS and FNEG (`OnBits.sign`), and one comparison for each relation (`OnBits.fcmp`). -/
theorem floatSelectionSignAndCompare : Claims.FloatSelectionSignAndCompare := by
  intro h l w out
  have type : fcmpFmt h.fmt = out := fcmpFmt_eq h.fmt
  rw [← f64Time_eq, ← type]
  refine ⟨?_, ?_, ?_, ?_, ?_, ?_, ?_, ?_, ?_, ?_, ?_⟩
  · exact computes_lit (opc := 0x104) _ rfl (by decide) rfl (fun _ => rfl) (.minMax h false)
  · exact computes_lit (opc := 0x105) _ rfl (by decide) rfl (fun _ => rfl) (.minMax h true)
  · exact computes_plain (opc := 0x108) _ rfl (by decide) rfl (fun _ => rfl)
      (.sign h (fun a => a % 2 ^ (h.fmt.width - 1)) (fun _ _ _ => rfl) ofNat_mod_signMask)
  · exact computes_plain (opc := 0x109) _ rfl (by decide) rfl (fun _ => rfl)
      (.sign h (fun a => a ^^^ 2 ^ (h.fmt.width - 1)) (fun _ _ _ => rfl) ofNat_xor_signMask)
  · exact computes_lit (opc := 0x110) _ rfl (by decide) rfl (fun _ => rfl) (.fcmp h _ _ _)
  · exact computes_lit (opc := 0x111) _ rfl (by decide) rfl (fun _ => rfl) (.fcmp h _ _ _)
  · exact computes_lit (opc := 0x112) _ rfl (by decide) rfl (fun _ => rfl) (.fcmp h _ _ _)
  · exact computes_lit (opc := 0x113) _ rfl (by decide) rfl (fun _ => rfl) (.fcmp h _ _ _)
  · exact computes_lit (opc := 0x114) _ rfl (by decide) rfl (fun _ => rfl) (.fcmp h _ _ _)
  · exact computes_lit (opc := 0x115) _ rfl (by decide) rfl (fun _ => rfl) (.fcmp h _ _ _)
  · exact computes_lit (opc := 0x116) _ rfl (by decide) rfl (fun _ => rfl) (.fcmp h _ _ _)

/-- Settles O33: what each instruction rounds (`floatArithmeticRoundsOnce`, `specialFunctions`), and how those that do not round
choose, change a sign or compare (`floatSelectionSignAndCompare`). -/
theorem floatInstructions : Obligations.FloatInstructions :=
  ⟨floatArithmeticRoundsOnce, floatSelectionSignAndCompare, specialFunctions⟩

end Sys2Proof.Machine
end

section
/-! Proof of the statement on CVT and CVTNF (R121, R128 to R132; O5). -/
namespace Sys2Proof.Machine

/-! A conversion of elements, on numbers and on bits (R130, R132). -/

/-- A conversion of numbers is one of bits, reduced to the width of its result. -/
def ConvertsBits {ws wd : Nat} (conv : Nat → Nat × Nat) (g : BitVec ws → BitVec wd × Nat) : Prop :=
  ∀ x : BitVec ws, BitVec.ofNat wd (conv x.toNat).1 = (g x).1 ∧ (conv x.toNat).2 = (g x).2

/-- An integer read from bits and cut to another width is the bits extended or truncated (R69). -/
theorem ofInt_elInt_extend {w : Nat} (sg : Bool) (x : BitVec w) (v : Nat) :
    BitVec.ofInt v (elInt sg x) = if sg then x.signExtend v else x.setWidth v := by
  cases sg
  · exact (BitVec.ofInt_natCast ..).trans (BitVec.ofNat_toNat ..)
  · rfl

/-- CVT's conversion: between integer types by value, and otherwise by the model's rounding (R130). -/
theorem convElem_bits (src : Ty) (c : CvtCtl) : ConvertsBits (convElem src c.dtype c.sati c.rmode) (cvtEl src c) := by
  intro x
  unfold cvtEl
  by_cases ints : (src.isInt && c.dtype.isInt) = true
  · obtain ⟨int, int'⟩ := Bool.and_eq_true_iff.mp ints
    rw [if_pos ints, convElem, if_pos int, intVal_elInt]
    dsimp only
    rw [if_pos int']
    split
    · simp only [← ofNat_clampInt, and_self]
    · simp only [ofNat_wrapInt, ofInt_elInt_extend, plainEl, and_self]
  · rw [if_neg ints]
    exact ⟨rfl, rfl⟩

/-- CVTNF's conversion to an IEEE type: a NaN code gives the canonical NaN, which raises no flag there (R132). -/
theorem nfDec_bits (nf : FFmt) (c : CvtNfCtl) : ConvertsBits (fun x =>
    match nf.val (x % 2 ^ nf.width) with
    | .nan _ => (fmtOf c.other).nan
    | v => (fmtOf c.other).put c.rmode v) (nfDecEl nf c) := by
  have quiet : (fmtOf c.other).nan.2 = 0 := by cases c.other <;> rfl
  intro x
  unfold nfDecEl
  dsimp only
  cases nf.val (x.toNat % 2 ^ nf.width) with
  | nan _ => exact ⟨rfl, quiet⟩
  | inf _ | fin _ _ _ => exact ⟨rfl, rfl⟩

/-- CVTNF's conversion to NF rounds the value of its operand (R132). -/
theorem nfEnc_bits (nf : FFmt) (c : CvtNfCtl) :
    ConvertsBits (fun x => nf.put c.rmode ((fmtOf c.other).val x)) (nfEncEl nf c) := fun _ => ⟨rfl, rfl⟩

/-! Lanes of the destination (R10, R92, R129). -/

/-- A bit of numbers joined by OR is a bit of one of them. -/
theorem testBit_foldl_or {α : Type} (g : α → Nat) (l : List α) (i : Nat) :
    (l.foldl (fun m r => m ||| g r) 0).testBit i = true ↔ ∃ r ∈ l, (g r).testBit i = true := by
  have from_ (m : Nat) : (l.foldl (fun m r => m ||| g r) m).testBit i = true ↔ m.testBit i = true ∨ ∃ r ∈ l, (g r).testBit i = true := by
    induction l generalizing m with
    | nil => simp
    | cons a l ih => rw [List.foldl_cons, ih]; simp [or_assoc]
  rw [from_]
  simp

/-- The lanes of an element: the one it stands in, and the next for an element of 64 bits. -/
theorem testBit_laneBits (w j lane : Nat) :
    (laneBits w j).testBit lane = true ↔ laneOf w j = lane ∨ w = 64 ∧ laneOf w j + 1 = lane := by
  unfold laneBits laneOf
  by_cases wide : w = 64
  · have split : 3 * 2 ^ (2 * j) = 2 ^ (2 * j) ||| 2 ^ (2 * j + 1) := by
      have joined : (1 ||| 2) <<< (2 * j) = 1 <<< (2 * j) ||| 2 <<< (2 * j) := Nat.shiftLeft_or_distrib
      rw [Nat.shiftLeft_eq, Nat.shiftLeft_eq, Nat.shiftLeft_eq, one_mul, ← Nat.pow_succ'] at joined
      exact joined
    rw [if_pos wide, if_pos wide, split, Nat.testBit_or]
    simp [Nat.testBit_two_pow, wide]
  · rw [if_neg wide, if_neg wide]
    simp [Nat.testBit_two_pow, wide]

/-! A vector conversion, position by position (R129). -/

/-- What a destination position gets (R129): its bits, the lanes it turns on, and its flags. -/
def convAt (a : Tok) (ws wd part : Nat) (conv : Nat → Nat × Nat) (p : Nat) : Nat × Nat × Nat :=
  match convSource ws wd part p with
  | some q => if convActive a ws q then ((conv (a.elem ws q)).1, laneBits wd p, (conv (a.elem ws q)).2) else (a.elem wd p, 0, 0)
  | none => (0, 0, 0)

/-- A vector conversion packs what its positions get, and joins their lanes and flags (R129). -/
theorem convVector_eq (a : Tok) (ws wd part : Nat) (conv : Nat → Nat × Nat) : convVector a ws wd part conv =
    let l := List.range (512 / wd)
    (BitVec.ofNat 512 (packElems wd (l.map (fun p => (convAt a ws wd part conv p).1))),
      l.foldl (fun m p => m ||| (convAt a ws wd part conv p).2.1) 0,
      l.foldl (fun m p => m ||| (convAt a ws wd part conv p).2.2) 0) := by
  unfold convVector
  dsimp only
  rw [List.map_congr_left (g := convAt a ws wd part conv)]
  · simp only [List.map_map, List.foldl_map, Function.comp_def]
  · intro p _
    unfold convAt convSource convActive
    by_cases narrow : wd ≤ ws
    · simp only [if_pos narrow, Bool.and_eq_true, decide_eq_true_eq]
      split <;> rfl
    · simp only [if_neg narrow]

section
variable {a : Tok} {ws wd part : Nat} {conv : Nat → Nat × Nat} {g : BitVec ws → BitVec wd × Nat}

/-- A position outside the part gets zero. -/
theorem convAt_none {p : Nat} (src : convSource ws wd part p = none) : convAt a ws wd part conv p = (0, 0, 0) := by
  rw [convAt, src]

/-- A position with a source element gets it converted, or A's own bits where the element is inactive. -/
theorem convAt_some {p q : Nat} (src : convSource ws wd part p = some q) : convAt a ws wd part conv p =
    if convActive a ws q then ((conv (a.elem ws q)).1, laneBits wd p, (conv (a.elem ws q)).2) else (a.elem wd p, 0, 0) := by
  rw [convAt, src]

/-- No element is active under a mask of zero. -/
theorem convActive_empty (empty : a.lmask = 0) (q : Nat) : convActive a ws q = false := by simp [convActive, empty]

/-- A position turns on the lanes of its element where that is converted (R129). -/
theorem testBit_convAt_lanes (p lane : Nat) : (convAt a ws wd part conv p).2.1.testBit lane = true ↔
    ∃ q, convSource ws wd part p = some q ∧ convActive a ws q = true ∧ (laneOf wd p = lane ∨ wd = 64 ∧ laneOf wd p + 1 = lane) := by
  cases src : convSource ws wd part p with
  | none => simp [convAt_none src]
  | some q =>
    rw [convAt_some src]
    by_cases on : convActive a ws q = true
    · simp [on, testBit_laneBits]
    · simp [on]

variable (bits : ConvertsBits conv g) (fits : ws ≤ 64)
include bits fits

/-- An element of A, converted. -/
theorem conv_elem (q : Nat) : BitVec.ofNat wd (conv (a.elem ws q)).1 = (g (a.bits ws q)).1 ∧
    (conv (a.elem ws q)).2 = (g (a.bits ws q)).2 := by
  rw [elem_bits a ws q (by omega)]
  exact bits _

/-- The flags of a conversion of a vector are those of its converted elements (R129). -/
theorem convVector_flags (vec : a.vec = true) : (convVector a ws wd part conv).2.2 = convFlags a ws wd part g := by
  rw [convVector_eq, convFlags, if_pos vec]
  dsimp only
  congr 1
  funext m p
  cases src : convSource ws wd part p with
  | none => rw [convAt_none src]
  | some q =>
    rw [convAt_some src]
    dsimp only
    split
    · rw [(conv_elem bits fits q).2]
    · rfl

/-- A scalar's flags are those of its one element (R129). -/
theorem convFlags_scalar (scalar : a.vec = false) : (conv (a.elem ws 0)).2 = convFlags a ws wd part g := by
  rw [convFlags, if_neg (by simp [scalar]), (conv_elem bits fits 0).2]

end

/-- A vector with no lane raises no flag (R93). -/
theorem convFlags_empty {a : Tok} {ws wd part : Nat} {g : BitVec ws → BitVec wd × Nat} (vec : a.vec = true) (empty : a.lmask = 0) :
    convFlags a ws wd part g = 0 := by
  rw [convFlags, if_pos vec]
  refine List.foldlRecOn (motive := (· = 0)) _ _ rfl fun m zero p _ => ?_
  cases convSource ws wd part p with
  | none => simp [zero]
  | some q => simp [zero, convActive_empty empty]

/-- Position `p` of the payload of a vector conversion holds what that position gets (R10). -/
theorem convVector_elem {wd p : Nat} (a : Tok) (ws part : Nat) (conv : Nat → Nat × Nat) (hp : p < 512 / wd) :
    (convVector a ws wd part conv).1.extractLsb' (wd * p) wd = BitVec.ofNat wd (convAt a ws wd part conv p).1 := by
  rw [convVector_eq]
  dsimp only
  rw [packed_extract _ _ _ (by simpa using hp) (by simpa using Nat.mul_div_le 512 wd)]
  simp

/-- A lane of a destination is on exactly where it holds a converted active element (R129). -/
theorem convVector_lanes (a : Tok) (ws wd part : Nat) (conv : Nat → Nat × Nat) {lane : Nat} (hl : lane < 16) :
    (BitVec.ofNat 16 (convVector a ws wd part conv).2.1).getLsbD lane = true ↔ ∃ p q, p < 512 / wd ∧
      convSource ws wd part p = some q ∧ convActive a ws q = true ∧ (laneOf wd p = lane ∨ wd = 64 ∧ laneOf wd p + 1 = lane) := by
  rw [BitVec.getLsbD_ofNat, convVector_eq]
  simp only [hl, decide_true, Bool.true_and, testBit_foldl_or, testBit_convAt_lanes, List.mem_range, exists_and_left]

/-! The token of a conversion (R93, R129). -/

section
variable {f : Firing} {h : Hdr} {ws wd part : Nat} {dst : Ty} {g : BitVec ws → BitVec wd × Nat}

/-- A vector with no lane passes unchanged (R93). -/
theorem convTok_empty (vec : (f.op 0).vec = true) (empty : (f.op 0).lmask = 0) :
    convTok f h ws wd part dst g (newTok f h (usedBy f h) (some (f.op 0)) dst true (f.op 0).data) := by
  unfold convTok
  dsimp only
  rw [if_pos vec]
  refine ⟨(f.op 0).data, outMask h true (some (f.op 0)), ?_, fun _ => rfl, fun some_ => absurd empty some_, ?_⟩
  · simp only [vecTok, newTok_eq, usedBy]
  · cases lpass : h.ofl.lpass with
    | false => simp [outMask, lpass]
    | true =>
      have mask : outMask h true (some (f.op 0)) = (f.op 0).lmask := by simp [outMask, lpass, vec]
      rw [mask]
      by_cases same : ws = wd
      · simp [same]
      · simp [same, empty, convActive_empty empty]

variable {conv : Nat → Nat × Nat} (bits : ConvertsBits conv g) (fits : ws ≤ 64)
include bits fits

/-- A vector's elements are converted position by position (R129). -/
theorem convTok_vec (vec : (f.op 0).vec = true) (some_ : (f.op 0).lmask ≠ 0) (narrow : wd ≤ 64) :
    convTok f h ws wd part dst g { newTok f h (usedBy f h) (some (f.op 0)) dst true (convVector (f.op 0) ws wd part conv).1 with
      lmask := if !h.ofl.lpass then 0xFFFF else if ws = wd then (f.op 0).lmask
        else BitVec.ofNat 16 (convVector (f.op 0) ws wd part conv).2.1 } := by
  unfold convTok
  dsimp only
  rw [if_pos vec]
  refine ⟨_, _, rfl, fun empty => absurd empty some_, fun _ p hp => ?_, ?_⟩
  · rw [convVector_elem _ _ _ _ hp]
    cases src : convSource ws wd part p with
    | none => rw [convAt_none src]; rfl
    | some q =>
      rw [convAt_some src]
      dsimp only
      split
      · exact (conv_elem bits fits q).1
      · rw [elem_bits _ _ _ (by omega), BitVec.ofNat_toNat, BitVec.setWidth_eq]
  · split
    · rfl
    · split
      · rfl
      · exact fun lane hl => convVector_lanes _ _ _ _ _ hl

/-- A scalar's element is converted (R129). -/
theorem convTok_scalar (scalar : (f.op 0).vec = false) (pos : 0 < wd) (narrow : wd ≤ 64) :
    convTok f h ws wd part dst g
      (newTok f h (usedBy f h) (some (f.op 0)) dst false (scalarData dst wd (conv ((f.op 0).elem ws 0)).1)) := by
  unfold convTok
  dsimp only
  rw [if_neg (by simp [scalar])]
  refine ⟨_, rfl, ?_⟩
  rw [Holds, if_neg (by decide), scalarData_bits dst wd narrow pos, (conv_elem bits fits 0).1]

/-- A conversion sends one token, with the flags of its converted elements; a vector with no lane takes one cycle (R93, R129). -/
theorem convOut_spec (pos : 0 < wd) (narrow : wd ≤ 64) (n : Nat) : ∃ k, convTok f h ws wd part dst g k ∧ (k.tag, k.depth) = f.tagOf ∧
    convOut f h ws wd part dst n conv =
      { sends := both h k, n := if passThrough f then 1 else n, ports := portsOf h, used := usedBy f h,
        flags := convFlags (f.op 0) ws wd part g } := by
  have tagged (vec : Bool) (d : Payload) : ((newTok f h (usedBy f h) (some (f.op 0)) dst vec d).tag,
      (newTok f h (usedBy f h) (some (f.op 0)) dst vec d).depth) = f.tagOf := Prod.ext (newTok_tag ..) (newTok_depth ..)
  unfold convOut
  dsimp only
  cases vec : (f.op 0).vec with
  | false =>
    have whole : passThrough f = false := by simp [passThrough, vec]
    refine ⟨_, convTok_scalar bits fits vec pos narrow, tagged .., ?_⟩
    simp only [whole, Bool.false_eq_true, if_false, convFlags_scalar (part := part) bits fits vec]
  | true =>
    by_cases empty : (f.op 0).lmask = 0
    · have passes : passThrough f = true := by simp [passThrough, vec, empty]
      refine ⟨_, convTok_empty vec empty, tagged .., ?_⟩
      simp only [passes, if_true, convFlags_empty vec empty]
    · have whole : passThrough f = false := by rw [passThrough, vec]; simpa using empty
      refine ⟨_, convTok_vec bits fits vec empty narrow, tagged .., ?_⟩
      simp only [whole, Bool.false_eq_true, if_false, if_true, convVector_flags bits fits vec]

/-- A clear firing of a conversion sends that token (R129). -/
theorem fire_conv {s : State} (pos : 0 < wd) (narrow : wd ≤ 64) (n : Nat)
    (clear : Clear s f [h.t0, h.t1] f.tagOf (convFlags (f.op 0) ws wd part g) 0) :
    let t := State.fire { s with cur := none } f (convOut f h ws wd part dst n conv)
    ∃ k, convTok f h ws wd part dst g k ∧
      Emits s t f (if passThrough f then 1 else n) (convFlags (f.op 0) ws wd part g) (List.range h.arity)
        (onTargets (s.ctx f.ent.ctx).tl f.x [h.t0, h.t1] k) ∧ Kept s t f := by
  obtain ⟨k, tok, tagged, out⟩ := convOut_spec (f := f) (h := h) (part := part) (dst := dst) bits fits pos narrow n
  rw [out]
  rw [← tagged] at clear
  exact ⟨k, tok, fire_targets s f _ [h.t0, h.t1] k rfl clear⟩

end

/-! CVT and CVTNF. -/

/-- The container of an NF code has four bits or eight (R76). -/
theorem cont_bounds (nf : FFmt) : 0 < nf.cont ∧ nf.cont ≤ 64 := by
  unfold FFmt.cont; split <;> omega

/-- A firing takes one cycle where a vector with no lane passes (R93). -/
theorem convTime_eq (h : Hdr) (c : CvtCtl) (f : Firing) :
    (if passThrough f then 1 else if (h.fmt.width = 64 || c.dtype.width = 64) && (f.op 0).vec then 2 else 1) =
      if (h.fmt.width = 64 ∨ c.dtype.width = 64) ∧ (f.op 0).vec ∧ ¬ passThrough f then 2 else 1 := by
  by_cases passes : passThrough f = true <;> simp [passes]

/-- Settles O5: a firing of either instruction sends one converted token (`fire_conv`), by the conversion of numbers that is the
statement's on bits (`convElem_bits`, `nfDec_bits`, `nfEnc_bits`). -/
theorem conversions : Obligations.Conversions := by
  intro h c e
  refine ⟨fun s f _ _ clear => ?_, fun dec s f _ _ clear => ?_, fun enc s f _ _ clear => ?_⟩
  · obtain ⟨k, tok, sent⟩ := fire_conv (dst := c.dtype) (convElem_bits h.fmt c) (width_le _) (width_pos _) (width_le _) _ clear
    rw [convTime_eq h c] at sent
    exact ⟨k, _, tok, exec_firing (show exec (.cvt h c) s = execCvt h c s from rfl) clear.cur rfl, sent⟩
  · obtain ⟨pos, narrow⟩ := cont_bounds (nfRead s f e)
    obtain ⟨k, tok, sent⟩ := fire_conv (dst := e.other) (nfDec_bits (nfRead s f e) e) narrow (width_pos _) (width_le _) 1 clear
    rw [ite_self] at sent
    exact ⟨k, _, tok, exec_firing (show exec (.cvtnf h e) s = execCvtnf h e s from rfl) clear.cur (if_neg (by simp [dec])), sent⟩
  · obtain ⟨pos, narrow⟩ := cont_bounds (nfRead s f e)
    obtain ⟨k, tok, sent⟩ := fire_conv (dst := .nf) (nfEnc_bits (nfRead s f e) e) (width_le _) pos narrow 1 clear
    rw [ite_self] at sent
    exact ⟨k, _, tok, exec_firing (show exec (.cvtnf h e) s = execCvtnf h e s from rfl) clear.cur (if_pos enc), sent⟩

end Sys2Proof.Machine
end

section
/-! What finding the entries and the key of a key-store instruction leaves, and what a firing that changes a store sends and keeps (R134
to R152). -/
namespace Sys2Proof.Machine

/-! The firing under way, while the homes of bytes are found. -/

/-- The firing under way is as it was. -/
def SameCur (s t : State) : Prop := t.cur = s.cur

/-- Finding the homes of bytes leaves the firing under way. -/
theorem SameCur.homeFrame : HomeFrame SameCur where
  refl _ := rfl
  trans h k := Eq.trans k h
  modMem _ _ := rfl
  setByte s a b := by unfold State.setByte; split <;> rfl
  setPoison _ _ _ := rfl
  freeVal _ := rfl
  tile _ _ _ := rfl
  sampler _ _ _ := rfl
  wakes _ _ _ := rfl

namespace HomeFrame
variable {R : State → State → Prop} (hR : HomeFrame R)
include hR

/-- Naming bytes by a handle, behind the range scoreboard (R241). -/
theorem cellSpots (s : State) (x : Site) (c h o n : Nat) (write : Bool) : R s (s.cellSpots x c h o n write).2 := by
  have checked := hR.checkHandle s x c h o n
  unfold State.cellSpots
  split
  case h_1 found => rw [found] at checked; exact checked
  case h_2 e s1 found =>
    rw [found] at checked
    refine hR.trans checked ?_
    extract_lets a
    split
    · exact hR.refl s1
    · exact hR.spots s1 x c h o n write

/-- Waking the banks of the pair's own tile (R242). -/
theorem tileReady (s : State) (x : Site) (o n : Nat) : R s (s.tileReady x o n).2 := by
  have woken := hR.bankCheck s x o n
  unfold State.tileReady
  split <;> (rename_i found; rw [found] at woken; exact woken)

/-- Reading the entries of a store from where they stand (R135). -/
theorem region (s : State) (x : Site) (ctx : Nat) (v : View) : R s (s.region x ctx v).2 := by
  unfold State.region
  split
  · exact hR.refl s
  · have tile := hR.tileReady s x 0 65536
    split <;> (rename_i found; rw [found] at tile; exact tile)
  · have checked := hR.checkHandle s x ctx v.hndl 0 0
    split
    case h_1 found => rw [found] at checked; exact checked
    case h_2 e s1 found =>
      rw [found] at checked
      refine hR.trans checked ?_
      have named := hR.cellSpots s1 x ctx v.hndl 0 (e.bound / v.size * v.size) false
      dsimp only
      split <;> (rename_i found; rw [found] at named; exact named)

/-- Seeing the store that a firing names (R152). -/
theorem view (s : State) (x : Site) (ctx node : Nat) : R s (s.view x ctx node).2 := by
  unfold State.view
  split
  · exact hR.refl s
  case h_2 v _ =>
    split
    · exact hR.refl s
    have read := hR.region s x ctx v
    split <;> (rename_i found; rw [found] at read; exact read)

/-- Reading a query or a key (R143). -/
theorem readKey (s : State) (f : Firing) (a : Tok) (ref : Bool) (d kw : Nat) : R s (s.readKey f a ref d kw).2 := by
  unfold State.readKey
  dsimp only
  split
  · exact hR.refl s
  have named := hR.cellSpots s f.x f.ent.ctx (fld a.data.toNat 48 16) (fld a.data.toNat 0 48) ((d * kw + 7) / 8) false
  split <;> (rename_i found; rw [found] at named; exact named)

/-- Finding the places of an entry's bytes, one write after another. -/
theorem storeSpots (s : State) (x : Site) (ctx : Nat) (v : View) (l : List (Nat × List Byte)) : R s (s.storeSpots x ctx v l).2 := by
  induction l generalizing s with
  | nil => exact hR.refl s
  | cons p l ih =>
    obtain ⟨o, bs⟩ := p
    have named : R s (if v.c.res = .mtile then s.tileReady x o bs.length else s.cellSpots x ctx v.hndl o bs.length true).2 := by
      split
      · exact hR.tileReady ..
      · exact hR.cellSpots ..
    unfold State.storeSpots
    split
    case h_1 found => rw [found] at named; exact named
    case h_2 r s1 found =>
      rw [found] at named
      have rest := ih s1
      split <;> (rename_i found; rw [found] at rest; exact hR.trans named rest)

/-- Finding the places that a change of a store writes (R137). -/
theorem plan (s : State) (x : Site) (ctx : Nat) (v : View) (new : List KEnt) : R s (s.plan x ctx v new).2 := by
  unfold State.plan
  split
  · exact hR.refl s
  · exact hR.storeSpots ..

end HomeFrame

/-- No firing is under way once the store of one has been seen. -/
theorem cur_of_view {s s1 : State} {x : Site} {ctx node : Nat} {r : Except Block (Option View)}
    (seen : State.view { s with cur := none } x ctx node = (r, s1)) : s1.cur = none := by
  have kept := SameCur.homeFrame.view { s with cur := none } x ctx node
  rw [seen] at kept
  exact kept

/-- Reading a key leaves that no firing is under way. -/
theorem cur_of_readKey {s s1 : State} {f : Firing} {a : Tok} {ref : Bool} {d kw : Nat} {r : Except Block (List Nat × Bool)}
    (read : s.readKey f a ref d kw = (r, s1)) (cur : s.cur = none) : s1.cur = none := by
  have kept := SameCur.homeFrame.readKey s f a ref d kw
  rw [read] at kept
  exact Eq.trans kept cur

/-- Planning a change of a store leaves that no firing is under way. -/
theorem cur_of_plan {s s1 : State} {x : Site} {ctx : Nat} {v : View} {new : List KEnt} {r : Except Block (List (List Spot × List Byte))}
    (planned : s.plan x ctx v new = (r, s1)) (cur : s.cur = none) : s1.cur = none := by
  have kept := SameCur.homeFrame.plan s x ctx v new
  rw [planned] at kept
  exact Eq.trans kept cur

/-! The contents of memory, from the issue of a firing to the change of a store. -/

/-- What memory holds is as it was, and what it reads as where nothing is listed. -/
structure SameMemory (s t : State) : Prop where
  mem : t.mem = s.mem
  lost : t.lost = s.lost
  steps : t.steps = s.steps

namespace SameMemory
variable {s t u : State}

theorem refl (s : State) : SameMemory s s := ⟨rfl, rfl, rfl⟩

theorem trans (h : SameMemory s t) (k : SameMemory t u) : SameMemory s u :=
  ⟨k.mem.trans h.mem, k.lost.trans h.lost, k.steps.trans h.steps⟩

theorem byte (h : SameMemory s t) (a : Nat) : t.byte a = s.byte a := by
  rw [State.byte, State.byte, h.mem, h.lost, h.steps]

theorem setByte (h : SameMemory s t) (a : Nat) (b : Byte) : SameMemory (s.setByte a b) (t.setByte a b) := by
  unfold State.setByte
  split
  · exact h
  · exact ⟨by rw [h.lost, h.mem], h.lost, h.steps⟩

theorem writeSpots (h : SameMemory s t) (l : List Spot) (bs : List Byte) : SameMemory (s.writeSpots l bs) (t.writeSpots l bs) := by
  induction l generalizing s t bs with
  | nil => exact h
  | cons p l ih =>
    cases bs with
    | nil => exact h
    | cons b bs => exact ih (h.setByte p.addr b) bs

/-- The writes of a planned change, on two states of one memory. -/
theorem writes (h : SameMemory s t) (w : List (List Spot × List Byte)) :
    SameMemory (w.foldl (fun u p => u.writeSpots p.1 p.2) s) (w.foldl (fun u p => u.writeSpots p.1 p.2) t) := by
  induction w generalizing s t with
  | nil => exact h
  | cons p w ih => exact ih (h.writeSpots p.1 p.2)

/-- A firing that issues leaves memory. -/
theorem issued (s : State) (f : Firing) (o : Out) (toks : List Tok) : SameMemory s (s.issued f o toks) := by
  have consume : SameMemory s (s.consume f o.ports) := by
    unfold State.consume; split <;> exact ⟨rfl, rfl, rfl⟩
  have raise (t : State) : SameMemory t (t.raise f.ent.ctx o.flags) := by
    unfold State.raise; split <;> exact ⟨rfl, rfl, rfl⟩
  have traced (t : State) : SameMemory t (if f.taken then t else t.traceFire f (s.opcOf f) o.used toks) := by
    rcases traced_spec t f (s.opcOf f) o.used toks with h | ⟨l, h⟩ <;> rw [h] <;> exact ⟨rfl, rfl, rfl⟩
  have again (t : State) : SameMemory t (t.again f) := by
    rcases again_spec t f with h | ⟨g, h, -⟩ <;> rw [h] <;> exact ⟨rfl, rfl, rfl⟩
  have progress (t : State) : SameMemory t (t.progress f.ent.ctx) := by
    unfold State.progress; split <;> exact ⟨rfl, rfl, rfl⟩
  have busy (t : State) (g : Cell → Cell) : SameMemory t (t.modCell f.x g) := ⟨rfl, rfl, rfl⟩
  exact (consume.trans (raise _)).trans ((traced _).trans ((busy _ _).trans ((again _).trans (progress _))))

end SameMemory

/-! A change of a store (R151). -/

/-- Bytes that are written at once change the list of memory alone. -/
theorem writeSpots_eq (s : State) (l : List Spot) (bs : List Byte) : ∃ m, s.writeSpots l bs = { s with mem := m } := by
  induction l generalizing s bs with
  | nil => exact ⟨s.mem, rfl⟩
  | cons p l ih =>
    cases bs with
    | nil => exact ⟨s.mem, rfl⟩
    | cons b bs =>
      obtain ⟨m, written⟩ := ih (s.setByte p.addr b) bs
      refine ⟨m, written.trans ?_⟩
      unfold State.setByte
      split <;> rfl

/-- The writes of a planned change change the list of memory alone. -/
theorem writes_eq (s : State) (w : List (List Spot × List Byte)) :
    ∃ m, w.foldl (fun u p => u.writeSpots p.1 p.2) s = { s with mem := m } := by
  induction w generalizing s with
  | nil => exact ⟨s.mem, rfl⟩
  | cons p w ih =>
    obtain ⟨m, first⟩ := writeSpots_eq s p.1 p.2
    obtain ⟨n, rest⟩ := ih (s.writeSpots p.1 p.2)
    exact ⟨n, rest.trans (by rw [first])⟩

/-- A store once a planned change is made, `g` giving its numbers (R151). -/
def KStore.changed (v : View) (new : List KEnt) (g : KStore → KStore) (k : KStore) : KStore :=
  g { k with ents := if v.c.res = .frame then new else [], fresh := k.fresh && new == v.ents }

/-- A planned change writes its bytes, and changes a store of its cell. -/
theorem commitStore_eq (s : State) (x : Site) (v : View) (new : List KEnt) (w : List (List Spot × List Byte)) (g : KStore → KStore) :
    ∃ m, s.commitStore x v new w g =
      State.modCell { s with mem := m } x (fun c => c.modStore v.k.ctx v.k.node (KStore.changed v new g)) := by
  obtain ⟨m, written⟩ := writes_eq s w
  exact ⟨m, by rw [State.commitStore, written]; rfl⟩

/-- The cell whose store has changed. -/
theorem cell_commitStore (s : State) (x : Site) (v : View) (new : List KEnt) (w : List (List Spot × List Byte)) (g : KStore → KStore) :
    (s.commitStore x v new w g).cell x = (s.cell x).modStore v.k.ctx v.k.node (KStore.changed v new g) := by
  obtain ⟨m, made⟩ := commitStore_eq s x v new w g
  rw [made, cell_modCell_same]
  rfl

/-- The numbers that a change gives a store leave its name. -/
def Renumbers (g : KStore → KStore) : Prop := ∀ k, (g k).ctx = k.ctx ∧ (g k).node = k.node

/-- A store that has changed, and is named as before, is found by its name. -/
theorem store_modStore {c : Cell} {ctx node : Nat} {g : KStore → KStore} (named : Renumbers g) :
    (c.modStore ctx node g).store ctx node = (c.store ctx node).map g :=
  find?_lmap _ g (fun k hk => by rw [(named k).1, (named k).2]; exact hk) _

theorem Kept.stores {s t : State} {f : Firing} (h : Kept s t f) : (t.cell f.x).stores = (s.cell f.x).stores := (congrArg Cell.stores h.cell :)

/-- A change made of the store of a firing that has issued, whatever follows in the cell's pipeline. -/
theorem storeChanged_of_issued {s t : State} {f : Firing} {o : Out} {v : View} {new : List KEnt} {w : List (List Spot × List Byte)}
    {g : KStore → KStore} (toks : List Tok) (named : Renumbers g)
    (stores : (t.cell f.x).stores = (((s.issued f o toks).commitStore f.x v new w g).cell f.x).stores)
    (bytes : ∀ a, t.byte a = ((s.issued f o toks).commitStore f.x v new w g).byte a) : StoreChanged s t f v new w g where
  store k found := by
    have kept : ((s.issued f o toks).cell f.x).stores = (s.cell f.x).stores := (issued_spec s f o toks).kept.stores
    have there : ((s.issued f o toks).cell f.x).store v.k.ctx v.k.node = some k := by rw [Cell.store, kept]; exact found
    rw [Cell.store, stores, cell_commitStore]
    exact (store_modStore (g := KStore.changed v new g) (fun k => named _)).trans (congrArg _ there)
  bytes a := (bytes a).trans (((SameMemory.issued s f o toks).writes w).byte a)

/-- What S6 sees of a state, so that a firing's tokens leave alike from two states that agree in it (R96, R167, R358). -/
structure SendsAlike (s t : State) (f : Firing) : Prop where
  cycle : t.cycle = s.cycle
  cur : t.cur = s.cur
  aflags : (t.ctx f.ent.ctx).aflags = (s.ctx f.ent.ctx).aflags
  pipe : (t.cell f.x).pipe = (s.cell f.x).pipe
  spat : (t.cell f.x).spat = (s.cell f.x).spat
  slots : (t.cell f.x).slots = (s.cell f.x).slots
  blks : (t.cell f.x).blks = (s.cell f.x).blks

/-- A firing that has issued, and then done what S6 does not see, sends its tokens as any other. -/
theorem emits_depart_of_sendsAlike {s t : State} {f : Firing} {o : Out} (toks : List Tok) (cur : s.cur = none)
    (alike : SendsAlike (s.issued f o toks) t f) : Emits s (t.depart f o.n toks) f o.n o.flags o.ports toks := by
  have issued := issued_spec s f o toks
  generalize s.issued f o toks = a at *
  obtain ⟨b, pipe, busy⟩ := issued.pipe
  have pipeT := alike.pipe.trans pipe
  have spatT := alike.spat.trans issued.spat
  have inward : (t.cell f.x).inward f.x = (s.cell f.x).inward f.x := by
    funext k
    simp only [Cell.inward, Cell.blkOf, spatT, alike.blks, issued.kept.blks, SpatSt.taken_on]
  obtain ⟨-, curD, aflagsD, slotsD, busyD, spatD, due, dueLe, dueEq, depsD⟩ := depart_spec t f o.n toks
  rw [inward] at spatD depsD
  rw [alike.cycle, issued.kept.time.1] at dueLe dueEq
  rw [pipeT] at busyD dueEq depsD
  exact
    { deps := ⟨due, dueLe, dueEq, depsD⟩
      inner := by rw [spatD, spatT, SpatSt.taken_inner]
      slots := slotsD.trans (alike.slots.trans issued.slots)
      stages := by rw [spatD, spatT, SpatSt.taken_busy]
      aflags := aflagsD.trans (alike.aflags.trans issued.aflags)
      busy := Nat.le_trans busy busyD
      done := by rw [curD, alike.cur, issued.cur, cur] }

/-- S6 does not see a change of a store. -/
theorem commitStore_sendsAlike (s : State) (f : Firing) (v : View) (new : List KEnt) (w : List (List Spot × List Byte))
    (g : KStore → KStore) : SendsAlike s (s.commitStore f.x v new w g) f := by
  have cell := cell_commitStore s f.x v new w g
  obtain ⟨m, made⟩ := commitStore_eq s f.x v new w g
  exact ⟨by rw [made]; rfl, by rw [made]; rfl, by rw [made]; rfl, by rw [cell]; rfl, by rw [cell]; rfl, by rw [cell]; rfl,
    by rw [cell]; rfl⟩

end Sys2Proof.Machine
end

section
/-! Proofs of the statements on the key-store instructions (R147, R149, R150; O42). -/
namespace Sys2Proof.Machine

/-- A firing sees the store of its own cell: the operation goes on there (R152). -/
theorem storeOp_own {s s1 : State} {f : Firing} {h : Hdr} {node : Nat} {fmt : Ty} {kind : LKind} {k : State → View → State} {v : View}
    (seen : s.view f.x f.ent.ctx node = (.ok (some v), s1)) (own : v.c.sh = false) : s.storeOp f h node fmt kind k = k s1 v := by
  simp [State.storeOp, seen, own]

/-- A clear firing that changes a store makes the planned change and sends its number on both targets. -/
theorem storeChange_clear {s s2 : State} {f : Firing} {h : Hdr} {v : View} {new : List KEnt} {tok : Tok} {g : KStore → KStore}
    {w : List (List Spot × List Byte)} (cur : s.cur = none) (named : Renumbers g) (tagged : (tok.tag, tok.depth) = f.tagOf)
    (planned : s.plan f.x f.ent.ctx v new = (.ok w, s2)) (clear : Clear { s2 with cur := some f } f [h.t0, h.t1] f.tagOf 0 0) :
    StoreChanged s2 (s.storeChange f h v new tok g) f v new w g ∧
      Emits s2 (s.storeChange f h v new tok g) f 1 0 (List.range h.arity) (onTargets (s2.ctx f.ent.ctx).tl f.x [h.t0, h.t1] tok) := by
  have cur2 := cur_of_plan planned cur
  obtain ⟨sent, exits⟩ := sendList_targets (s2.ctx f.ent.ctx).tl f.x [h.t0, h.t1] tok (by rw [tagged]; exact clear.tags)
  have runs : s.storeChange f h v new tok g =
      ((s2.issued f (numOut f h tok) (onTargets (s2.ctx f.ent.ctx).tl f.x [h.t0, h.t1] tok)).commitStore f.x v new w g).depart f 1
        (onTargets (s2.ctx f.ent.ctx).tl f.x [h.t0, h.t1] tok) := by
    rw [State.storeChange, planned]
    exact issue_clear s2 f (numOut f h tok) _ _ (Nat.zero_and _) sent (by rw [exits]; exact clear.exits)
  rw [runs]
  have kept := (depart_spec ((s2.issued f (numOut f h tok) (onTargets (s2.ctx f.ent.ctx).tl f.x [h.t0, h.t1] tok)).commitStore
    f.x v new w g) f 1 (onTargets (s2.ctx f.ent.ctx).tl f.x [h.t0, h.t1] tok)).1
  exact ⟨storeChanged_of_issued _ named kept.stores kept.byte,
    emits_depart_of_sendsAlike (o := numOut f h tok) _ cur2 (commitStore_sendsAlike ..)⟩

/-- An instruction whose firing changes a store of its cell. -/
theorem changesStore_of_exec {i : Instr} {h : Hdr} {s s1 : State} {f : Firing} {v : View} {new : List KEnt} {g : KStore → KStore}
    {tok : Tok} (runs : exec i s = .next (s1.storeChange f h v new tok g)) (cur : s1.cur = none) (named : Renumbers g)
    (tagged : (tok.tag, tok.depth) = f.tagOf) : ChangesStore i h s s1 f v new g tok := fun _ _ _ planned clear =>
  ⟨_, runs, storeChange_clear cur named tagged planned clear⟩

/-- A number is sent with the tag of its firing. -/
theorem numTok_tagged (f : Firing) (h : Hdr) (fmt : Ty) (n : Nat) : ((numTok f h fmt n).tag, (numTok f h fmt n).depth) = f.tagOf :=
  Prod.ext (newTok_tag ..) (newTok_depth ..)

/-- KDEL, KPURGE and KGEN of a cell's own store. -/
theorem keyStoreChanges : Claims.KeyStoreChanges := by
  intro h store byVal s s1 f v cur seen own
  have changes {i : Instr} {new : List KEnt} {g : KStore → KStore} {n : Nat}
      (runs : exec i s = .next (s1.storeChange f h v new (numTok f h .z32 n) g)) (named : Renumbers g) :
      ChangesStore i h s s1 f v new g (newScalar f h .z32 (BitVec.ofNat 512 n)) :=
    changesStore_of_exec runs (cur_of_view seen) named (numTok_tagged f h .z32 n)
  have low : (f.op 0).w64 % 2 ^ 32 = (f.op 0).w32 := Nat.mod_mod_of_dvd _ (by decide)
  have regen (n : Nat) : Renumbers (fun k => { k with g := n }) := fun _ => ⟨rfl, rfl⟩
  refine ⟨?_, ?_, ?_, fun room => ?_, fun last => ?_, fun up => ?_, fun down => ?_⟩
  · exact changes (exec_firing (show exec (.kdel h byVal store) s = execKdel h byVal store s from rfl) cur (storeOp_own seen own))
      fun _ => ⟨rfl, rfl⟩
  · exact changes (exec_firing (show exec (.kpurge h store) s = execKpurge h store s from rfl) cur (storeOp_own seen own))
      fun _ => ⟨rfl, rfl⟩
  · exact changes (exec_firing (show exec (.kgenRead h store) s = execKgenRead h store s from rfl) cur (storeOp_own seen own)) (regen _)
  · refine changes (exec_firing (show exec (.kgenAdv h store) s = execKgenAdv h store s from rfl) cur
      ((storeOp_own seen own).trans ?_)) (regen _)
    rw [genAdv, if_neg room]; rfl
  · refine exec_firing (show exec (.kgenAdv h store) s = execKgenAdv h store s from rfl) cur ((storeOp_own seen own).trans ?_)
    rw [genAdv, if_pos last]; rfl
  · refine changes (exec_firing (show exec (.kgenSet h store) s = execKgenSet h store s from rfl) cur
      ((storeOp_own seen own).trans ?_)) (regen _)
    rw [genSet, ← low, if_neg (Nat.not_lt.mpr up)]; rfl
  · refine exec_firing (show exec (.kgenSet h store) s = execKgenSet h store s from rfl) cur ((storeOp_own seen own).trans ?_)
    rw [genSet, ← low, if_pos down]; rfl

/-- KINS once its checks have passed, and its key has been read, works on the store of its cell (R147). -/
theorem execKins_reads {h : Hdr} {c : KinsCtl} {s s1 s2 : State} {f : Firing} {v : View} {key : List Nat} {bad : Bool}
    (cur : s.cur = some f) (seen : State.view { s with cur := none } f.x f.ent.ctx c.store = (.ok (some v), s1))
    (own : v.c.sh = false) (clean : c.kref = true → (f.op 0).flag .poison = false) (shape : (f.op 1).vec = v.c.vvec)
    (width : keyWidth v.h.fmt v.reg = v.k.kw) (read : s1.readKey f (f.op 0) c.kref v.c.d v.k.kw = (.ok (key, bad), s2)) :
    exec (.kins h c) s = .next (s2.insert f h c v
      (insEntry c v key (f.op 1) ((f.op 0).flag .poison || (f.op 1).flag .poison || bad))) := by
  refine exec_firing (show exec (.kins h c) s = execKins h c s from rfl) cur ?_
  simp [seen, Bool.and_eq_false_imp.mpr clean, shape, width, read, own]

/-- KINS of a cell's own store: its refusals, and the entry that it adds (R147). -/
theorem keyInsertion : Claims.KeyInsertion := by
  intro h c s s1 s2 f v key bad cur seen own a b fits e t
  have runs {u : State} := exec_firing (t := u) (show exec (.kins h c) s = execKins h c s from rfl) cur
  have reads (ok : fits) : exec (.kins h c) s = .next (s2.insert f h c v (insEntry c v key b (a.flag .poison || b.flag .poison || bad))) := by
    obtain ⟨clean, shape, width, read⟩ := ok
    exact execKins_reads cur seen own clean shape width read
  refine ⟨fun ref poison => runs ?_, fun clean shape => runs ?_, fun clean shape width => runs ?_, fun ok full => ?_,
    fun i ok place last => ?_, fun i ok place seq life gen => ?_, fun i ok place seq gen => ?_⟩
  · have refuses : (c.kref && a.flag .poison) = true := by rw [ref, poison]; rfl
    simp [seen, a, refuses]
  · simp [seen, Bool.and_eq_false_imp.mpr clean, shape, a, b]
  · simp [seen, Bool.and_eq_false_imp.mpr clean, shape, width, a, b]
  · rw [reads ok, State.insert, full]
  · rw [reads ok, State.insert, place]
    simp only [if_pos last]
  · have overflows : (decide (c.expg ≠ 0) && decide (v.k.g + c.expg ≥ 2 ^ 32 - 1)) = true := by simpa using ⟨life, gen⟩
    rw [reads ok, State.insert, place]
    simp only [if_neg (Nat.not_le.mpr seq), overflows, if_true]
  · have lives : (decide (c.expg ≠ 0) && decide (v.k.g + c.expg ≥ 2 ^ 32 - 1)) = false := by
      simpa [or_iff_not_imp_left] using gen
    obtain ⟨-, -, -, read⟩ := id ok
    refine changesStore_of_exec ?_ (cur_of_readKey read (cur_of_view seen)) (fun _ => ⟨rfl, rfl⟩) (numTok_tagged f h .s64 v.k.seq)
    rw [reads ok, State.insert, place]
    simp only [if_neg (Nat.not_le.mpr seq), lives, Bool.false_eq_true, if_false]
    rfl

/-- Settles O42: a firing that changes its cell's store makes the change that was planned and sends one number
(`storeChange_clear`); what each instruction plans, and when it is refused, is read off its meaning. -/
theorem keyStoreInstructions : Obligations.KeyStoreInstructions := ⟨keyStoreChanges, keyInsertion⟩

end Sys2Proof.Machine
end

section
/-! Proofs of the statement on scores and winners of integer keys (R139, R140; O43). -/
namespace Sys2Proof.Machine

/-! The order of candidates (R140). -/

/-- Putting a candidate in its place adds it. -/
theorem insCand_perm (fmt : Ty) (c : Cand) (l : List Cand) : (insCand fmt c l).Perm (c :: l) := by
  induction l with
  | nil => exact .refl _
  | cons d l ih =>
    rw [insCand]
    split
    · exact .refl _
    · exact (ih.cons d).trans (.swap c d l)

/-- Ranking candidates loses none and adds none. -/
theorem rankCands_perm (fmt : Ty) (l : List Cand) : (rankCands fmt l).Perm l := by
  induction l with
  | nil => exact .refl _
  | cons c l ih => exact (insCand_perm fmt c _).trans (ih.cons c)

/-- No candidate stands behind one that the order of R140 puts after it. -/
def Ranked (fmt : Ty) (l : List Cand) : Prop := l.Pairwise (fun a b => candBefore fmt b a = false)

section
variable {fmt : Ty} (asymm : ∀ a b, candBefore fmt a b = true → candBefore fmt b a = false)
    (trans : ∀ a b c, candBefore fmt a b = true → candBefore fmt b c = true → candBefore fmt a c = true)
include asymm trans

/-- A candidate put in its place stands in the order. -/
theorem insCand_ranked (c : Cand) {l : List Cand} (h : Ranked fmt l) : Ranked fmt (insCand fmt c l) := by
  induction l with
  | nil => exact List.pairwise_singleton _ c
  | cons d l ih =>
    obtain ⟨first, rest⟩ := List.pairwise_cons.mp h
    rw [insCand]
    split
    case isTrue above =>
      refine List.pairwise_cons.mpr ⟨fun x hx => ?_, h⟩
      rcases List.mem_cons.mp hx with rfl | hx
      · exact asymm c x above
      · refine Bool.eq_false_iff.mpr fun before => ?_
        exact absurd (trans x c d before above) (by simp [first x hx])
    case isFalse below =>
      refine List.pairwise_cons.mpr ⟨fun x hx => ?_, ih rest⟩
      rcases List.mem_cons.mp ((insCand_perm fmt c l).mem_iff.mp hx) with rfl | hx
      · exact Bool.eq_false_iff.mpr below
      · exact first x hx

/-- Where the order is strict, ranked candidates stand in it. -/
theorem rankCands_ranked (l : List Cand) : Ranked fmt (rankCands fmt l) := by
  induction l with
  | nil => exact .nil
  | cons c l ih => exact insCand_ranked asymm trans c ih

end

/-! Integer scores (R139). -/

/-- The score of an S8 key as the number it stands for. -/
def scoreInt (n : Nat) : Int := (BitVec.ofNat 32 n).toInt

/-- The order of R140 on scores of S8 keys. -/
def RanksBefore (a b : Cand) : Prop := scoreInt b.1 < scoreInt a.1 ∨ scoreInt a.1 = scoreInt b.1 ∧ a.2.seq < b.2.seq

/-- A candidate is not below FLOOR (R140, R142). -/
def AtFloor (c : KmCtl) (a : Cand) : Prop := ∀ x b fl, c.ext = some (x, b, fl) → fl.toInt ≤ scoreInt a.1

/-- One score is above another where its number is. -/
theorem scoreAbove_s8 (a b : Nat) : scoreAbove .s8 a b = true ↔ scoreInt b < scoreInt a := by
  have value (n : Nat) : intVal .s32 n = scoreInt n := intVal_toInt (ty := .s32) rfl n
  simp [scoreAbove, value]

/-- The model's order is that of the numbers and of SEQ. -/
theorem candBefore_s8 (a b : Cand) : candBefore .s8 a b = true ↔ RanksBefore a b := by
  unfold candBefore RanksBefore
  simp only [scoreAbove_s8]
  split
  · simp [*]
  · split
    · simp; omega
    · simp; omega

theorem candBefore_s8_false (a b : Cand) : candBefore .s8 a b = false ↔ ¬ RanksBefore a b := by
  rw [← candBefore_s8, Bool.not_eq_true]

theorem rankCands_s8_ranked (l : List Cand) : Ranked .s8 (rankCands .s8 l) := by
  refine rankCands_ranked (fun a b => ?_) (fun a b c => ?_) l
  · rw [candBefore_s8, candBefore_s8_false, RanksBefore, RanksBefore]; omega
  · simp only [candBefore_s8, RanksBefore]; omega

/-- The winners among S8 keys: the first K by rank, without those below FLOOR. -/
theorem winners_s8 (c : KmCtl) (l : List Cand) : winners .s8 c l = floorCands .s8 c ((rankCands .s8 l).take c.k) := by
  simp [winners, scoreNan]

/-- FLOOR takes candidates away, and reorders none. -/
theorem floorCands_sublist (fmt : Ty) (c : KmCtl) (l : List Cand) : (floorCands fmt c l).Sublist l := by
  unfold floorCands
  split
  · exact .refl _
  · exact List.filter_sublist

/-- FLOOR as a number, against a score. -/
theorem notBelow_s8 (fl : W32) (n : Nat) : (!scoreAbove .s8 fl.toNat n) = true ↔ fl.toInt ≤ scoreInt n := by
  have floor : scoreInt fl.toNat = fl.toInt := by simp [scoreInt]
  rw [Bool.not_eq_true', ← Bool.not_eq_true, scoreAbove_s8, floor, Int.not_lt]

/-- The candidates that FLOOR leaves. -/
theorem mem_floorCands_s8 {c : KmCtl} {l : List Cand} {a : Cand} : a ∈ floorCands .s8 c l ↔ a ∈ l ∧ AtFloor c a := by
  unfold floorCands AtFloor
  split
  case h_1 none_ => simp [none_]
  case h_2 x b fl ext =>
    simp only [List.mem_filter, notBelow_s8, ext, Option.some.injEq, Prod.mk.injEq]
    exact and_congr_right fun _ => ⟨fun h _ _ _ e => e.2.2 ▸ h, fun h => h x b fl ⟨rfl, rfl, rfl⟩⟩

/-- Where no candidate is below FLOOR, it takes none away. -/
theorem floorCands_s8_eq {c : KmCtl} {l : List Cand} (h : ∀ a ∈ l, AtFloor c a) : floorCands .s8 c l = l := by
  unfold floorCands
  split
  · rfl
  case h_2 x b fl ext => exact List.filter_eq_self.mpr fun a ha => (notBelow_s8 fl a.1).mpr (h a ha x b fl ext)

/-- A candidate that is no winner, and not below FLOOR, stands behind K winners. -/
theorem winners_s8_full {c : KmCtl} {l : List Cand} {b : Cand} (hb : b ∈ l) (lost : b ∉ winners .s8 c l) (floor : AtFloor c b) :
    (winners .s8 c l).length = c.k ∧ ∀ a ∈ winners .s8 c l, ¬ RanksBefore b a := by
  rw [winners_s8] at lost ⊢
  have ranked := rankCands_s8_ranked l
  have there := (rankCands_perm .s8 l).mem_iff.mpr hb
  generalize rankCands .s8 l = r at *
  have behind : b ∈ r.drop c.k := by
    rw [← List.take_append_drop c.k r] at there
    exact (List.mem_append.mp there).resolve_left fun h => lost (mem_floorCands_s8.mpr ⟨h, floor⟩)
  have before : ∀ a ∈ r.take c.k, ¬ RanksBefore b a := by
    rw [Ranked, ← List.take_append_drop c.k r] at ranked
    exact fun a ha => (candBefore_s8_false b a).mp ((List.pairwise_append.mp ranked).2.2 a ha b behind)
  have floors : ∀ a ∈ r.take c.k, AtFloor c a := fun a ha x e fl ext => by
    have := before a ha
    have := floor x e fl ext
    unfold RanksBefore at *
    omega
  rw [floorCands_s8_eq floors]
  have more := List.length_pos_of_mem behind
  rw [List.length_drop] at more
  exact ⟨List.length_take_of_le (by omega), before⟩

/-- A sum of numbers of bounded size. -/
theorem abs_sum_le (l : List Int) (m : Int) (h : ∀ x ∈ l, |x| ≤ m) : |l.sum| ≤ l.length * m := by
  induction l with
  | nil => simp
  | cons a l ih =>
    have first := h a (List.mem_cons_self ..)
    have rest := ih fun x hx => h x (List.mem_cons_of_mem _ hx)
    have both := abs_add_le a l.sum
    rw [List.sum_cons, List.length_cons, Nat.cast_succ, add_mul, one_mul]
    omega

/-- The number an S8 element stands for. -/
def s8Int (v : Nat) : Int := (BitVec.ofNat 8 v).toInt

theorem s8Int_bounds (v : Nat) : -128 ≤ s8Int v ∧ s8Int v < 128 := by
  have := BitVec.le_toInt (BitVec.ofNat 8 v)
  have := BitVec.toInt_lt (x := BitVec.ofNat 8 v)
  constructor <;> (unfold s8Int; omega)

/-- A product of S8 elements is small. -/
theorem s8_mul_small (a b : Nat) : |s8Int a * s8Int b| ≤ 2 ^ 16 := by
  have := s8Int_bounds a
  have := s8Int_bounds b
  have ha : |s8Int a| ≤ 256 := abs_le.mpr ⟨by omega, by omega⟩
  have hb : |s8Int b| ≤ 256 := abs_le.mpr ⟨by omega, by omega⟩
  rw [abs_mul]
  exact mul_le_mul ha hb (abs_nonneg _) (by omega)

/-- A squared difference of S8 elements is small. -/
theorem s8_gap_small (a b : Nat) : |(s8Int a - s8Int b) * (s8Int a - s8Int b)| ≤ 2 ^ 16 := by
  have := s8Int_bounds a
  have := s8Int_bounds b
  have gap : |s8Int a - s8Int b| ≤ 256 := abs_le.mpr ⟨by omega, by omega⟩
  rw [abs_mul]
  exact mul_le_mul gap gap (abs_nonneg _) (by omega)

/-- A sum over the elements of a query and a key at the same places. -/
def pairSum (g : Int → Int → Int) (q k : List Nat) : Int := ((q.zip k).map (fun p => g (s8Int p.1) (s8Int p.2))).sum

/-- The model's sum over the pairs of elements. -/
theorem foldl_pairs (g : Int → Int → Int) (q k : List Nat) :
    (pairs q k).foldl (fun a p => a + g (intVal .s8 p.1) (intVal .s8 p.2)) 0 = pairSum g q k := by
  have value (n : Nat) : intVal .s8 n = s8Int n := intVal_toInt (ty := .s8) rfl n
  simp only [value, pairs, pairSum, List.sum_eq_foldl, List.foldl_map]

/-- The inner product of S8 keys, before it is known to be exact. -/
theorem scoreOf_s8_ip (reg : W32) (q k : List Nat) (norm : Nat) :
    scoreOf .s8 reg .ip q k norm = (BitVec.ofInt 32 (pairSum (fun a b => a * b) q k)).toNat :=
  congrArg (fun v => (BitVec.ofInt 32 v).toNat) (foldl_pairs _ q k)

/-- The distance of S8 keys, before it is known to be exact. -/
theorem scoreOf_s8_l2 (reg : W32) (q k : List Nat) (norm : Nat) :
    scoreOf .s8 reg .l2 q k norm = (BitVec.ofInt 32 (-pairSum (fun a b => (a - b) * (a - b)) q k)).toNat :=
  congrArg (fun v => (BitVec.ofInt 32 (-v)).toNat) (foldl_pairs (fun a b => (a - b) * (a - b)) q k)

/-- Over at most 256 elements, each of which adds at most 2¹⁶, a sum is exact in 32 bits (R139). -/
theorem scoreInt_pairSum {g : Int → Int → Int} (small : ∀ a b, |g (s8Int a) (s8Int b)| ≤ 2 ^ 16) {q : List Nat}
    (short : q.length ≤ 256) (k : List Nat) {v : Int} (hv : v = pairSum g q k ∨ v = -pairSum g q k) : scoreInt (BitVec.ofInt 32 v).toNat = v := by
  have bound : |pairSum g q k| ≤ 2 ^ 24 := by
    refine (abs_sum_le _ (2 ^ 16) fun x hx => ?_).trans ?_
    · obtain ⟨p, -, rfl⟩ := List.mem_map.mp hx
      exact small p.1 p.2
    · rw [List.length_map, List.length_zip]; omega
  obtain ⟨low, high⟩ := abs_le.mp bound
  rw [scoreInt, BitVec.ofNat_toNat, BitVec.setWidth_eq]
  refine BitVec.toInt_ofInt_eq_self (by decide) ?_ ?_ <;> rcases hv with rfl | rfl <;> omega

/-- Scores of S8 keys are exact (R139), and winners are those of R140. -/
theorem winnersOfIntegerKeys : Claims.WinnersOfIntegerKeys := by
  intro c reg q k norm l s8 num dot gap W before atFloor
  have eq : W = floorCands .s8 c ((rankCands .s8 l).take c.k) := winners_s8 c l
  have sub : W.Sublist ((rankCands .s8 l).take c.k) := eq ▸ floorCands_sublist ..
  refine ⟨fun short _ _ => ⟨?_, ?_⟩, sub.length_le.trans (List.length_take_le ..), ?_, fun a ha => ?_,
    fun b hb lost floor => winners_s8_full hb lost floor⟩
  · rw [scoreOf_s8_ip]
    exact scoreInt_pairSum s8_mul_small short k (.inl rfl)
  · rw [scoreOf_s8_l2]
    exact scoreInt_pairSum (g := fun a b => (a - b) * (a - b)) s8_gap_small short k (.inr rfl)
  · exact (List.Pairwise.sublist (sub.trans (List.take_sublist ..)) (rankCands_s8_ranked l)).imp
      fun {a b} h => (candBefore_s8_false b a).mp h
  · obtain ⟨taken, floor⟩ := mem_floorCands_s8.mp (eq ▸ ha)
    exact ⟨(rankCands_perm .s8 l).mem_iff.mp (List.mem_of_mem_take taken), floor⟩

end Sys2Proof.Machine
end

section
/-! Proofs of the statement on what a query sends and changes (R140 to R145, R306; O43). -/
namespace Sys2Proof.Machine

/-! What a query sends (R144). -/

/-- A token of a query before it goes to a target: its POISON says whether the query is poisoned. -/
def queryTok (f : Firing) (h : Hdr) (poison : Bool) : Tok :=
  { newTok f h (f.first h.arity) none .z32 false 0 with flags := if poison then 8 else 0 }

/-- The token of one winner and its weight, at its rank. -/
def winnerTok (tl : BitVec 96) (f : Firing) (h : Hdr) (poison : Bool) (p : (KEnt × Nat) × Nat) : Tok :=
  { queryTok f h poison with
    fmt := p.1.1.vfmt, vec := p.1.1.vec, lmask := (if p.1.1.vec then 0xFFFF else 1), data := p.1.1.value, side := BitVec.ofNat 32 p.1.2
    tag := setLvl tl f.ent.tag (f.ent.depth + 1) p.2, depth := f.ent.depth + 1, flags := if poison || p.1.1.poison then 8 else 0 }

/-- Poison added to a token that has no flag but it. -/
theorem setFlag_poison {t : Tok} {was now : Bool} (flags : t.flags = if was then 8 else 0) (mono : was = true → now = true) :
    t.setFlag .poison now = { t with flags := if now then 8 else 0 } := by
  cases now with
  | true =>
    rw [Tok.setFlag, if_pos rfl, flags]
    cases was <;> rfl
  | false =>
    rw [Tok.setFlag, if_neg (by decide), flags, Bool.eq_false_iff.mpr fun h => absurd (mono h) (by decide)]
    rfl

/-- A query of one operand is poisoned where that operand is. -/
theorem setFlag_queryTok {f : Firing} {h : Hdr} {poison : Bool} (arity : h.arity = 1) (own : (f.op 0).flag .poison = true → poison = true) :
    (newTok f h (usedBy f h) none .z32 false 0).setFlag .poison poison = queryTok f h poison := by
  have one : anyPoison (f.first h.arity) = (f.op 0).flag .poison := by simp [arity, Firing.first, anyPoison]
  exact setFlag_poison (was := anyPoison (f.first h.arity)) (by rw [newTok_eq]; rfl) (one ▸ own)

/-- A winner's value poisons its token as the query does. -/
theorem setFlag_winnerTok (f : Firing) (h : Hdr) (poison own : Bool) :
    (queryTok f h poison).setFlag .poison (poison || own) = { queryTok f h poison with flags := if poison || own then 8 else 0 } :=
  setFlag_poison (was := poison) rfl fun h => by rw [h]; rfl

/-- Ranks that fit their level can all be pushed, so a query sends what R144 names. -/
theorem matchSends_eq {tl : BitVec 96} {f : Firing} {h : Hdr} {poison : Bool} {ws : List (KEnt × Nat)} (arity : h.arity = 1)
    (own : (f.op 0).flag .poison = true → poison = true)
    (fits : ws ≠ [] → f.ent.depth < nlev tl ∧ ws.length - 1 < 2 ^ lvlWidth tl (f.ent.depth + 1)) :
    matchSends tl f h poison ws = some (querySends tl f h poison ws) := by
  unfold matchSends
  rw [setFlag_queryTok arity own]
  by_cases none_ : ws = []
  · subst none_
    cases poison <;> rfl
  · obtain ⟨depth, width⟩ := fits none_
    extract_lets base one l
    have sent : l = (ws.zipIdx.map (fun p => Send.tok h.t0 (winnerTok tl f h poison p))).map some := by
      rw [List.map_map]
      refine List.map_congr_left fun p hp => ?_
      have rank := List.snd_lt_of_mem_zipIdx hp
      have pushed : rankTag tl f p.2 = some (setLvl tl f.ent.tag (f.ent.depth + 1) p.2, f.ent.depth + 1) := by
        rw [rankTag, tagPush_eq, if_pos ⟨depth, by omega⟩]
      simp only [one, base, pushed, setFlag_winnerTok]
      rfl
    have all : l.any (fun o => o.isNone) = false := by simp [sent]
    have ids : l.filterMap id = ws.zipIdx.map (fun p => Send.tok h.t0 (winnerTok tl f h poison p)) := by
      rw [sent, List.filterMap_map]
      exact List.filterMap_some
    rw [if_neg (by simpa using none_), if_neg (by simp [all]), ids, querySends, if_neg none_]
    rfl

/-! Tokens that leave one a cycle (R145). -/

/-- The tokens that are on their way out of a cell. -/
def State.leaving (s : State) (x : Site) : List Tok := ((s.cell x).pipe.deps.map (fun d => d.toks)).flatten

/-- Tokens on their way keep the rest. -/
theorem kept_departAs (s : State) (f : Firing) (n : Nat) (exits : Bool) (all : List Tok) : Kept s (s.departAs f n exits all) f := by
  unfold State.departAs
  extract_lets inner toks s1
  have latched : Kept s s1 f := by
    unfold s1
    split
    · exact Kept.refl s f
    · exact kept_modCell s f _ (by simp [Cell.latch, Cell.rest])
  split
  · exact latched
  · exact latched.trans (kept_modCell s1 f _ (by simp [Cell.rest]))

/-- A departure adds the tokens that do not stay in their cell. -/
theorem leaving_departAs (s : State) (f : Firing) (n : Nat) (exits : Bool) (all : List Tok) :
    (s.departAs f n exits all).leaving f.x = s.leaving f.x ++ all.filter (fun u => !(s.cell f.x).inward f.x u) := by
  unfold State.departAs
  extract_lets inner toks s1
  have latched : s1.leaving f.x = s.leaving f.x := by
    unfold s1
    split
    · rfl
    · rw [State.leaving, cell_modCell_same]; rfl
  split
  case isTrue none_ => rw [latched, show all.filter _ = [] from List.isEmpty_iff.mp none_, List.append_nil]
  case isFalse => rw [← latched, State.leaving, cell_modCell_same]; simp [State.leaving, toks]

/-- What decides whether a token stays in its cell is kept (R169). -/
theorem Kept.inward {s t : State} {f : Firing} (h : Kept s t f) (u : Tok) : (t.cell f.x).inward f.x u = (s.cell f.x).inward f.x u := by
  have on : (t.cell f.x).spat.on = (s.cell f.x).spat.on := (congrArg (fun c : Cell => c.spat.on) h.cell :)
  simp only [Cell.inward, Cell.blkOf, on, h.blks]

/-- Tokens that leave one a cycle keep the rest. -/
theorem kept_departEach (s : State) (f : Firing) (exits : Bool) (n : Nat) (toks : List Tok) : Kept s (s.departEach f exits n toks) f := by
  induction toks generalizing s n with
  | nil => exact Kept.refl s f
  | cons t toks ih => exact (kept_departAs s f n exits [t]).trans (ih _ _)

/-- Tokens that leave one a cycle are on their way in their order. -/
theorem leaving_departEach (s : State) (f : Firing) (exits : Bool) (n : Nat) (toks : List Tok) :
    (s.departEach f exits n toks).leaving f.x = s.leaving f.x ++ toks.filter (fun u => !(s.cell f.x).inward f.x u) := by
  induction toks generalizing s n with
  | nil => exact (List.append_nil _).symm
  | cons t toks ih =>
    rw [State.departEach, ih, leaving_departAs, List.append_assoc]
    simp only [(kept_departAs s f n exits [t]).inward, ← List.filter_append, List.singleton_append]

/-- The tokens of a firing that has issued, and then done what S6 does not see, leave. -/
theorem leave_of_sendsAlike {s t : State} {f : Firing} {o : Out} {toks : List Tok} (alike : SendsAlike (s.issued f o toks) t f)
    (exits : Bool) (n : Nat) : Leave s (t.departEach f exits n toks) f.x toks := by
  have issued := issued_spec s f o toks
  generalize s.issued f o toks = a at *
  obtain ⟨b, pipe, -⟩ := issued.pipe
  have inward (u : Tok) : (t.cell f.x).inward f.x u = (s.cell f.x).inward f.x u := by
    rw [← issued.kept.inward u]
    simp only [Cell.inward, Cell.blkOf, alike.spat, alike.blks]
  have deps : t.leaving f.x = s.leaving f.x := by rw [State.leaving, alike.pipe, pipe]; rfl
  refine (leaving_departEach t f exits n toks).trans ?_
  simp only [inward, deps]
  rfl

/-! What a query changes (R144, R306). -/

/-- What a query does after it has issued, before its tokens leave: LIFE falls, NaN scores count, and the scan of a STREAM store takes
its copy slot. -/
def State.queryDone (s : State) (f : Firing) (v : View) (new : List KEnt) (w : List (List Spot × List Byte)) (nan : Nat)
    (slot : Nat × Nat) : State :=
  let s1 := (s.commitStore f.x v new w id).modCell f.x (fun c => c.count (fun k => { k with knan := satAdd 48 k.knan nan }))
  if v.c.res = .stream then s1.takeScan f.x.die slot (matchLeaves v) else s1

section
variable (s : State) (f : Firing) (v : View) (new : List KEnt) (w : List (List Spot × List Byte)) (nan : Nat) (slot : Nat × Nat)

/-- The cell of a query that is done: its store and KNAN have changed. -/
theorem cell_queryDone : (s.queryDone f v new w nan slot).cell f.x =
    ((s.commitStore f.x v new w id).cell f.x).count (fun k => { k with knan := satAdd 48 k.knan nan }) := by
  unfold State.queryDone
  extract_lets s1
  have counted : s1.cell f.x = _ := cell_modCell_same ..
  split <;> exact counted

/-- A query that is done writes the bytes of its change. -/
theorem byte_queryDone (a : Nat) : (s.queryDone f v new w nan slot).byte a = (s.commitStore f.x v new w id).byte a := by
  unfold State.queryDone
  extract_lets s1
  split <;> rfl

/-- S6 does not see what a query does before its tokens leave. -/
theorem queryDone_sendsAlike : SendsAlike s (s.queryDone f v new w nan slot) f := by
  have cell := cell_queryDone s f v new w nan slot
  have made := commitStore_sendsAlike s f v new w id
  have fields : (s.queryDone f v new w nan slot).cycle = (s.commitStore f.x v new w id).cycle ∧
      (s.queryDone f v new w nan slot).cur = (s.commitStore f.x v new w id).cur ∧
      (s.queryDone f v new w nan slot).ctxs = (s.commitStore f.x v new w id).ctxs := by
    unfold State.queryDone
    extract_lets s1
    split <;> exact ⟨rfl, rfl, rfl⟩
  obtain ⟨cycle, cur, ctxs⟩ := fields
  exact
    { cycle := cycle.trans made.cycle
      cur := cur.trans made.cur
      aflags := by rw [State.ctx, ctxs]; exact made.aflags
      pipe := by rw [cell]; exact made.pipe
      spat := by rw [cell]; exact made.spat
      slots := by rw [cell]; exact made.slots
      blks := by rw [cell]; exact made.blks }

end

/-- What a query that has issued has done when its tokens are on their way. -/
theorem queried_of_issued (s : State) (f : Firing) (o : Out) (v : View) (new : List KEnt) (w : List (List Spot × List Byte)) (nan : Nat)
    (slot : Nat × Nat) (exits : Bool) (n : Nat) (toks : List Tok) :
    let t := ((s.issued f o toks).queryDone f v new w nan slot).departEach f exits n toks
    StoreChanged s t f v new w id ∧ Leave s t f.x toks ∧ (t.cell f.x).ctr.knan = satAdd 48 (s.cell f.x).ctr.knan nan := by
  intro t
  have kept := kept_departEach ((s.issued f o toks).queryDone f v new w nan slot) f exits n toks
  have cell := cell_queryDone (s.issued f o toks) f v new w nan slot
  refine ⟨storeChanged_of_issued (o := o) toks (fun _ => ⟨rfl, rfl⟩) (kept.stores.trans (by rw [cell]; rfl))
    (fun a => (kept.byte a).trans (byte_queryDone ..)), leave_of_sendsAlike (queryDone_sendsAlike ..) exits n, ?_⟩
  rw [kept.ctr, cell, cell_commitStore]
  show satAdd 48 ((s.issued f o toks).cell f.x).ctr.knan nan = _
  rw [(issued_spec s f o toks).kept.ctr]

/-- LIFE falls by one for each winner that has one, and an entry whose LIFE reaches 0 goes (R144). -/
theorem deliverLife_eq (win : List Cand) (l : List KEnt) : deliverLife (win.map (fun u => u.2.seq)) l =
    l.filterMap (fun e => if win.any (fun u => u.2.seq == e.seq) && e.life > 0 then
      (if e.life = 1 then none else some { e with life := e.life - 1 }) else some e) := by
  have won (e : KEnt) : (win.map (fun u => u.2.seq)).contains e.seq = win.any (fun u => u.2.seq == e.seq) := by
    rw [List.contains_eq_any_beq, List.any_map]
    exact congrArg win.any (funext fun u => BEq.comm)
  simp only [deliverLife, won]

/-- A query whose ranks fit sends for its winners what R144 names. -/
theorem matchSends_winners {tl : BitVec 96} {f : Firing} {h : Hdr} {poison : Bool} {c : KmCtl} {win : List Cand} (arity : h.arity = 1)
    (own : (f.op 0).flag .poison = true → poison = true)
    (fits : win ≠ [] → f.ent.depth < nlev tl ∧ win.length - 1 < 2 ^ lvlWidth tl (f.ent.depth + 1)) :
    matchSends tl f h poison (weighted c h.fmt win) = some (querySends tl f h poison (weighted c h.fmt win)) := by
  have len : (weighted c h.fmt win).length = win.length := by
    unfold weighted weightsOf
    cases c.wmode <;> simp
  refine matchSends_eq arity own fun some_ => ?_
  rw [len]
  exact fits fun none_ => some_ (List.length_eq_zero_iff.mp (by rw [len, none_]; rfl))

section
variable {s s3 : State} {f : Firing} {h : Hdr} {v : View} {q : List Nat} {poison : Bool} {sends : List Send}
    (sent : matchSends (s.ctx f.ent.ctx).tl f h poison
      (weighted v.c h.fmt (winners h.fmt v.c (scoreAll h.fmt v.reg v.c q v.k.g v.ents))) = some sends)
include sent

/-- A query of a STREAM store waits while no copy slot is free (R306). -/
theorem query_waits (stream : v.c.res = .stream) (full : s.freeScan f.x.die = none) :
    s.query f h v q poison = (s.back f.x v).park f (portsOf h) .wait := by
  unfold weighted at sent
  simp only [State.query, sent, if_pos stream, full]

/-- A query that nothing keeps from performing issues, changes its store, and its tokens leave one a cycle. -/
theorem query_performs {slot : Nat × Nat} {w : List (List Spot × List Byte)} {toks : List Tok}
    (free : (if v.c.res = .stream then s.freeScan f.x.die else some (0, 0)) = some slot)
    (planned : s.plan f.x f.ent.ctx v
      (deliverLife ((winners h.fmt v.c (scoreAll h.fmt v.reg v.c q v.k.g v.ents)).map (fun u => u.2.seq)) v.ents) = (.ok w, s3))
    (listed : sendList (s3.ctx f.ent.ctx).tl f.x sends = some toks)
    (exits : s3.exitExcess f (toks.filter Tok.isExit).length = false) :
    s.query f h v q poison =
      ((s3.issued f { sends := sends, n := matchTime v, ports := portsOf h, used := usedBy f h } toks).queryDone f v
        (deliverLife ((winners h.fmt v.c (scoreAll h.fmt v.reg v.c q v.k.g v.ents)).map (fun u => u.2.seq)) v.ents) w
        ((scoreAll h.fmt v.reg v.c q v.k.g v.ents).filter (fun e => scoreNan h.fmt e.1)).length slot).departEach f
        (toks.any Tok.isExit) (matchLeaves v) toks := by
  unfold weighted at sent
  simp only [State.query, sent, free, planned]
  exact issue_clear s3 f _ _ toks (Nat.zero_and _) listed (by rw [Nat.zero_add]; exact exits)

end

/-- KMATCH once its checks have passed, and its query has been read, queries the store of its cell (R143). -/
theorem execKmatch_reads {h : Hdr} {c : KmCtl} {s s1 s2 : State} {f : Firing} {v : View} {q : List Nat} {bad : Bool}
    (cur : s.cur = some f) (seen : State.view { s with cur := none } f.x f.ent.ctx f.ent.node = (.ok (some v), s1))
    (own : c.sh = false) (clean : c.qref = true → (f.op 0).flag .poison = false) (width : keyWidth h.fmt v.reg = v.k.kw)
    (read : s1.readKey f (f.op 0) c.qref c.d v.k.kw = (.ok (q, bad), s2)) :
    exec (.kmatch h c) s = .next (s2.query f h v q ((f.op 0).flag .poison || bad)) := by
  refine exec_firing (show exec (.kmatch h c) s = execKmatch h c s from rfl) cur ?_
  simp [seen, Bool.and_eq_false_imp.mpr clean, width, read, own]

/-- What a query sends for its winners and what it changes: by cases, a firing that waits for a copy slot, and one that performs. -/
theorem querySendsWinners : Claims.QuerySendsWinners := by
  intro h c s s1 s2 s3 f v q bad w toks cur seen ownC ownV a poison all win new tl clean width read fits arity sent
  have sends : matchSends tl f h poison (weighted v.c h.fmt win) = some (querySends tl f h poison (weighted v.c h.fmt win)) :=
    matchSends_winners arity (fun own => by rw [show poison = (a.flag .poison || bad) from rfl, own]; rfl) fits
  have runs := execKmatch_reads (h := h) cur seen ownC clean width read
  have life : deliverLife (win.map (fun u => u.2.seq)) v.ents = new := deliverLife_eq win v.ents
  refine ⟨fun stream full => runs.trans (congrArg _ (query_waits sends stream full)), fun free planned ctx exits => ?_⟩
  obtain ⟨slot, taken⟩ : ∃ slot, (if v.c.res = .stream then s2.freeScan f.x.die else some (0, 0)) = some slot := by
    split
    case isTrue stream => exact Option.isSome_iff_exists.mp (free stream)
    case isFalse => exact ⟨_, rfl⟩
  refine ⟨_, runs.trans (congrArg _ (query_performs sends taken (life.symm ▸ planned) (ctx ▸ sent) exits)), ?_⟩
  rw [← life]
  exact queried_of_issued ..

/-- Settles O43: what a query sends and changes (`queried_of_issued`), and the rank of its winners (`winners_s8_full`). -/
theorem keyMatching : Obligations.KeyMatching := ⟨querySendsWinners, winnersOfIntegerKeys⟩

end Sys2Proof.Machine
end

section
/-! What a step runs (R164 to R167, R252, R389; O26): a parked firing that a STOP covers is not replayed. -/
namespace Sys2Proof.Machine

/-- A parked firing that a STOP covers stays parked when its replay comes up: the step runs nothing (R389). -/
theorem step_refire_stopped {s s1 : State} {id : Nat} {p : Parked} (next : s.nextAct = (.refire id, s1))
    (found : s1.parked.find? (fun p => p.id == id) = some p) (stop : s1.stopAt p.f.x p.f.ent.ctx = true) : step s = .next s1 := by
  simp [step, next, State.startRefire, found, stop, runFetched]

/-- The ADD that a worked example of the spec writes out. -/
def specAdd : Instr := .add ⟨.s32, 1, noOfl, at_ 66 0, at_ 66 1⟩ ⟨1, none⟩

/-- That ADD at the first node of a block of the first pair, in a RUNNING context. -/
def addReady : State := State.reset.placeWord 96 (bits96 0x20190400 0x42100109 0x1)

/-- The firing of that ADD, as it stands once it has parked: its operand has left its slot. -/
def addFiring : Firing :=
  { x := placeSite, hdr := 0, pos := 0, ops := [some {}, none, none, none], taken := true
    ent := { uid := some 0, node := 1, ctx := 0, level := 0, time := 0, wait := 0, ord := 1, tag := 0, depth := 0, pri := 0, alone := none,
             pass := false } }

/-- That ADD parked, with nothing left to wait for, and its replay next, while a STOP covers its context (R388, R389). -/
def stoppedReplay : State :=
  { addReady.modCtx 0 (fun k => { k with dstop := true }) with agenda := [.refire 0], parked := [⟨0, addFiring, 0, none, none, 0⟩] }

/-- The number of firings that are parked after an outcome. -/
def parkedAfter : Host.Outcome State Fault Refusal → Nat
  | .next t => t.parked.length
  | _ => 0

/-- Refutes O26: its clause on a replayed firing does not ask that no STOP covers the firing, and under a STOP the step runs nothing
(`step_refire_stopped`; R389): in `stoppedReplay` the parked ADD stays parked, where performing it would leave nothing parked. -/
theorem not_stepRunsTheDecodedInstruction : ¬ Obligations.StepRunsTheDecodedInstruction := by
  intro claim
  let s1 : State := { stoppedReplay with steps := stoppedReplay.steps + 1, agenda := [] }
  obtain ⟨-, -, -, -, replays, -, -⟩ := claim stoppedReplay s1
  have runs := replays 0 ⟨0, addFiring, 0, none, none, 0⟩ specAdd rfl rfl (by decide +kernel) rfl (by decide +kernel) (by decide +kernel)
  have stays : step stoppedReplay = .next s1 := step_refire_stopped rfl rfl (by decide +kernel)
  have differ : parkedAfter (.next s1) ≠ parkedAfter
      (exec specAdd { s1.running addFiring with parked := s1.parked.filter (fun q => q.id != 0) }) := by decide +kernel
  exact differ (congrArg parkedAfter (stays.symm.trans runs))

end Sys2Proof.Machine
end

section
/-! LBOUND (R163, R200; O6): its windows, and what a start token, a marker and a completion change and send. -/
namespace Sys2Proof.Machine

/-! The newest open window of an outer tag. -/

/-- A window is open, and of a record and outer tag (R200). -/
def LbWin.opens (ctx node lvl : Nat) (pfx : W64) (w : LbWin) : Bool := w.is ctx node lvl pfx && !w.closed

section
variable {ctx node lvl : Nat} {pfx : W64}

/-- The newest open window of an outer tag stands before windows that are not open, or of other outer tags. -/
theorem openWin_split {c : Cell} {w : LbWin} (h : c.openWin ctx node lvl pfx = some w) :
    ∃ a b, c.lbs = a ++ w :: b ∧ w.opens ctx node lvl pfx = true ∧ ∀ v ∈ b, v.opens ctx node lvl pfx = false := by
  have found : c.lbs.reverse.find? (LbWin.opens ctx node lvl pfx) = some w := by
    rw [← List.head?_filter, List.filter_reverse, ← List.getLast?_eq_head?_reverse]
    exact h
  obtain ⟨opens, b, a, split, before⟩ := List.find?_eq_some_iff_append.mp found
  refine ⟨a.reverse, b.reverse, ?_, opens, fun v hv => by simpa using before v (List.mem_reverse.mp hv)⟩
  simpa using congrArg List.reverse split

/-- Replacing the newest open window of an outer tag leaves every window before it and behind it. -/
theorem setWin_split {a b : List LbWin} {w : LbWin} (opens : w.opens ctx node lvl pfx = true)
    (behind : ∀ v ∈ b, v.opens ctx node lvl pfx = false) (v : Option LbWin) :
    setWin (a ++ w :: b) ctx node lvl pfx v = a ++ v.toList ++ b := by
  have found : (a ++ w :: b).reverse.findIdx? (fun v => v.is ctx node lvl pfx && !v.closed) = some b.length := by
    have none_ : b.reverse.findIdx? (LbWin.opens ctx node lvl pfx) = none :=
      List.findIdx?_eq_none_iff.mpr fun v hv => behind v (List.mem_reverse.mp hv)
    show (a ++ w :: b).reverse.findIdx? (LbWin.opens ctx node lvl pfx) = some b.length
    simp [List.findIdx?_append, List.findIdx?_cons, none_, opens]
  unfold setWin
  rw [found]
  cases v <;> simp

/-- The windows that are open for an outer tag, once the newest of them is replaced: by `v`, where that is open for it still. -/
theorem filter_setWin {c : Cell} {w : LbWin} (h : c.openWin ctx node lvl pfx = some w) (v : Option LbWin) :
    (setWin c.lbs ctx node lvl pfx v).filter (LbWin.opens ctx node lvl pfx) =
      (c.lbs.filter (LbWin.opens ctx node lvl pfx)).dropLast ++ v.toList.filter (LbWin.opens ctx node lvl pfx) := by
  obtain ⟨a, b, split, opens, behind⟩ := openWin_split h
  have none_ : b.filter (LbWin.opens ctx node lvl pfx) = [] :=
    List.filter_eq_nil_iff.mpr fun u hu => by simp [behind u hu]
  rw [split, setWin_split opens behind]
  simp [none_, opens]

/-- A window that stays open takes the place of the newest open window of its outer tag. -/
theorem openWin_setWin_open {c d : Cell} {w v : LbWin} (h : c.openWin ctx node lvl pfx = some w)
    (put : d.lbs = setWin c.lbs ctx node lvl pfx (some v)) (opens : v.opens ctx node lvl pfx = true) :
    d.openWin ctx node lvl pfx = some v := by
  show (d.lbs.filter (LbWin.opens ctx node lvl pfx)).getLast? = some v
  simp [put, filter_setWin h, opens]

/-- Once the newest open window of an outer tag has closed, or is gone, the one before it is the newest. -/
theorem openWin_setWin_closed {c d : Cell} {w : LbWin} {v : Option LbWin} (h : c.openWin ctx node lvl pfx = some w)
    (put : d.lbs = setWin c.lbs ctx node lvl pfx v) (closed : ∀ u, v = some u → u.closed = true) :
    d.openWin ctx node lvl pfx = (c.lbs.filter (LbWin.opens ctx node lvl pfx)).dropLast.getLast? := by
  have none_ : v.toList.filter (LbWin.opens ctx node lvl pfx) = [] := by
    cases v with
    | none => rfl
    | some u => simp [LbWin.opens, closed u rfl]
  show (d.lbs.filter (LbWin.opens ctx node lvl pfx)).getLast? = _
  rw [put, filter_setWin h, none_, List.append_nil]

/-- The newest open window of an outer tag is open, and of that outer tag. -/
theorem opens_of_openWin {c : Cell} {w : LbWin} (h : c.openWin ctx node lvl pfx = some w) : w.opens ctx node lvl pfx = true := by
  obtain ⟨-, -, -, opens, -⟩ := openWin_split h
  exact opens

end

/-! A firing that issues, changes what S6 does not see, and sends its tokens. -/

/-- S6 does not see a change of a cell that leaves its pipeline, latches, slots and blocks. -/
theorem modCell_sendsAlike (s : State) (f : Firing) (g : Cell → Cell)
    (same : ∀ c, (g c).pipe = c.pipe ∧ (g c).spat = c.spat ∧ (g c).slots = c.slots ∧ (g c).blks = c.blks) :
    SendsAlike s (s.modCell f.x g) f := by
  obtain ⟨pipe, spat, slots, blks⟩ := same (s.cell f.x)
  exact ⟨rfl, rfl, rfl, by rw [cell_modCell_same]; exact pipe, by rw [cell_modCell_same]; exact spat,
    by rw [cell_modCell_same]; exact slots, by rw [cell_modCell_same]; exact blks⟩

/-- A departure of no tokens changes nothing. -/
theorem depart_nil (s : State) (f : Firing) (n : Nat) : s.depart f n [] = s := rfl

/-- A firing that sends nothing issues, and makes the change `g` of its state. -/
theorem issue_silent (s : State) (f : Firing) (ports : List Nat) (used : List Tok) (k : State → List Tok → State) :
    s.issue f { sends := [], ports := ports, used := used } k = k (s.issued f { sends := [], ports := ports, used := used } []) [] :=
  issue_clear s f _ k [] (Nat.zero_and _) rfl rfl

/-! The windows of LBOUND's firings. -/

/-- A state with the newest open window of an outer tag of a firing's record replaced. -/
def State.putWin (s : State) (f : Firing) (lvl : Nat) (pfx : W64) (v : Option LbWin) : State :=
  s.modCell f.x (fun c => { c with lbs := setWin c.lbs f.ent.ctx f.ent.node lvl pfx v })

/-- S6 does not see a change of a window. -/
theorem putWin_sendsAlike (s : State) (f : Firing) (lvl : Nat) (pfx : W64) (v : Option LbWin) : SendsAlike s (s.putWin f lvl pfx v) f :=
  modCell_sendsAlike s f _ fun _ => ⟨rfl, rfl, rfl, rfl⟩

/-- What a firing keeps of its own cell: its windows. -/
theorem Kept.lbs {s t : State} {f : Firing} (h : Kept s t f) : (t.cell f.x).lbs = (s.cell f.x).lbs := (congrArg Cell.lbs h.cell :)

/-- The windows of a firing that has issued and replaced one, when its tokens are on their way. -/
theorem lbs_putWin_depart (s : State) (f : Firing) (o : Out) (n lvl : Nat) (pfx : W64) (v : Option LbWin) (toks sent : List Tok) :
    (((((s.issued f o toks).putWin f lvl pfx v).depart f n sent)).cell f.x).lbs =
      setWin (s.cell f.x).lbs f.ent.ctx f.ent.node lvl pfx v := by
  rw [(depart_spec _ f n sent).1.lbs, State.putWin, cell_modCell_same]
  show setWin ((s.issued f o toks).cell f.x).lbs _ _ _ _ v = _
  rw [(issued_spec s f o toks).kept.lbs]

/-- A firing of LBOUND that replaces a window sends its tokens, and leaves the windows so. -/
theorem issue_putWin {s : State} {f : Firing} {o : Out} {toks : List Tok} (lvl : Nat) (pfx : W64) (v : Option LbWin)
    (cur : s.cur = none) (quiet : o.flags = 0 ∧ o.exits = 0 ∧ o.n = 1) (sent : sendList (s.ctx f.ent.ctx).tl f.x o.sends = some toks)
    (exits : s.exitExcess f (toks.filter Tok.isExit).length = false) :
    let t := s.issue f o (fun u toks => (u.putWin f lvl pfx v).depart f 1 toks)
    Emits s t f 1 0 o.ports toks ∧ (t.cell f.x).lbs = setWin (s.cell f.x).lbs f.ent.ctx f.ent.node lvl pfx v := by
  obtain ⟨flags, none_, cycle⟩ := quiet
  intro t
  have runs : t = ((s.issued f o toks).putWin f lvl pfx v).depart f o.n toks := by
    rw [cycle]
    exact issue_clear s f o _ toks (by rw [flags]; exact Nat.zero_and _) sent (by rw [none_, Nat.zero_add]; exact exits)
  rw [runs, ← flags, ← cycle]
  exact ⟨emits_depart_of_sendsAlike toks cur (putWin_sendsAlike ..), lbs_putWin_depart ..⟩

/-! What a start token, a marker and a completion do (R163, R200). -/

section
variable {s : State} {f : Firing} {h : Hdr} {k : Nat} {t : Tok} {w : LbWin} {toks : List Tok}

/-- A start token within the bound of an open window that holds no marker is sent, and admitted. -/
theorem lboundStart_admits (cur : s.cur = none) (depth : 1 ≤ t.depth)
    (opened : (s.cell f.x).openWin f.ent.ctx f.ent.node t.depth (tagUpTo (s.ctx f.ent.ctx).tl t.tag (t.depth - 1)) = some w)
    (free : w.mkh = none) (above : w.base ≤ lvl (s.ctx f.ent.ctx).tl t.tag t.depth)
    (within : lvl (s.ctx f.ent.ctx).tl t.tag t.depth < w.base + k)
    (sent : sendList (s.ctx f.ent.ctx).tl f.x (both h (fwdTok f h [t] t false)) = some toks)
    (exits : s.exitExcess f (toks.filter Tok.isExit).length = false) :
    Emits s (s.lboundStart f h k t) f 1 0 [] toks ∧
      ((s.lboundStart f h k t).cell f.x).openWin f.ent.ctx f.ent.node t.depth (tagUpTo (s.ctx f.ent.ctx).tl t.tag (t.depth - 1)) =
        some { w with adm := w.adm ||| BitVec.ofNat 64 (2 ^ (lvl (s.ctx f.ent.ctx).tl t.tag t.depth - w.base)) } := by
  have runs : s.lboundStart f h k t = s.issue f { sends := both h (fwdTok f h [t] t false), ports := [], used := [t] } (fun u toks =>
      (u.putWin f t.depth (tagUpTo (s.ctx f.ent.ctx).tl t.tag (t.depth - 1))
        (some { w with adm := w.adm ||| BitVec.ofNat 64 (2 ^ (lvl (s.ctx f.ent.ctx).tl t.tag t.depth - w.base)) })).depart f 1 toks) := by
    unfold State.lboundStart
    simp [Nat.ne_of_gt depth, opened, free, above, within, State.putWin]
  obtain ⟨emits, put⟩ := issue_putWin (o := { sends := both h (fwdTok f h [t] t false), ports := [], used := [t] }) t.depth
    (tagUpTo (s.ctx f.ent.ctx).tl t.tag (t.depth - 1))
    (some { w with adm := w.adm ||| BitVec.ofNat 64 (2 ^ (lvl (s.ctx f.ent.ctx).tl t.tag t.depth - w.base)) })
    cur ⟨rfl, rfl, rfl⟩ sent exits
  rw [runs]
  exact ⟨emits, openWin_setWin_open opened put (opens_of_openWin opened :)⟩

/-- What LBOUND sends for a marker that fires it. -/
theorem streamOut_markers (alone : f.ent.alone = some t) : (streamOut f h [h.t0, h.t1]).sends =
    [.marker h.t0 (fwdTok f h [t] t false), .marker h.t1 (fwdTok f h [t] t false)] := by simp [streamOut, alone]

/-- A marker whose window holds no start token, and awaits none, is sent on, and closes its window. -/
theorem lboundMarker_closes (cur : s.cur = none) (alone : f.ent.alone = some t)
    (opened : (s.cell f.x).openWin f.ent.ctx f.ent.node (fld t.side.toNat 0 4) t.tag = some w) (held : w.held = 0)
    (none_ : s.startsSpilled f.x f.ent.ctx f.ent.node (fld t.side.toNat 0 4) t.tag = false)
    (sent : sendList (s.ctx f.ent.ctx).tl f.x [.marker h.t0 (fwdTok f h [t] t false), .marker h.t1 (fwdTok f h [t] t false)] = some toks)
    (exits : s.exitExcess f (toks.filter Tok.isExit).length = false) :
    Emits s (s.lboundMarker f h t) f 1 0 [] toks ∧
      ((s.lboundMarker f h t).cell f.x).openWin f.ent.ctx f.ent.node (fld t.side.toNat 0 4) t.tag =
        ((s.cell f.x).lbs.filter (LbWin.opens f.ent.ctx f.ent.node (fld t.side.toNat 0 4) t.tag)).dropLast.getLast? := by
  have runs : s.lboundMarker f h t = s.issue f (streamOut f h [h.t0, h.t1]) (fun u toks => (u.putWin f (fld t.side.toNat 0 4) t.tag
      (if ({ w with closed := true } : LbWin).finished then none else some { w with closed := true })).depart f 1 toks) := by
    unfold State.lboundMarker
    simp [opened, held, none_, State.putWin]
  obtain ⟨emits, put⟩ := issue_putWin (o := streamOut f h [h.t0, h.t1]) (fld t.side.toNat 0 4) t.tag
    (if ({ w with closed := true } : LbWin).finished then none else some { w with closed := true })
    cur ⟨rfl, rfl, rfl⟩ (by rw [streamOut_markers alone]; exact sent) exits
  rw [runs]
  refine ⟨emits, openWin_setWin_closed opened put fun u hu => ?_⟩
  split at hu <;> cases hu
  rfl

/-- A marker whose window holds a start token, or awaits one, is held in it. -/
theorem lboundMarker_held (cur : s.cur = none)
    (opened : (s.cell f.x).openWin f.ent.ctx f.ent.node (fld t.side.toNat 0 4) t.tag = some w)
    (waits : w.held > 0 ∨ s.startsSpilled f.x f.ent.ctx f.ent.node (fld t.side.toNat 0 4) t.tag = true) :
    Emits s (s.lboundMarker f h t) f 1 0 [] [] ∧
      ((s.lboundMarker f h t).cell f.x).openWin f.ent.ctx f.ent.node (fld t.side.toNat 0 4) t.tag = some { w with mkh := some t } := by
  have runs : s.lboundMarker f h t = s.issue f { sends := [], ports := [], used := [t] } (fun u toks =>
      (u.putWin f (fld t.side.toNat 0 4) t.tag (some { w with mkh := some t })).depart f 1 toks) := by
    unfold State.lboundMarker
    simp only [opened, issue_silent, depart_nil]
    exact if_pos (by simpa using waits)
  obtain ⟨emits, put⟩ := issue_putWin (o := { sends := [], ports := [], used := [t] }) (fld t.side.toNat 0 4) t.tag
    (some { w with mkh := some t }) cur ⟨rfl, rfl, rfl⟩ rfl rfl
  rw [runs]
  exact ⟨emits, openWin_setWin_open opened put (opens_of_openWin opened :)⟩

/-- A marker of no open window, whose outer tag awaits no start token, goes on alone. -/
theorem lboundMarker_alone (cur : s.cur = none) (alone : f.ent.alone = some t)
    (opened : (s.cell f.x).openWin f.ent.ctx f.ent.node (fld t.side.toNat 0 4) t.tag = none)
    (none_ : s.startsSpilled f.x f.ent.ctx f.ent.node (fld t.side.toNat 0 4) t.tag = false)
    (sent : sendList (s.ctx f.ent.ctx).tl f.x [.marker h.t0 (fwdTok f h [t] t false), .marker h.t1 (fwdTok f h [t] t false)] = some toks)
    (exits : s.exitExcess f (toks.filter Tok.isExit).length = false) :
    Emits s (s.lboundMarker f h t) f 1 0 [] toks ∧ ((s.lboundMarker f h t).cell f.x).lbs = (s.cell f.x).lbs := by
  have runs : s.lboundMarker f h t = s.fire f (streamOut f h [h.t0, h.t1]) := by
    unfold State.lboundMarker
    simp [opened, none_]
  obtain ⟨emits, kept⟩ := fire_clear s f (streamOut f h [h.t0, h.t1]) toks (Nat.zero_and _) (by rw [streamOut_markers alone]; exact sent)
    (by rw [show (streamOut f h [h.t0, h.t1]).exits = 0 from rfl, Nat.zero_add]; exact exits) cur
  rw [runs]
  exact ⟨emits, kept.lbs⟩

/-- A completion sends nothing; the windows are those that `iterComplete` leaves, or it counts as stray. -/
theorem lboundDone_spec (depth : 1 ≤ t.depth) :
    ((s.lboundDone f t).cell f.x).pipe.deps = (s.cell f.x).pipe.deps ∧ (s.lboundDone f t).cur = s.cur ∧
      match iterComplete f.ent.ctx f.ent.node t.depth (tagUpTo (s.ctx f.ent.ctx).tl t.tag (t.depth - 1))
        (lvl (s.ctx f.ent.ctx).tl t.tag t.depth) (s.cell f.x).lbs with
      | some l => ((s.lboundDone f t).cell f.x).lbs = l
      | none => ((s.lboundDone f t).cell f.x).lbs = (s.cell f.x).lbs ∧
          ((s.lboundDone f t).cell f.x).ctr.nullmiss = satAdd 48 (s.cell f.x).ctr.nullmiss 1 := by
  have issued := issued_spec s f { sends := [], ports := [], used := [t] } []
  obtain ⟨b, pipe, -⟩ := issued.pipe
  unfold State.lboundDone
  simp only [Nat.ne_of_gt depth, if_false, issue_silent]
  generalize s.issued f _ [] = u at *
  generalize iterComplete _ _ _ _ _ _ = r
  cases r <;> simp [pipe, issued.cur, issued.kept.lbs, issued.kept.ctr]

end

/-! LBOUND runs by the port and the kind of the token that fires it. -/

section
variable {h : Hdr} {km1 : Nat} {s : State} {f : Firing} {t : Tok}

/-- A token other than a marker at port 0 is a start token. -/
theorem execLbound_start (cur : s.cur = some f) (alone : f.ent.alone = some t) (port : t.port = 0) (plain : t.flag .streamEnd = false) :
    exec (.lbound h km1) s = .next (State.lboundStart { s with cur := none } f h (km1 + 1) t) :=
  exec_firing (show exec (.lbound h km1) s = execLbound h km1 s from rfl) cur (by simp [alone, port, plain])

/-- A STREAM_END at port 0 is a marker. -/
theorem execLbound_marker (cur : s.cur = some f) (alone : f.ent.alone = some t) (port : t.port = 0) (mark : t.flag .streamEnd = true) :
    exec (.lbound h km1) s = .next (State.lboundMarker { s with cur := none } f h t) :=
  exec_firing (show exec (.lbound h km1) s = execLbound h km1 s from rfl) cur (by simp [alone, port, mark])

/-- A token at port 1 is a completion. -/
theorem execLbound_done (cur : s.cur = some f) (alone : f.ent.alone = some t) (port : t.port = 1) :
    exec (.lbound h km1) s = .next (State.lboundDone { s with cur := none } f t) :=
  exec_firing (show exec (.lbound h km1) s = execLbound h km1 s from rfl) cur (by simp [alone, port])

end

/-- Settles O6: a start token by `lboundStart_admits`, a completion by `lboundDone_spec`, a marker by the three cases of its window. -/
theorem loopBoundAdmitsAndCompletes : Obligations.LoopBoundAdmitsAndCompletes := by
  intro h km1 s f tok alone cur c tl lv i pfx both_
  refine ⟨fun w toks port plain depth opened free above within sent exits => ?_, fun port depth => ?_,
    fun w toks port mark opened held none_ sent exits => ?_, fun w port mark opened waits => ?_,
    fun toks port mark opened none_ sent exits => ?_⟩
  · obtain ⟨emits, admits⟩ := lboundStart_admits (s := { s with cur := none }) rfl depth opened free above within sent exits
    exact ⟨_, execLbound_start cur alone port plain, emits.of_cur, admits⟩
  · obtain ⟨deps, -, done⟩ := lboundDone_spec (s := { s with cur := none }) (f := f) (t := tok) depth
    exact ⟨_, execLbound_done cur alone port, deps, done⟩
  · obtain ⟨emits, closes⟩ := lboundMarker_closes (s := { s with cur := none }) rfl alone opened held none_ sent exits
    exact ⟨_, execLbound_marker cur alone port mark, emits.of_cur, closes⟩
  · obtain ⟨emits, holds⟩ := lboundMarker_held (s := { s with cur := none }) (h := h) rfl opened waits
    exact ⟨_, execLbound_marker cur alone port mark, emits.of_cur, holds⟩
  · obtain ⟨emits, kept⟩ := lboundMarker_alone (s := { s with cur := none }) rfl alone opened none_ sent exits
    exact ⟨_, execLbound_marker cur alone port mark, emits.of_cur, kept⟩

end Sys2Proof.Machine
end

section
/-! What taking a fault leaves of the contexts (R361 to R365): the work at the homes of bytes, in the trace queues and on the networks
changes no context, so that a fault changes a context only where it is recorded. -/
namespace Sys2Proof.Machine

/-- No context has changed, nor the firing under way, nor the host's answers to launches. -/
structure SameCtxs (s t : State) : Prop where
  cur : t.cur = s.cur
  ctxs : t.ctxs = s.ctxs
  launch : t.host.launch = s.host.launch

namespace HomeFrame
variable {R : State → State → Prop} (hR : HomeFrame R)
include hR

/-- Reading the BOUND of a context's handle. -/
theorem ctxBound (s : State) (c h : Nat) : R s (s.ctxBound c h).2 := by
  have checked := hR.checkHandle s (homeSite c) c h 0 64
  unfold State.ctxBound
  split <;> (rename_i found; rw [found] at checked; exact checked)

/-- Reading a number at a context's handle. -/
theorem ctxRead (s : State) (c h o n : Nat) : R s (s.ctxRead c h o n).2 := by
  have named := hR.spots s (homeSite c) c h o n false
  unfold State.ctxRead
  split <;> (rename_i found; rw [found] at named; exact named)

/-- Writing bytes at places that have been found. -/
theorem writeSpots (s : State) (l : List Spot) (bs : List Byte) : R s (s.writeSpots l bs) := by
  induction l generalizing s bs with
  | nil => exact hR.refl s
  | cons p l ih =>
    cases bs with
    | nil => exact hR.refl s
    | cons b bs => exact hR.trans (hR.setByte s p.addr b) (ih _ _)

end HomeFrame

namespace SameCtxs
variable {s t u : State}

theorem refl (s : State) : SameCtxs s s := ⟨rfl, rfl, rfl⟩

theorem trans (h : SameCtxs s t) (k : SameCtxs t u) : SameCtxs s u :=
  ⟨k.cur.trans h.cur, k.ctxs.trans h.ctxs, k.launch.trans h.launch⟩

theorem ctx (h : SameCtxs s t) (c : Nat) : t.ctx c = s.ctx c := by rw [State.ctx, State.ctx, h.ctxs]

theorem modDie (s : State) (d : Nat) (g : Die → Die) : SameCtxs s (s.modDie d g) := ⟨rfl, rfl, rfl⟩

theorem modCell (s : State) (x : Site) (g : Cell → Cell) : SameCtxs s (s.modCell x g) := ⟨rfl, rfl, rfl⟩

theorem modMem (s : State) (g : MemSys → MemSys) : SameCtxs s (s.modMem g) := ⟨rfl, rfl, rfl⟩

/-- Finding and writing the homes of bytes changes no context. -/
theorem homeFrame : HomeFrame SameCtxs where
  refl := refl
  trans := trans
  modMem := modMem
  setByte s a b := by unfold State.setByte; split <;> exact ⟨rfl, rfl, rfl⟩
  setPoison _ _ _ := ⟨rfl, rfl, rfl⟩
  freeVal _ := ⟨rfl, rfl, rfl⟩
  tile s x _ := modCell s x _
  sampler s d _ := modDie s d _
  wakes s d _ := modDie s d _

/-- A trace record changes no context. -/
theorem trace (s : State) (die u : Nat) (e : Event) : SameCtxs s (s.trace die u e) := by
  rcases trace_spec s die u e with h | ⟨l, h⟩ <;> rw [h]
  · exact refl s
  · exact modDie s die _

/-- A frame taken from a COW pool changes no context. -/
theorem takeFrame (s : State) (die tenant size : Nat) : SameCtxs s (s.takeFrame die tenant size).2 := by
  unfold State.takeFrame
  dsimp only
  split
  · exact refl s
  · exact (homeFrame.touchWrite s _ 0).trans ⟨rfl, rfl, rfl⟩

/-- The copy of a shared page begins, and changes no context. -/
theorem beginCow (s : State) (die tenant ctx va : Nat) (e : Pte) (at_ : Nat) (init : Option Act) (after : Nat) :
    SameCtxs s (s.beginCow die tenant ctx va e at_ init after).2 := by
  have restored (t : State) : SameCtxs t ((t.setNum at_ 8 e).touchWrite at_ 0) := homeFrame.setNum_touchWrite t at_ 8 e at_ 0
  have migr : SameCtxs s (((s.setNum at_ 8 (e ||| 3 * 2 ^ 60)).touchWrite at_ 0).dropTlb tenant
      (va / pageBytes (pteSize e) * pageBytes (pteSize e)) (pageBytes (pteSize e))) :=
    (homeFrame.setNum_touchWrite s at_ 8 _ at_ 0).trans (modMem _ _)
  have framed := migr.trans (takeFrame _ die tenant (pteSize e))
  unfold State.beginCow
  dsimp only
  split
  case h_1 f s2 taken =>
    rw [taken] at framed
    split
    · exact framed.trans (restored s2)
    · exact framed.trans ((modMem s2 _).trans (trace _ _ _ _))
  case h_2 s2 taken =>
    rw [taken] at framed
    exact framed.trans (restored s2)

/-- What enters the mesh changes no context. -/
theorem netSend (s : State) (die : Nat) (p : Nat × Nat) (cls ddie res : Nat) (body : Body) :
    SameCtxs s (s.netSend die p cls ddie res body) := ⟨rfl, rfl, rfl⟩

/-- The notice of a record changes no context. -/
theorem notify (s : State) (r : FRec) (seq : Nat) : SameCtxs s (s.notify r seq) := by
  unfold State.notify
  dsimp only
  split
  · exact ⟨rfl, rfl, rfl⟩
  · exact netSend s _ _ _ _ _ _

/-- An answer on its way changes no context. -/
theorem pay (s : State) (x : Site) (d : Dep) : SameCtxs s (s.pay x d) := by
  unfold State.pay State.answer State.answerAs
  split
  · exact refl s
  · exact netSend s _ _ _ _ _ _

end SameCtxs

/-- What holds after an attempt to write a record or a spilled token: where it is written, and where something keeps it from being. -/
def Put.After (written kept : State → Prop) : Put → Prop
  | .done t => written t
  | .full => True
  | .fault t | .wait t => kept t

/-- An attempt that meets what stands in its way changes no context. -/
theorem putBlocked_sameCtxs (s : State) (c : Nat) (b : Block) (written : State → Prop) :
    (s.putBlocked c b).After written (SameCtxs s) := by
  have blocked : SameCtxs s (s.ownBlocked c b).2 := by
    unfold State.ownBlocked
    split
    · exact SameCtxs.refl s
    · exact SameCtxs.beginCow s _ _ _ _ _ _ _ _
    · exact SameCtxs.refl s
  unfold State.putBlocked
  split <;> (rename_i found; rw [found] at blocked; exact blocked)

/-- A state in which a context's record `e` has been written and is open (R363). -/
def State.recorded (s : State) (c : Nat) (e : OpenRec) : State :=
  s.modCtx c (fun k => { k with trap := { k.trap with seq := (e.seq + 1) % 2 ^ 32, last := e.code.code, opens := k.trap.opens ++ [e] } })

/-- An attempt to write a fault record opens the record where it is written, under the next number, and changes no context otherwise. -/
theorem putRecord_spec (s : State) (r : FRec) (what : Resume) : (s.putRecord r what).After
    (fun t => ∃ u, SameCtxs s u ∧ SameCtxs (u.recorded r.ctx ⟨(s.ctx r.ctx).trap.seq, r.code.kind, r.code, what⟩) t) (SameCtxs s) := by
  have bound := SameCtxs.homeFrame.ctxBound s r.ctx (s.ctx r.ctx).fqh
  unfold State.putRecord
  dsimp only
  split
  · exact putBlocked_sameCtxs ..
  rename_i n s1 found
  rw [found] at bound
  have read := SameCtxs.homeFrame.ctxRead s1 r.ctx (s.ctx r.ctx).fqh 0 8
  split
  · exact putBlocked_sameCtxs ..
  rename_i v s2 found
  rw [found] at read
  split
  · trivial
  have place := SameCtxs.homeFrame.spots s2 (homeSite r.ctx) r.ctx (s.ctx r.ctx).fqh (64 + 32 * (v % 2 ^ 32 % ((n - 64) / 32))) 32 true
  split
  · exact putBlocked_sameCtxs ..
  rename_i l s3 found
  rw [found] at place
  have head := SameCtxs.homeFrame.spots s3 (homeSite r.ctx) r.ctx (s.ctx r.ctx).fqh 0 4 true
  split
  · exact putBlocked_sameCtxs ..
  rename_i lw s4 found
  rw [found] at head
  have written := (((bound.trans read).trans place).trans head).trans
    ((SameCtxs.homeFrame.writeSpots s4 l (wordBytes (r.words (s.ctx r.ctx).trap.seq))).trans
      (SameCtxs.homeFrame.writeSpots _ lw (leBytes 4 ((v % 2 ^ 32 + 1) % 2 ^ 32))))
  exact ⟨_, written, (SameCtxs.trace _ _ _ _).trans (SameCtxs.notify _ _ _)⟩

/-- What taking faults and settling leave of a context: all but its state, what its pre-emption holds and its records; a state that is
neither RUNNING nor STOPPED stays, and at most one record is opened, under the next number. -/
structure Ctx.Faulted (a b : Ctx) : Prop where
  rest : ∃ st pre trap, b = { a with st := st, pre := pre, trap := trap }
  st : a.st ≠ .running → a.st ≠ .stopped → b.st = a.st
  opens : b.trap.opens = a.trap.opens ∨ ∃ e : OpenRec, e.seq = a.trap.seq ∧ b.trap.opens = a.trap.opens ++ [e]

theorem Ctx.Faulted.refl (a : Ctx) : a.Faulted a := ⟨⟨_, _, _, rfl⟩, fun _ _ => rfl, .inl rfl⟩

/-- A context that settles keeps all but its state, and stays what it is unless it is RUNNING or STOPPED. -/
theorem settle_ctx (s : State) (c : Nat) : (s.settle c).cur = s.cur ∧ (s.settle c).host = s.host ∧ ∀ d, ∃ st,
    (s.settle c).ctx d = { s.ctx d with st := st } ∧ ((s.ctx d).st ≠ .running → (s.ctx d).st ≠ .stopped → st = (s.ctx d).st) := by
  have modded (st : CState) (d : Nat) (live : (s.ctx c).st = .running ∨ (s.ctx c).st = .stopped) : ∃ st',
      (s.modCtx c (fun k => { k with st := st })).ctx d = { s.ctx d with st := st' } ∧
        ((s.ctx d).st ≠ .running → (s.ctx d).st ≠ .stopped → st' = (s.ctx d).st) := by
    by_cases same : d = c
    · subst same
      exact ⟨st, ctx_modCtx_same .., fun run stop => (live.elim run stop).elim⟩
    · exact ⟨_, ctx_modCtx_ne s same _, fun _ _ => rfl⟩
  unfold State.settle
  split
  case h_1 running =>
    split
    · exact ⟨rfl, rfl, fun d => modded .stopped d (.inl running)⟩
    · exact ⟨rfl, rfl, fun d => ⟨_, rfl, fun _ _ => rfl⟩⟩
  case h_2 stopped =>
    split
    · exact ⟨rfl, rfl, fun d => ⟨_, rfl, fun _ _ => rfl⟩⟩
    · exact ⟨rfl, rfl, fun d => modded .running d (.inr stopped)⟩
  case h_3 => exact ⟨rfl, rfl, fun d => ⟨_, rfl, fun _ _ => rfl⟩⟩

/-- What a fault makes of the contexts before its own settles: it opens a record, or leaves them as they were. -/
theorem recorded_ctx (s : State) (c : Nat) (e : OpenRec) (d : Nat) (next : e.seq = (s.ctx c).trap.seq) :
    (s.ctx d).Faulted ((s.recorded c e).ctx d) := by
  by_cases same : d = c
  · subst same
    rw [State.recorded, ctx_modCtx_same]
    exact ⟨⟨_, _, _, rfl⟩, fun _ _ => rfl, .inr ⟨e, next, rfl⟩⟩
  · rw [State.recorded, ctx_modCtx_ne s same]
    exact .refl _

/-- Taking a fault changes no context but by its record and its stop (R361 to R365). -/
theorem takeFault_spec (s : State) (unit : Nat) (r : FRec) (what : Resume) : (s.takeFault unit r what).cur = s.cur ∧
    (s.takeFault unit r what).host.launch = s.host.launch ∧ ∀ d, (s.ctx d).Faulted ((s.takeFault unit r what).ctx d) := by
  unfold State.takeFault
  extract_lets latch s1
  split
  case isTrue =>
    refine ⟨rfl, rfl, fun d => ?_⟩
    by_cases same : d = r.ctx
    · subst same
      rw [ctx_modCtx_same]
      exact ⟨⟨_, _, _, rfl⟩, fun _ _ => rfl, .inl rfl⟩
    · rw [ctx_modCtx_ne s same]
      exact .refl _
  case isFalse =>
    have latched (host : Bool) (t : State) : SameCtxs t (latch host t) := by cases host <;> exact ⟨rfl, rfl, rfl⟩
    have before : s1.cur = s.cur ∧ s1.host.launch = s.host.launch ∧ ∀ d, (s.ctx d).Faulted (s1.ctx d) := by
      have kept {t : State} (h : SameCtxs s t) : t.cur = s.cur ∧ t.host.launch = s.host.launch ∧ ∀ d, (s.ctx d).Faulted (t.ctx d) :=
        ⟨h.cur, h.launch, fun d => by rw [h.ctx]; exact .refl _⟩
      have put := putRecord_spec s r what
      unfold s1
      split
      · exact kept (latched false s)
      split
      case h_1 t done =>
        rw [done] at put
        obtain ⟨u, found, written⟩ := put
        refine ⟨written.cur.trans found.cur, written.launch.trans found.launch, fun d => ?_⟩
        rw [written.ctx, ← found.ctx d]
        exact recorded_ctx u r.ctx _ d (by rw [found.ctx])
      case h_2 => exact kept (latched false s)
      case h_3 t fault => rw [fault] at put; exact kept (put.trans (latched true t))
      case h_4 t wait => rw [wait] at put; exact kept (put.trans (latched false t))
    obtain ⟨cur, launch, ctxs⟩ := before
    obtain ⟨curS, hostS, ctxsS⟩ := settle_ctx s1 r.ctx
    refine ⟨curS.trans cur, (congrArg _ hostS).trans launch, fun d => ?_⟩
    obtain ⟨⟨st1, pre, trap, rest⟩, stays, opens⟩ := ctxs d
    obtain ⟨st, made, settled⟩ := ctxsS d
    rw [made]
    refine ⟨⟨st, pre, trap, by rw [rest]⟩, fun run stop => ?_, opens⟩
    have unmoved := stays run stop
    exact (settled (by rwa [unmoved]) (by rwa [unmoved])).trans unmoved

end Sys2Proof.Machine
end

section
/-! What the answer to a fault record leaves of the records that are open (R365, R386). -/
namespace Sys2Proof.Machine

/-- No fault record has been opened or closed, and no firing has come under way or ended. -/
structure SameRecords (s t : State) : Prop where
  cur : t.cur = s.cur
  records : ∀ c, (t.ctx c).trap.opens = (s.ctx c).trap.opens ∧ (t.ctx c).trap.seq = (s.ctx c).trap.seq

theorem SameCtxs.records {s t : State} (h : SameCtxs s t) : SameRecords s t := ⟨h.cur, fun c => by rw [h.ctx]; exact ⟨rfl, rfl⟩⟩

/-! What changes no context. -/

namespace SameCtxs

/-- What follows a change of anything but the contexts, the firing under way and the host's answers to launches. -/
theorem behind {s t u : State} (h : SameCtxs t u) (cur : t.cur = s.cur) (ctxs : t.ctxs = s.ctxs) (launch : t.host.launch = s.host.launch) :
    SameCtxs s u := SameCtxs.trans ⟨cur, ctxs, launch⟩ h

/-- Accesses that are needed no more are forgotten. -/
theorem forget (s : State) (x : Site) (uid : Nat) : SameCtxs s (s.forget x uid) := by
  unfold State.forget
  split
  · exact refl s
  split
  · exact refl s
  · exact modMem s _

/-- A frame that waits for nothing more frees. -/
theorem reap (s : State) (x : Site) (uid : Nat) : SameCtxs s (s.reap x uid) := by
  unfold State.reap
  split
  · split
    · exact (modCell s x _).trans (forget _ x uid)
    · exact refl s
  · exact forget s x uid

/-- A directory entry retires, if it may. -/
theorem retire (s : State) (x : Site) (uid : Option Nat) : SameCtxs s (s.retire x uid) := by
  unfold State.retire
  split
  · exact refl s
  rename_i u
  unfold State.tryRetire
  dsimp only
  split
  · exact forget s x u
  split
  · exact reap s x u
  split
  · exact refl s
  split
  · exact (modCell s x _).trans (forget _ x u)
  · exact refl s

/-- A directory entry that may be there is force-retired. -/
theorem forceOut (s : State) (x : Site) (uid : Option Nat) : SameCtxs s (s.forceOut x uid) := by
  unfold State.forceOut
  split
  case h_2 => exact refl s
  rename_i u
  unfold State.forceRetire
  split
  · exact refl s
  split
  · exact refl s
  · exact (reap _ x u).behind rfl rfl rfl

/-- A store that will not perform leaves SPEND. -/
theorem unspend (s : State) (x : Site) (uid : Option Nat) (pos : Nat) : SameCtxs s (s.unspend x uid pos) := by
  unfold State.unspend
  split
  · exact (modCell s x _).trans (retire _ x _)
  · exact refl s

/-- A directory entry is force-retired, and its store leaves SPEND. -/
theorem forceOut_unspend (s : State) (x : Site) (uid : Option Nat) (pos : Nat) :
    SameCtxs s ((s.forceOut x uid).unspend x uid pos) := (forceOut s x uid).trans (unspend _ x uid pos)

/-- An access is abandoned. -/
theorem skipAcc (s : State) (a : Access) : SameCtxs s (s.skipAcc a) := by
  unfold State.skipAcc
  exact (forceOut_unspend _ a.x a.uid a.pos).behind rfl rfl rfl

/-- The trace record of a spilled token changes no context. -/
theorem traceSpill (s : State) (x : Site) (t : Tok) (at_ : Option FRec) : SameCtxs s (s.traceSpill x t at_) := by
  unfold State.traceSpill
  split
  · exact refl s
  dsimp only
  split <;> exact trace s _ _ _

/-- An access that was parked goes on its way again. -/
theorem resendAcc (s : State) (a : Access) : SameCtxs s (s.resendAcc a) := by
  unfold State.resendAcc
  split <;> exact ⟨rfl, rfl, rfl⟩

end SameCtxs

/-! What changes a context, but none of its records. -/

namespace SameRecords
variable {s t u : State}

theorem refl (s : State) : SameRecords s s := (SameCtxs.refl s).records

theorem trans (h : SameRecords s t) (k : SameRecords t u) : SameRecords s u :=
  ⟨k.cur.trans h.cur, fun c => ⟨(k.records c).1.trans (h.records c).1, (k.records c).2.trans (h.records c).2⟩⟩

/-- What follows a change of anything but the contexts and the firing under way. -/
theorem behind (h : SameRecords t u) (cur : t.cur = s.cur) (ctxs : t.ctxs = s.ctxs) : SameRecords s u :=
  SameRecords.trans ⟨cur, fun c => by rw [State.ctx, State.ctx, ctxs]; exact ⟨rfl, rfl⟩⟩ h

/-- A change of a context that leaves its records. -/
theorem modCtx (s : State) (c : Nat) (g : Ctx → Ctx) (opens : ∀ k, (g k).trap.opens = k.trap.opens) (seq : ∀ k, (g k).trap.seq = k.trap.seq) :
    SameRecords s (s.modCtx c g) := by
  refine ⟨rfl, fun d => ?_⟩
  by_cases same : d = c
  · subst same
    rw [ctx_modCtx_same]
    exact ⟨opens _, seq _⟩
  · rw [ctx_modCtx_ne s same]
    exact ⟨rfl, rfl⟩

/-- A watchdog that starts anew. -/
theorem progress (s : State) (c : Nat) : SameRecords s (s.progress c) := by
  unfold State.progress
  split
  · exact refl s
  · exact modCtx s c _ (fun _ => rfl) fun _ => rfl

/-- A spilled token leaves the ring. -/
theorem unspill (s : State) (c ring : Nat) : SameRecords s (s.unspill c ring) := by
  unfold State.unspill
  extract_lets s1
  have moved : SameRecords s s1 := modCtx s c _ (fun _ => rfl) fun _ => rfl
  have place := SameCtxs.homeFrame.spots s1 (homeSite c) c (s1.ctx c).spillh 4 4 true
  split <;> (rename_i found; rw [found] at place)
  · exact moved.trans (place.trans (SameCtxs.homeFrame.writeSpots _ _ _)).records
  · exact moved.trans place.records

/-- What was spilled, if it was, leaves the ring. -/
theorem unspillAt (s : State) (c : Nat) (spilt : Option Nat) :
    SameRecords s (match spilt with | some r => s.unspill c r | none => s) := by
  cases spilt with
  | some r => exact unspill s c r
  | none => exact refl s

/-- A notice has been handled. -/
theorem endNote (s : State) (die isl : Nat) (n : Notice) : SameRecords s (s.endNote die isl n) := by
  have left : SameRecords s ((s.modIsl die isl (fun i => { i with notices := i.notices.filter (fun m => m.id != n.id) })).progress n.ctx) :=
    (progress _ n.ctx).behind rfl rfl
  exact left.trans (unspillAt _ n.ctx n.spilt)

/-- A context that settles keeps its records. -/
theorem settle (s : State) (c : Nat) : SameRecords s (s.settle c) := by
  obtain ⟨cur, -, ctxs⟩ := settle_ctx s c
  refine ⟨cur, fun d => ?_⟩
  obtain ⟨st, made, -⟩ := ctxs d
  rw [made]
  exact ⟨rfl, rfl⟩

end SameRecords

/-- An attempt to spill a token opens no record. -/
theorem putSpill_records (s : State) (x : Site) (hdr : Nat) (t : Tok) (held : Bool) :
    (s.putSpill x hdr t held).After (SameRecords s) (SameCtxs s) := by
  unfold State.putSpill
  dsimp only
  have bound := SameCtxs.homeFrame.ctxBound s t.ctx (s.ctx t.ctx).spillh
  split
  · exact putBlocked_sameCtxs ..
  rename_i n s1 found
  rw [found] at bound
  split
  · trivial
  have place := SameCtxs.homeFrame.spots s1 (homeSite t.ctx) t.ctx (s.ctx t.ctx).spillh (64 + 128 * ((s.ctx t.ctx).spill.wp % spillCap n)) 128 true
  split
  · exact putBlocked_sameCtxs ..
  rename_i l s2 found
  rw [found] at place
  have head := SameCtxs.homeFrame.spots s2 (homeSite t.ctx) t.ctx (s.ctx t.ctx).spillh 0 4 true
  split
  · exact putBlocked_sameCtxs ..
  rename_i lw s3 found
  rw [found] at head
  exact ((((bound.trans place).trans head).trans (SameCtxs.homeFrame.writeSpots s3 l _)).trans
    (SameCtxs.homeFrame.writeSpots _ lw _)).records.trans (SameRecords.modCtx _ _ _ (fun _ => rfl) fun _ => rfl)

/-- A record that a context has closed, and whose number is not the next, stays closed. -/
structure StaysClosed (c : Nat) (o : OpenRec) (s t : State) : Prop where
  cur : t.cur = s.cur
  closed : o ∉ (s.ctx c).trap.opens → (s.ctx c).trap.seq ≠ o.seq → o ∉ (t.ctx c).trap.opens

namespace StaysClosed
variable {c : Nat} {o : OpenRec} {s t u : State}

/-- What follows a change that opens no record. -/
theorem after (h : SameRecords s t) (k : StaysClosed c o t u) : StaysClosed c o s u := by
  obtain ⟨opens, seq⟩ := h.records c
  exact ⟨k.cur.trans h.cur, fun out next => k.closed (opens ▸ out) (seq ▸ next)⟩

theorem of_records (h : SameRecords s t) : StaysClosed c o s t := by
  obtain ⟨opens, -⟩ := h.records c
  exact ⟨h.cur, fun out _ => opens ▸ out⟩

/-- A fault opens a record under the next number. -/
theorem takeFault (s : State) (unit : Nat) (r : FRec) (what : Resume) : StaysClosed c o s (s.takeFault unit r what) := by
  obtain ⟨cur, -, ctxs⟩ := takeFault_spec s unit r what
  refine ⟨cur, fun out next => ?_⟩
  obtain same | ⟨e, number, more⟩ := (ctxs c).opens
  · rw [same]; exact out
  · rw [more]
    intro there
    obtain there | there := List.mem_append.mp there
    · exact out there
    · exact next (number ▸ congrArg OpenRec.seq (List.mem_singleton.mp there).symm)

/-- What stands aside goes to the ring, up to the first that meets a fault. -/
theorem drainEscape (s : State) (d : Nat) (l : List (Nat × Esc)) : StaysClosed c o s (s.drainEscape d l) := by
  induction l generalizing s with
  | nil => exact of_records (SameRecords.modCtx s d _ (fun _ => rfl) fun _ => rfl)
  | cons e rest ih =>
    obtain ⟨k, e⟩ := e
    unfold State.drainEscape
    extract_lets x rec_
    have put := putSpill_records s x e.hdr e.tok e.held
    split
    case h_1 s1 done =>
      rw [done] at put
      extract_lets s2
      exact after (put.trans ((SameCtxs.modCell s1 x _).trans (SameCtxs.traceSpill s2 x e.tok none)).records) (ih _)
    case h_2 => exact takeFault ..
    case h_3 t fault =>
      rw [fault] at put
      exact after put.records (takeFault ..)
    case h_4 t wait =>
      rw [wait] at put
      exact of_records put.records

/-- What a record holds back goes on, and opens at most one record anew, under the next number. -/
theorem resume (s : State) (d : Nat) (memory : Bool) (what : Resume) : StaysClosed c o s (s.resume d memory what) := by
  have apart {t : State} (h : SameCtxs s t) : StaysClosed c o s t := of_records h.records
  unfold State.resume
  cases what with
  | fire | none | ecc => exact apart (SameCtxs.refl s)
  | toks x uid p => exact apart (SameCtxs.pay s x p)
  | access id =>
    dsimp only
    split
    · split
      · split
        · exact apart ((SameCtxs.trace _ _ _ _).trans (SameCtxs.resendAcc _ _))
        · exact apart (SameCtxs.resendAcc _ _)
      · exact apart (SameCtxs.refl s)
    · split
      · exact apart ((SameCtxs.trace _ _ _ _).trans ⟨rfl, rfl, rfl⟩)
      · exact apart (SameCtxs.refl s)
  | refire id =>
    dsimp only
    split
    · exact apart (SameCtxs.refl s)
    split
    · exact apart ((SameCtxs.trace _ _ _ _).trans ⟨rfl, rfl, rfl⟩)
    · exact apart (SameCtxs.refl s)
  | copy | walk | drain =>
    dsimp only
    split
    · exact apart ⟨rfl, rfl, rfl⟩
    · exact apart (SameCtxs.refl s)
  | notice => exact apart ⟨rfl, rfl, rfl⟩
  | spill => exact drainEscape s d _

/-- What a record holds back is abandoned; of what stands aside then at most one meets a fault anew. -/
theorem skip (s : State) (d : Nat) (memory : Bool) (what : Resume) : StaysClosed c o s (s.skip d memory what) := by
  have apart {t : State} (h : SameCtxs s t) : StaysClosed c o s t := of_records h.records
  unfold State.skip
  split
  case h_1 x uid => exact apart (SameCtxs.forceOut s x uid)
  case h_2 | h_3 => exact apart (SameCtxs.refl s)
  case h_4 x uid p => exact apart ((SameCtxs.forceOut s x uid).trans (SameCtxs.pay _ x p))
  case h_5 id =>
    split
    · split
      · exact apart (SameCtxs.skipAcc s _)
      · exact apart (SameCtxs.refl s)
    split
    case h_1 q _ =>
      extract_lets s1
      have left : SameCtxs s s1 := SameCtxs.modMem s _
      split
      · exact apart (left.trans (SameCtxs.skipAcc s1 _))
      · exact apart left
    · exact apart (SameCtxs.refl s)
  case h_6 id =>
    split
    case h_1 p _ =>
      extract_lets s1
      exact apart ((SameCtxs.forceOut_unspend _ p.f.x p.f.ent.uid p.f.pos).behind rfl rfl rfl)
    · exact apart (SameCtxs.refl s)
  case h_7 die id =>
    split
    case h_1 k _ =>
      split
      · exact apart ⟨rfl, rfl, rfl⟩
      extract_lets s1
      have left : SameCtxs s s1 := ⟨rfl, rfl, rfl⟩
      split
      · exact apart (left.trans (SameCtxs.forceOut s1 _ _))
      · exact apart left
    · exact apart (SameCtxs.refl s)
  case h_8 die id =>
    split
    case h_1 w _ =>
      extract_lets s1 s2
      have left : SameRecords s s1 := SameCtxs.records ⟨rfl, rfl, rfl⟩
      have unspilt : SameRecords s1 s2 := SameRecords.unspillAt s1 d w.spilt
      exact of_records ((left.trans unspilt).trans (SameCtxs.forceOut_unspend s2 _ _ _).records)
    · exact apart (SameCtxs.refl s)
  case h_9 die isl id =>
    split
    · exact of_records ((SameRecords.endNote s die isl _).trans (SameCtxs.forceOut _ _ _).records)
    · exact apart (SameCtxs.refl s)
  case h_10 die isl id =>
    split
    case h_1 p _ =>
      extract_lets s1 s2 s3
      have left : SameCtxs s s1 := ⟨rfl, rfl, rfl⟩
      have emptied : SameCtxs s1 s2 := by unfold s2; split <;> exact ⟨rfl, rfl, rfl⟩
      have unspilt : SameRecords s2 s3 := SameRecords.unspillAt s2 d p.spilt
      exact of_records (((left.trans emptied).records.trans unspilt).trans (SameCtxs.forceOut s3 _ _).records)
    · exact apart (SameCtxs.refl s)
  case h_11 x hdr tag depth => exact after (SameCtxs.forceOut s x _).records (drainEscape _ d _)

end StaysClosed

/-- An answer on its way leaves memory. -/
theorem SameMemory.pay (s : State) (x : Site) (d : Dep) : SameMemory s (s.pay x d) := by
  unfold State.pay State.answer State.answerAs
  split <;> exact ⟨rfl, rfl, rfl⟩

/-- Answers on their way leave memory and every context (R272). -/
theorem payAll_spec (s : State) (l : List (Site × Dep)) (g : Dep → Dep) :
    SameCtxs s (l.foldl (fun t o => t.pay o.1 (g o.2)) s) ∧ SameMemory s (l.foldl (fun t o => t.pay o.1 (g o.2)) s) := by
  refine ⟨SameCtxs.homeFrame.foldl _ (fun t (o : Site × Dep) => SameCtxs.pay t o.1 _) l s, ?_⟩
  induction l generalizing s with
  | nil => exact SameMemory.refl s
  | cons o l ih =>
    exact SameMemory.trans (SameMemory.pay s o.1 (g o.2)) (ih _)

/-- A context has ended (R384): it is ENDED, nothing of it is parked or latched or open, and every other context and memory are kept. -/
structure Ended (s t : State) (c : Nat) : Prop where
  cur : t.cur = s.cur
  st : (t.ctx c).st = .ended
  opens : (t.ctx c).trap.opens = []
  others : ∀ d, d ≠ c → t.ctx d = s.ctx d
  byte : ∀ a, t.byte a = s.byte a
  parked : ∀ p ∈ t.parked, p.f.ent.ctx ≠ c
  latches : ∀ l ∈ t.latches, l.fr.ctx ≠ c

/-- Ending a context that is RUNNING, STOPPED or SAVED (R161, R384). -/
theorem endCtx_live {s : State} {c : Nat} (live : (s.ctx c).st = .running ∨ (s.ctx c).st = .stopped ∨ (s.ctx c).st = .saved) :
    Ended s (s.endCtx c) c := by
  obtain ⟨v, s0, free⟩ : ∃ v s0, s.freeVal = (v, s0) := ⟨_, _, rfl⟩
  have start : SameCtxs s s0 ∧ SameMemory s s0 := by
    rw [← show s.freeVal.2 = s0 by rw [free]]
    exact ⟨⟨rfl, rfl, rfl⟩, ⟨rfl, rfl, rfl⟩⟩
  unfold State.endCtx
  rw [free]
  dsimp -zeta only
  extract_lets k s1 trap s2 host s3 asks stays s4 ev
  rw [if_neg (by rcases live with live | live | live <;> simp [k, live])]
  have paid : SameCtxs s s1 ∧ SameMemory s s1 := by
    obtain ⟨ctxs, mem⟩ := payAll_spec s0 k.pre.owed (fun d => { d with toks := filledWith (v.toNat % 2 ^ 32) d.toks })
    unfold s1
    split
    · exact ⟨SameCtxs.refl s, SameMemory.refl s⟩
    · exact ⟨start.1.trans ctxs, start.2.trans mem⟩
  obtain ⟨ctxs, mem⟩ := paid
  let e : Event := { ev with col := 3 * 32 + (if (3 : Nat) = 3 then ctxDie c else 0), row := 0x7F, cgen := 0 }
  have parked : ∀ p ∈ (s4.dropWaits c true).parked, p.f.ent.ctx ≠ c := fun p hp => by simpa using (List.mem_filter.mp hp).2
  have latches : ∀ l ∈ (s4.dropWaits c true).latches, l.fr.ctx ≠ c := fun l hl => by simpa using (List.mem_filter.mp hl).2
  have here : (s4.dropWaits c true).ctx c = s2.ctx c := rfl
  have others (d : Nat) (h : d ≠ c) : (s4.dropWaits c true).ctx d = s.ctx d := (ctx_setCtx_ne s1 h _).trans (ctxs.ctx d)
  have byte (a : Nat) : (s4.dropWaits c true).byte a = s.byte a := mem.byte a
  have cur : (s4.dropWaits c true).cur = s.cur := ctxs.cur
  have ended : Ended s (s4.dropWaits c true) c :=
    ⟨cur, by rw [here, ctx_setCtx_same], by rw [here, ctx_setCtx_same], others, byte, parked, latches⟩
  rcases trace_spec (s4.dropWaits c true) (ctxDie c) unitDie e with h | ⟨l, h⟩
  · rw [State.tracePeri, h]
    exact ended
  · rw [State.tracePeri, h]
    exact ⟨cur, ended.st, ended.opens, others, byte, parked, latches⟩

/-- A context that is in no such state is left as it is. -/
theorem endCtx_idle {s : State} {c : Nat} (idle : ¬ ((s.ctx c).st = .running ∨ (s.ctx c).st = .stopped ∨ (s.ctx c).st = .saved)) :
    s.endCtx c = s := by
  have none_ : (!((s.ctx c).st == .running || (s.ctx c).st == .stopped || (s.ctx c).st == .saved)) = true := by
    simpa [and_assoc] using idle
  unfold State.endCtx
  simp [none_]

/-- The end of a context leaves the firing under way. -/
theorem endCtx_cur (s : State) (c : Nat) : (s.endCtx c).cur = s.cur := by
  by_cases live : (s.ctx c).st = .running ∨ (s.ctx c).st = .stopped ∨ (s.ctx c).st = .saved
  · exact (endCtx_live live).cur
  · rw [endCtx_idle live]

/-- An answer to an open record closes it in its context, where that is RUNNING or STOPPED and the record's number is not the next. -/
theorem answerRec_closes (s : State) (c : Nat) (o : OpenRec) (act : Nat) : (s.answerRec c o act).cur = s.cur ∧
    ((s.ctx c).st = .running ∨ (s.ctx c).st = .stopped → (s.ctx c).trap.seq ≠ o.seq →
      o ∉ ((s.answerRec c o act).ctx c).trap.opens) := by
  unfold State.answerRec
  split
  · refine ⟨endCtx_cur s c, fun live _ => ?_⟩
    rw [(endCtx_live (live.imp_right .inl)).opens]
    exact List.not_mem_nil
  · extract_lets s1 s2
    have out : o ∉ (s1.ctx c).trap.opens := by
      unfold s1
      rw [ctx_modCtx_same]
      simp
    have seq : (s1.ctx c).trap.seq = (s.ctx c).trap.seq := by
      unfold s1
      rw [ctx_modCtx_same]
    have worked : StaysClosed c o s1 s2 := by
      unfold s2
      split
      · exact .of_records (SameRecords.refl s1)
      split
      · exact .skip s1 c _ _
      · exact .resume s1 c _ _
    have settled := SameRecords.settle s2 c
    refine ⟨settled.cur.trans worked.cur, fun _ next => ?_⟩
    rw [(settled.records c).1]
    exact worked.closed out (seq ▸ next)

end Sys2Proof.Machine
end

section
/-! LBOUND, the walk instructions, TREV, RDTIME, the pins and the FAULTRETs complete (R163, R200, R219, R335 to R337, R355, R356, R386;
O59). -/
namespace Sys2Proof.Machine

/-- A firing of `s` is under way no more in `t`, and its operands at some ports have left their slots. -/
structure Completed (s t : State) (f : Firing) (ports : List Nat) : Prop where
  cur : t.cur = none
  slots : (t.cell f.x).slots = ((s.consume f ports).cell f.x).slots

namespace Completed
variable {s t : State} {f : Firing} {ports : List Nat}

/-- A firing that has issued has completed. -/
theorem issued (s : State) (f : Firing) (o : Out) (toks : List Tok) :
    Completed s (State.issued { s with cur := none } f o toks) f o.ports := by
  have issued := issued_spec { s with cur := none } f o toks
  exact ⟨issued.cur, issued.slots.trans (by rw [cell_consume_cur])⟩

theorem depart (h : Completed s t f ports) (n : Nat) (toks : List Tok) : Completed s (t.depart f n toks) f ports := by
  obtain ⟨-, cur, -, slots, -⟩ := depart_spec t f n toks
  exact ⟨cur.trans h.cur, slots.trans h.slots⟩

theorem modCell (h : Completed s t f ports) (g : Cell → Cell) (slots : (g (t.cell f.x)).slots = (t.cell f.x).slots) :
    Completed s (t.modCell f.x g) f ports := ⟨h.cur, by rw [cell_modCell_same, slots, h.slots]⟩

theorem trace (h : Completed s t f ports) (die u : Nat) (e : Event) : Completed s (t.trace die u e) f ports := by
  rcases trace_spec t die u e with made | ⟨l, made⟩ <;> rw [made]
  · exact h
  · exact ⟨h.cur, h.slots⟩

end Completed

/-- A clear firing that sends one token, with its own tag, on both targets issues; `k` follows, given its tokens. -/
theorem issue_both {s : State} {f : Firing} {h : Hdr} {tok : Tok} (clear : Clear s f [h.t0, h.t1] f.tagOf 0 0)
    (tagged : (tok.tag, tok.depth) = f.tagOf) (ports : List Nat) (used : List Tok) (k : State → List Tok → State) :
    State.issue { s with cur := none } f { sends := both h tok, ports := ports, used := used } k =
      k (State.issued { s with cur := none } f { sends := both h tok, ports := ports, used := used }
        (onTargets (s.ctx f.ent.ctx).tl f.x [h.t0, h.t1] tok)) (onTargets (s.ctx f.ent.ctx).tl f.x [h.t0, h.t1] tok) := by
  obtain ⟨sent, exits⟩ := sendList_targets (s.ctx f.ent.ctx).tl f.x [h.t0, h.t1] tok (by rw [tagged]; exact clear.tags)
  exact issue_clear { s with cur := none } f _ k _ clear.trap sent (by rw [exits]; exact clear.exits)

/-- A forwarded token has the tag of its firing. -/
theorem fwdTok_tagged (f : Firing) (h : Hdr) (used : List Tok) (a : Tok) (r : Bool) :
    ((fwdTok f h used a r).tag, (fwdTok f h used a r).depth) = f.tagOf := Prod.ext (fwdTok_tag ..) (fwdTok_depth ..)

/-- A produced token has the tag of its firing, whatever flag is set of it. -/
theorem newTok_tagged (f : Firing) (h : Hdr) (used : List Tok) (a : Option Tok) (fmt : Ty) (vec : Bool) (d : Payload) :
    ((newTok f h used a fmt vec d).tag, (newTok f h used a fmt vec d).depth) = f.tagOf := Prod.ext (newTok_tag ..) (newTok_depth ..)

/-- A flag that is set or cleared leaves the tag of a token. -/
theorem setFlag_tagged (t : Tok) (g : Flag) (b : Bool) : ((t.setFlag g b).tag, (t.setFlag g b).depth) = (t.tag, t.depth) := by
  obtain ⟨fl, made⟩ := setFlag_eq t g b
  rw [made]

/-! Walk instructions (R335 to R338). -/

/-- A request that a firing sends to the walkers of its quad stands with them. -/
theorem sendWalk_spec (s : State) (f : Firing) (h : Hdr) (kind : WalkKind) (dep : Dep) : (s.sendWalk f h kind dep).cur = s.cur ∧
    ∃ w ∈ ((s.sendWalk f h kind dep).die f.x.die).eng.walks, w.f = f ∧ w.kind = kind := by
  unfold State.sendWalk
  extract_lets id w s1 issued
  have stands : w ∈ (s1.die f.x.die).eng.walks := by
    unfold s1 State.modEng
    rw [die_modDie_same]
    exact List.mem_append_right _ (List.mem_singleton_self w)
  split
  · exact ⟨rfl, w, stands, rfl, rfl⟩
  · exact ⟨rfl, w, stands, rfl, rfl⟩

/-- The issue of a walk instruction completes: its request waits for a walker. -/
def Asks (i : Instr) (s : State) (f : Firing) (kind : WalkKind) : Prop :=
  ∃ t w, exec i s = .next t ∧ t.cur = none ∧ w ∈ (t.die f.x.die).eng.walks ∧ w.f = f ∧ w.kind = kind

/-- A firing that sends a walk request, from a state in which none is under way. -/
theorem asks_of_exec {i : Instr} {s u : State} {f : Firing} {h : Hdr} {kind : WalkKind} {dep : Dep}
    (runs : exec i s = .next (u.sendWalk f h kind dep)) (cur : u.cur = none) : Asks i s f kind := by
  obtain ⟨same, w, stands, mine, named⟩ := sendWalk_spec u f h kind dep
  exact ⟨_, w, runs, same.trans cur, stands, mine, named⟩

section
variable {h : Hdr} {s : State} {f : Firing}

/-- AWALK asks, where its tags allow for K winners (R335). -/
theorem awalk_asks {k : AwCtl} {toks : List Tok} (cur : s.cur = some f) (clean : k.qref = true → (f.op 0).flag .poison = false)
    (fits : (matchCheck (s.ctx f.ent.ctx).tl f h k.k).bind (sendList (s.ctx f.ent.ctx).tl f.x) = some toks) :
    Asks (.awalk h k) s f (.walk k) := by
  have runs : exec (.awalk h k) s = .next (State.sendWalk (State.issued { s with cur := none } f
      { sends := [], ports := [], used := usedBy f h } []) f h (.walk k) ⟨f.ent.ctx, f.ent.uid, f.ent.node, 0, 0, 0, false, []⟩) := by
    refine exec_firing (show exec (.awalk h k) s = execAwalk h k s from rfl) cur ?_
    have allowed : (matchCheck (State.ctx { s with cur := none } f.ent.ctx).tl f h k.k).bind
        (sendList (State.ctx { s with cur := none } f.ent.ctx).tl f.x) = some toks := fits
    simp only [allowed, issue_silent]
    exact if_neg (by simpa using clean)
  exact asks_of_exec runs (issued_spec ..).cur

/-- A firing that answers later and keeps its operands sends a walk request. -/
theorem later_asks {i : Instr} {kind : WalkKind} {tok : Tok} (clear : Clear s f [h.t0, h.t1] f.tagOf 0 0)
    (tagged : (tok.tag, tok.depth) = f.tagOf)
    (runs : exec i s = .next (State.laterOn { s with cur := none } f h [] tok (fun s w => s.sendWalk f h kind w))) : Asks i s f kind := by
  rw [State.laterOn, issue_both clear tagged] at runs
  exact asks_of_exec runs (issued_spec ..).cur

/-- The token of an AINS or ADEL that answers has the tag of its firing. -/
theorem doneTok_tagged (f : Firing) (h : Hdr) : (((newTok f h (usedBy f h) none .z32 false 0).setFlag .complete true).tag,
    ((newTok f h (usedBy f h) none .z32 false 0).setFlag .complete true).depth) = f.tagOf :=
  (setFlag_tagged ..).trans (newTok_tagged ..)

/-- AINS asks (R336). -/
theorem ains_asks {d : AinsCtl} (clean : d.kref = true → (f.op 0).flag .poison = false) (clear : Clear s f [h.t0, h.t1] f.tagOf 0 0) :
    Asks (.ains h d) s f (.ins d) := by
  refine later_asks clear (doneTok_tagged f h) ?_
  exact exec_firing (show exec (.ains h d) s = execAins h d s from rfl) clear.cur (if_neg (by simpa using clean))

/-- ADEL asks (R337). -/
theorem adel_asks {handle : Nat} {scope : Scope} (clear : Clear s f [h.t0, h.t1] f.tagOf 0 0) :
    Asks (.adel h handle scope) s f (.del handle scope) :=
  later_asks clear (doneTok_tagged f h) (exec_firing (show exec (.adel h handle scope) s = execAdel h handle scope s from rfl) clear.cur rfl)

/-! TREV, RDTIME and the pins (R219, R220, R355, R356). -/

/-- TREV completes: its record is written, and A leaves (R355). -/
theorem trev_completes {k : TrevCtl} (clear : Clear s f [h.t0, h.t1] f.tagOf 0 0) :
    ∃ t, exec (.trev h k) s = .next t ∧ Completed s t f (portsOf h) := by
  refine ⟨_, exec_firing (show exec (.trev h k) s = execTrev h k s from rfl) clear.cur rfl, ?_⟩
  dsimp only [State.fireWith]
  rw [issue_both clear (fwdTok_tagged ..)]
  exact ((Completed.issued ..).trace _ _ _).depart _ _

/-- A departure that is marked for its time leaves the slots. -/
theorem timeDep_slots (c : Cell) : c.timeDep.slots = c.slots := by
  unfold Cell.timeDep
  split <;> rfl

/-- RDTIME completes: its token leaves, with the time (R356). -/
theorem rdtime_completes (clear : Clear s f [h.t0, h.t1] f.tagOf 0 0) :
    ∃ t, exec (.rdtime h) s = .next t ∧ Completed s t f (portsOf h) := by
  refine ⟨_, exec_firing (show exec (.rdtime h) s = execRdtime h s from rfl) clear.cur rfl, ?_⟩
  dsimp only
  rw [issue_both (tok := timeTok _ _) clear (newTok_tagged f h (usedBy f h) none .s64 false 0)]
  split
  · exact ((Completed.issued ..).depart 1 _).modCell Cell.timeDep (timeDep_slots _)
  · exact (Completed.issued ..).depart 1 _

/-- What a firing keeps of its own cell: its pins. -/
theorem Kept.herd {s t : State} {f : Firing} (h : Kept s t f) : (t.cell f.x).herd = (s.cell f.x).herd := (congrArg Cell.herd h.cell :)

/-- The pin of a firing that has issued leaves S6, with or without tokens. -/
theorem departPin_spec {t : State} {ports : List Nat} (completed : Completed s t f ports) (toks : List Tok) :
    Completed s (t.departPin f toks) f ports ∧ ((t.departPin f toks).cell f.x).herd = (t.cell f.x).herd := by
  unfold State.departPin
  split
  · exact ⟨completed.depart 1 toks, (depart_spec t f 1 toks).1.herd⟩
  · exact ⟨completed.modCell _ rfl, by rw [cell_modCell_same]⟩

/-- A clear firing of a pin instruction issues, and sends A on. -/
theorem issue_pin (clear : Clear s f [h.t0, h.t1] f.tagOf 0 0) (k : State → List Tok → State) :
    State.issue { s with cur := none } f (pinOut f h) k = k (State.issued { s with cur := none } f (pinOut f h)
      (onTargets (s.ctx f.ent.ctx).tl f.x [h.t0, h.t1] (fwdTok f h (usedBy f h) (f.op 0) false)))
      (onTargets (s.ctx f.ent.ctx).tl f.x [h.t0, h.t1] (fwdTok f h (usedBy f h) (f.op 0) false)) :=
  issue_both clear (fwdTok_tagged ..) _ _ k

/-- HPIN completes, where its context has a pin that may count on, or there is room for one: the context has a pin (R219, R220). -/
theorem hpin_completes (clear : Clear s f [h.t0, h.t1] f.tagOf 0 0)
    (room : (s.cell f.x).herd.pins.find? (fun p => p.ctx == f.ent.ctx) = none → (s.cell f.x).herd.pins.length < 8)
    (below : ∀ p, (s.cell f.x).herd.pins.find? (fun p => p.ctx == f.ent.ctx) = some p → p.count ≠ 65535) :
    ∃ t, exec (.hpin h) s = .next t ∧ Completed s t f (portsOf h) ∧ ∃ p ∈ (t.cell f.x).herd.pins, p.ctx = f.ent.ctx := by
  cases mine : (State.cell { s with cur := none } f.x).herd.pins.find? (fun p => p.ctx == f.ent.ctx) with
  | none =>
    have few : ¬ (State.cell { s with cur := none } f.x).herd.pins.length ≥ 8 := Nat.not_le_of_lt (room mine)
    refine ⟨_, exec_firing (show exec (.hpin h) s = execHpin h s from rfl) clear.cur (by simp only [mine, if_neg few]; rfl), ?_⟩
    rw [issue_pin clear]
    obtain ⟨completed, herd⟩ := departPin_spec (((Completed.issued s f (pinOut f h) _).modCell
      (fun c => c.setPins (c.herd.pins ++ [⟨f.ent.ctx, 1, f.ent.ord, false⟩])) rfl)) (onTargets (s.ctx f.ent.ctx).tl f.x [h.t0, h.t1]
        (fwdTok f h (usedBy f h) (f.op 0) false))
    refine ⟨completed, ⟨f.ent.ctx, 1, f.ent.ord, false⟩, ?_, rfl⟩
    rw [herd, cell_modCell_same]
    exact List.mem_append_right _ (List.mem_singleton_self _)
  | some p =>
    refine ⟨_, exec_firing (show exec (.hpin h) s = execHpin h s from rfl) clear.cur (by simp only [mine, if_neg (below p mine)]; rfl), ?_⟩
    rw [State.fireWith, issue_pin clear]
    refine ⟨((Completed.issued ..).modCell _ rfl).depart 1 _, ?_⟩
    have more := find?_lmap (fun q : Pin => q.ctx == f.ent.ctx) (fun q => { q with count := q.count + 1 }) (fun _ own => own)
      (State.cell { s with cur := none } f.x).herd.pins
    rw [mine] at more
    refine ⟨{ p with count := p.count + 1 }, ?_, by simpa using List.find?_some more⟩
    rw [(depart_spec _ f (pinOut f h).n _).1.herd, cell_modCell_same]
    show _ ∈ lmap _ _ (State.cell (State.issued _ f _ _) f.x).herd.pins
    rw [(issued_spec ..).kept.herd]
    exact List.mem_of_find?_eq_some more

/-- HUNPIN completes, where its context has a pin: the pin counts down, and no pin is added (R220). -/
theorem hunpin_completes (clear : Clear s f [h.t0, h.t1] f.tagOf 0 0)
    (pinned : (s.cell f.x).herd.pins.find? (fun p => p.ctx == f.ent.ctx) ≠ none) :
    ∃ t, exec (.hunpin h) s = .next t ∧ Completed s t f (portsOf h) ∧ (t.cell f.x).herd.pins.length ≤ (s.cell f.x).herd.pins.length := by
  obtain ⟨p, mine⟩ := Option.ne_none_iff_exists'.mp pinned
  have own : (State.cell { s with cur := none } f.x).herd.pins.any (fun p => p.ctx == f.ent.ctx) = true :=
    List.any_eq_true.mpr ⟨p, List.mem_of_find?_eq_some mine, List.find?_some (p := fun q : Pin => q.ctx == f.ent.ctx) mine⟩
  refine ⟨_, exec_firing (show exec (.hunpin h) s = execHunpin h s from rfl) clear.cur (if_neg (by rw [own]; exact Bool.false_ne_true)), ?_⟩
  rw [State.fireWith, issue_pin clear]
  refine ⟨((Completed.issued ..).modCell _ rfl).depart 1 _, ?_⟩
  rw [(depart_spec _ f (pinOut f h).n _).1.herd, cell_modCell_same]
  show (List.filter _ (List.map _ (State.cell (State.issued _ f _ _) f.x).herd.pins)).length ≤ _
  rw [(issued_spec ..).kept.herd]
  exact (List.length_filter_le _ _).trans (List.length_map _).le

/-! FAULTRET (R386). -/

/-- A firing keeps the state, the open records and the next record number of every context. -/
theorem Kept.records {s t : State} {f : Firing} (kept : Kept s t f) (c : Nat) : (t.ctx c).st = (s.ctx c).st ∧
    (t.ctx c).trap.opens = (s.ctx c).trap.opens ∧ (t.ctx c).trap.seq = (s.ctx c).trap.seq := by
  by_cases own : c = f.ent.ctx
  · subst own
    obtain ⟨fl, n, made⟩ := kept.ctx
    rw [made]
    exact ⟨rfl, rfl, rfl⟩
  · rw [kept.ctxs c own]
    exact ⟨rfl, rfl, rfl⟩

/-- What a FAULTRET sends: its status. -/
def retOut (f : Firing) (h : Hdr) (code : Nat) : Out :=
  { sends := both h (newTok f h (usedBy f h) none .z32 false (BitVec.ofNat 512 code)), ports := portsOf h, used := usedBy f h }

/-- A clear firing that answers an open record completes, and closes that record in a context that runs or is stopped. -/
theorem retFires_closes (clear : Clear s f [h.t0, h.t1] f.tagOf 0 0) (c : Nat) (o : OpenRec) (act : Nat)
    (next : (s.ctx c).trap.seq ≠ o.seq) :
    let t := State.fireWith { s with cur := none } f (retOut f h 0) (fun s => s.answerRec c o act)
    t.cur = none ∧ ((s.ctx c).st = .running ∨ (s.ctx c).st = .stopped → o ∉ (t.ctx c).trap.opens) := by
  intro t
  have departs : t = ((State.issued { s with cur := none } f (retOut f h 0) (onTargets (s.ctx f.ent.ctx).tl f.x [h.t0, h.t1]
      (newTok f h (usedBy f h) none .z32 false (BitVec.ofNat 512 0)))).answerRec c o act).depart f 1
      (onTargets (s.ctx f.ent.ctx).tl f.x [h.t0, h.t1] (newTok f h (usedBy f h) none .z32 false (BitVec.ofNat 512 0))) :=
    issue_both clear (newTok_tagged ..) _ _ _
  have issued := issued_spec { s with cur := none } f (retOut f h 0) (onTargets (s.ctx f.ent.ctx).tl f.x [h.t0, h.t1]
    (newTok f h (usedBy f h) none .z32 false (BitVec.ofNat 512 0)))
  rw [departs]
  generalize State.issued _ f _ _ = u at issued ⊢
  obtain ⟨st, -, seq⟩ := issued.kept.records c
  obtain ⟨cur, closes⟩ := answerRec_closes u c o act
  obtain ⟨kept, same, -⟩ := depart_spec (u.answerRec c o act) f 1
    (onTargets (s.ctx f.ent.ctx).tl f.x [h.t0, h.t1] (newTok f h (usedBy f h) none .z32 false (BitVec.ofNat 512 0)))
  refine ⟨same.trans (cur.trans issued.cur), fun live => ?_⟩
  rw [(kept.records c).2.1]
  exact closes (st ▸ live) (seq ▸ next)

/-- A FAULTRET whose handler may answer the record it names, with an action the record takes, answers it at once. -/
theorem faultret_answers {act : Nat} {o : OpenRec} (handler : s.handles f.ent.ctx (fld (f.op 0).w64 0 14) = true)
    (valid : fld (f.op 0).w64 14 2 ≠ 3) (known : act ∈ [0, 1, 2])
    (named : (s.ctx (fld (f.op 0).w64 0 14)).trap.opens.find? (fun o => o.seq == fld (f.op 0).w64 32 32 &&
      !(s.ctx (fld (f.op 0).w64 0 14)).trap.acks.any (fun a => a.1 == fld (f.op 0).w64 32 32)) = some o)
    (soft : o.what ≠ .ecc) (now : s.keepsAnswer (fld (f.op 0).w64 0 14) o act = false) :
    s.faultret f h act = s.fireWith f (retOut f h 0) (fun s => s.answerRec (fld (f.op 0).w64 0 14) o act) := by
  have asked : retAction f ≠ 3 := by
    rw [retAction, ← fld_mod _ 14 2 64 (by decide)]
    exact valid
  have small : act ≠ 3 := by
    rintro rfl
    exact absurd known (by decide)
  unfold State.faultret
  simp only [handler, asked, small, named, now, beq_eq_false_iff_ne.mpr soft, Bool.not_true, Bool.false_and, Bool.false_eq_true, if_false]
  rfl

/-- A FAULTRET closes the record it names, and completes (R386). -/
theorem faultret_completes {i : Instr} {act : Nat} {o : OpenRec} (clear : Clear s f [h.t0, h.t1] f.tagOf 0 0)
    (arm : exec i s = s.firing (fun s f => s.faultret f h act))
    (handler : s.handles f.ent.ctx (fld (f.op 0).w64 0 14) = true)
    (valid : fld (f.op 0).w64 14 2 ≠ 3) (known : act ∈ [0, 1, 2])
    (named : (s.ctx (fld (f.op 0).w64 0 14)).trap.opens.find? (fun o => o.seq == fld (f.op 0).w64 32 32 &&
      !(s.ctx (fld (f.op 0).w64 0 14)).trap.acks.any (fun a => a.1 == fld (f.op 0).w64 32 32)) = some o)
    (soft : o.what ≠ .ecc) (now : s.keepsAnswer (fld (f.op 0).w64 0 14) o act = false)
    (next : (s.ctx (fld (f.op 0).w64 0 14)).trap.seq ≠ o.seq) :
    ∃ t, exec i s = .next t ∧ t.cur = none ∧ ((s.ctx (fld (f.op 0).w64 0 14)).st = .running ∨
      (s.ctx (fld (f.op 0).w64 0 14)).st = .stopped → o ∉ (t.ctx (fld (f.op 0).w64 0 14)).trap.opens) :=
  ⟨_, exec_firing arm clear.cur (faultret_answers (s := { s with cur := none }) handler valid known named soft now),
    retFires_closes clear _ o act next⟩

end

/-- Settles O59: each instruction by the lemma that says it completes. -/
theorem operationsComplete : Obligations.OperationsComplete := by
  intro h s f cur c tl clear completes asks mine
  refine ⟨fun km1 tok w toks alone port plain depth opened free above within sent exits => ?_, fun km1 tok alone port depth => ?_,
    fun k toks clean _ fits => awalk_asks cur clean fits, fun d clean _ clear => ains_asks clean clear,
    fun handle scope _ clear => adel_asks clear, fun k _ clear => ?_, fun _ clear => ?_, fun _ clear room below => ?_,
    fun _ clear pinned => ?_, fun o => ?_⟩
  · obtain ⟨emits, -⟩ := lboundStart_admits (s := { s with cur := none }) rfl depth opened free above within sent exits
    exact ⟨_, execLbound_start cur alone port plain, emits.done, emits.of_cur⟩
  · obtain ⟨deps, same, -⟩ := lboundDone_spec (s := { s with cur := none }) (f := f) (t := tok) depth
    exact ⟨_, execLbound_done cur alone port, same, deps⟩
  · obtain ⟨t, runs, completed⟩ := trev_completes (k := k) clear
    exact ⟨t, runs, completed.cur, completed.slots, trivial⟩
  · obtain ⟨t, runs, completed⟩ := rdtime_completes clear
    exact ⟨t, runs, completed.cur, completed.slots, trivial⟩
  · obtain ⟨t, runs, completed, pinned⟩ := hpin_completes clear room below
    exact ⟨t, runs, completed.cur, completed.slots, pinned⟩
  · obtain ⟨t, runs, completed, fewer⟩ := hunpin_completes clear pinned
    exact ⟨t, runs, completed.cur, completed.slots, fewer⟩
  · intro v k handler valid named soft now next clear i which _
    have handles : s.handles f.ent.ctx (fld v 0 14) = true := by simpa [State.handles] using handler
    obtain rfl | rfl | rfl : i = .faultretResume h ∨ i = .faultretSkip h ∨ i = .faultretEnd h := by simpa using which
    · exact faultret_completes (act := 0) clear rfl handles valid (by decide) named soft (now 0 (by decide)) next
    · exact faultret_completes (act := 1) clear rfl handles valid (by decide) named soft (now 1 (by decide)) next
    · exact faultret_completes (act := 2) clear rfl handles valid (by decide) named soft (now 2 (by decide)) next

end Sys2Proof.Machine
end

section
/-! The launch of a context (R157; O51): what its checks give, and what creating it makes of its context. -/
namespace Sys2Proof.Machine

/-! The checks of a launch (R157). -/

/-- A context whose launch passes its checks is to be LOADING. -/
theorem launchCheck_loading {s s1 : State} {d : List Byte} {bad aligned : Bool} {srcs : List W32} {by_ dov : Option Nat} {p : Plan}
    (passed : s.launchCheck d bad aligned srcs by_ dov = (.pass p, s1)) : p.k.st = .loading := by
  unfold State.launchCheck at passed
  extract_lets at passed
  split at passed
  · exact nomatch (Prod.mk.inj passed).1
  split at passed
  case h_1 | h_2 => exact nomatch (Prod.mk.inj passed).1
  extract_lets at passed
  iterate 3
    split at passed
    · exact nomatch (Prod.mk.inj passed).1
  split at passed
  · exact nomatch (Prod.mk.inj passed).1
  split at passed
  case h_1 => split at passed <;> exact nomatch (Prod.mk.inj passed).1
  extract_lets at passed
  iterate 3
    split at passed
    · exact nomatch (Prod.mk.inj passed).1
  split at passed
  · exact nomatch (Prod.mk.inj passed).1
  obtain ⟨passed, -⟩ := Prod.mk.inj passed
  cases passed
  rfl

/-! Creating a context (R157, R310). -/

/-- Contexts that are LOADING stay so, with no change but to what their pre-emption holds and to their records; the host's answers to
launches stay. -/
structure StaysLoading (s t : State) : Prop where
  launch : t.host.launch = s.host.launch
  loads : ∀ c, (s.ctx c).st = .loading → ∃ pre trap, t.ctx c = { s.ctx c with pre := pre, trap := trap }

theorem SameCtxs.staysLoading {s t : State} (h : SameCtxs s t) : StaysLoading s t :=
  ⟨h.launch, fun c _ => ⟨_, _, h.ctx c⟩⟩

/-- A block written into a site changes no context (R65). -/
theorem SameCtxs.placeBlk (s : State) (x : Site) (b : Blk) (ks : List KStore) : SameCtxs s (s.placeBlk x b ks) := ⟨rfl, rfl, rfl⟩

namespace StaysLoading
variable {s t u : State}

theorem refl (s : State) : StaysLoading s s := (SameCtxs.refl s).staysLoading

theorem trans (h : StaysLoading s t) (k : StaysLoading t u) : StaysLoading s u := by
  refine ⟨k.launch.trans h.launch, fun c loading => ?_⟩
  obtain ⟨pre, trap, made⟩ := h.loads c loading
  obtain ⟨pre', trap', made'⟩ := k.loads c (by rw [made]; exact loading)
  exact ⟨pre', trap', by rw [made', made]⟩

/-- A list of changes after each of which LOADING contexts stay so. -/
theorem foldl {α : Type} {f : State → α → State} (each : ∀ s a, StaysLoading s (f s a)) (l : List α) (s : State) :
    StaysLoading s (l.foldl f s) :=
  List.foldlRecOn l f (refl s) (fun t kept a _ => kept.trans (each t a))

theorem takeFault (s : State) (unit : Nat) (r : FRec) (what : Resume) : StaysLoading s (s.takeFault unit r what) := by
  obtain ⟨-, launch, faulted⟩ := takeFault_spec s unit r what
  refine ⟨launch, fun c loading => ?_⟩
  obtain ⟨⟨st, pre, trap, rest⟩, stays, -⟩ := faulted c
  have same : st = (s.ctx c).st := by
    rw [← stays (by rw [loading]; nofun) (by rw [loading]; nofun), rest]
  exact ⟨pre, trap, by rw [rest, same]⟩

/-- A block that is rejected (R65, R66). -/
theorem rejectBlk (s : State) (x : Site) (ctx nridx reason : Nat) : StaysLoading s (s.rejectBlk x ctx nridx reason) :=
  ((SameCtxs.modDie s _ _).trans (SameCtxs.trace _ _ _ _)).staysLoading.trans (takeFault _ _ _ _)

/-- The loader at one site (R64 to R66). -/
theorem loadSite (s : State) (e : LoadEnv) (plane slot : Nat) : StaysLoading s (s.loadSite e plane slot) := by
  refine foldl (fun t b => ?_) _ s
  split
  · exact rejectBlk _ _ _ _ _
  · exact (SameCtxs.placeBlk t _ _ _).staysLoading

/-- The shards of a load join their logical stores (R203, R204). -/
theorem makeStores (s : State) (die ctx plane : Nat) (sets : List (Nat × List Nat)) : StaysLoading s (s.makeStores die ctx plane sets) := by
  refine foldl (fun t e => ?_) sets s
  dsimp only
  split
  · exact refl t
  split
  · exact (foldl (fun u r => (SameCtxs.modCell u _ _).staysLoading) _ t).trans (SameCtxs.modDie _ _ _).staysLoading
  · exact (SameCtxs.modDie t _ _).staysLoading

/-- The drop (R310). -/
theorem drop (s : State) (die ctx plane slot : Nat) (pats : List Pattern) : StaysLoading s (s.drop die ctx plane slot pats) := by
  refine StaysLoading.trans ((SameCtxs.modDie s _ _).staysLoading.trans (foldl (fun t i => ?_) _ _)) (makeStores _ _ _ _ _)
  exact ((SameCtxs.modCell t _ _).trans (SameCtxs.modCell _ _ _)).staysLoading.trans (loadSite _ _ _ _)

end StaysLoading

/-- A context that has been created is LOADING, as its launch has planned it; the host's answers to launches stay. -/
theorem create_spec (s : State) (p : Plan) (loading : p.k.st = .loading) : (s.create p).host.launch = s.host.launch ∧
    ∃ pre trap, (s.create p).ctx p.c = { p.k with pre := pre, trap := trap } := by
  unfold State.create
  extract_lets s1 mgmt s2
  have planned : s2.ctx p.c = p.k := ctx_setCtx_same ..
  have stays {t : State} (h : StaysLoading s2 t) : t.host.launch = s.host.launch ∧ ∃ pre trap, t.ctx p.c = { p.k with pre := pre, trap := trap } := by
    have loads := h.loads p.c (by rw [planned]; exact loading)
    rw [planned] at loads
    exact ⟨h.launch, loads⟩
  split
  · exact stays (.refl s2)
  · exact stays ((SameCtxs.modDie s2 _ _).staysLoading.trans (.drop _ _ _ _ _ _))

end Sys2Proof.Machine
end

section
/-! LAUNCH (R157, R383; O51): what a firing that answers later owes, and how a LAUNCH ends. -/
namespace Sys2Proof.Machine

/-! Answers on their way to a cell (R182, R272). -/

/-- What a die's networks carry is as it was: the answers on their way are. -/
theorem answersTo_modDie (s : State) (d : Nat) (g : Die → Die) (net : (g (s.die d)).net = (s.die d).net) (x : Site) :
    (s.modDie d g).answersTo x = s.answersTo x := by
  unfold State.answersTo
  rw [cell_modDie]
  by_cases same : x.die = d
  · subst same
    rw [die_modDie_same, net]
  · rw [die_modDie_ne s same]

/-- A trace record leaves the answers on their way. -/
theorem answersTo_trace (s : State) (die u : Nat) (e : Event) (x : Site) : (s.trace die u e).answersTo x = s.answersTo x := by
  rcases trace_spec s die u e with made | ⟨l, made⟩ <;> rw [made]
  exact answersTo_modDie s die _ rfl x

/-- An answer that was owed goes on its way to its cell (R272). -/
theorem pay_answers (s : State) (x : Site) (d : Dep) : AnswersFiring s (s.pay x d) x d.toks := by
  unfold AnswersFiring State.pay State.answer State.answerAs
  split
  case isTrue none_ => rw [List.isEmpty_iff.mp none_, List.append_nil]
  case isFalse =>
    unfold State.netSend State.answersTo
    rw [cell_modDie, die_modDie_same]
    simp

/-- An answer on its way leaves every cell. -/
theorem pay_cells (s : State) (x : Site) (d : Dep) : (s.pay x d).cells = s.cells := by
  unfold State.pay State.answer State.answerAs
  split <;> rfl

/-! LAUNCH (R157, R383). -/

/-- What a firing that answers later has done between `s` and `u`: its operands have left, nothing leaves S6, and `w` is owed. -/
structure Owes (s u : State) (f : Firing) (h : Hdr) (toks : List Tok) (w : Dep) : Prop where
  slots : Consumed s u f h
  deps : (u.cell f.x).pipe.deps = (s.cell f.x).pipe.deps
  answers : u.answersTo f.x = s.answersTo f.x
  toks : w.toks = toks

/-- A clear firing that answers later issues, and goes on with what it owes. -/
theorem later_owes {s : State} {f : Firing} {h : Hdr} {tok : Tok}
    (clear : Clear { s with cur := some f } f [h.t0, h.t1] f.tagOf 0 0) (tagged : (tok.tag, tok.depth) = f.tagOf) (k : State → Dep → State) :
    ∃ u w, s.later f h tok k = k u w ∧ Owes s u f h (onTargets (s.ctx f.ent.ctx).tl f.x [h.t0, h.t1] tok) w := by
  have issued := issued_spec s f { sends := both h tok, ports := portsOf h, used := usedBy f h }
    (onTargets (s.ctx f.ent.ctx).tl f.x [h.t0, h.t1] tok)
  obtain ⟨b, pipe, -⟩ := issued.pipe
  obtain ⟨l, die⟩ := issued.kept.dies f.x.die
  obtain ⟨sent, exits⟩ := sendList_targets (s.ctx f.ent.ctx).tl f.x [h.t0, h.t1] tok (by rw [tagged]; exact clear.tags)
  rw [State.later, State.laterOn, issue_clear s f _ _ _ clear.trap sent (by rw [exits]; exact clear.exits)]
  refine ⟨_, _, rfl, issued.slots, ?_, ?_, rfl⟩
  · rw [cell_modMem, pipe]
  · unfold State.answersTo
    rw [cell_modMem, die_modMem, pipe, die]

/-- What a launch owes its firing: its token, with a number. -/
def owedBy (n : Nat) (w : Dep) : Dep := { w with toks := filledWith n w.toks }

/-- What the checks of a LAUNCH that has read its descriptor give. -/
def launchChecked (f : Firing) (die : Option Nat) (s1 s2 : State) (l l2 : List Spot) : Check × State :=
  s2.launchCheck (s1.readSpots l).1 ((s1.readSpots l).2 || (s2.readSpots l2).2) ((f.op 0).w64 % 64 = 0)
    ((List.range (Nat.min 32 (fld (wordAt (s1.readSpots l).1 0) 5 6))).map (fun k => BitVec.ofNat 32 (wordAt (s2.readSpots l2).1 (4 * k))))
    (some f.ent.ctx) die

/-- How a LAUNCH ends, by its checks (R157, R383): it waits, it answers later with its status, or it creates its context and owes its
number. -/
def launchEnd (s0 : State) (f : Firing) (h : Hdr) : Check × State → State
  | (.wait b, s) => (s.regsOf s0 f.x).park f (portsOf h) b
  | (.refused code, s) => s.later f h (newTok f h (usedBy f h) none .z32 false 0) (fun s w => s.pay f.x (owedBy (code * 2 ^ 16) w))
  | (.pass p, s) => s.later f h (newTok f h (usedBy f h) none .z32 false 0)
      (fun s w => s.create { p with k := { p.k with owed := [(f.x, owedBy p.c w)] } })

section
variable {h : Hdr} {handle : Nat} {die : Option Nat} {s : State} {f : Firing}

/-- A refused launch answers with its status (R157). -/
theorem launch_refused {i : Instr} {s3 : State} {code : Nat}
    (runs : exec i s = .next (s3.later f h (newTok f h (usedBy f h) none .z32 false 0)
      (fun s w => s.pay f.x (owedBy (code * 2 ^ 16) w)))) :
    PerformsWith i h s s3 f (newScalar f h .z32 0) (fun t toks =>
      AnswersFiring s3 t f.x (toks.map (fun u => { u with data := BitVec.ofNat 512 (code * 2 ^ 16) }))) := by
  intro _ clear
  obtain ⟨u, w, later, slots, deps, answers, toks⟩ := later_owes clear (newTok_tagged f h (usedBy f h) none .z32 false 0)
    (fun s w => s.pay f.x (owedBy (code * 2 ^ 16) w))
  have paid := pay_answers u f.x (owedBy (code * 2 ^ 16) w)
  have cell : (u.pay f.x (owedBy (code * 2 ^ 16) w)).cell f.x = u.cell f.x := by rw [State.cell, pay_cells, ← State.cell]
  unfold AnswersFiring at paid
  rw [answers] at paid
  refine ⟨_, runs.trans (congrArg _ later), ?_, by rw [cell, deps], ?_⟩
  · rw [Consumed, cell]
    exact slots
  · refine paid.trans ?_
    rw [owedBy, filledWith, toks]
    rfl

/-- A launch that passes makes its context, LOADING, and owes its number to the firing (R157, R383). -/
theorem launch_passed {i : Instr} {s3 : State} {p : Plan} (loading : p.k.st = .loading)
    (clear : Clear { s3 with cur := some f } f [h.t0, h.t1] f.tagOf 0 0)
    (runs : exec i s = .next (s3.later f h (newTok f h (usedBy f h) none .z32 false 0)
      (fun s w => s.create { p with k := { p.k with owed := [(f.x, owedBy p.c w)] } }))) :
    ∃ t w, exec i s = .next t ∧ (∃ pre trap, t.ctx p.c = { p.k with owed := [(f.x, w)], pre := pre, trap := trap }) ∧
      w.toks = (onTargets (s3.ctx f.ent.ctx).tl f.x [h.t0, h.t1] (newScalar f h .z32 0)).map (fun u => { u with data := BitVec.ofNat 512 p.c }) := by
  obtain ⟨u, w, later, -, -, -, toks⟩ := later_owes clear (newTok_tagged f h (usedBy f h) none .z32 false 0)
    (fun s w => s.create { p with k := { p.k with owed := [(f.x, owedBy p.c w)] } })
  obtain ⟨-, made⟩ := create_spec u { p with k := { p.k with owed := [(f.x, owedBy p.c w)] } } loading
  exact ⟨_, owedBy p.c w, runs.trans (congrArg _ later), made, by rw [owedBy, filledWith, toks]; rfl⟩

/-- A LAUNCH whose descriptor cannot be read waits for it or takes its fault (R383). -/
theorem launch_unread {b : Block} {s1 : State} (cur : s.cur = some f) (clean : (f.op 0).flag .poison = false)
    (found : State.cellSpots { s with cur := none } f.x f.ent.ctx handle (f.op 0).w64 64 false = (.error b, s1)) :
    exec (.launch h handle die) s = .next (s1.park f (List.range h.arity) b) := by
  refine exec_firing (show exec (.launch h handle die) s = execLaunch h handle die s from rfl) cur ?_
  simp only [clean, found, Bool.false_eq_true, if_false]
  rfl

section
variable {l l2 : List Spot} {s1 s2 s3 : State} (cur : s.cur = some f) (clean : (f.op 0).flag .poison = false)
  (found : State.cellSpots { s with cur := none } f.x f.ent.ctx handle (f.op 0).w64 64 false = (.ok l, s1))
include cur clean found

/-- A LAUNCH whose source words cannot be read waits for them or takes their fault. -/
theorem launch_sourceless {b : Block} (more : (if Nat.min 32 (fld (wordAt (s1.readSpots l).1 0) 5 6) = 0 then (.ok [], s1) else
      s1.cellSpots f.x f.ent.ctx handle ((f.op 0).w64 + 64) (4 * Nat.min 32 (fld (wordAt (s1.readSpots l).1 0) 5 6)) false) = (.error b, s2)) :
    exec (.launch h handle die) s = .next ((s2.regsOf { s with cur := none } f.x).park f (List.range h.arity) b) := by
  refine exec_firing (show exec (.launch h handle die) s = execLaunch h handle die s from rfl) cur ?_
  simp only [clean, found, more, Bool.false_eq_true, if_false]
  rfl

variable (more : (if Nat.min 32 (fld (wordAt (s1.readSpots l).1 0) 5 6) = 0 then (.ok [], s1) else
  s1.cellSpots f.x f.ent.ctx handle ((f.op 0).w64 + 64) (4 * Nat.min 32 (fld (wordAt (s1.readSpots l).1 0) 5 6)) false) = (.ok l2, s2))
include more

/-- A LAUNCH that has read its descriptor ends as its checks do. -/
theorem launch_ends : exec (.launch h handle die) s = .next (launchEnd { s with cur := none } f h (launchChecked f die s1 s2 l l2)) := by
  refine exec_firing (show exec (.launch h handle die) s = execLaunch h handle die s from rfl) cur ?_
  simp only [clean, found, more, Bool.false_eq_true, if_false]
  rfl

end

end

end Sys2Proof.Machine
end

section
/-! How a context is launched, runs and ends (R157, R160, R161, R383, R384; O51). -/
namespace Sys2Proof.Machine

/-! The host's launch (R156, R157). -/

/-- How a launch by the host ends, by its checks: it waits, it is answered with its status, or it creates its context. -/
def hostLaunchEnd (descPa : Nat) : Check × State → State
  | (.wait _, s) => s
  | (.refused code, s) => s.launchDone descPa code 0
  | (.pass p, s) => s.create { p with k := { p.k with desc := some descPa } }

/-- What a launch by the host reads after its descriptor: its source words. -/
def State.physSources (s : State) (descPa : Nat) (d : List Byte) : List Byte × Bool :=
  if Nat.min 32 (fld (wordAt d 0) 5 6) = 0 then ([], false) else s.physRead (descPa + 64) (4 * Nat.min 32 (fld (wordAt d 0) 5 6))

/-- What the checks of a launch by the host give. -/
def State.hostChecked (s : State) (descPa : Nat) (d more : List Byte × Bool) : Check × State :=
  s.launchCheck d.1 (d.2 || more.2) (descPa % 64 = 0)
    ((List.range (Nat.min 32 (fld (wordAt d.1 0) 5 6))).map (fun k => BitVec.ofNat 32 (wordAt more.1 (4 * k)))) none none

/-- A launch by the host ends as its checks do. -/
theorem hostLaunch_ends {descPa : Nat} {s : State} (on : s.mgmt.recovery = false) : exec (.hostLaunch descPa) s =
    .next (hostLaunchEnd descPa (s.hostChecked descPa (s.physRead descPa 64) (s.physSources descPa (s.physRead descPa 64).1))) := by
  refine (show exec (.hostLaunch descPa) s = execHostLaunch descPa s from rfl).trans ((if_neg (by rw [on]; exact Bool.false_ne_true)).trans ?_)
  obtain ⟨d, head⟩ : ∃ d, s.physRead descPa 64 = d := ⟨_, rfl⟩
  obtain ⟨more, tail⟩ : ∃ more, s.physSources descPa d.1 = more := ⟨_, rfl⟩
  obtain ⟨r, checked⟩ : ∃ r, s.hostChecked descPa d more = r := ⟨_, rfl⟩
  rw [head, tail, checked]
  unfold State.physSources at tail
  unfold State.hostChecked at checked
  obtain ⟨check, s1⟩ := r
  obtain ⟨d, bad⟩ := d
  obtain ⟨sb, bad2⟩ := more
  dsimp only at tail checked
  dsimp only
  simp only [tail, checked]
  cases check <;> rfl

/-! The drop's end (R157, R310). -/

/-- What keeps a context from RUNNING is as it was: the contexts, the latches and the STOPs of the dies. -/
structure SameStops (s t : State) : Prop where
  ctxs : SameCtxs s t
  latches : t.latches = s.latches
  stops : ∀ d, (t.die d).stop = (s.die d).stop

namespace SameStops
variable {s t u : State}

theorem trans (h : SameStops s t) (k : SameStops t u) : SameStops s u :=
  ⟨h.ctxs.trans k.ctxs, k.latches.trans h.latches, fun d => (k.stops d).trans (h.stops d)⟩

theorem modDie (s : State) (d : Nat) (g : Die → Die) (stop : (g (s.die d)).stop = (s.die d).stop) : SameStops s (s.modDie d g) := by
  refine ⟨.modDie s d g, rfl, fun e => ?_⟩
  by_cases same : e = d
  · subst same
    rw [die_modDie_same, stop]
  · rw [die_modDie_ne s same]

theorem refl (s : State) : SameStops s s := ⟨.refl s, rfl, fun _ => rfl⟩

theorem trace (s : State) (die u : Nat) (e : Event) : SameStops s (s.trace die u e) := by
  rcases trace_spec s die u e with made | ⟨l, made⟩ <;> rw [made]
  · exact refl s
  · exact modDie s die _ rfl

theorem pay (s : State) (x : Site) (d : Dep) : SameStops s (s.pay x d) := by
  unfold State.pay State.answer State.answerAs
  split
  · exact refl s
  · unfold State.netSend
    exact modDie s x.die _ rfl

theorem stopCause (h : SameStops s t) (c : Nat) : t.stopCause c = s.stopCause c := by
  unfold State.stopCause State.stopped
  rw [h.ctxs.ctx, h.latches, h.stops]

end SameStops

/-- A RUNNING context that settles is stopped where something keeps it from RUNNING. -/
theorem settle_running {s : State} {c : Nat} (running : (s.ctx c).st = .running) :
    ((s.settle c).ctx c).st = (if s.stopCause c then .stopped else .running) ∧ ((s.settle c).ctx c).owed = (s.ctx c).owed ∧
      (s.settle c).host = s.host ∧ (s.settle c).cells = s.cells ∧ (s.settle c).dies = s.dies := by
  unfold State.settle
  rw [running]
  dsimp only
  split
  · exact ⟨by rw [ctx_modCtx_same], by rw [ctx_modCtx_same], rfl, rfl, rfl⟩
  · exact ⟨running, rfl, rfl, rfl, rfl⟩

/-- What is owed when a drop ends: at most one answer. -/
theorem payOwed_spec (s : State) (owed : List (Site × Dep)) (one : owed.length ≤ 1) :
    SameStops s (owed.foldl (fun t o => t.pay o.1 o.2) s) ∧
      ∀ x w, owed = [(x, w)] → AnswersFiring s (owed.foldl (fun t o => t.pay o.1 o.2) s) x w.toks := by
  match owed, one with
  | [], _ => exact ⟨.refl s, nofun⟩
  | [(y, v)], _ =>
    refine ⟨.pay s y v, fun x w only => ?_⟩
    obtain ⟨rfl, rfl⟩ : y = x ∧ v = w := by simpa using only
    exact pay_answers s y v

/-- A context whose drop ends is RUNNING. -/
def Ctx.dropped (k : Ctx) (now : Nat) : Ctx := { k with st := .running, desc := none, owed := [], since := now }

/-- The drop's end: the context enters RUNNING, or is stopped at once, and its launch is answered (R157). -/
theorem dropComplete_spec {s : State} {c : Nat} (loading : (s.ctx c).st = .loading) (one : (s.ctx c).owed.length ≤ 1) :
    ∃ t, exec (.dropComplete c) s = .next t ∧ (t.ctx c).st = (if s.stopCause c then .stopped else .running) ∧
      (t.ctx c).owed = [] ∧ (∀ p, (s.ctx c).desc = some p → t.host.launch = s.host.launch ++ [(p, 0, c)]) ∧
      ∀ x w, (s.ctx c).owed = [(x, w)] → AnswersFiring s t x w.toks := by
  have arm : exec (.dropComplete c) s = execDropComplete c s := rfl
  unfold execDropComplete at arm
  extract_lets k s1 ev s2 s3 at arm
  rw [if_neg (by simp [k, loading])] at arm
  refine ⟨_, arm, ?_⟩
  have made : s1.ctx c = (s.ctx c).dropped s.cycle := ctx_modCtx_same ..
  have cause : s1.stopCause c = s.stopCause c := by
    unfold State.stopCause State.stopped
    rw [made]
    rfl
  have noted : SameStops s1 s2 := .trace _ _ _ _
  obtain ⟨host, rung, launched⟩ : ∃ host, s3 = { s2 with host := host } ∧
      ∀ p, k.desc = some p → host.launch = s2.host.launch ++ [(p, 0, c)] := by
    unfold s3
    cases k.desc with
    | none => exact ⟨_, rfl, nofun⟩
    | some p => exact ⟨_, rfl, fun q same => by cases same; rfl⟩
  obtain ⟨paid, answers⟩ := payOwed_spec s3 k.owed one
  generalize List.foldl (fun t o => State.pay t o.1 o.2) s3 k.owed = u at paid answers ⊢
  have stopped : u.stopCause c = s.stopCause c := by
    rw [paid.stopCause, rung, show State.stopCause { s2 with host := host } c = s2.stopCause c from rfl, noted.stopCause, cause]
  have running : u.ctx c = (s.ctx c).dropped s.cycle := by
    rw [paid.ctxs.ctx, rung, show State.ctx { s2 with host := host } c = s2.ctx c from rfl, noted.ctxs.ctx, made]
  have before (x : Site) : s3.answersTo x = s.answersTo x := by
    rw [rung, show State.answersTo { s2 with host := host } x = s2.answersTo x from rfl]
    exact answersTo_trace s1 _ _ _ x
  obtain ⟨st, owed, hosted, cells, dies⟩ := settle_running (s := u) (c := c) (by rw [running]; rfl)
  refine ⟨st.trans (by rw [stopped]), owed.trans (by rw [running]; rfl), fun p desc => ?_, fun x w only => ?_⟩
  · rw [hosted, paid.ctxs.launch, rung, launched p desc, noted.ctxs.launch]
    rfl
  · have sent := answers x w only
    have kept : (u.settle c).answersTo x = u.answersTo x := by
      unfold State.answersTo State.cell State.die
      rw [cells, dies]
    unfold AnswersFiring at sent ⊢
    rw [kept, sent, before]

/-! Injection (R160). -/

/-- A token as it is sent to a source port, at the resident that stands there. -/
def Tok.toSource (t : Tok) (c res : Nat) (w : W32) : Tok :=
  { t with ctx := c, kind := 0, die := ctxDie c, site := res, node := fld w.toNat 2 10, port := fld w.toNat 0 2 }

/-- A token for a source port enters the mesh of its context's die, and nothing else of the die's launch engine changes (R160). -/
theorem toSource_spec (s : State) (c : Nat) (w : W32) (cls : Nat) (t : Tok) : ∃ p,
    ((s.toSource c w cls t).die (ctxDie c)).net.mesh = (s.die (ctxDie c)).net.mesh ++ [p] ∧
      p.body = .tok (t.toSource c (s.residentAt (ctxDie c) (rankOf (fld w.toNat 23 7) (fld w.toNat 16 7))) w) ∧ p.cls = cls ∧
      ((s.toSource c w cls t).die (ctxDie c)).injAt = (s.die (ctxDie c)).injAt := by
  unfold State.toSource State.netSend
  rw [die_modDie_same]
  exact ⟨_, rfl, rfl, rfl, rfl⟩

/-- An injection sends the next token of the list to its source port (R160). -/
theorem tokenInjection_spec {c : Nat} {s : State} {t : Tok} {rest : List Tok} {w : W32} (running : (s.ctx c).st = .running)
    (free : s.stopped c = false) (began : (s.ctx c).since < s.cycle) (ready : (s.die (ctxDie c)).injAt ≤ s.cycle)
    (next : (s.ctx c).inj = t :: rest) (source : (s.ctx c).srcs[t.site]? = some w) :
    ∃ u p v, exec (.tokenInjection c) s = .next u ∧ (u.ctx c).inj = rest ∧ (u.die (ctxDie c)).injAt = s.cycle + 1 ∧
      (u.die (ctxDie c)).net.mesh = (s.die (ctxDie c)).net.mesh ++ [p] ∧ p.body = .tok v ∧ p.cls = 3 ∧
      v.data = t.data ∧ v.tag = t.tag ∧ v.depth = t.depth ∧ v.ctx = c ∧ v.node = fld w.toNat 2 10 ∧ v.port = fld w.toNat 0 2 ∧
      v.site = s.residentAt (ctxDie c) (rankOf (fld w.toNat 23 7) (fld w.toNat 16 7)) := by
  have arm : exec (.tokenInjection c) s = execTokenInjection c s := rfl
  unfold execTokenInjection at arm
  extract_lets k die used at arm
  rw [if_neg (by simp [k, die, running, free, began, ready])] at arm
  simp only [k, next, source] at arm
  have here : (used s).residentAt die = s.residentAt die := by
    funext n
    unfold State.residentAt used
    rw [die_modDie_same]
  obtain ⟨p, mesh, body, cls, at_⟩ := toSource_spec ((used s).modCtx c (fun k => { k with inj := rest })) c w 3 t
  have now : State.die ((used s).modCtx c (fun k => { k with inj := rest })) die = { s.die die with injAt := s.cycle + 1 } :=
    die_modDie_same s die (fun d => { d with injAt := s.cycle + 1 })
  rw [now] at mesh at_
  refine ⟨_, p, _, arm, ?_, at_, mesh, body, cls, rfl, rfl, rfl, rfl, rfl, rfl, ?_⟩
  · exact congrArg Ctx.inj (ctx_modCtx_same (used s) c (fun k => { k with inj := rest }))
  · exact congrFun here _

/-! The end and the release of a context (R161, R384). -/

/-- What a table holds under a key, after all its values have changed. -/
theorem tget_map {α : Type} (k : Nat) (t : Table α) (g : α → α) : tget k (t.map (fun e => (e.1, g e.2))) = (tget k t).map g := by
  unfold tget
  rw [List.find?_map]
  simp [Function.comp_def]

/-- A property of a table's default and of every changed value holds of what stands under a key after the change. -/
theorem tget_map_getD {α : Type} {P : α → Prop} (k : Nat) (t : Table α) {g : α → α} {d : α} (default_ : P d) (changed : ∀ v, P (g v)) :
    P ((tget k (t.map (fun e => (e.1, g e.2)))).getD d) := by
  rw [tget_map]
  cases tget k t with
  | none => exact default_
  | some v => exact changed v

/-- An ENDED context that is quiescent is FREE, its blocks, key stores and route entries gone (R161, R384). -/
theorem contextRelease_spec {c : Nat} {s : State} (ended : (s.ctx c).st = .ended) (quiet : s.quiescent c = true) :
    ∃ t, exec (.contextRelease c) s = .next t ∧ (t.ctx c).st = .free ∧ (∀ d, d ≠ c → t.ctx d = s.ctx d) ∧
      (∀ a, t.byte a = s.byte a) ∧ (∀ x, (∀ b ∈ (t.cell x).blks, b.ctx ≠ c) ∧ ∀ k ∈ (t.cell x).stores, k.ctx ≠ c) ∧
      ∀ d, ∀ e ∈ (t.die d).net.routes, fld e.w.w2.toNat 17 14 ≠ c := by
  have arm : exec (.contextRelease c) s = execContextRelease c s := rfl
  unfold execContextRelease at arm
  rw [if_neg (by simp [ended, quiet])] at arm
  extract_lets cell die s1 at arm
  refine ⟨_, arm, by rw [ctx_setCtx_same], fun d other => ctx_setCtx_ne _ other _, fun a => rfl, fun x => ?_, fun d => ?_⟩
  · refine tget_map_getD (P := fun v : Cell => (∀ b ∈ v.blks, b.ctx ≠ c) ∧ ∀ k ∈ v.stores, k.ctx ≠ c) (siteKey x) s.cells (g := cell)
      (d := {}) ⟨fun _ => nofun, fun _ => nofun⟩ (fun v => ⟨fun b hb => ?_, fun k hk => ?_⟩)
    · simpa using (List.mem_filter.mp hb).2
    · simpa using (List.mem_filter.mp hk).2
  · refine tget_map_getD (P := fun v : Die => ∀ e ∈ v.net.routes, fld e.w.w2.toNat 17 14 ≠ c) d s.dies (g := die) (d := {}) (fun _ => nofun)
      (fun v e he => ?_)
    simpa using (List.mem_filter.mp he).2

/-- A context that is not ENDED and quiescent is not released. -/
theorem contextRelease_idle {c : Nat} {s : State} (live : ¬ ((s.ctx c).st = .ended ∧ s.quiescent c = true)) :
    exec (.contextRelease c) s = .next s := by
  refine (show exec (.contextRelease c) s = execContextRelease c s from rfl).trans (if_pos ?_)
  simpa [imp_iff_not_or] using live

/-! The life of a context. -/

/-- How contexts are launched: LAUNCH by where its reading and its checks end, the host's launch by its checks, and the drop's end. -/
theorem launchMakesContext : Claims.LaunchMakesContext := by
  refine ⟨fun h handle die s f cur => ?_, fun descPa s on => ?_, fun c s loading one => dropComplete_spec loading one⟩
  · intro s0 o i
    refine ⟨fun poison => exec_firing (show exec i s = execLaunch h handle die s from rfl) cur (if_pos poison),
      fun b s1 clean found => launch_unread cur clean found, fun l s1 clean found => ?_⟩
    intro d n more
    refine ⟨fun b s2 unread => launch_sourceless cur clean found unread, fun l2 s2 read => ?_⟩
    intro srcs checked
    have ends : exec i s = .next (launchEnd s0 f h checked) := launch_ends cur clean found read
    refine ⟨fun b s3 waits => ends.trans (by rw [waits]; rfl),
      fun code s3 refused => launch_refused (ends.trans (by rw [refused]; rfl)),
      fun p s3 passed _ clear => ?_⟩
    have loading := launchCheck_loading passed
    obtain ⟨t, w, runs, ⟨pre, trap, made⟩, toks⟩ := launch_passed loading clear
      (ends.trans (by rw [passed]; rfl))
    refine ⟨t, w, runs, (congrArg Ctx.st made).trans loading, ?_, ?_, ?_, ?_, ?_, ?_, toks⟩ <;> rw [made]
  · intro d n more srcs checked
    have ends : exec (.hostLaunch descPa) s = .next (hostLaunchEnd descPa checked) := hostLaunch_ends on
    refine ⟨fun code s1 refused => ends.trans (by rw [refused]; rfl), fun p s1 passed => ?_⟩
    have loading := launchCheck_loading passed
    obtain ⟨launch, pre, trap, made⟩ := create_spec s1 { p with k := { p.k with desc := some descPa } } loading
    rw [passed] at ends
    exact ⟨_, ends, (congrArg Ctx.st made).trans loading, (congrArg Ctx.desc made :), (congrArg Ctx.tl made :), launch⟩

/-- Settles O51: launches by `launch_ends` and `hostLaunch_ends`, the rest by the lemma that says what the event makes. -/
theorem launchAndContexts : Obligations.LaunchAndContexts := by
  refine ⟨launchMakesContext, fun c s t rest w running free began ready next source => tokenInjection_spec running free began ready next source,
    fun c s live => ?_, fun c s idle => ?_, fun c s ended quiet => contextRelease_spec ended quiet, fun c s live => contextRelease_idle live⟩
  · have gone := endCtx_live live
    exact ⟨s.endCtx c, rfl, gone.st, gone.others, gone.byte, gone.parked, gone.latches⟩
  · have same : s.endCtx c = s := endCtx_idle (by rcases idle with st | st | st <;> simp [st])
    exact (show exec (.hostTerminate c) s = .next (s.endCtx c) from rfl).trans (congrArg _ same)

end Sys2Proof.Machine
end

section
/-! Proofs of the statements on the lane and mask instructions (R191 to R198; O34). -/
namespace Sys2Proof.Machine

/-! Firings that send one token on both targets (R97, R189). -/

/-- A lane instruction, by the one token that each firing of it sends. -/
theorem laneSends_of_laneOut {i : Instr} {h : Hdr} {n : Firing → Nat} {flags : State → Firing → Nat}
    {P : State → Firing → Tok → Prop} (fires : ∀ s f, WellFormed i = true → s.cur = some f → ∃ k,
      exec i s = .next (State.fire { s with cur := none } f (laneOut f h (n f) (flags s f) k)) ∧
        (k.tag, k.depth) = f.tagOf ∧ P s f k) : LaneSends i h n flags P := by
  intro s f w _ clear
  obtain ⟨k, runs, tagged, holds⟩ := fires s f w clear.cur
  obtain ⟨emits, kept⟩ := fire_targets s f (laneOut f h (n f) (flags s f) k) [h.t0, h.t1] k rfl (by rw [tagged]; exact clear)
  exact ⟨k, _, holds, runs, emits, kept⟩

/-! Elements and active positions (R10, R92, R93). -/

/-- An element of a token, as bits. -/
theorem ofNat_elem (t : Tok) {w : Nat} (fits : w ≤ 512) (j : Nat) : BitVec.ofNat w (t.elem w j) = t.bits w j := by
  rw [elem_bits t w j fits, BitVec.ofNat_toNat, BitVec.setWidth_eq]

/-- An element of a vector's payload. -/
theorem extract_vec {t : Tok} (vec : t.vec = true) (w j : Nat) : t.data.extractLsb' (w * j) w = t.bits w j := by
  rw [Tok.bits, if_pos vec]

/-- Position `j` of a payload that is packed from a function of the positions. -/
theorem packed_map {w j : Nat} (g : Nat → Nat) (hj : j < 512 / w) :
    (BitVec.ofNat 512 (packElems w ((List.range (512 / w)).map g))).extractLsb' (w * j) w = BitVec.ofNat w (g j) := by
  rw [packed_extract _ _ _ (by simpa using hj) (by simpa using Nat.mul_div_le 512 w)]
  simp

/-- Above its elements a packed payload is zero. -/
theorem packed_extract_above {w : Nat} {es : List Nat} {j : Nat} (above : es.length ≤ j) :
    (BitVec.ofNat 512 (packElems w es)).extractLsb' (w * j) w = 0 := by
  apply BitVec.eq_of_getLsbD_eq
  intro i _
  have below : packElems w es < 2 ^ (w * j + i) := Nat.lt_of_lt_of_le (packElems_lt w es)
    (Nat.pow_le_pow_right Nat.two_pos ((Nat.mul_le_mul_left w above).trans (Nat.le_add_right ..)))
  simp [BitVec.getLsbD_extractLsb', BitVec.getLsbD_ofNat, Nat.testBit_lt_two_pow below]

/-- A firing passes its operand through where A is a vector with no lane. -/
theorem passThrough_iff (f : Firing) : passThrough f = true ↔ (f.op 0).vec = true ∧ (f.op 0).lmask = 0 := by
  simp [passThrough]

/-- Under a mask of zero no position of a vector is active. -/
theorem active_empty {f : Firing} (vec : (f.op 0).vec = true) (empty : (f.op 0).lmask = 0) (w j : Nat) : active f w j = false := by
  simp [active, vec, empty]

/-- Under a mask of zero a vector has no active position. -/
theorem actives_empty {f : Firing} (vec : (f.op 0).vec = true) (empty : (f.op 0).lmask = 0) (w : Nat) : actives f w = [] := by
  simp [actives, active_empty vec empty]

/-- The positions of a vector. -/
theorem actives_vec {f : Firing} (vec : (f.op 0).vec = true) (w : Nat) : actives f w = (List.range (512 / w)).filter (active f w) := by
  rw [actives, vec]; rfl

/-! SHUF and BCAST (R191, R192). -/

/-- The top bit of a 32-bit lane. -/
theorem msb_lane (x : BitVec 32) : x.msb = decide (x.toNat / 2 ^ 31 % 2 = 1) := by
  rw [BitVec.msb_eq_decide]
  congr 1
  have := x.isLt
  exact propext (by omega)

/-- The lane that SHUF puts at position `j` of a vector (R191). -/
theorem ofNat_shufLane (f : Firing) (pattern : Option W64) (j : Nat) :
    BitVec.ofNat 32 (if (f.op 0).lmask.getLsbD j then
        (if (match pattern with | some _ => false | none => decide ((f.op 1).elem 32 j / 2 ^ 31 % 2 = 1)) then 0
          else (f.op 0).elem 32 (match pattern with | some p => fld p.toNat (4 * j) 4 | none => (f.op 1).elem 32 j % 16))
      else (f.op 0).elem 32 j) =
    if (f.op 0).lmask.getLsbD j then
      (match pattern with
       | some p => (f.op 0).bits 32 (p.extractLsb' (4 * j) 4).toNat
       | none => if ((f.op 1).bits 32 j).msb then 0 else (f.op 0).bits 32 (((f.op 1).bits 32 j).extractLsb' 0 4).toNat)
    else (f.op 0).bits 32 j := by
  cases pattern with
  | some p =>
    simp only [Bool.false_eq_true, if_false, apply_ite (BitVec.ofNat 32), ofNat_elem _ (show 32 ≤ 512 by decide),
      BitVec.extractLsb'_toNat, Nat.shiftRight_eq_div_pow, fld]
  | none =>
    have sel : ((f.op 1).bits 32 j).toNat % 16 = (((f.op 1).bits 32 j).extractLsb' 0 4).toNat := by simp
    simp only [apply_ite (BitVec.ofNat 32), ofNat_elem _ (show 32 ≤ 512 by decide), msb_lane,
      elem_bits (f.op 1) 32 j (by decide), sel]
    rfl

/-! PACK and UNPACK (R197). -/

/-- The element width of PACK and UNPACK; which firing is under way is no matter to it. -/
theorem packWidth_eq (s : State) (c : Option Firing) (f : Firing) (h : Hdr) (freg : Nat) :
    State.packWidth { s with cur := c } f h freg = packElWidth s f h freg := by
  simp only [State.packWidth, packElWidth, State.fmtReg, beq_iff_eq]
  rfl

/-- PACK and UNPACK move elements of at most 64 bits. -/
theorem packElWidth_le (s : State) (f : Firing) (h : Hdr) (freg : Nat) : packElWidth s f h freg ≤ 512 := by
  unfold packElWidth
  split
  · exact (cont_bounds _).2.trans (by decide)
  · exact (width_le _).trans (by decide)

/-- The elements that UNPACK spreads: an active position takes the next low element, and any other is zero. -/
theorem spread_eq (on : Nat → Bool) (x : Nat → Nat) (n k : Nat) :
    spread on x (List.range' k n) ((List.range k).filter on).length =
      (List.range' k n).map (fun j => if on j then x ((List.range j).filter on).length else 0) := by
  induction n generalizing k with
  | zero => rfl
  | succ n ih =>
    have next : ((List.range (k + 1)).filter on).length = ((List.range k).filter on).length + if on k then 1 else 0 := by
      rw [List.range_succ, List.filter_append, List.length_append]
      cases on_k : on k <;> simp [on_k]
    have rest := ih (k + 1)
    rw [next] at rest
    rw [List.range'_succ, spread, List.map_cons, ← rest]
    cases on_k : on k <;> rfl

/-- The lanes of the first `n` positions (R197). -/
theorem getLsbD_lanes (w n : Nat) {lane : Nat} (hl : lane < 16) :
    (BitVec.ofNat 16 ((List.range n).foldl (fun m j => m ||| laneBits w j) 0)).getLsbD lane = true ↔
      ∃ j, j < n ∧ (laneOf w j = lane ∨ w = 64 ∧ laneOf w j + 1 = lane) := by
  rw [BitVec.getLsbD_ofNat]
  simp only [hl, decide_true, Bool.true_and, testBit_foldl_or, testBit_laneBits, List.mem_range]

/-- The elements of UNPACK, from the first position on. -/
theorem spread_range (on : Nat → Bool) (x : Nat → Nat) (n : Nat) :
    spread on x (List.range n) 0 = (List.range n).map (fun j => if on j then x ((List.range j).filter on).length else 0) := by
  have start := spread_eq on x n 0
  rwa [← List.range_eq_range'] at start

/-- What UNPACK puts at position `j`: the next low element where the position is active, else zero (R197). -/
theorem packed_spread (a : Tok) (on : Nat → Bool) {w j : Nat} (fits : w ≤ 512) (hj : j < 512 / w) :
    (BitVec.ofNat 512 (packElems w (spread on (a.elem w) (List.range (512 / w)) 0))).extractLsb' (w * j) w =
      if on j then a.bits w ((List.range j).filter on).length else 0 := by
  rw [spread_range, packed_map _ hj]
  split
  · exact ofNat_elem _ fits _
  · rfl

/-- The active elements of a vector do not fill more than a payload. -/
theorem actives_fit {f : Firing} (vec : (f.op 0).vec = true) (w : Nat) : w * (actives f w).length ≤ 512 := by
  rw [actives_vec vec]
  calc w * ((List.range (512 / w)).filter (active f w)).length ≤ w * (512 / w) :=
        Nat.mul_le_mul_left w ((List.length_filter_le ..).trans_eq List.length_range)
    _ ≤ 512 := Nat.mul_div_le 512 w

/-- What PACK puts at position `j`: the active element of that number, or zero above the last one (R197). -/
theorem packed_actives {f : Firing} (vec : (f.op 0).vec = true) {w : Nat} (fits : w ≤ 512) (j : Nat) :
    (BitVec.ofNat 512 (packElems w ((actives f w).map ((f.op 0).elem w)))).extractLsb' (w * j) w =
      if h : j < (actives f w).length then (f.op 0).bits w (actives f w)[j] else 0 := by
  split
  case isTrue below =>
    rw [packed_extract _ _ _ (by rwa [List.length_map]) (by rw [List.length_map]; exact actives_fit vec w),
      List.getElem_map, ofNat_elem _ fits]
  case isFalse above => exact packed_extract_above (by rw [List.length_map]; omega)

/-- SHUF selects whole lanes, BCAST writes one value, PACK compacts the active elements and UNPACK spreads the low ones; a vector
with no lane is sent as it is. -/
theorem laneMovement : Claims.LaneMovement := by
  intro h pattern side idx freg
  refine ⟨laneSends_of_laneOut fun s f _ cur => ?_, laneSends_of_laneOut fun s f _ cur => ?_,
    laneSends_of_laneOut fun s f _ cur => ?_, laneSends_of_laneOut fun s f _ cur => ?_⟩ <;> dsimp only
  · have arm : exec (.shuf h pattern) s = execShuf h pattern s := rfl
    by_cases vec : (f.op 0).vec = true
    · simp only [if_pos vec]
      by_cases passes : passThrough f = true
      · obtain ⟨-, empty⟩ := (passThrough_iff f).mp passes
        exact ⟨_, exec_firing arm cur (if_pos passes), newTok_tagged .., (f.op 0).data, rfl, fun j _ => by
          rw [extract_vec vec, if_neg (by simp [empty])]⟩
      · exact ⟨_, exec_firing arm cur ((if_neg passes).trans (if_neg (by simp [vec]))), newTok_tagged .., _, rfl,
          fun j hj => (packed_map (w := 32) _ hj).trans (ofNat_shufLane f pattern j)⟩
    · simp only [if_neg vec]
      have moves : ¬ passThrough f = true := fun passes => vec ((passThrough_iff f).mp passes).1
      exact ⟨_, exec_firing arm cur ((if_neg moves).trans (if_pos (by simp [vec]))), newTok_tagged .., rfl⟩
  · have arm : exec (.bcast h side idx) s = execBcast h side idx s := rfl
    have fits : h.fmt.width ≤ 512 := (width_le h.fmt).trans (by decide)
    by_cases passes : passThrough f = true
    · obtain ⟨vec, empty⟩ := (passThrough_iff f).mp passes
      exact ⟨_, exec_firing arm cur (if_pos passes), newTok_tagged .., (f.op 0).data, rfl, fun j _ => by
        rw [extract_vec vec, active_empty vec empty, if_neg Bool.false_ne_true]⟩
    · refine ⟨_, exec_firing arm cur (if_neg passes), newTok_tagged .., _, rfl, fun j hj => ?_⟩
      simp only [packed_map _ hj, apply_ite (BitVec.ofNat h.fmt.width), ofNat_elem _ fits, BitVec.ofNat_toNat]
  · have arm : exec (.pack h freg) s = execPack h freg s := rfl
    by_cases vec : (f.op 0).vec = true
    · simp only [if_pos vec]
      by_cases empty : (f.op 0).lmask = 0
      · rw [actives_empty vec empty]
        exact ⟨_, exec_firing arm cur ((if_neg (by simp [vec])).trans (if_pos (by simp [empty]))), newTok_tagged .., (f.op 0).data, 0,
          rfl, fun _ _ some_ => absurd empty some_, fun _ => rfl, by simp⟩
      · have run := exec_firing arm cur ((if_neg (by simp [vec])).trans (if_neg (by simpa using empty)))
        simp only [packWidth_eq, ← actives_vec vec, List.length_map] at run
        exact ⟨_, run, newTok_tagged .., _, _, rfl, fun j _ _ => packed_actives vec (packElWidth_le ..) j,
          fun none_ => absurd none_ empty, fun lane hl => getLsbD_lanes _ _ hl⟩
    · simp only [if_neg vec]
      exact ⟨_, exec_firing arm cur (if_pos (by simp [vec])), newTok_tagged .., rfl⟩
  · have arm : exec (.unpack h freg) s = execUnpack h freg s := rfl
    by_cases vec : (f.op 0).vec = true
    · simp only [if_pos vec]
      by_cases empty : (f.op 0).lmask = 0
      · rw [actives_empty vec empty]
        exact ⟨_, exec_firing arm cur ((if_neg (by simp [vec])).trans (if_pos (by simp [empty]))), newTok_tagged .., (f.op 0).data,
          by rw [empty]; rfl, fun _ _ some_ => absurd empty some_, fun _ => rfl⟩
      · have run := exec_firing arm cur ((if_neg (by simp [vec])).trans (if_neg (by simpa using empty)))
        simp only [packWidth_eq, ← actives_vec vec] at run
        exact ⟨_, run, newTok_tagged .., _, rfl, fun j hj _ => packed_spread _ _ (packElWidth_le ..) hj,
          fun none_ => absurd none_ empty⟩
    · simp only [if_neg vec]
      exact ⟨_, exec_firing arm cur (if_pos (by simp [vec])), newTok_tagged .., rfl⟩

/-! The mask instructions (R198). -/

/-- A mask instruction sends A with another LMASK: the mask that it makes for a vector, and 1 for a scalar. -/
theorem laneSends_of_remask {i : Instr} {h : Hdr} {P : State → Firing → Tok → Prop} (m : Firing → BitVec 16)
    (runs : ∀ s f, WellFormed i = true → s.cur = some f → exec i s = .next (State.remask { s with cur := none } f h (m f)))
    (holds : ∀ s f, P s f { fwdTok f h (f.first h.arity) (f.op 0) false with lmask := if (f.op 0).vec then m f else 1 }) :
    LaneSends i h oneCycle noFlags P :=
  laneSends_of_laneOut fun s f w cur => ⟨_, runs s f w cur, fwdTok_tagged .., holds s f⟩

/-- The mask that LMAND and LMOR take: B's at two ports, else the literal. -/
theorem maskOperand_eq {h : Hdr} (ports : h.arity ∈ [1, 2]) (f : Firing) (mask : BitVec 16) :
    (if h.arity > 1 then (f.op 1).lmask else mask) = if h.arity = 2 then (f.op 1).lmask else mask := by
  have : h.arity = 1 ∨ h.arity = 2 := by simpa using ports
  congr 1
  exact propext (by omega)

/-- The mask of LMPRED as its rule makes it: bit 0 of each of B's lanes. -/
def predMask (b : Tok) : BitVec 16 :=
  BitVec.ofNat 16 ((List.range 16).foldl (fun m j => if b.elem 32 j % 2 = 1 then m ||| 2 ^ j else m) 0)

/-- A bit of LMPRED's mask. -/
theorem getLsbD_predMask (b : Tok) {j : Nat} (hj : j < 16) : (predMask b).getLsbD j = (b.bits 32 j).getLsbD 0 := by
  have joined : (fun m j => if b.elem 32 j % 2 = 1 then m ||| 2 ^ j else m) =
      fun m j => m ||| if b.elem 32 j % 2 = 1 then 2 ^ j else 0 := by
    funext m j
    split <;> simp
  have low : (b.bits 32 j).getLsbD 0 = decide (b.elem 32 j % 2 = 1) := by
    rw [elem_bits b 32 j (by decide), BitVec.getLsbD, Nat.testBit_zero]
  rw [predMask, BitVec.getLsbD_ofNat, joined, low, Bool.eq_iff_iff]
  simp only [hj, decide_true, Bool.true_and, testBit_foldl_or, List.mem_range, decide_eq_true_eq]
  constructor
  · rintro ⟨r, -, bit⟩
    split at bit
    case isTrue one => rw [Nat.testBit_two_pow, decide_eq_true_eq] at bit; rwa [← bit]
    case isFalse => simp at bit
  · exact fun one => ⟨j, hj, by rw [if_pos one, Nat.testBit_two_pow_self]⟩

/-- Each mask instruction sends A with the mask that its rule makes; LMGET sends the mask itself. -/
theorem laneMasks : Claims.LaneMasks := by
  intro h mask masked b
  have operand {opc : Nat} {row : OpRow} {i : Bool} (known : opRow opc = some row) (ars : row.ars = [1, 2])
      (w : (h.wf opc && i) = true) (f : Firing) : (if h.arity > 1 then (f.op 1).lmask else mask) = b f :=
    maskOperand_eq (ars ▸ (wf_row known (Bool.and_eq_true_iff.mp w).1).2) f mask
  refine ⟨?_, ?_, ?_, ?_, ?_, ?_⟩
  · exact laneSends_of_remask (fun _ => mask) (fun s f _ cur =>
      exec_firing (show exec (.lmset h mask) s = execLmset h mask s from rfl) cur rfl) fun _ _ => rfl
  · exact laneSends_of_remask (fun f => (f.op 0).lmask &&& b f) (fun s f w cur =>
      exec_firing (show exec (.lmand h mask) s = execLmand h mask s from rfl) cur (by rw [operand (opc := 0x1C9) rfl rfl w])) fun _ _ => rfl
  · exact laneSends_of_remask (fun f => (f.op 0).lmask ||| b f) (fun s f w cur =>
      exec_firing (show exec (.lmor h mask) s = execLmor h mask s from rfl) cur (by rw [operand (opc := 0x1CA) rfl rfl w])) fun _ _ => rfl
  · exact laneSends_of_remask (fun f => ~~~(f.op 0).lmask) (fun s f _ cur =>
      exec_firing (show exec (.lmnot h) s = execLmnot h s from rfl) cur rfl) fun _ _ => rfl
  · exact laneSends_of_remask (fun f => predMask (f.op 1)) (fun s f _ cur =>
      exec_firing (show exec (.lmpred h) s = execLmpred h s from rfl) cur rfl)
      fun _ f => ⟨predMask (f.op 1), rfl, fun _ hj => getLsbD_predMask (f.op 1) hj⟩
  · refine laneSends_of_laneOut fun s f _ cur => ⟨_,
      exec_firing (show exec (.lmget h) s = execLmget h s from rfl) cur rfl, newTok_tagged .., ?_⟩
    cases (f.op 0).vec with
    | true => simp [newScalar, usedBy]
    | false => rfl

/-- Settles O34: lanes moved (`laneMovement`), and masks changed and read (`laneMasks`). -/
theorem laneMovementAndMasks : Obligations.LaneMovementAndMasks := ⟨laneMovement, laneMasks⟩

end Sys2Proof.Machine
end

section
/-! Proof of the statement on REDUCE, SCAN and DOT16 (R193 to R196; O4). -/
namespace Sys2Proof.Machine

/-! The mould of a lane instruction, and of what a payload holds. -/

/-- What a well-formed lane instruction sends, in other words. -/
theorem LaneSends.congr {i : Instr} {h : Hdr} {n n' : Firing → Nat} {flags flags' : State → Firing → Nat}
    {P Q : State → Firing → Tok → Prop} (sends : LaneSends i h n flags P) (time : ∀ f, n f = n' f) (raised : ∀ s f, WellFormed i = true → flags s f = flags' s f)
    (le : ∀ s f k, WellFormed i = true → P s f k → Q s f k) : LaneSends i h n' flags' Q := by
  intro s f w ok clear
  rw [← raised s f w] at clear ⊢
  obtain ⟨k, t, holds, runs, emits, kept⟩ := sends s f w ok clear
  exact ⟨k, t, le s f k w holds, runs, by rwa [time] at emits, kept⟩

/-- A payload holds its elements by whatever names they have. -/
theorem Holds.congr {vec : Bool} {ty : Ty} {w : Nat} {d : Payload} {es es' : Nat → BitVec w} (holds : Holds vec ty w d es)
    (same : ∀ j, j < nElems vec w → es j = es' j) : Holds vec ty w d es' := by
  cases vec with
  | true => exact fun j hj => (holds j hj).trans (same j hj)
  | false => exact holds.trans (by rw [same 0 Nat.one_pos])

/-- The payload of a scalar holds its element. -/
theorem scalarData_holds (ty : Ty) (n : Nat) : Holds false ty ty.width (scalarData ty ty.width n) (fun _ => BitVec.ofNat ty.width n) :=
  scalarData_bits ty ty.width (width_le ty) (width_pos ty) n

/-- An integer type is no float type. -/
theorem isFloat_of_isInt {ty : Ty} (int : ty.isInt = true) : ty.isFloat = false := by
  revert int; cases ty <;> decide

/-- The types of classes I and F. -/
theorem isFloat_of_mem_clsIF {ty : Ty} (mem : ty.code ∈ clsIF) (other : ty.isInt = false) : ty.isFloat = true := by
  revert mem other; cases ty <;> decide

/-! The operations of REDUCE and SCAN on integers (R193, R194). -/

/-- The greatest element of `w` bits, by sign. -/
def elMost (sg : Bool) (w : Nat) : BitVec w := if sg then BitVec.intMax w else BitVec.allOnes w

/-- The least element of `w` bits, by sign. -/
def elLeast (sg : Bool) (w : Nat) : BitVec w := if sg then BitVec.intMin w else 0

/-- The range of a type is from its least element to its greatest (R68). -/
theorem intRange_eq (ty : Ty) : intRange ty = (elInt ty.isSigned (elLeast ty.isSigned ty.width),
    elInt ty.isSigned (elMost ty.isSigned ty.width)) := by
  have ones : ((2 ^ ty.width - 1 : Nat) : Int) = 2 ^ ty.width - 1 := by
    rw [Nat.cast_sub Nat.one_le_two_pow]; push_cast; rfl
  cases signed : ty.isSigned with
  | true => simp [intRange, signed, elInt, elLeast, elMost, BitVec.toInt_intMin_of_pos (width_pos ty)]
  | false => simp [intRange, signed, elInt, elLeast, elMost, ones]

/-- No element is above the greatest. -/
theorem elInt_le_most {w : Nat} (sg : Bool) (x : BitVec w) : elInt sg x ≤ elInt sg (elMost sg w) := by
  cases sg with
  | true => simpa [elInt, elMost] using BitVec.toInt_le
  | false => simpa [elInt, elMost] using (by exact_mod_cast x.isLt : (x.toNat : Int) < 2 ^ w)

/-- No element is below the least. -/
theorem least_le_elInt {w : Nat} (sg : Bool) (x : BitVec w) : elInt sg (elLeast sg w) ≤ elInt sg x := by
  cases sg with
  | true => simpa [elInt, elLeast] using BitVec.toInt_intMin_le x
  | false => simp [elInt, elLeast]

/-- A wrapped integer is that of its bits. -/
theorem wrapInt_eq (w : Nat) (v : Int) : wrapInt w v = (BitVec.ofInt w v).toNat := by
  simp [wrapInt, BitVec.toNat_ofInt]

/-- The bits of logic on an integer type are all of its bits. -/
theorem and_logicMask {ty : Ty} (int : ty.isInt = true) (x : BitVec ty.width) : x.toNat &&& logicMask ty = x.toNat := by
  have mask : logicMask ty = 2 ^ ty.width - 1 := if_neg (by rintro pred; rw [beq_iff_eq.mp pred] at int; simp [Ty.isInt, Ty.code] at int)
  rw [mask, Nat.and_two_pow_sub_one_eq_mod, Nat.mod_eq_of_lt x.isLt]

/-- REDUCE's operation `op` on a type is the operation `g` on bits, with the identity `e` (R193, R194). -/
structure FoldsBits (op : RedOp) (ty : Ty) (e : BitVec ty.width) (g : BitVec ty.width → BitVec ty.width → BitVec ty.width) : Prop where
  identity : redIdentity op ty = e.toNat
  bin : ∀ a b, redBin op ty a.toNat b.toNat = ((g a b).toNat, 0)
  unit : ∀ x, g e x = x
  folds : ∀ sat xs, redInt op ty.isSigned sat xs = plainEl (xs.foldl g e)

/-- Every operation but ADD is an operation on bits of integers. -/
theorem foldsBits_of_ne_add {ty : Ty} {op : RedOp} (int : ty.isInt = true) (other : op ≠ .add) : ∃ e g, FoldsBits op ty e g := by
  have whole := isFloat_of_isInt int
  have most (x : BitVec ty.width) := elInt_le_most ty.isSigned x
  have least (x : BitVec ty.width) := least_le_elInt ty.isSigned x
  cases op with
  | add => exact absurd rfl other
  | min =>
    refine ⟨elMost ty.isSigned ty.width, fun m x => if elLe ty.isSigned m x then m else x,
      ?_, fun a b => ?_, fun x => ?_, fun _ _ => rfl⟩
    · simp [redIdentity, whole, intRange_eq, wrapInt_eq]
    · simp only [redBin, whole, Bool.false_eq_true, if_false, elMin, wrapTo, intVal_elInt, wrapInt_eq, elLe_iff,
        apply_ite (BitVec.ofInt _), ofInt_elInt]
    · split
      case isTrue le => exact elInt_inj.mp (le_antisymm (elLe_iff .. |>.mp le) (most x))
      case isFalse => rfl
  | max =>
    refine ⟨elLeast ty.isSigned ty.width, fun m x => if elLe ty.isSigned x m then m else x,
      ?_, fun a b => ?_, fun x => ?_, fun _ _ => rfl⟩
    · simp [redIdentity, whole, intRange_eq, wrapInt_eq]
    · simp only [redBin, whole, Bool.false_eq_true, if_false, elMax, wrapTo, intVal_elInt, wrapInt_eq, elLe_iff,
        apply_ite (BitVec.ofInt _), ofInt_elInt, ge_iff_le]
    · split
      case isTrue le => exact elInt_inj.mp (le_antisymm (least x) (elLe_iff .. |>.mp le))
      case isFalse => rfl
  | and =>
    refine ⟨BitVec.allOnes _, fun m x => m &&& x, by simp [redIdentity], fun a b => ?_, fun x => by simp, fun _ _ => rfl⟩
    rw [redBin, elAnd, ← BitVec.toNat_and, and_logicMask int]
  | or =>
    refine ⟨0, fun m x => m ||| x, by simp [redIdentity], fun a b => ?_, fun x => by simp, fun _ _ => rfl⟩
    rw [redBin, elOr, ← BitVec.toNat_or, and_logicMask int]
  | xor =>
    refine ⟨0, fun m x => m ^^^ x, by simp [redIdentity], fun a b => ?_, fun x => by simp, fun _ _ => rfl⟩
    rw [redBin, elXor, ← BitVec.toNat_xor, and_logicMask int]

/-- No integer operation but a saturating sum raises a flag. -/
theorem redBin_flags {ty : Ty} (int : ty.isInt = true) (op : RedOp) (a b : Nat) : (redBin op ty a b).2 = 0 := by
  cases op <;> simp [redBin, isFloat_of_isInt int, elMin, elMax, elAnd, elOr, elXor, elAdd, wrapTo]

section
variable {op : RedOp} {ty : Ty} {e : BitVec ty.width} {g : BitVec ty.width → BitVec ty.width → BitVec ty.width}

/-- REDUCE's fold of an operation on integers is the fold of its operation on bits (R194). -/
theorem foldRed_bits (int : ty.isInt = true) (bits : FoldsBits op ty e g) (xs : List (BitVec ty.width)) :
    foldRed op ty (xs.map BitVec.toNat) = ((xs.foldl g e).toNat, 0) := by
  have from_ (m : BitVec ty.width) : (xs.tail.map BitVec.toNat).foldl (fun r x => ((redBin op ty r.1 x).1, (redBin op ty r.1 x).2 ||| r.2))
      (m.toNat, 0) = ((xs.tail.foldl g m).toNat, 0) := by
    induction xs.tail generalizing m with
    | nil => rfl
    | cons x xs ih => simp only [List.map_cons, List.foldl_cons, bits.bin, Nat.or_self]; exact ih _
  cases xs with
  | nil => exact congrArg (·, 0) bits.identity
  | cons x xs =>
    have first : canon ty x.toNat = (x.toNat, 0) := by simp [canon, isFloat_of_isInt int]
    rw [List.map_cons, foldRed, first, List.foldl_cons, bits.unit]
    exact from_ x

/-- A SCAN that has begun folds its operation on bits (R195). -/
theorem foldl_next_code {c : RedCtl} (other : c.op ≠ .add) (bits : FoldsBits c.op ty e g) (m : BitVec ty.width)
    (xs : List (BitVec ty.width)) : (xs.map BitVec.toNat).foldl (fun r x => (Run.next c ty r x).1) (.code m.toNat) =
      .code (xs.foldl g m).toNat := by
  induction xs generalizing m with
  | nil => rfl
  | cons x xs ih =>
    have step : (Run.next c ty (.code m.toNat) x.toNat).1 = .code (g m x).toNat := by simp [Run.next, other, bits.bin]
    rw [List.map_cons, List.foldl_cons, step, ih, List.foldl_cons]

end

/-- A SCAN.ADD of integers that has begun holds their exact sum (R195). -/
theorem foldl_next_int {c : RedCtl} {ty : Ty} (int : ty.isInt = true) (add : c.op = .add) (v : Int) (xs : List Nat) :
    xs.foldl (fun r x => (Run.next c ty r x).1) (.int v) = .int (v + (xs.map (intVal ty)).sum) := by
  induction xs generalizing v with
  | nil => simp
  | cons x xs ih =>
    have step : (Run.next c ty (.int v) x).1 = .int (v + intVal ty x) := by simp [Run.next, add, isFloat_of_isInt int]
    rw [List.foldl_cons, step, ih, List.map_cons, List.sum_cons, Int.add_assoc]

/-- Zero lies in every range. -/
theorem satEl_zero (w : Nat) (sg : Bool) : satEl w sg 0 = (0, 0) := by
  have pos (n : Nat) : (0 : Int) < 2 ^ n := by positivity
  have low : ¬ (0 : Int) < if sg then -(2 ^ (w - 1)) else 0 := by have := pos (w - 1); split <;> omega
  have high : ¬ (if sg then 2 ^ (w - 1) - 1 else 2 ^ w - 1 : Int) < 0 := by
    have := pos (w - 1); have := pos w; split <;> omega
  simp only [satEl, low, high, or_self, if_false]
  rfl

/-- The exact sum of integers, wrapped or clamped, is ADD's on bits (R194). -/
theorem sumOut_bits (ty : Ty) (sat : Bool) (xs : List (BitVec ty.width)) :
    codeEl ty.width (sumOut ty sat ((xs.map BitVec.toNat).map (intVal ty)).sum) = redInt .add ty.isSigned sat xs := by
  have ints : (xs.map BitVec.toNat).map (intVal ty) = xs.map (elInt ty.isSigned) := by
    rw [List.map_map]; exact List.map_congr_left fun x _ => intVal_elInt ty x
  rw [ints]
  cases sat with
  | true => exact ofNat_clampInt ty _
  | false => exact congrArg (·, 0) (ofNat_wrapInt _ _)

/-- The identities of Table 3 are what the operations give for no element (R193). -/
theorem redIdentity_bits {ty : Ty} (int : ty.isInt = true) (op : RedOp) (sat : Bool) :
    codeEl ty.width (redIdentity op ty, 0) = redInt op ty.isSigned sat [] := by
  by_cases add : op = .add
  · subst add
    cases sat with
    | true => exact (satEl_zero ..).symm
    | false => rfl
  · obtain ⟨e, g, bits⟩ := foldsBits_of_ne_add int add
    rw [bits.folds, bits.identity, codeEl, BitVec.ofNat_toNat, BitVec.setWidth_eq]
    rfl

/-! REDUCE (R194). -/

/-- What REDUCE makes of the elements of A, as its rule says. -/
def reduceOf (c : RedCtl) (ty : Ty) (f : Firing) : Nat × Nat :=
  let pos := List.range (nElems (f.op 0).vec ty.width)
  let xs := (pos.filter (active f ty.width)).map ((f.op 0).elem ty.width)
  if xs.isEmpty then (redIdentity c.op ty, 0)
  else if c.op == .add then
    (if ty.isFloat then fromAcc ty (sumR82 (accFmt ty).addF (0, 0) (pos.length + 1) none
      (pos.map (fun j => if active f ty.width j then toAcc ty ((f.op 0).elem ty.width j) else (0, 0))))
    else sumOut ty c.sat (xs.foldl (fun t x => t + intVal ty x) 0))
  else foldRed c.op ty xs

/-- The active elements of A as numbers. -/
theorem map_elem (ty : Ty) (f : Firing) (ps : List Nat) :
    ps.map ((f.op 0).elem ty.width) = (ps.map ((f.op 0).bits ty.width)).map BitVec.toNat := by
  rw [List.map_map]
  exact List.map_congr_left fun j _ => elem_bits _ _ _ ((width_le ty).trans (by decide))

/-- On integers REDUCE is its operation on the bits of the active elements. -/
theorem reduceOf_int {c : RedCtl} {ty : Ty} (int : ty.isInt = true) (f : Firing) :
    codeEl ty.width (reduceOf c ty f) = redInt c.op ty.isSigned c.sat (activeBits f ty.width) := by
  unfold reduceOf
  extract_lets pos xs
  have elems : xs = (activeBits f ty.width).map BitVec.toNat := map_elem ty f _
  rw [elems]
  by_cases none_ : activeBits f ty.width = []
  · rw [none_]
    exact redIdentity_bits int ..
  · rw [if_neg (by simpa using none_)]
    by_cases add : c.op = .add
    · rw [if_pos (beq_iff_eq.mpr add), if_neg (by simp [isFloat_of_isInt int]), ← List.foldl_map (f := intVal ty),
        ← List.sum_eq_foldl, sumOut_bits, add]
    · obtain ⟨e, g, bits⟩ := foldsBits_of_ne_add int add
      rw [if_neg (by simpa using add), foldRed_bits int bits, bits.folds, codeEl, BitVec.ofNat_toNat, BitVec.setWidth_eq]
      rfl

/-- On a float type REDUCE is the sum in the order of R82, or a fold of FMIN or FMAX. -/
theorem reduceOf_float {c : RedCtl} {ty : Ty} (float : ty.isFloat = true) (f : Firing) :
    codeEl ty.width (reduceOf c ty f) = redFloat c.op ty f := by
  unfold reduceOf redFloat
  extract_lets pos xs w
  have elems : xs = (activeBits f ty.width).map BitVec.toNat := map_elem ty f _
  have empty : ((activeBits f ty.width).map BitVec.toNat).isEmpty = true ↔ actives f ty.width = [] := by simp [activeBits]
  simp only [elems, empty, float, if_true, beq_iff_eq, apply_ite (codeEl ty.width),
    elem_bits _ _ _ ((width_le ty).trans (by decide : 64 ≤ 512))]
  rfl

/-- A firing of REDUCE sends one scalar of what it makes of the elements of A (R194). -/
theorem reduce_sends (h : Hdr) (c : RedCtl) : LaneSends (.reduce h c) h
    (fun f => if passThrough f || !(f.op 0).vec then 1 else if h.fmt == .fp64 then 4 else 2) (fun _ f => (reduceOf c h.fmt f).2)
    (fun _ f k => ∃ d, k = newScalar f h h.fmt d ∧
      Holds false h.fmt h.fmt.width d (fun _ => BitVec.ofNat h.fmt.width (reduceOf c h.fmt f).1)) :=
  laneSends_of_laneOut fun s _ _ cur => ⟨_, exec_firing (show exec (.reduce h c) s = execReduce h c s from rfl) cur rfl,
    newTok_tagged .., _, rfl, scalarData_holds _ _⟩

/-! SCAN (R195). -/

/-- SCAN's running value over some elements. -/
def runOver (c : RedCtl) (ty : Ty) (xs : List Nat) : Run := xs.foldl (fun r x => (Run.next c ty r x).1) .none

/-- On integers SCAN writes its operation on the bits of the elements it has run over. -/
theorem out_runOver {c : RedCtl} {ty : Ty} (int : ty.isInt = true) (xs : List (BitVec ty.width)) :
    codeEl ty.width ((runOver c ty (xs.map BitVec.toNat)).out c ty) = redInt c.op ty.isSigned c.sat xs := by
  cases xs with
  | nil => exact redIdentity_bits int ..
  | cons x xs =>
    have whole := isFloat_of_isInt int
    by_cases add : c.op = .add
    · have begun : (Run.next c ty .none x.toNat).1 = .int (intVal ty x.toNat) := by simp [Run.next, add, whole]
      rw [runOver, List.map_cons, List.foldl_cons, begun, foldl_next_int int add, Run.out, add, ← sumOut_bits]
      rfl
    · obtain ⟨e, g, bits⟩ := foldsBits_of_ne_add int add
      have begun : (Run.next c ty .none x.toNat).1 = .code x.toNat := by simp [Run.next, add, canon, whole]
      rw [runOver, List.map_cons, List.foldl_cons, begun, foldl_next_code add bits, Run.out, if_neg (by simpa using add), codeEl,
        BitVec.ofNat_toNat, BitVec.setWidth_eq, bits.folds, List.foldl_cons, bits.unit]
      rfl

/-- No step of a SCAN of integers raises a flag of its own. -/
theorem next_flags {ty : Ty} (int : ty.isInt = true) (c : RedCtl) (r : Run) (x : Nat) : (Run.next c ty r x).2 = 0 := by
  have whole := isFloat_of_isInt int
  unfold Run.next
  by_cases add : c.op = .add
  · cases r <;> simp [add, whole]
  · cases r <;> simp [add, whole, canon, redBin_flags int]

/-- SCAN's running value at a position: over the active positions before it (R195). -/
def runTo (c : RedCtl) (ty : Ty) (on : Nat → Bool) (x : Nat → Nat) (j : Nat) : Run :=
  runOver c ty (((List.range j).filter on).map x)

/-- A position adds its element to the running value where it is active. -/
theorem runTo_succ (c : RedCtl) (ty : Ty) (on : Nat → Bool) (x : Nat → Nat) (j : Nat) : runTo c ty on x (j + 1) =
    if on j then (Run.next c ty (runTo c ty on x j) (x j)).1 else runTo c ty on x j := by
  unfold runTo runOver
  rw [List.range_succ, List.filter_append, List.map_append, List.foldl_append]
  cases active : on j <;> simp [active]

/-- What a SCAN whose steps raise no flag of their own writes and raises, from any position on: at each active position what the
running value up to it gives, or before it with EXCL (R195). -/
theorem scanFold_range' {c : RedCtl} {ty : Ty} (quiet : ∀ r x, (Run.next c ty r x).2 = 0) (on : Nat → Bool) (x : Nat → Nat)
    (n k : Nat) :
    let out (j : Nat) := (runTo c ty on x (if c.excl then j else j + 1)).out c ty
    scanFold c ty on x (List.range' k n) (runTo c ty on x k) =
      ((List.range' k n).map (fun j => if on j then (out j).1 else x j),
        (((List.range' k n).filter on).map (fun j => (out j).2)).foldr (fun a b => a ||| b) 0) := by
  intro out
  induction n generalizing k with
  | zero => rfl
  | succ n ih =>
    have rest := ih (k + 1)
    have here : out k = if c.excl then (runTo c ty on x k).out c ty else (runTo c ty on x (k + 1)).out c ty :=
      apply_ite (fun j => (runTo c ty on x j).out c ty) ..
    rw [List.range'_succ, scanFold, List.map_cons, List.filter_cons]
    rw [runTo_succ] at rest here
    cases active : on k with
    | false => simp only [active, Bool.false_eq_true, if_false] at rest ⊢; simp [rest]
    | true =>
      simp only [active, if_true] at rest here ⊢
      simp [rest, here, quiet]

/-- A SCAN writes an element for each position. -/
theorem scanFold_length (c : RedCtl) (ty : Ty) (on : Nat → Bool) (x : Nat → Nat) (l : List Nat) (r : Run) :
    (scanFold c ty on x l r).1.length = l.length := by
  induction l generalizing r with
  | nil => rfl
  | cons j l ih =>
    rw [scanFold]
    split
    · exact congrArg (· + 1) (ih r)
    · exact congrArg (· + 1) (ih _)

/-- Where no position is active a SCAN writes the elements as they are, and raises no flag. -/
theorem scanFold_inactive (c : RedCtl) (ty : Ty) {on : Nat → Bool} (x : Nat → Nat) (off : ∀ j, on j = false)
    (l : List Nat) (r : Run) :
    scanFold c ty on x l r = (l.map x, 0) := by
  induction l with
  | nil => rfl
  | cons j l ih => simp [scanFold, off, ih]

/-- What SCAN makes of the elements of A. -/
def scanOf (c : RedCtl) (ty : Ty) (f : Firing) : List Nat × Nat :=
  scanFold c ty (active f ty.width) ((f.op 0).elem ty.width) (List.range (nElems (f.op 0).vec ty.width)) .none

/-- On integers SCAN writes its operation on the bits of the active elements up to each position (R195). -/
theorem scanOf_int {c : RedCtl} {ty : Ty} (int : ty.isInt = true) (f : Firing) :
    (∀ j, j < nElems (f.op 0).vec ty.width → BitVec.ofNat ty.width ((scanOf c ty f).1.getD j 0) =
      if active f ty.width j then (scanInt c ty.isSigned f ty.width j).1 else (f.op 0).bits ty.width j) ∧
    (scanOf c ty f).2 =
      ((actives f ty.width).map (fun j => (scanInt c ty.isSigned f ty.width j).2)).foldl (fun a b => a ||| b) 0 := by
  have el (j : Nat) : codeEl ty.width ((runTo c ty (active f ty.width) ((f.op 0).elem ty.width) (if c.excl then j else j + 1)).out c ty) =
      scanInt c ty.isSigned f ty.width j := by
    rw [runTo, map_elem, out_runOver int]
    rfl
  have folded := scanFold_range' (next_flags int c) (active f ty.width) ((f.op 0).elem ty.width) (nElems (f.op 0).vec ty.width) 0
  rw [← List.range_eq_range'] at folded
  have made : scanOf c ty f = _ := folded
  rw [made]
  refine ⟨fun j hj => ?_, ?_⟩
  · rw [List.getD_eq_getElem?_getD, List.getElem?_map, List.getElem?_range hj]
    show BitVec.ofNat _ (if active f ty.width j then _ else _) = _
    rw [apply_ite (BitVec.ofNat _), ofNat_elem _ ((width_le ty).trans (by decide)), ← el]
    rfl
  · rw [List.foldl_eq_foldr]
    simp only [← el]
    rfl

/-- A firing of SCAN sends one token with what it makes of the elements of A; a vector with no lane takes one cycle (R93, R195). -/
theorem scan_sends (h : Hdr) (c : RedCtl) : LaneSends (.scan h c) h
    (fun f => if !(f.op 0).vec || passThrough f then 1 else if h.fmt = .fp64 then 8 else 4) (fun _ f => (scanOf c h.fmt f).2)
    (fun _ f k => ∃ d, k = newTok f h (f.first h.arity) (some (f.op 0)) h.fmt (f.op 0).vec d ∧
      Holds (f.op 0).vec h.fmt h.fmt.width d (fun j => BitVec.ofNat h.fmt.width ((scanOf c h.fmt f).1.getD j 0))) := by
  refine laneSends_of_laneOut fun s f _ cur => ?_
  have arm : exec (.scan h c) s = execScan h c s := rfl
  by_cases passes : passThrough f = true
  · obtain ⟨vec, empty⟩ := (passThrough_iff f).mp passes
    have same : scanOf c h.fmt f = _ := scanFold_inactive c h.fmt _ (active_empty vec empty h.fmt.width) _ _
    simp only [passes, Bool.or_true, if_true, same, vec]
    refine ⟨_, exec_firing arm cur (if_pos passes), newTok_tagged .., (f.op 0).data, rfl, fun j hj => ?_⟩
    rw [extract_vec vec, ← ofNat_elem _ ((width_le h.fmt).trans (by decide))]
    simp [List.getD_eq_getElem?_getD, nElems, hj]
  · have time : (if !(f.op 0).vec || passThrough f then 1 else if h.fmt = .fp64 then 8 else 4) =
        if !(f.op 0).vec then 1 else if h.fmt == .fp64 then 8 else 4 := by simp [passes]
    rw [time]
    refine ⟨_, exec_firing arm cur (if_neg passes), newTok_tagged .., _, rfl, resData_holds _ _ _ _ _ ?_ fun j hj => ?_⟩
    · rw [scanFold_length, List.length_range]
    · rw [scanOf, List.getD_eq_getElem?_getD, List.getElem?_eq_getElem hj]
      rfl

/-! DOT16 (R196). -/

/-- What DOT16 makes of the elements of A and B, as its rule says. -/
def dotOf (ty : Ty) (f : Firing) : Nat × Nat :=
  let w := ty.width
  let pos := List.range (nElems (f.vec 2) w)
  if passThrough f then (0, 0)
  else if ty.isInt then
    (wrapInt (dotFmt ty).width (pos.foldl (fun t j => if active f w j then t + intVal ty ((f.op 0).elem w j) * intVal ty ((f.op 1).elem w j)
      else t) 0), 0)
  else
    let prod (j : Nat) : Nat × Nat :=
      f32.rnd .rne (exMul ((fmtOf ty).val ((f.op 0).elem w j)) ((fmtOf ty).val ((f.op 1).elem w j)))
    if f.vec 2 then sumR82 f32.addF (0, 0) (pos.length + 1) none (pos.map (fun j => if active f w j then prod j else (0, 0)))
    else prod 0

/-- A firing of DOT16 sends one scalar of what it makes of the elements of A and B. -/
theorem dot16_sends (h : Hdr) : LaneSends (.dot16 h) h (fun f => if !passThrough f && (h.fmt == .bf16 || h.fmt == .fp16) then 2 else 1)
    (fun _ f => (dotOf h.fmt f).2) (fun _ f k => ∃ d, k = newScalar f h (dotFmt h.fmt) d ∧
      Holds false (dotFmt h.fmt) (dotFmt h.fmt).width d (fun _ => BitVec.ofNat _ (dotOf h.fmt f).1)) :=
  laneSends_of_laneOut fun s _ _ cur => ⟨_, exec_firing (show exec (.dot16 h) s = execDot16 h s from rfl) cur rfl, newTok_tagged ..,
    _, rfl, scalarData_holds _ _⟩

/-- On integers DOT16 is the sum of the products of the active elements, wrapped; it raises no flag. -/
theorem dotOf_int {ty : Ty} (int : ty.isInt = true) (signed : ty.isSigned = true) (f : Firing) :
    BitVec.ofNat (dotFmt ty).width (dotOf ty f).1 = BitVec.ofInt (dotFmt ty).width
      ((((List.range (nElems (f.vec 2) ty.width)).filter (active f ty.width)).map
        (fun j => ((f.op 0).bits ty.width j).toInt * ((f.op 1).bits ty.width j).toInt)).sum) := by
  unfold dotOf
  extract_lets w pos prod
  by_cases passes : passThrough f = true
  · obtain ⟨vec, empty⟩ := (passThrough_iff f).mp passes
    rw [if_pos passes, List.filter_eq_nil_iff.mpr (by simp [active_empty vec empty])]
    rfl
  · have value (t : Tok) (j : Nat) : intVal ty (t.elem w j) = (t.bits w j).toInt := by
      rw [elem_bits _ _ _ ((width_le ty).trans (by decide)), intVal_elInt, elInt, if_pos signed]
    rw [if_neg passes, if_pos int, ofNat_wrapInt, ← List.foldl_filter, List.sum_eq_foldl, List.foldl_map]
    simp only [value]
    rfl

/-- DOT16 of integers raises no flag. -/
theorem dotOf_int_flags {ty : Ty} (int : ty.isInt = true) (f : Firing) : (dotOf ty f).2 = 0 := by
  unfold dotOf
  simp only [int, if_true, apply_ite Prod.snd, ite_self]

/-- DOT16's integer types are S8, with a sum of type S32, and S16, with one of type S64 (R196). -/
theorem dot16_int_types {h : Hdr} (w : WellFormed (.dot16 h) = true) (int : h.fmt.isInt = true) :
    h.fmt.isSigned = true ∧ dotFmt h.fmt = if h.fmt = .s8 then .s32 else .s64 := by
  have mem : h.fmt.code ∈ [2, 4, 9, 10, 11] := (wf_row (opc := 0x1C4) rfl w).1
  revert mem int
  cases h.fmt <;> decide

/-- The sum of any other type is an FP32 number (R196). -/
theorem dotFmt_of_not_int {ty : Ty} (other : ty.isInt = false) : dotFmt ty = .fp32 := by
  revert other; cases ty <;> decide

/-- An integer type is no 16-bit float type. -/
theorem not_half {ty : Ty} (int : ty.isInt = true) : (ty == .bf16 || ty == .fp16) = false := by
  revert int; cases ty <;> decide

/-- Settles O4: REDUCE (`reduceOf_int`, `reduceOf_float`), SCAN (`scan_sends`, `scanOf_int`), and DOT16 (`dot16_sends`, `dotOf_int`) by
what each makes of the elements of its operands. -/
theorem reduceScanAndDot : Obligations.ReduceScanAndDot := by
  intro h c ty w sg
  refine ⟨?_, fun int => ?_, fun other => ?_, fun int => ?_, ?_⟩
  · have made (ok : WellFormed (.reduce h c) = true) (f : Firing) : codeEl w (reduceOf c ty f) =
        if ty.isInt then redInt c.op sg c.sat (activeBits f w) else redFloat c.op ty f := by
      cases int : ty.isInt with
      | true => exact reduceOf_int int f
      | false => exact reduceOf_float (isFloat_of_mem_clsIF (wf_row (opc := 0x1C2) rfl (Bool.and_eq_true_iff.mp ok).1).1 int) f
    refine (reduce_sends h c).congr (fun f => ?_) (fun s f ok => ?_) (fun s f k ok => ?_)
    · simp [ty, Bool.or_comm]
    · rw [← apply_ite Prod.snd, ← made ok]; rfl
    · rw [← apply_ite Prod.fst, ← made ok]; exact id
  · refine (scan_sends h c).congr (fun f => ?_) (fun s f _ => (scanOf_int int f).2) ?_
    · have narrow : h.fmt ≠ .fp64 := by rintro wide; simp [ty, wide, Ty.isInt, Ty.code] at int
      rw [if_neg narrow]
    · rintro s f k - ⟨d, rfl, holds⟩
      exact ⟨d, rfl, holds.congr (scanOf_int int f).1⟩
  · refine (scan_sends h c).congr (fun _ => rfl) (fun s f _ => ?_) (fun _ _ _ _ => id)
    by_cases passes : passThrough f = true
    · obtain ⟨vec, empty⟩ := (passThrough_iff f).mp passes
      rw [if_pos passes, scanOf, scanFold_inactive _ _ _ (active_empty vec empty _)]
    · rw [if_neg passes]; rfl
  · refine (dot16_sends h).congr (fun f => ?_) (fun s f _ => dotOf_int_flags int f) ?_
    · rw [not_half int, Bool.and_false]; rfl
    · rintro s f k ok ⟨d, rfl, holds⟩
      obtain ⟨signed, out⟩ := dot16_int_types ok int
      rw [dotOf_int int signed] at holds
      rw [out] at holds ⊢
      exact ⟨d, rfl, holds⟩
  · intro other prod sum
    have made (f : Firing) : dotOf ty f = sum f := by
      unfold dotOf
      simp only [other, Bool.false_eq_true, if_false, elem_bits _ _ _ ((width_le ty).trans (by decide : 64 ≤ 512)), List.length_range]
      cases vec : f.vec 2 with
      | true => simp only [sum, vec, if_true]; rfl
      | false => simp only [sum, vec, Bool.false_eq_true, if_false]; rfl
    refine (dot16_sends h).congr (fun f => ?_) (fun s f _ => congrArg Prod.snd (made f)) ?_
    · simp [ty]
    · rintro s f k - ⟨d, rfl, holds⟩
      rw [show dotOf h.fmt f = sum f from made f] at holds
      rw [dotFmt_of_not_int other] at holds ⊢
      exact ⟨d, rfl, holds⟩

end Sys2Proof.Machine
end

section
/-! Proofs of the statements on operations of entry shards of logical stores, which queue at the store's home (R205; O44). -/
namespace Sys2Proof.Machine

/-- A firing that keeps what it need not change keeps the engines of every die. -/
theorem Kept.eng {s t : State} {f : Firing} (h : Kept s t f) (d : Nat) : (t.die d).eng = (s.die d).eng := by
  obtain ⟨l, kept⟩ := h.dies d
  rw [kept]

/-- The operation that an entry shard's firing sends to the home of its store (R205). -/
def State.homeOp (s : State) (f : Firing) (node : Nat) (kind : LKind) (toks : List Tok) : LOp :=
  { id := (s.die f.x.die).eng.nextId, ctx := f.ent.ctx, node := node, x := f.x, f := f, kind := kind, on := none, todo := [],
    count := 0, cands := [], merged := false, commit := []
    dep := ⟨f.ent.ctx, f.ent.uid, f.ent.node, 0, f.ent.ord, 0, toks.any Tok.isExit, toks⟩ }

/-- An operation that is sent to its home stands behind those already there. -/
theorem lops_sendOp (s : State) (f : Firing) (node : Nat) (kind : LKind) (toks : List Tok) :
    ((s.sendOp f node kind toks).die f.x.die).eng.lops = (s.die f.x.die).eng.lops ++ [s.homeOp f node kind toks] := by
  rw [State.sendOp, die_modDie_same]
  rfl

/-- A firing that issues, and whose operation goes to its home: the operation queues there, the operands are consumed, and nothing is
sent. -/
theorem queues_of_issued (s : State) (f : Firing) (o : Out) (node : Nat) (kind : LKind) (toks : List Tok) :
    let t := (s.issued f o toks).sendOp f node kind toks
    (t.die f.x.die).eng.lops = (s.die f.x.die).eng.lops ++ [(s.issued f o toks).homeOp f node kind toks] ∧
      (t.cell f.x).slots = ((s.consume f o.ports).cell f.x).slots ∧ (t.cell f.x).pipe.deps = (s.cell f.x).pipe.deps := by
  have issued := issued_spec s f o toks
  obtain ⟨b, pipe, -⟩ := issued.pipe
  refine ⟨(lops_sendOp ..).trans (by rw [issued.kept.eng]), issued.slots, ?_⟩
  exact (congrArg Pipe.deps pipe :)

/-- A clear firing of an operation with a numeric result issues, its result's token on both targets. -/
theorem issue_number {s : State} {f : Firing} {h : Hdr} {tok : Tok} (tagged : (tok.tag, tok.depth) = f.tagOf)
    (clear : Clear { s with cur := some f } f [h.t0, h.t1] f.tagOf 0 0) (k : State → List Tok → State) :
    s.issue f (numOut f h tok) k =
      k (s.issued f (numOut f h tok) (onTargets (s.ctx f.ent.ctx).tl f.x [h.t0, h.t1] tok))
        (onTargets (s.ctx f.ent.ctx).tl f.x [h.t0, h.t1] tok) := by
  obtain ⟨sent, exits⟩ := sendList_targets (s.ctx f.ent.ctx).tl f.x [h.t0, h.t1] tok (by rw [tagged]; exact clear.tags)
  exact issue_clear s f (numOut f h tok) k _ (Nat.zero_and _) sent (by rw [exits]; exact clear.exits)

/-- A firing sees that its store is a shard of a logical store: the operation goes to the store's home (R205). -/
theorem storeOp_shared {s s1 : State} {f : Firing} {h : Hdr} {node : Nat} {fmt : Ty} {kind : LKind} {k : State → View → State} {v : View}
    (seen : s.view f.x f.ent.ctx node = (.ok (some v), s1)) (shared : v.c.sh = true) :
    s.storeOp f h node fmt kind k = s1.issue f (numOut f h (numTok f h fmt 0)) (fun s toks => s.sendOp f node kind toks) := by
  simp [State.storeOp, seen, shared]

/-- KINS once its checks have passed, and its key has been read, sends its entry to the home of a logical store (R147, R205). -/
theorem execKins_shared {h : Hdr} {c : KinsCtl} {s s1 s2 : State} {f : Firing} {v : View} {key : List Nat} {bad : Bool}
    (cur : s.cur = some f) (seen : State.view { s with cur := none } f.x f.ent.ctx c.store = (.ok (some v), s1))
    (shared : v.c.sh = true) (clean : c.kref = true → (f.op 0).flag .poison = false) (shape : (f.op 1).vec = v.c.vvec)
    (width : keyWidth v.h.fmt v.reg = v.k.kw) (read : s1.readKey f (f.op 0) c.kref v.c.d v.k.kw = (.ok (key, bad), s2)) :
    exec (.kins h c) s = .next (s2.issue f (numOut f h ((numTok f h .s64 0).setFlag .complete true)) (fun s toks =>
      s.sendOp f c.store (.ins c (insEntry c v key (f.op 1) ((f.op 0).flag .poison || (f.op 1).flag .poison || bad))) toks)) := by
  refine exec_firing (show exec (.kins h c) s = execKins h c s from rfl) cur ?_
  simp [seen, Bool.and_eq_false_imp.mpr clean, shape, width, read, shared]

/-- KMATCH once its checks have passed, and its query has been read, sends it to the home of a logical store (R143, R205). -/
theorem execKmatch_shared {h : Hdr} {c : KmCtl} {s s1 s2 : State} {f : Firing} {v : View} {q : List Nat} {bad : Bool} {toks : List Tok}
    (cur : s.cur = some f) (seen : State.view { s with cur := none } f.x f.ent.ctx f.ent.node = (.ok (some v), s1))
    (shared : c.sh = true) (clean : c.qref = true → (f.op 0).flag .poison = false) (width : keyWidth h.fmt v.reg = v.k.kw)
    (read : s1.readKey f (f.op 0) c.qref c.d v.k.kw = (.ok (q, bad), s2))
    (checked : (matchCheck (s2.ctx f.ent.ctx).tl f h c.k).bind (sendList (s2.ctx f.ent.ctx).tl f.x) = some toks) :
    exec (.kmatch h c) s = .next (s2.issue f { sends := [], ports := portsOf h, used := usedBy f h } (fun s _ =>
      s.sendOp f f.ent.node (.query c h.fmt v.reg q ((f.op 0).flag .poison || bad)) [])) := by
  refine exec_firing (show exec (.kmatch h c) s = execKmatch h c s from rfl) cur ?_
  simp [seen, Bool.and_eq_false_imp.mpr clean, width, read, shared, checked]

/-- What an entry shard's firing does: KDEL, KPURGE and KGEN with the result's token, KINS with its entry, KMATCH with its query. -/
theorem logicalStoreOperationsQueue : Claims.LogicalStoreOperationsQueue := by
  intro h store byVal s s1 f v cur seen shared queues
  have sends {i : Instr} {fmt : Ty} {kind : LKind} (runs : exec i s = .next
      (s1.issue f (numOut f h (numTok f h fmt 0)) (fun s toks => s.sendOp f store kind toks))) : queues i fmt kind := by
    intro _ clear
    rw [issue_number (numTok_tagged f h fmt 0) clear] at runs
    obtain ⟨lops, slots, deps⟩ := queues_of_issued s1 f (numOut f h (numTok f h fmt 0)) store kind
      (onTargets (s1.ctx f.ent.ctx).tl f.x [h.t0, h.t1] (numTok f h fmt 0))
    exact ⟨_, _, runs, lops, rfl, rfl, rfl, rfl, rfl, rfl, rfl, rfl, slots, deps⟩
  have low : (f.op 0).w64 % 2 ^ 32 = (f.op 0).w32 := Nat.mod_mod_of_dvd _ (by decide)
  refine ⟨?_, ?_, ?_, ?_, ?_, ?_, ?_⟩
  · exact sends (exec_firing (show exec (.kdel h byVal store) s = execKdel h byVal store s from rfl) cur (storeOp_shared seen shared))
  · exact sends (exec_firing (show exec (.kpurge h store) s = execKpurge h store s from rfl) cur (storeOp_shared seen shared))
  · exact sends (exec_firing (show exec (.kgenRead h store) s = execKgenRead h store s from rfl) cur (storeOp_shared seen shared))
  · exact sends (exec_firing (show exec (.kgenAdv h store) s = execKgenAdv h store s from rfl) cur (storeOp_shared seen shared))
  · rw [low]
    exact sends (exec_firing (show exec (.kgenSet h store) s = execKgenSet h store s from rfl) cur (storeOp_shared seen shared))
  · rintro c key bad s2 rfl - clean shape width read clear
    have runs := execKins_shared (h := h) cur seen shared clean shape width read
    rw [issue_number ((setFlag_tagged ..).trans (numTok_tagged f h .s64 0)) clear] at runs
    exact ⟨_, _, _, runs, (queues_of_issued ..).1, rfl, rfl, rfl, rfl, rfl, rfl⟩
  · rintro c q bad s2 toks rfl - sh clean width read checked
    have runs := execKmatch_shared (h := h) cur seen sh clean width read checked
    rw [issue_clear s2 f { sends := [], ports := portsOf h, used := usedBy f h } _ [] (Nat.zero_and _) rfl rfl] at runs
    exact ⟨_, _, runs, (queues_of_issued ..).1, rfl, rfl, rfl⟩

end Sys2Proof.Machine
end

section
/-! Proofs of the statement on the steps of an operation of a logical store: its order number, its shards, the merger and the commits
(R206 to R208; O44). -/
namespace Sys2Proof.Machine

/-! The sequencer (R206). -/

/-- What the sequencer does to a logical store leaves its name and its shards. -/
theorem of_sequence {l l1 : LStore} {o : LOp} {kind : LKind} (given : sequence l o = .ok (l1, kind)) (ctx node res : Nat) :
    l1.of ctx node res = l.of ctx node res := by
  unfold sequence at given
  split at given
  · split at given
    · cases given
    split at given <;> cases given
    rfl
  · split at given <;> cases given
    rfl
  · cases given
    rfl

/-- The residents that an operation of a logical store goes to: an insertion stays at its entry shard (R206). -/
def LStore.goesTo (l : LStore) (x : Site) : LKind → List Nat
  | .ins _ _ => [x.res]
  | _ => l.shards

/-- Changes of cells, one after another, leave every engine. -/
theorem SameEng.foldl_modCell {α : Type} (s : State) (l : List α) (x : α → Site) (g : α → Cell → Cell) :
    SameEng s (l.foldl (fun t a => t.modCell (x a) (g a)) s) :=
  homeFrame.foldl (fun (t : State) a => t.modCell (x a) (g a)) (fun _ _ => of_dies rfl) l s

/-- An operation of a logical store that has changed, found by its number. -/
theorem find_lop_modLop {s : State} {die id : Nat} {o : LOp} (f : LOp → LOp) (named : ∀ o, (f o).id = o.id)
    (found : (s.die die).eng.lops.find? (fun o => o.id == id) = some o) :
    ((s.modLop die id f).die die).eng.lops.find? (fun o => o.id == id) = some (f o) := by
  rw [State.modLop, die_modDie_same]
  exact (find?_lmap (fun o : LOp => o.id == id) f (fun o own => by rw [named]; exact own) _).trans (congrArg _ found)

/-- A logical store that has changed, found by a shard's record. -/
theorem lstore_modLstore {s : State} {x : Site} {ctx node : Nat} {l : LStore} (f : LStore → LStore)
    (named : ∀ l, l.of ctx node x.res = true → (f l).of ctx node x.res = true) (found : s.lstore x ctx node = some l) :
    (s.modLstore x ctx node f).lstore x ctx node = some (f l) := by
  rw [State.lstore, State.modLstore, die_modDie_same]
  exact (find?_lmap (fun l : LStore => l.of ctx node x.res) f named _).trans (congrArg _ found)

/-- An operation whose turn it is gets the store's order number and goes to its shards, and the store counts on (R206). -/
theorem storeOpSequence_next {die k : Nat} {s : State} {o : LOp} {l l1 : LStore} {kind : LKind}
    (queued : (s.die die).eng.lops[k]? = some o) (store : s.lstore o.x o.ctx o.node = some l) (home : o.x.die = die) (fresh : o.on = none)
    (first : ∀ p ∈ (s.die die).eng.lops.take k, p.on = none → ¬ (p.x = o.x ∧ p.ctx = o.ctx ∧ p.node = o.node))
    (given : sequence l o = .ok (l1, kind)) :
    ∃ t p, exec (.storeOpSequence die k) s = .next t ∧ (t.die die).eng.lops.find? (fun p => p.id == o.id) = some p ∧
      p.on = some l.on ∧ p.kind = kind ∧ p.todo = l.goesTo o.x kind ∧
      t.lstore o.x o.ctx o.node = some { l1 with on := (l.on + 1) % 2 ^ 32 } := by
  have early : ((s.die die).eng.lops.take k).any (fun p => p.on.isNone && p.x == o.x && p.ctx == o.ctx && p.node == o.node) = false := by
    simpa [and_assoc] using first
  have named : l1.of o.ctx o.node o.x.res = true := (of_sequence given ..).trans (List.find?_some store :)
  obtain ⟨p, found⟩ : ∃ p, (s.die die).eng.lops.find? (fun p => p.id == o.id) = some p :=
    Option.isSome_iff_exists.mp (List.find?_isSome.mpr ⟨o, List.mem_of_getElem? queued, beq_self_eq_true _⟩)
  have runs : exec (.storeOpSequence die k) s = execStoreOpSequence die k s := rfl
  unfold execStoreOpSequence at runs
  simp only [queued, store, fresh, early, given, Option.isSome_none, Bool.or_false, Bool.false_eq_true, if_false] at runs
  subst home
  refine ⟨_, { p with on := some l.on, kind := kind, todo := l.goesTo o.x kind }, runs, ?_, rfl, rfl, rfl, ?_⟩
  · rw [SameEng.foldl_modCell]
    exact find_lop_modLop (fun q : LOp => { q with on := some l.on, kind := kind, todo := l.goesTo o.x kind }) (fun _ => rfl)
      (by rw [State.modLstore, die_modDie_same]; exact found)
  · rw [State.lstore, SameEng.foldl_modCell, State.modLop, die_modDie_same]
    exact lstore_modLstore (fun _ => { l1 with on := (l.on + 1) % 2 ^ 32 }) (fun _ _ => named) store

/-! The store of a shard, as it stands and as an operation finds it. -/

/-- The key stores of every cell are as they were. -/
def SameStores (s t : State) : Prop := ∀ x, (t.cell x).stores = (s.cell x).stores

namespace SameStores
variable {s t u : State}

theorem refl (s : State) : SameStores s s := fun _ => rfl

theorem trans (h : SameStores s t) (k : SameStores t u) : SameStores s u := fun x => (k x).trans (h x)

theorem of_cells (h : t.cells = s.cells) : SameStores s t := fun x => by rw [State.cell, State.cell, h]

/-- Finding the homes of bytes leaves every key store. -/
theorem homeFrame : HomeFrame SameStores where
  refl := refl
  trans := trans
  modMem _ _ := of_cells rfl
  setByte s a b := by unfold State.setByte; split <;> exact of_cells rfl
  setPoison _ _ _ := of_cells rfl
  freeVal _ := of_cells rfl
  tile s x g y := by
    by_cases own : siteKey y = siteKey x
    · rw [cell_of_siteKey _ own, cell_of_siteKey s own, cell_modCell_same]
    · rw [cell_modCell_ne s own]
  sampler _ _ _ := of_cells rfl
  wakes _ _ _ := of_cells rfl

theorem store (h : SameStores s t) (x : Site) (ctx node : Nat) : (t.cell x).store ctx node = (s.cell x).store ctx node := by
  rw [Cell.store, Cell.store, h]

end SameStores

/-- An operation finds a shard's store as it stands in its cell. -/
theorem store_of_viewOf {s : State} {x : Site} {ctx node : Nat} {v : View} (seen : s.viewOf x ctx node = some v) :
    (s.cell x).store ctx node = some v.k := by
  unfold State.viewOf at seen
  dsimp only at seen
  split at seen
  case h_1 k _ _ found _ =>
    cases seen
    exact found
  case h_2 => cases seen

/-- Reading the entries of a store from its region leaves what else an operation sees of it. -/
theorem view_of_region {s s1 : State} {x : Site} {ctx : Nat} {v v1 : View} (read : s.region x ctx v = (.ok v1, s1)) : v1.k = v.k := by
  unfold State.region at read
  split at read
  · cases read; rfl
  · split at read <;> cases read
    rfl
  · split at read
    · cases read
    dsimp only at read
    split at read <;> cases read
    rfl

/-- What leaves the key stores of a cell and what memory holds. -/
structure StoreKept (s t : State) (x : Site) : Prop where
  stores : (t.cell x).stores = (s.cell x).stores
  bytes : ∀ a, t.byte a = s.byte a

namespace StoreKept
variable {s t u : State} {x : Site}

theorem refl (s : State) (x : Site) : StoreKept s s x := ⟨rfl, fun _ => rfl⟩

theorem trans (h : StoreKept s t x) (k : StoreKept t u x) : StoreKept s u x :=
  ⟨k.stores.trans h.stores, fun a => (k.bytes a).trans (h.bytes a)⟩

/-- A change of a die. -/
theorem modDie (s : State) (x : Site) (d : Nat) (f : Die → Die) : StoreKept s (s.modDie d f) x := ⟨rfl, fun _ => rfl⟩

/-- A firing that keeps what it need not change. -/
theorem of_kept {f : Firing} (h : Kept s t f) (x : Site) : StoreKept s t x where
  stores := by
    by_cases own : siteKey x = siteKey f.x
    · rw [cell_of_siteKey t own, cell_of_siteKey s own, h.stores]
    · rw [h.cells x own]
  bytes := h.byte

/-- A shard that has performed its part, with the result that may go after it (R206). -/
theorem shardDone (s : State) (die : Nat) (y x : Site) (id cnt : Nat) (value : LOp → Nat) :
    StoreKept s (s.shardDone die y id cnt value) x := by
  unfold State.shardDone
  extract_lets s1
  have counted : StoreKept s s1 x := modDie ..
  split
  · split
    · exact counted.trans ((modDie ..).trans (of_kept (depart_spec _ _ _ _).1 x))
    · exact counted
  · exact counted

end StoreKept

/-- The store of a cell that has changed. -/
theorem store_commitStore {s : State} {x : Site} {v : View} {k : KStore} {new : List KEnt} {w : List (List Spot × List Byte)}
    {g : KStore → KStore} (named : Renumbers g) (found : (s.cell x).store v.k.ctx v.k.node = some k) :
    ((s.commitStore x v new w g).cell x).store v.k.ctx v.k.node = some (KStore.changed v new g k) := by
  rw [cell_commitStore, store_modStore (g := KStore.changed v new g) (fun k => named _), found]
  rfl

/-- A change of a shard's store whose places are found is made, with FLIVE counted, and `k` follows (R204). -/
theorem setEnts_planned {s s1 : State} {x : Site} {v : View} {new : List KEnt} {w : List (List Spot × List Byte)}
    (planned : s.plan x v.k.ctx v new = (.ok w, s1)) (g : KStore → KStore) (k : State → State) :
    s.setEnts x v new g k = k ((s1.commitStore x v new w g).flive x v.k.ctx v.k.node v.ents new) := by
  rw [State.setEnts, planned]

/-! A shard's turn (R206 to R208). -/

/-- The store of a shard that has made a change, and taken its operation from its queue, whatever goes from its cell after it. -/
theorem shardTakes_changed {s : State} {x : Site} {v : View} {k : KStore} {new : List KEnt} {w : List (List Spot × List Byte)}
    {g : KStore → KStore} (named : Renumbers g) (found : (s.cell x).store v.k.ctx v.k.node = some k) (id cnt : Nat) (value : LOp → Nat) :
    let t := (((s.commitStore x v new w g).flive x v.k.ctx v.k.node v.ents new).shardTakes x v).shardDone x.die x id cnt value
    (t.cell x).store v.k.ctx v.k.node =
        some { KStore.changed v new g k with queue := (KStore.changed v new g k).queue.drop 1 } ∧
      ∀ a, t.byte a = (w.foldl (fun u p => u.writeSpots p.1 p.2) s).byte a := by
  intro t
  have kept := StoreKept.shardDone (((s.commitStore x v new w g).flive x v.k.ctx v.k.node v.ents new).shardTakes x v) x.die x x id cnt
    value
  refine ⟨?_, kept.bytes⟩
  rw [Cell.store, kept.stores, State.shardTakes, cell_modCell_same]
  exact (store_modStore (g := fun k => { k with queue := k.queue.drop 1 }) (fun _ => ⟨rfl, rfl⟩)).trans
    (congrArg _ (store_commitStore named found))

/-- A shard that holds nothing, whose turn it is, performs the first of its operations, its entries read (R206). -/
theorem shardPerform_next {x : Site} {s s1 : State} {k : KStore} {o : LOp} {e : ShardOp} {rest : List ShardOp} {v v1 : View}
    (held : ∀ j ∈ (s.cell x).stores, j.hold = none) (moving : s.swapping x = false)
    (first : (s.cell x).stores.find? (fun k => !k.queue.isEmpty && s.worksOn k.ctx) = some k) (queue : k.queue = e :: rest)
    (stored : (s.cell x).store k.ctx k.node = some k) (op : (s.die x.die).eng.lops.find? (fun o => o.id == e.op) = some o)
    (seen : s.viewOf x k.ctx k.node = some v) (read : s.region x k.ctx v = (.ok v1, s1)) :
    exec (.shardPerform x) s = .next (s1.shardStep x v1 o) ∧ v1.k = k ∧ (s1.cell x).store k.ctx k.node = some k := by
  have own : v.k = k := Option.some.inj ((store_of_viewOf seen).symm.trans stored)
  have free : (s.cell x).stores.any (fun k => k.hold.isSome) = false := by simpa using held
  have kept := SameStores.homeFrame.region s x k.ctx v
  rw [read] at kept
  refine ⟨?_, (view_of_region read).trans own, (kept.store x _ _).trans stored⟩
  rw [show exec (.shardPerform x) s = execShardPerform x s from rfl, execShardPerform]
  simp [free, moving, first, queue, op, seen, State.shardRegion, own, read]

/-- What a shard's turn leaves: its store with the entries `new` and the numbers that `g` gives it, and the bytes of the change. -/
theorem shardPerform_changes {x : Site} {s s1 s2 : State} {k : KStore} {o : LOp} {e : ShardOp} {rest : List ShardOp} {v1 : View}
    {new : List KEnt} {w : List (List Spot × List Byte)} {g : KStore → KStore} {n cnt : Nat} {value : LOp → Nat}
    (turn : exec (.shardPerform x) s = .next (s1.shardStep x v1 o) ∧ v1.k = k ∧ (s1.cell x).store k.ctx k.node = some k)
    (queue : k.queue = e :: rest) (named : Renumbers g) (number : ∀ j, j.g = k.g → (g j).g = n)
    (rest_ : ∀ j, (g j).ents = j.ents ∧ (g j).queue = j.queue)
    (step : s1.shardStep x v1 o = s1.setEnts x v1 new g (fun t => (t.shardTakes x v1).shardDone x.die x o.id cnt value))
    (planned : s1.plan x k.ctx v1 new = (.ok w, s2)) :
    ∃ t u, exec (.shardPerform x) s = .next t ∧ (t.cell x).store k.ctx k.node = some u ∧
      u.ents = (if v1.c.res = .frame then new else []) ∧ u.g = n ∧ u.queue = rest ∧
      ∀ b, t.byte b = (w.foldl (fun u p => u.writeSpots p.1 p.2) s2).byte b := by
  obtain ⟨runs, rfl, stored⟩ := turn
  have kept := SameStores.homeFrame.plan s1 x v1.k.ctx v1 new
  rw [planned] at kept
  obtain ⟨store, bytes⟩ := shardTakes_changed (new := new) (w := w) named ((kept.store x _ _).trans stored) o.id cnt value
  rw [step, setEnts_planned planned] at runs
  refine ⟨_, _, runs, store, (rest_ _).1, number _ rfl, ?_, bytes⟩
  rw [show (KStore.changed v1 new g v1.k).queue = v1.k.queue from (rest_ _).2, queue]
  rfl

/-! The merger (R207). -/

/-- Setting POISON of a query's token leaves no other flag, whatever its operands. -/
theorem setFlag_newTok (f : Firing) (h : Hdr) (poison : Bool) :
    (newTok f h (usedBy f h) none .z32 false 0).setFlag .poison poison = queryTok f h poison := by
  rw [queryTok, newTok_eq, newTok_eq, Tok.setFlag]
  unfold usedBy
  cases poison <;> cases anyPoison (f.first h.arity) <;> simp [Flag.bit]

/-- Ranks that fit their level can all be pushed, so a merged query sends what R144 names. -/
theorem matchSends_fits {tl : BitVec 96} {f : Firing} {h : Hdr} {poison : Bool} {ws : List (KEnt × Nat)}
    (fits : ws ≠ [] → f.ent.depth < nlev tl ∧ ws.length - 1 < 2 ^ lvlWidth tl (f.ent.depth + 1)) :
    matchSends tl f h poison ws = some (querySends tl f h poison ws) := by
  unfold matchSends
  rw [setFlag_newTok]
  by_cases none_ : ws = []
  · subst none_
    cases poison <;> rfl
  · obtain ⟨depth, width⟩ := fits none_
    extract_lets base one l
    have sent : l = (ws.zipIdx.map (fun p => Send.tok h.t0 (winnerTok tl f h poison p))).map some := by
      rw [List.map_map]
      refine List.map_congr_left fun p hp => ?_
      have rank := List.snd_lt_of_mem_zipIdx hp
      have pushed : rankTag tl f p.2 = some (setLvl tl f.ent.tag (f.ent.depth + 1) p.2, f.ent.depth + 1) := by
        rw [rankTag, tagPush_eq, if_pos ⟨depth, by omega⟩]
      simp only [one, base, pushed, setFlag_winnerTok]
      rfl
    have all : l.any (fun o => o.isNone) = false := by simp [sent]
    have ids : l.filterMap id = ws.zipIdx.map (fun p => Send.tok h.t0 (winnerTok tl f h poison p)) := by
      rw [sent, List.filterMap_map]
      exact List.filterMap_some
    rw [if_neg (by simpa using none_), if_neg (by simp [all]), ids, querySends, if_neg none_]
    rfl

/-- Weights are given to as many winners as there are (R141). -/
theorem weighted_length (c : KmCtl) (fmt : Ty) (win : List Cand) : (weighted c fmt win).length = win.length := by
  unfold weighted weightsOf
  cases c.wmode <;> simp

/-- A query that has merged and ends, or waits for its commits, leaves what is on its way out of a cell. -/
theorem leaving_ended (s : State) (die : Nat) (o : LOp) (f : LOp → LOp) (x : Site) :
    (if o.commit.isEmpty then (s.modLop die o.id f).dropLop die o.id else s.modLop die o.id f).leaving x = s.leaving x := by
  split <;> rfl

/-- A query that every shard has answered, and that nothing refuses, sends its winners from the entry shard (R207). -/
theorem lensMerge_leaves {die k : Nat} {s : State} {o : LOp} {c : KmCtl} {fmt : Ty} {reg : W32} {q : List Nat} {poison : Bool} {h : Hdr}
    {km : KmCtl} {toks : List Tok} (queued : (s.die die).eng.lops[k]? = some o) (query : o.kind = .query c fmt reg q poison)
    (numbered : o.on.isSome = true) (answered : o.todo = []) (unmerged : o.merged = false) (latch : s.latched (siteUnit o.x) < 4)
    (record : (s.cell o.x).kmatchAt o.ctx o.node = some (h, km)) (at_ : o.f.x = o.x)
    (fits : winners fmt c (o.cands.map (fun e => (e.2.1, e.2.2))) ≠ [] → o.f.ent.depth < nlev (s.ctx o.ctx).tl ∧
      (winners fmt c (o.cands.map (fun e => (e.2.1, e.2.2)))).length - 1 < 2 ^ lvlWidth (s.ctx o.ctx).tl (o.f.ent.depth + 1))
    (sent : sendList (s.ctx o.ctx).tl o.x (querySends (s.ctx o.ctx).tl o.f h poison
      (weighted c fmt (winners fmt c (o.cands.map (fun e => (e.2.1, e.2.2)))))) = some toks)
    (exits : s.exitExcess o.f (toks.filter Tok.isExit).length = false) :
    ∃ t, exec (.lensMerge die k) s = .next t ∧ Leave s t o.x toks := by
  have sends := matchSends_fits (tl := (s.ctx o.ctx).tl) (f := o.f) (h := h) (poison := poison)
    (ws := weighted c fmt (winners fmt c (o.cands.map (fun e => (e.2.1, e.2.2))))) fun some_ => by
      rw [weighted_length]
      exact fits fun none_ => some_ (List.length_eq_zero_iff.mp (by rw [weighted_length, none_]; rfl))
  have listed := (congrArg (Option.bind · (sendList (s.ctx o.ctx).tl o.x)) sends).trans sent
  refine ⟨s.merged die o c fmt poison, ?_, ?_⟩
  · rw [show exec (.lensMerge die k) s = execLensMerge die k s from rfl, execLensMerge]
    simp [queued, query, answered, unmerged, Option.isNone_eq_false_iff.mpr numbered, nLatches, Nat.not_le.mpr latch]
  · unfold State.merged
    unfold weighted at listed
    simp only [record, listed, exits, Bool.false_eq_true, if_false]
    rw [← at_]
    exact (leaving_ended ..).trans (leaving_departEach ..)

/-! A shard's commit (R208). -/

/-- A store that no longer awaits a commit. -/
def KStore.freed (k : KStore) : KStore := { k with hold := none }

/-- The entries of the shard at a site after the commit of a merged query: its winners lose one LIFE (R208). -/
def LOp.leaves (o : LOp) (x : Site) (l : List KEnt) : List KEnt :=
  deliverLife ((o.cands.filter (fun e => e.1 == x.res)).map (fun e => e.2.2.seq)) l

/-- What follows a commit's change: the shard's store is freed, and the operation ends with its last commit. -/
def State.committed (s : State) (x : Site) (k : KStore) (o : LOp) : State :=
  let s1 := (s.modCell x (fun c => c.modStore k.ctx k.node KStore.freed)).modLop x.die o.id
    (fun o => { o with commit := o.commit.filter (fun r => r != x.res) })
  if o.commit.all (fun r => r == x.res) then s1.dropLop x.die o.id else s1

/-- A commit changes the key stores of its cell by freeing one, and no byte. -/
theorem storeKept_committed (s : State) (x : Site) (k : KStore) (o : LOp) :
    StoreKept (s.modCell x (fun c => c.modStore k.ctx k.node KStore.freed)) (s.committed x k o) x := by
  unfold State.committed
  dsimp only
  split <;> exact ⟨rfl, fun _ => rfl⟩

/-- The commit of a merged query reaches the shard that holds for it: its winners lose one LIFE, and it holds no more (R208). -/
theorem shardCommit_frees {x : Site} {s s1 s2 : State} {k : KStore} {o : LOp} {v v1 : View} {w : List (List Spot × List Byte)}
    (holds : (s.cell x).stores.find? (fun k => k.hold.isSome) = some k) (stored : (s.cell x).store k.ctx k.node = some k)
    (op : (s.die x.die).eng.lops.find? (fun o => k.hold == some o.id) = some o) (merged : o.merged = true)
    (seen : s.viewOf x k.ctx k.node = some v) (read : s.region x k.ctx v = (.ok v1, s1))
    (planned : s1.plan x k.ctx v1 (o.leaves x v1.ents) = (.ok w, s2)) :
    ∃ t u, exec (.shardCommit x) s = .next t ∧ (t.cell x).store k.ctx k.node = some u ∧ u.hold = none ∧
      u.ents = (if v1.c.res = .frame then o.leaves x v1.ents else []) ∧
      ∀ b, t.byte b = (w.foldl (fun u p => u.writeSpots p.1 p.2) s2).byte b := by
  obtain rfl : v1.k = k := (view_of_region read).trans (Option.some.inj ((store_of_viewOf seen).symm.trans stored))
  have kept1 := SameStores.homeFrame.region s x v1.k.ctx v
  have kept2 := SameStores.homeFrame.plan s1 x v1.k.ctx v1 (o.leaves x v1.ents)
  rw [read] at kept1
  rw [planned] at kept2
  have made := store_commitStore (new := o.leaves x v1.ents) (w := w) (g := id) (fun _ => ⟨rfl, rfl⟩)
    (((kept1.trans kept2).store x _ _).trans stored)
  have kept := storeKept_committed
    ((s2.commitStore x v1 (o.leaves x v1.ents) w id).flive x v1.k.ctx v1.k.node v1.ents (o.leaves x v1.ents)) x v1.k o
  have runs : exec (.shardCommit x) s = .next
      (((s2.commitStore x v1 (o.leaves x v1.ents) w id).flive x v1.k.ctx v1.k.node v1.ents (o.leaves x v1.ents)).committed x v1.k o) := by
    rw [show exec (.shardCommit x) s = execShardCommit x s from rfl, execShardCommit]
    simp only [holds, op, merged, Bool.not_true, Bool.false_eq_true, if_false, seen, read]
    exact congrArg _ (setEnts_planned planned id _)
  refine ⟨_, KStore.freed (KStore.changed v1 (o.leaves x v1.ents) id v1.k), runs, ?_, rfl, rfl, kept.bytes⟩
  rw [Cell.store, kept.stores, cell_modCell_same]
  exact (store_modStore (g := KStore.freed) (fun _ => ⟨rfl, rfl⟩)).trans (congrArg _ made)

/-- The steps of an operation of a logical store: by cases, the sequencer, a shard, the merger and a commit. -/
theorem logicalStoreSteps : Claims.LogicalStoreSteps := by
  refine ⟨?_, ?_, ?_, ?_⟩
  · intro die k s o l queued store home fresh first goes
    have next {l1 : LStore} {kind : LKind} (given : sequence l o = .ok (l1, kind)) : goes l1 kind (l.goesTo o.x kind) :=
      storeOpSequence_next queued store home fresh first given
    refine ⟨fun c e ins seq gen => next ?_, fun b n del => next ?_, fun purge => next ?_, fun gen => next ?_, fun gen room => next ?_,
      fun n gen up => next ?_, fun c fmt reg q b query => next ?_⟩
    · have lives : (decide (c.expg ≠ 0) && decide (l.g + c.expg ≥ 2 ^ 32 - 1)) = false := by
        simpa [or_iff_not_imp_left] using gen
      simp only [sequence, ins, if_neg (Nat.not_le.mpr seq), lives, Bool.false_eq_true, if_false]
    · rw [sequence, del]
    · rw [sequence, purge]
    · rw [sequence, gen]; rfl
    · rw [sequence, gen, genAdv, if_neg room]; rfl
    · have set : genSet l.g n = some n := if_neg (Nat.not_lt.mpr up)
      rw [sequence, gen]
      simp only [OfNat.ofNat_ne_zero, OfNat.ofNat_ne_one, if_false, set]
    · rw [sequence, query]
  · intro x s s1 k o e rest v v1 held moving first queue stored op seen read holds
    have turn := shardPerform_next held moving first queue stored op seen read
    refine ⟨fun b n del w s2 planned => ?_, fun purge w s2 planned => ?_, fun g gen w s2 planned => ?_⟩
    · exact shardPerform_changes turn queue (g := id) (fun _ => ⟨rfl, rfl⟩) (fun _ => id) (fun _ => ⟨rfl, rfl⟩)
        (by rw [State.shardStep, del]; rfl) planned
    · exact shardPerform_changes turn queue (g := id) (fun _ => ⟨rfl, rfl⟩) (fun _ => id) (fun _ => ⟨rfl, rfl⟩)
        (by rw [State.shardStep, purge]) planned
    · exact shardPerform_changes turn queue (g := fun k => { k with g := g }) (fun _ => ⟨rfl, rfl⟩) (fun _ _ => rfl) (fun _ => ⟨rfl, rfl⟩)
        (by rw [State.shardStep, gen]; rfl) planned
  · intro die k s o c fmt reg q poison h km toks queued query numbered answered unmerged latch record tl win fits sent at_ exits
    exact lensMerge_leaves queued query numbered answered unmerged latch record at_ fits sent exits
  · intro x s s1 s2 k o v v1 w holds stored op merged new seen read planned
    exact shardCommit_frees holds stored op merged seen read planned

/-- Settles O44: an entry shard's operation queues at its store's home (`queues_of_issued`), the sequencer numbers it
(`storeOpSequence_next`), its shards change their stores in turn (`shardPerform_changes`), the merger sends a query's winners
(`lensMerge_leaves`) and its commits free the shards (`shardCommit_frees`). -/
theorem logicalStores : Obligations.LogicalStores := ⟨logicalStoreOperationsQueue, logicalStoreSteps⟩

end Sys2Proof.Machine
end

section
/-! What a debug write of MT bytes does where memory is not in its canonical form (R391, R393; O60). A byte that memory lists twice loses
its first listing when it is written with what it reads as unlisted, and then reads as its second. -/
namespace Sys2Proof.Machine

/-- A state whose memory lists the first byte of the first pair's MT twice, as one: not in the canonical form. -/
def twiceListed : State := { State.reset with mem := [(mtBase placeSite, 1), (mtBase placeSite, 1)] }

/-- A DEBUG_WRITE of one zero byte at the start of the first pair's MT, by the host's own tenant. -/
def writeZero : DebugReq := { tenant := 0, w0 := 0x40000000, w1 := 0x10000000, w2 := 0, w3 := 1, data := [0] }

/-- The byte at `a` after an outcome. -/
def byteAfter (a : Nat) : Host.Outcome State Fault Refusal → Option Byte
  | .next t => some (t.byte a)
  | _ => none

/-- Refutes O60: its clause on a DEBUG_WRITE of MT bytes does not ask that memory be in its canonical form (`State.memWf`, the invariant of
O28). In `twiceListed` the write of a zero completes, and the byte written still reads one. -/
theorem not_eventsComplete : ¬ Obligations.EventsComplete := by
  intro claim
  obtain ⟨-, -, host⟩ := claim
  obtain ⟨-, -, -, writes, -⟩ := host twiceListed 0 rfl
  obtain ⟨t, runs, written⟩ := writes writeZero placeSite (by decide) (by decide) (by decide) (by decide +kernel) rfl rfl (by decide)
    (by decide) (by decide +kernel)
  have zero : t.byte (mtBase placeSite) = 0 := by simpa [writeZero] using written (mtBase placeSite)
  have one : byteAfter (mtBase placeSite) (exec (.debugWrite writeZero) twiceListed) = some 1 := by decide +kernel
  rw [runs, byteAfter, zero] at one
  exact absurd one (by decide)

end Sys2Proof.Machine
end

section
/-! What reset leaves (R221, R341; O27). -/
namespace Sys2Proof.Machine

/-- After reset every cell is the default one, for none is listed. -/
theorem reset_cell (x : Site) : State.reset.cell x = {} := rfl

/-- After reset every context is the default one, which is FREE. -/
theorem reset_ctx (c : Nat) : State.reset.ctx c = {} := rfl

/-- After reset every die is the default one, whose HERD registers hold the values of R221. -/
theorem reset_die (d : Nat) : State.reset.die d = {} := rfl

/-- After reset a byte of this module reads 0: none is listed, and no range is lost. -/
theorem reset_byte {a : Nat} (own : isRemote a = false) : State.reset.byte a = 0 := by
  rw [State.byte, if_neg (by rw [own]; exact Bool.false_ne_true)]
  rfl

/-- Settles O27: memory by `reset_memWf` and `reset_byte`, each context, die and cell by the default it holds. -/
theorem resetState : Obligations.ResetState := by
  refine ⟨reset_memWf, fun _ => reset_byte, fun c => ?_, fun d => ?_, fun x => ?_, rfl, rfl, rfl, rfl, rfl⟩
  · rw [reset_ctx]
    exact ⟨rfl, rfl, rfl⟩
  · rw [reset_die]
    exact ⟨rfl, rfl, rfl, rfl, rfl, rfl, rfl, rfl, rfl, rfl⟩
  · rw [reset_cell]
    exact ⟨rfl, rfl, rfl⟩

end Sys2Proof.Machine
end

section
/-! Swap instants, the advance of the map version, and pins (R212 to R220; O17). -/
namespace Sys2Proof.Machine

/-! Swap instants (R212, R214, R218). -/

/-- The die unit's queue holds the instants of a die, for the records of its swaps would find it full (R352). -/
def State.instantHeld (s : State) (die : Nat) : Bool :=
  let l := (s.die die).loupe
  l.waits unitDie || (l.held unitDie ≥ unitRoom unitDie && s.tens.any (fun t => (s.ten t.1).lossless && s.traced t.1 0x60))

/-- The couples that the next instant of a die exchanges (R214 to R216, R218). -/
def State.instantCouples (s : State) (die : Nat) : List Couple :=
  let d := s.die die
  if d.flushing || s.instantHeld die || !d.herd.en then [] else (candidates (d.herd.inst % 4)).filterMap (s.swapping? die d.herd.inst)

/-- A die that flushes, or whose swaps are off, exchanges no couple. -/
theorem instantCouples_nil {s : State} {die : Nat} (none_ : (s.die die).flushing = true ∨ (s.die die).herd.en = false) :
    s.instantCouples die = [] := by
  unfold State.instantCouples
  rcases none_ with flushes | off
  · simp [flushes]
  · simp [off]

/-- A die with a flush under way is flushing (R218). -/
theorem flushing_of_fls {d : Die} (some_ : d.net.fls ≠ []) : d.flushing = true := by
  simp [Die.flushing, some_]

/-- A die once a swap instant has begun its exchanges (R214, R218, R221): its HERD registers move on. -/
def State.dieAfterInstant (s : State) (die exLen : Nat) (d : Die) : Die :=
  let h := (s.die die).herd
  let cs := s.instantCouples die
  { d with
    net := if cs.isEmpty then d.net else d.net.moves cs
    herd := { d.herd with
      inst := h.inst + 1, nextAt := h.nextAt + 4000 * h.period, busy := cs, done := s.cycle + Nat.min 900 exLen, len := Nat.min 900 exLen
      phase := h.inst % 4, skips := if (s.die die).flushing then satAdd 48 h.skips 1 else h.skips } }

/-- A swap instant that is due exchanges its couples and moves the HERD registers of its die on (R214 to R218). -/
theorem swapInstant_next {s : State} {die : Nat} (exLen : Nat) (due : (s.die die).herd.nextAt ≤ (s.die die).loupe.time)
    (idle : (s.die die).herd.busy = []) (on : (s.die die).power.on = true) :
    ∃ t, exec (.swapInstant die exLen) s = .next t ∧ t.die die = s.dieAfterInstant die exLen
      (((s.instantCouples die).foldl (fun u c => u.beginSwap die (s.die die).herd.inst c) s).die die) := by
  have starts : ¬ (decide ((s.die die).loupe.time < (s.die die).herd.nextAt) || !(s.die die).herd.busy.isEmpty ||
      !(s.die die).power.on) = true := by
    simp [due, idle, on]
  exact ⟨_, (show exec (.swapInstant die exLen) s = execSwapInstant die exLen s from rfl).trans (if_neg starts), die_modDie_same ..⟩

/-- A swap instant that is due is counted and sets the next one; with swaps off, or a flush undelivered, it exchanges no couple, and in the
latter case counts as skipped (R214, R218, R221). -/
theorem swapInstant_spec {s : State} {die exLen : Nat} (due : (s.die die).herd.nextAt ≤ (s.die die).loupe.time)
    (idle : (s.die die).herd.busy = []) (on : (s.die die).power.on = true) :
    let h := (s.die die).herd
    ∃ t, exec (.swapInstant die exLen) s = .next t ∧ (t.die die).herd.inst = h.inst + 1 ∧
      (t.die die).herd.nextAt = h.nextAt + 4000 * h.period ∧
      (h.en = false → (t.die die).herd.busy = [] ∧ (t.die die).moved = (s.die die).moved) ∧
      ((s.die die).net.fls ≠ [] → (t.die die).herd.busy = [] ∧ (t.die die).herd.skips = satAdd 48 h.skips 1) := by
  obtain ⟨t, runs, made⟩ := swapInstant_next exLen due idle on
  refine ⟨t, runs, ?_⟩
  rw [made]
  refine ⟨rfl, rfl, fun off => ?_, fun some_ => ?_⟩
  · have none_ := instantCouples_nil (.inr off)
    exact ⟨none_, by rw [none_]; rfl⟩
  · have flushes := flushing_of_fls some_
    exact ⟨instantCouples_nil (.inl flushes), if_pos flushes⟩

/-! The advance of the map version (R218, R222). -/

/-- All that changes of a die is its Loupe. -/
def LoupeOnly (d e : Die) : Prop := ∃ l, e = { d with loupe := l }

theorem LoupeOnly.refl (d : Die) : LoupeOnly d d := ⟨d.loupe, rfl⟩

theorem LoupeOnly.trans {c d e : Die} (h : LoupeOnly c d) (k : LoupeOnly d e) : LoupeOnly c e := by
  obtain ⟨l, rfl⟩ := h
  obtain ⟨m, rfl⟩ := k
  exact ⟨m, rfl⟩

/-- A record of a die's unit changes the Loupe of that die alone (R348). -/
theorem loupeOnly_trace (s : State) (die u : Nat) (e : Event) : LoupeOnly (s.die die) ((s.trace die u e).die die) := by
  rcases trace_spec s die u e with none_ | ⟨l, made⟩
  · rw [none_]
    exact .refl _
  · rw [made, die_modDie_same]
    exact ⟨l, rfl⟩

/-- Steps that each change the Loupe of a die alone, taken in turn, do so together. -/
theorem loupeOnly_foldl {α : Type} {die : Nat} {g : State → α → State} (each : ∀ u a, LoupeOnly (u.die die) ((g u a).die die))
    (l : List α) (s : State) : LoupeOnly (s.die die) ((l.foldl g s).die die) :=
  List.foldlRecOn l g (motive := fun u => LoupeOnly (s.die die) (u.die die)) (.refl _) fun u sofar a _ => sofar.trans (each u a)

/-- The records of a swap change the Loupe of its die alone (R222). -/
theorem loupeOnly_traceSwap (s : State) (die ver : Nat) (c : Couple) : LoupeOnly (s.die die) ((s.traceSwap die ver c).die die) :=
  loupeOnly_foldl (fun _ _ => loupeOnly_trace ..) _ s

/-- The map version advances once the exchanges are complete: they count as swaps, and the routers' sent sets stand (R218, R221). -/
theorem mapVersionAdvance_advances {s : State} {die : Nat} (small : die < 4) (busy : (s.die die).herd.busy ≠ [])
    (done : (s.die die).herd.done ≤ s.cycle) :
    ∃ t, exec (.mapVersionAdvance die) s = .next t ∧ (t.die die).herd.mapver = ((s.die die).herd.mapver + 1) % 2 ^ 32 ∧
      (t.die die).herd.busy = [] ∧ (t.die die).net.sent = (s.die die).net.sent ∧
      (t.die die).herd.swaps = satAdd 48 (s.die die).herd.swaps (s.die die).herd.busy.length := by
  have own : die % 4 = die := Nat.mod_eq_of_lt small
  have ready : ¬ ((s.die die).herd.busy.isEmpty || decide (s.cycle < (s.die die).herd.done)) = true := by
    simp [busy, done]
  have runs : exec (.mapVersionAdvance die) s = execMapVersionAdvance die s := rfl
  rw [execMapVersionAdvance] at runs
  simp only [own, if_neg (Nat.not_le.mpr small), if_neg ready] at runs
  refine ⟨_, runs, ?_⟩
  obtain ⟨l, traced⟩ := loupeOnly_foldl (fun _ _ => loupeOnly_traceSwap _ die (((s.die die).herd.mapver + 1) % 2 ^ 32) _)
    (s.die die).herd.busy s
  rw [die_modDie_same, traced]
  exact ⟨rfl, rfl, rfl, rfl⟩

/-! A router installs the map version (R218). -/

/-- What the flush of a resident has put on a die's mesh: it is undelivered, and its three packets go to the old position (R218). -/
def FlushSent (n : Net) (r res : Nat) (old : Nat × Nat) : Prop :=
  (r, res) ∈ n.fls ∧ ∀ cls ∈ [0, 1, 3], ∃ p ∈ n.mesh, p.cls = cls ∧ p.body = .flush r res ∧ p.res = res ∧ (p.dcol, p.drow) = old

/-- The packet of a flush on a class of the mesh (R218). -/
def State.flushPacket (s : State) (die r res : Nat) (old : Nat × Nat) (cls : Nat) : Packet :=
  ⟨cls, r % 128, r / 128, die, old.1, old.2, res, r, false, s.cycle + 4, .flush r res, none⟩

/-- A flush enters the mesh of its die on CTRL, MEMRSP and TOKEN, and is undelivered (R218). -/
theorem net_sendFlush (s : State) (die r res : Nat) (old : Nat × Nat) : ((s.sendFlush die r res old).die die).net =
    { (s.die die).net with
      mesh := (s.die die).net.mesh ++ [0, 1, 3].map (s.flushPacket die r res old), fls := (r, res) :: (s.die die).net.fls } := by
  unfold State.sendFlush
  rw [die_modCell, die_modDie_same]
  rfl

/-- Another flush leaves the sent sets, the installed routers, and every flush sent before it. -/
theorem sendFlush_net (s : State) (die r res : Nat) (old : Nat × Nat) :
    let n := (s.die die).net
    let m := ((s.sendFlush die r res old).die die).net
    m.sent = n.sent ∧ FlushSent m r res old ∧ ∀ q k at_, FlushSent n q k at_ → FlushSent m q k at_ := by
  rw [net_sendFlush]
  refine ⟨rfl, ⟨List.mem_cons_self .., fun cls known => ?_⟩, fun q k at_ sent => ?_⟩
  · exact ⟨_, List.mem_append_right _ (List.mem_map_of_mem known), rfl, rfl, rfl, rfl⟩
  · obtain ⟨pending, packets⟩ := sent
    refine ⟨List.mem_cons_of_mem _ pending, fun cls known => ?_⟩
    obtain ⟨p, there, same⟩ := packets cls known
    exact ⟨p, List.mem_append_left _ there, same⟩

/-- The flushes that a router sends in turn leave the sent sets, and none takes another back. -/
theorem sendFlushes_net (die r : Nat) (moved : List (Nat × (Nat × Nat))) (s : State) :
    let n := (s.die die).net
    let m := ((moved.foldl (fun t e => t.sendFlush die r e.1 e.2) s).die die).net
    m.sent = n.sent ∧ (∀ e ∈ moved, FlushSent m r e.1 e.2) ∧ ∀ q k at_, FlushSent n q k at_ → FlushSent m q k at_ := by
  induction moved generalizing s with
  | nil => exact ⟨rfl, fun _ none_ => absurd none_ List.not_mem_nil, fun _ _ _ => id⟩
  | cons e rest ih =>
    obtain ⟨sent1, flushed, kept1⟩ := sendFlush_net s die r e.1 e.2
    obtain ⟨sent2, each, kept2⟩ := ih (s.sendFlush die r e.1 e.2)
    exact ⟨sent2.trans sent1, List.forall_mem_cons.mpr ⟨kept2 _ _ _ flushed, each⟩, fun q k at_ sent => kept2 q k at_ (kept1 q k at_ sent)⟩

/-- A router that installs a version is among the installed ones, has flushed every moved resident in its sent set, and has cleared
that set (R218). -/
theorem installMap_net (s : State) (die r : Nat) :
    let n := (s.die die).net
    let m := ((s.installMap die r).die die).net
    r ∈ m.inst ∧ m.sent = n.sent.filter (fun e => e.1 != r) ∧ ∀ e ∈ n.prev, (r, e.1) ∈ n.sent → FlushSent m r e.1 e.2 := by
  obtain ⟨sent, flushed, -⟩ := sendFlushes_net die r ((s.die die).net.prev.filter (fun e => (s.die die).net.sent.contains (r, e.1))) s
  unfold State.installMap
  rw [die_modDie_same]
  exact ⟨List.mem_cons_self .., by rw [sent], fun e moved member =>
    flushed e (List.mem_filter.mpr ⟨moved, List.contains_iff_mem.mpr member⟩)⟩

/-- The router that a map version reaches installs it (R218). -/
theorem mapVersionAdvance_installs {s : State} {die r : Nat} (small : die < 4) (idle : (s.die die).herd.busy = [])
    (advanced : (s.die die).net.prev ≠ []) (fresh : r ∉ (s.die die).net.inst) :
    exec (.mapVersionAdvance (die + 4 * (r + 1))) s = .next (s.installMap die r) := by
  have own : (die + 4 * (r + 1)) % 4 = die := by omega
  have router : (die + 4 * (r + 1)) / 4 - 1 = r := by omega
  have installs : die + 4 * (r + 1) ≥ 4 := by omega
  rw [show exec (.mapVersionAdvance (die + 4 * (r + 1))) s = execMapVersionAdvance (die + 4 * (r + 1)) s from rfl, execMapVersionAdvance]
  simp [own, router, installs, idle, advanced, fresh]

/-! Pins (R219, R220). -/

/-- S6 does not see a change of the pins. -/
theorem setPins_sendsAlike (s : State) (f : Firing) (g : List Pin → List Pin) :
    SendsAlike s (s.modCell f.x (fun c => c.setPins (g c.herd.pins))) f := by
  refine ⟨rfl, rfl, rfl, ?_, ?_, ?_, ?_⟩ <;> rw [cell_modCell_same] <;> rfl

/-- The tokens of a pin instruction (R220): A, on each target. -/
def pinToks (s : State) (f : Firing) (h : Hdr) : List Tok :=
  onTargets (s.ctx f.ent.ctx).tl f.x [h.t0, h.t1] (fwdTok f h (usedBy f h) (f.op 0) false)

/-- The state in which a firing of a pin instruction has issued and changed its pins. -/
def State.repinned (s : State) (f : Firing) (h : Hdr) (g : List Pin → List Pin) : State :=
  (State.issued { s with cur := none } f (pinOut f h) (pinToks s f h)).modCell f.x (fun c => c.setPins (g c.herd.pins))

/-- What a firing of a pin instruction leaves: its pins as changed, and its tokens on their way; a new pin's firing (`fresh`) that has no
token still leaves S6, empty, for the pin counts from then on (R219). -/
structure PinSent (s t : State) (f : Firing) (h : Hdr) (g : List Pin → List Pin) (fresh : Prop) : Prop where
  pins : (t.cell f.x).herd.pins = g (s.cell f.x).herd.pins
  emits : pinToks s f h ≠ [] ∨ ¬ fresh → Emits s t f 1 0 (portsOf h) (pinToks s f h)
  silent : pinToks s f h = [] → fresh → (t.cell f.x).slots = ((s.consume f (portsOf h)).cell f.x).slots ∧
    (t.cell f.x).pipe.deps = (s.cell f.x).pipe.deps ++ [⟨f.ent.ctx, f.ent.uid, f.ent.node, s.cycle + 6, f.ent.ord, 0, false, []⟩]

section
variable (s : State) (f : Firing) (h : Hdr) (g : List Pin → List Pin)

/-- The pins of a firing that has issued and changed them are those its resident had, changed. -/
theorem pins_repinned : ((s.repinned f h g).cell f.x).herd.pins = g (s.cell f.x).herd.pins := by
  have kept := (issued_spec { s with cur := none } f (pinOut f h) (pinToks s f h)).kept.herd
  rw [State.repinned, cell_modCell_same]
  exact congrArg (fun q : HerdSt => g q.pins) kept

/-- The tokens of a firing that has changed its pins leave as those of any firing do. -/
theorem emits_repinned : Emits s ((s.repinned f h g).depart f 1 (pinToks s f h)) f 1 0 (portsOf h) (pinToks s f h) :=
  (emits_depart_of_sendsAlike (o := pinOut f h) (pinToks s f h) rfl (setPins_sendsAlike ..)).of_cur

/-- A departure leaves the pins. -/
theorem pins_depart (t : State) (n : Nat) (toks : List Tok) : ((t.depart f n toks).cell f.x).herd.pins = (t.cell f.x).herd.pins :=
  congrArg HerdSt.pins (depart_spec t f n toks).1.herd

/-- A firing that changes a pin its context has sends A. -/
theorem pinSent_depart : PinSent s ((s.repinned f h g).depart f 1 (pinToks s f h)) f h g False :=
  ⟨(pins_depart ..).trans (pins_repinned ..), fun _ => emits_repinned .., fun _ => False.elim⟩

/-- A firing that makes a pin sends A, or leaves S6 without a token. -/
theorem pinSent_departPin : PinSent s ((s.repinned f h g).departPin f (pinToks s f h)) f h g True := by
  unfold State.departPin
  split
  case isTrue some_ =>
    exact ⟨(pins_depart ..).trans (pins_repinned ..), fun _ => emits_repinned .., fun none_ => by simp [none_] at some_⟩
  case isFalse none_ =>
    have issued := issued_spec { s with cur := none } f (pinOut f h) (pinToks s f h)
    obtain ⟨b, pipe, -⟩ := issued.pipe
    have alike := setPins_sendsAlike (State.issued { s with cur := none } f (pinOut f h) (pinToks s f h)) f g
    refine ⟨?_, fun given => ?_, fun _ _ => ⟨?_, ?_⟩⟩
    · rw [cell_modCell_same]
      exact pins_repinned ..
    · exact absurd given (by simpa using none_)
    · rw [cell_modCell_same, ← cell_consume_cur s f none]
      exact alike.slots.trans issued.slots
    · rw [cell_modCell_same]
      have deps : ((s.repinned f h g).cell f.x).pipe.deps = (s.cell f.x).pipe.deps := 
        (congrArg Pipe.deps alike.pipe).trans (congrArg Pipe.deps pipe :)
      have cycle : (s.repinned f h g).cycle = s.cycle := issued.kept.time.1
      rw [deps, cycle]

end

section
variable {h : Hdr} {s : State} {f : Firing}

/-- The pin of a context. -/
def State.pinOf (s : State) (f : Firing) : Option Pin := (s.cell f.x).herd.pins.find? (fun p => p.ctx == f.ent.ctx)

/-- HPIN of a context whose pin is at its limit is refused (R220). -/
theorem hpin_full {p : Pin} (cur : s.cur = some f) (mine : s.pinOf f = some p) (limit : p.count = 65535) :
    exec (.hpin h) s = .next (State.refuse { s with cur := none } f .herdPin 0 0) := by
  refine exec_firing (show exec (.hpin h) s = execHpin h s from rfl) cur ?_
  have found : (State.cell { s with cur := none } f.x).herd.pins.find? (fun p => p.ctx == f.ent.ctx) = some p := mine
  simp only [found, limit, if_true]

/-- HPIN of a context without a pin, where eight contexts have one, is refused (R220). -/
theorem hpin_noRoom (cur : s.cur = some f) (mine : s.pinOf f = none) (eight : 8 ≤ (s.cell f.x).herd.pins.length) :
    exec (.hpin h) s = .next (State.refuse { s with cur := none } f .herdPin 0 0) := by
  refine exec_firing (show exec (.hpin h) s = execHpin h s from rfl) cur ?_
  have found : (State.cell { s with cur := none } f.x).herd.pins.find? (fun p => p.ctx == f.ent.ctx) = none := mine
  simp only [found]
  exact if_pos eight

/-- HPIN of a context with a pin below its limit counts it up (R220). -/
theorem hpin_counts {p : Pin} (clear : Clear s f [h.t0, h.t1] f.tagOf 0 0) (mine : s.pinOf f = some p) (below : p.count ≠ 65535) :
    ∃ t, exec (.hpin h) s = .next t ∧
      PinSent s t f h (lmap (fun q => q.ctx == f.ent.ctx) (fun q => { q with count := q.count + 1 })) False := by
  refine ⟨_, exec_firing (show exec (.hpin h) s = execHpin h s from rfl) clear.cur ?_, pinSent_depart ..⟩
  have found : (State.cell { s with cur := none } f.x).herd.pins.find? (fun p => p.ctx == f.ent.ctx) = some p := mine
  simp only [found, if_neg below]
  exact issue_pin clear _

/-- HPIN of a context without a pin, where there is room, makes one (R220). -/
theorem hpin_makes (clear : Clear s f [h.t0, h.t1] f.tagOf 0 0) (mine : s.pinOf f = none) (room : (s.cell f.x).herd.pins.length < 8) :
    ∃ t, exec (.hpin h) s = .next t ∧ PinSent s t f h (fun l => l ++ [⟨f.ent.ctx, 1, f.ent.ord, false⟩]) True := by
  refine ⟨_, exec_firing (show exec (.hpin h) s = execHpin h s from rfl) clear.cur ?_, pinSent_departPin ..⟩
  have found : (State.cell { s with cur := none } f.x).herd.pins.find? (fun p => p.ctx == f.ent.ctx) = none := mine
  simp only [found]
  exact (if_neg (Nat.not_le_of_lt room)).trans (issue_pin clear _)

/-- Whether a context has a pin, as HUNPIN asks it. -/
theorem pins_any (s : State) (f : Firing) : (s.cell f.x).herd.pins.any (fun p => p.ctx == f.ent.ctx) = (s.pinOf f).isSome :=
  List.isSome_find?.symm

/-- HUNPIN of a context without a pin is refused (R220). -/
theorem hunpin_none (cur : s.cur = some f) (mine : s.pinOf f = none) :
    exec (.hunpin h) s = .next (State.refuse { s with cur := none } f .herdPin 0 0) :=
  exec_firing (show exec (.hunpin h) s = execHunpin h s from rfl) cur
    (if_pos (by rw [pins_any, show State.pinOf { s with cur := none } f = none from mine]; rfl))

/-- HUNPIN of a context with a pin counts it down, and frees it at 0 (R220). -/
theorem hunpin_counts (clear : Clear s f [h.t0, h.t1] f.tagOf 0 0) (mine : s.pinOf f ≠ none) :
    ∃ t, exec (.hunpin h) s = .next t ∧ PinSent s t f h (fun l =>
      (l.map (fun q => if q.ctx = f.ent.ctx then { q with count := q.count - 1 } else q)).filter (fun q => 0 < q.count)) False := by
  obtain ⟨p, found⟩ := Option.ne_none_iff_exists'.mp mine
  refine ⟨_, exec_firing (show exec (.hunpin h) s = execHunpin h s from rfl) clear.cur ?_, pinSent_depart ..⟩
  exact (if_neg (by rw [pins_any, show State.pinOf { s with cur := none } f = some p from found]; exact Bool.false_ne_true)).trans
    (issue_pin clear _)

end

/-- Settles O17: a swap instant by `swapInstant_spec`, the map version by `mapVersionAdvance_advances`, its installation by
`installMap_net`, and the pins by what HPIN and HUNPIN do in each case. -/
theorem herdPlacement : Obligations.HerdPlacement := by
  refine ⟨fun die exLen s due idle on => swapInstant_spec due idle on,
    fun die s small busy done => mapVersionAdvance_advances small busy done,
    fun die r s small idle advanced fresh => ?_, fun h s f cur => ?_⟩
  · obtain ⟨installed, sent, flushed⟩ := installMap_net s die r
    exact ⟨_, mapVersionAdvance_installs small idle advanced fresh, installed, sent, flushed⟩
  · refine ⟨fun p mine => hpin_full cur mine, fun mine => hpin_noRoom cur mine, fun p mine below _ clear => ?_, fun mine room _ clear => ?_,
      fun mine => hunpin_none cur mine, fun mine _ clear => ?_⟩
    · obtain ⟨t, runs, pins, emits, silent⟩ := hpin_counts clear mine below
      exact ⟨t, runs, pins, emits, silent⟩
    · obtain ⟨t, runs, pins, emits, silent⟩ := hpin_makes clear mine room
      exact ⟨t, runs, pins, emits, silent⟩
    · obtain ⟨t, runs, pins, emits, silent⟩ := hunpin_counts clear mine
      exact ⟨t, runs, pins, emits, silent⟩

end Sys2Proof.Machine
end

section
/-! What a store does where memory is not in its canonical form (R228, R231, R232; O7, O39). As in `twiceListed`, a byte that memory lists
twice loses its first listing when it is written with what it reads as unlisted, and then reads as its second. -/
namespace Sys2Proof.Machine

/-- A store of one zero byte to address 0 of a space, on its way from the first pair, with no answer to give. -/
def zeroStore (space : Space) : Access :=
  { id := 1, x := placeSite, ctx := 0, uid := none, hdr := 0, node := 0, pos := 0, opc := 0x201, tag := 0, depth := 0, kind := .store,
    region := none, wpred := .none, wsucc := .none, scope := .module, acq := false, rel := false, vec := false, fmt := .z8, store := true,
    space := space, die := 0, mtr := 0, addr := 0, size := 1, ew := 1, elw := 8, policy := 0, arg := 0, desc := {}, b := {}, c := {},
    st := .sent, poison := false, outs := [] }

/-- The state in which that store stands first at its port, and memory lists the byte it writes twice, as one. -/
def storedTwice (space : Space) (home : Nat) : State :=
  { State.reset with
    mem := [(home, 1), (home, 1)]
    cells := [(siteKey placeSite, { nodeq := [[1]] })]
    msys := { accs := [zeroStore space] } }

theorem zeroStore_going (space : Space) (home : Nat) : (zeroStore space).Going (storedTwice space home) := ⟨rfl, rfl, rfl⟩

/-- The store writes one byte, a zero. -/
theorem zeroStore_puts (space : Space) : (zeroStore space).puts = [some 0] := by
  cases space <;> decide +kernel

/-- The first byte of a list that has been written reads as the list says. -/
theorem Writes.first {s t : State} {a : Nat} {v : Byte} {l : List (Option Byte)} (h : Writes s t a (some v :: l)) : t.byte a = v := by
  have written := h a
  rw [if_pos (Nat.le_refl a), Nat.sub_self] at written
  exact written

/-- Once the store of a space has performed, its byte does not read zero. -/
def ReadsOne (space : Space) (home : Nat) : Prop :=
  byteAfter home (exec (.accessPerform 1 0 []) (storedTwice space home)) = some 1

/-- No state in which the store has written its byte is the one in which the byte reads one. -/
theorem not_writes_of_readsOne {space : Space} {home : Nat} (one : ReadsOne space home) {t : State}
    (runs : exec (.accessPerform 1 0 []) (storedTwice space home) = .next t) :
    ¬ Writes (storedTwice space home) t home (zeroStore space).puts := by
  intro written
  rw [zeroStore_puts] at written
  rw [ReadsOne, runs, byteAfter, written.first] at one
  exact absurd one (by decide)

/-- Refutes O7: it does not ask that memory be in its canonical form (`State.memWf`, the invariant of O28). In `storedTwice` a store of a
zero to SDM performs, and the byte written still reads one. -/
theorem not_sdmAccessPerforms : ¬ Obligations.SdmAccessPerforms := by
  intro claim
  obtain ⟨stores, -, -⟩ := claim (storedTwice .sdm (sdmBase 0)) (zeroStore .sdm) 0 [] (zeroStore_going _ _) rfl rfl rfl (by decide +kernel)
  obtain ⟨t, runs, written, -, -⟩ := stores rfl
  have one : ReadsOne .sdm (sdmBase 0) := by unfold ReadsOne; decide +kernel
  exact not_writes_of_readsOne one runs written

/-- Refutes O39: its part on `mt` accesses does not ask that memory be in its canonical form (`State.memWf`, the invariant of O28). In
`storedTwice` a store of a zero to an operand store performs, and the byte written still reads one. -/
theorem not_mtAccessAndRegions : ¬ Obligations.MtAccessAndRegions := by
  rintro ⟨claim, -⟩
  obtain ⟨stores, -⟩ := claim (storedTwice .mt (mtBase placeSite)) (zeroStore .mt) 0 (mtBase placeSite) [] (zeroStore_going _ _) rfl
    (fun _ => nofun) (by decide +kernel) (by decide +kernel) (by decide +kernel) (by decide +kernel)
  obtain ⟨t, runs, written, -, -⟩ := stores rfl
  have one : ReadsOne .mt (mtBase placeSite) := by unfold ReadsOne; decide +kernel
  exact not_writes_of_readsOne one runs written

end Sys2Proof.Machine
end

section
/-! What finding the homes of bytes keeps of the form of memory (R225, R232 to R254; O28). A step keeps memory in its canonical form because
it writes bytes through `State.setByte` and loses them through `State.lose` alone, and each of these keeps the form; whatever else it
changes is no part of memory. So each operation of the model has one law below: from a state whose memory is in the form it makes another.
Its proof names the laws of the operations that it calls, in whatever branch. -/
namespace Sys2Proof.Machine

/-- The form of memory is not lost from `s` to `t`. -/
def KeepsForm (s t : State) : Prop := s.memWf = true → t.memWf = true

/-- What finding the homes of bytes changes at once leaves the form: a byte written keeps it (`setByte_memWf`), the rest is no memory. -/
theorem KeepsForm.homeFrame : HomeFrame KeepsForm where
  refl _ := id
  trans h k := k ∘ h
  modMem _ _ := id
  setByte s a b := setByte_memWf s a b
  setPoison _ _ _ := id
  freeVal _ := id
  tile _ _ _ := id
  sampler _ _ _ := id
  wakes _ _ _ := id

/-- What every step of a fold keeps in its form, the fold does. -/
theorem foldl_memWf {α : Type} {g : State → α → State} {l : List α} {s : State} (wf : s.memWf) (keeps : ∀ t a, t.memWf → (g t a).memWf) :
    (l.foldl g s).memWf := by
  induction l generalizing s with
  | nil => exact wf
  | cons a l ih => exact ih (keeps s a wf)

/-- A choice between two states of the form is of the form. -/
theorem ite_memWf {c : Prop} [Decidable c] {s t : State} (hs : s.memWf) (ht : t.memWf) : (if c then s else t).memWf := by
  split
  · exact hs
  · exact ht

/-- What a pair that has been found holds is of the form where the pair's state is. -/
theorem memWf_of_eq {α : Type} {r : α × State} {a : α} {t : State} (found : r = (a, t)) (wf : r.2.memWf) : t.memWf := by
  rw [found] at wf
  exact wf

variable {s : State} {x : Site} {write : Bool} {bs : List Byte} {e : Event} {c k o n policy tenant die place va u i pa idx col : Nat}

theorem setCell_memWf {c : Cell} (wf : s.memWf) : (s.setCell x c).memWf := wf

theorem modCell_memWf {f : Cell → Cell} (wf : s.memWf) : (s.modCell x f).memWf := wf

theorem setCtx_memWf {v : Ctx} (wf : s.memWf) : (s.setCtx c v).memWf := wf

theorem modCtx_memWf {f : Ctx → Ctx} (wf : s.memWf) : (s.modCtx c f).memWf := wf

theorem progress_memWf (wf : s.memWf) : (s.progress c).memWf := by
  unfold State.progress
  grind [!modCtx_memWf]

theorem setDie_memWf {d : Nat} {v : Die} (wf : s.memWf) : (s.setDie d v).memWf := wf

theorem modDie_memWf {d : Nat} {f : Die → Die} (wf : s.memWf) : (s.modDie d f).memWf := wf

theorem setPoison_memWf {a : Nat} (wf : s.memWf) : (s.setPoison a n).memWf := wf

theorem clearPoison_memWf {a : Nat} (wf : s.memWf) : (s.clearPoison a n).memWf := wf

theorem freeVal_memWf (wf : s.memWf) : s.freeVal.2.memWf := by
  unfold State.freeVal
  grind

theorem modMem_memWf {f : MemSys → MemSys} (wf : s.memWf) : (s.modMem f).memWf := wf

theorem touch_memWf (wf : s.memWf) : (s.touch pa policy).memWf := KeepsForm.homeFrame.touch _ _ _ wf

theorem touchWrite_memWf (wf : s.memWf) : (s.touchWrite pa policy).memWf := KeepsForm.homeFrame.touchWrite _ _ _ wf

theorem setRefcnt_memWf {v : Nat} (wf : s.memWf) : (s.setRefcnt pa v).memWf := by
  unfold State.setRefcnt
  grind [!setNum_memWf, !touchWrite_memWf]

theorem lookRange_memWf {useTlb : Bool} {left : Nat} {l : List Page} (wf : s.memWf) :
    (s.lookRange die place col tenant write useTlb left va n l).2.memWf :=
  KeepsForm.homeFrame.lookRange _ _ _ _ _ _ _ _ _ _ _ wf

theorem reachVa_memWf {ps : List Page} (wf : s.memWf) : (s.reachVa x ps va).memWf := KeepsForm.homeFrame.reachVa _ _ _ _ wf

theorem checkHandle_memWf {h : Nat} (wf : s.memWf) : (s.checkHandle x c h o n).2.memWf := KeepsForm.homeFrame.checkHandle _ _ _ _ _ _ wf

theorem mtAdvance_memWf (wf : s.memWf) : (s.mtAdvance x k n write).memWf := KeepsForm.homeFrame.mtAdvance _ _ _ _ _ wf

theorem wake_memWf (wf : s.memWf) : (s.wake x k).memWf := by
  unfold State.wake
  grind [!modCell_memWf]

theorem bankCheck_memWf {a : Nat} (wf : s.memWf) : (s.bankCheck x a n).2.memWf := KeepsForm.homeFrame.bankCheck _ _ _ _ wf

theorem sdmCheck_memWf {a : Nat} (wf : s.memWf) : (s.sdmCheck die a n).2.memWf := KeepsForm.homeFrame.sdmCheck _ _ _ _ wf

theorem remoteRefuses_memWf {pas : List Nat} (wf : s.memWf) : (s.remoteRefuses pas).2.memWf := by
  unfold State.remoteRefuses
  grind [!freeVal_memWf]

theorem virtRange_memWf (wf : s.memWf) : (s.virtRange x c va n write).2.memWf := KeepsForm.homeFrame.virtRange _ _ _ _ _ _ wf

theorem virtHome_memWf {ps : List Page} (wf : s.memWf) : (s.virtHome x ps va n write policy).2.memWf :=
  KeepsForm.homeFrame.virtHome _ _ _ _ _ _ _ wf

theorem tileSpots_memWf (wf : s.memWf) : (s.tileSpots place x k o n write).2.memWf := KeepsForm.homeFrame.tileSpots _ _ _ _ _ _ _ wf

theorem spotsAt_memWf {h : Nat} (wf : s.memWf) : (s.spotsAt place x c h o n write).2.memWf := by
  unfold State.spotsAt
  grind [!checkHandle_memWf, !virtRange_memWf, !virtHome_memWf, !sdmCheck_memWf, !tileSpots_memWf]

theorem spots_memWf {h : Nat} (wf : s.memWf) : (s.spots x c h o n write).2.memWf := KeepsForm.homeFrame.spots _ _ _ _ _ _ _ wf

theorem cellSpots_memWf {h : Nat} (wf : s.memWf) : (s.cellSpots x c h o n write).2.memWf := KeepsForm.homeFrame.cellSpots _ _ _ _ _ _ _ wf

theorem regsOf_memWf {s0 : State} (wf : s.memWf) : (s.regsOf s0 x).memWf := by
  unfold State.regsOf
  grind [!modCell_memWf]

theorem writeSpots_memWf {l : List Spot} (wf : s.memWf) : (s.writeSpots l bs).memWf := by
  induction l generalizing s bs with
  | nil => exact wf
  | cons p l ih =>
    cases bs with
    | nil => exact wf
    | cons b bs => exact ih (setByte_memWf s p.addr b wf)

theorem trace_memWf (wf : s.memWf) : (s.trace die u e).memWf := by
  unfold State.trace
  grind [!foldl_memWf, !modDie_memWf]

theorem traceCell_memWf (wf : s.memWf) : (s.traceCell x e).memWf := by
  unfold State.traceCell
  grind [!trace_memWf]

theorem tracePeri_memWf {kind : Nat} (wf : s.memWf) : (s.tracePeri die u kind idx e).memWf := by
  unfold State.tracePeri
  grind [!trace_memWf]

end Sys2Proof.Machine
end

section
/-! What the operations that all instructions share keep of the form of memory: notices and fault records, spilling, issuing, parking
(R96, R252, R345, R361 to R368; O28). -/
namespace Sys2Proof.Machine

variable {s s1 : State} {x : Site} {f : Firing} {t : Tok} {uid : Option Nat} {toks : List Tok} {code pri c o cls seq n res tenant arg die
    hdr off va pos depth unit ctx node : Nat}

theorem netSend_memWf {p : Nat × Nat} {ddie : Nat} {body : Body} (wf : s.memWf) : (s.netSend die p cls ddie res body).memWf := by
  unfold State.netSend
  grind [!modDie_memWf]

theorem sendTok_memWf {p : Nat × Nat} (wf : s.memWf) : (s.sendTok die p cls t).memWf := by
  unfold State.sendTok
  grind [!netSend_memWf]

theorem settle_memWf (wf : s.memWf) : (s.settle c).memWf := by
  unfold State.settle
  grind [!modCtx_memWf]

theorem ctxRead_memWf {h : Nat} (wf : s.memWf) : (s.ctxRead c h o n).2.memWf := by
  unfold State.ctxRead
  grind [!spots_memWf]

theorem ctxBound_memWf {h : Nat} (wf : s.memWf) : (s.ctxBound c h).2.memWf := by
  unfold State.ctxBound
  grind [!checkHandle_memWf]

theorem dropTlb_memWf (wf : s.memWf) : (s.dropTlb tenant va n).memWf := by
  unfold State.dropTlb
  grind [!modMem_memWf]

theorem takeFrame_memWf {size : Nat} (wf : s.memWf) : (s.takeFrame die tenant size).2.memWf := by
  unfold State.takeFrame
  grind [!touchWrite_memWf, !modDie_memWf]

theorem beginCow_memWf {e : Pte} {at_ : Nat} {init : Option Act} {after : Nat} (wf : s.memWf) :
    (s.beginCow die tenant ctx va e at_ init after).2.memWf := by
  unfold State.beginCow
  grind [!setNum_memWf, !touchWrite_memWf, !dropTlb_memWf, !takeFrame_memWf, !modMem_memWf, !tracePeri_memWf]

theorem waitPage_memWf {a : Act} (wf : s.memWf) : (s.waitPage die ctx va a).memWf := by
  unfold State.waitPage
  grind [!modMem_memWf]

theorem missFault_memWf {a : Act} {c : FCode} (wf : s.memWf) : (s.missFault die ctx va a c).memWf := by
  unfold State.missFault
  grind [!modMem_memWf]

theorem dropWaits_memWf {sent : Bool} (wf : s.memWf) : (s.dropWaits ctx sent).memWf := by
  unfold State.dropWaits
  grind [!modMem_memWf]

theorem missEnd_memWf {a : Act} (wf : s.memWf) : (s.missEnd a).memWf := by
  unfold State.missEnd
  grind [!modMem_memWf]

theorem ownBlocked_memWf {b : Block} (wf : s.memWf) : (s.ownBlocked c b).2.memWf := by
  unfold State.ownBlocked
  grind [!beginCow_memWf]

/-- An attempt to write leaves the form of memory, whatever it met. -/
def Put.Formed : Put → Prop
  | .done t | .fault t | .wait t => t.memWf
  | .full => True

theorem putBlocked_formed {b : Block} (wf : s.memWf) : (s.putBlocked c b).Formed := by
  unfold State.putBlocked
  grind [!ownBlocked_memWf, Put.Formed]

theorem notify_memWf {r : FRec} (wf : s.memWf) : (s.notify r seq).memWf := by
  unfold State.notify
  grind [!sendTok_memWf]

theorem putRecord_formed {r : FRec} {what : Resume} (wf : s.memWf) : (s.putRecord r what).Formed := by
  unfold State.putRecord
  dsimp only
  split
  · exact putBlocked_formed wf
  split
  · exact putBlocked_formed wf
  split
  · exact trivial
  split
  · exact putBlocked_formed wf
  split
  · exact putBlocked_formed wf
  · grind [!ctxBound_memWf, !ctxRead_memWf, !spots_memWf, !writeSpots_memWf, !modCtx_memWf, !trace_memWf, !notify_memWf, Put.Formed]

theorem takeFault_memWf {r : FRec} {what : Resume} (wf : s.memWf) : (s.takeFault unit r what).memWf := by
  unfold State.takeFault
  grind [!modCtx_memWf, !putRecord_formed, !settle_memWf, Put.Formed]

theorem refuse_memWf {code : FCode} {eng : Nat} (wf : s.memWf) : (s.refuse f code arg eng).memWf := by
  unfold State.refuse
  grind [!modMem_memWf, !takeFault_memWf, !modCell_memWf]

theorem forget_memWf {uid : Nat} (wf : s.memWf) : (s.forget x uid).memWf := by
  unfold State.forget
  grind [!modMem_memWf]

theorem dropAbandoned_memWf (wf : s.memWf) : s.dropAbandoned.memWf := by
  unfold State.dropAbandoned
  grind

theorem reap_memWf {uid : Nat} (wf : s.memWf) : (s.reap x uid).memWf := by
  unfold State.reap
  grind [!modCell_memWf, !forget_memWf]

theorem forceRetire_memWf {uid : Nat} (wf : s.memWf) : (s.forceRetire x uid).memWf := by
  unfold State.forceRetire
  grind [!modMem_memWf, !dropAbandoned_memWf, !foldl_memWf, !modCell_memWf, !reap_memWf]

theorem tryRetire_memWf {uid : Nat} (wf : s.memWf) : (s.tryRetire x uid).memWf := by
  unfold State.tryRetire
  grind [!forget_memWf, !reap_memWf, !modCell_memWf]

theorem countExit_memWf (wf : s.memWf) : (s.countExit x uid).memWf := by
  unfold State.countExit
  grind [!modCell_memWf]

theorem putSpill_formed {held : Bool} (wf : s.memWf) : (s.putSpill x hdr t held).Formed := by
  unfold State.putSpill
  grind [!ctxBound_memWf, !putBlocked_formed, !spots_memWf, !writeSpots_memWf, !modCtx_memWf, Put.Formed]

theorem traceSpill_memWf {at_ : Option FRec} (wf : s.memWf) : (s.traceSpill x t at_).memWf := by
  unfold State.traceSpill
  grind [!trace_memWf, !traceCell_memWf]

theorem spill_memWf {held : Bool} (wf : s.memWf) (e : s.spill x hdr t held = some s1) : s1.memWf := by
  unfold State.spill at e
  grind [!modCell_memWf, !modCtx_memWf, !takeFault_memWf, !putSpill_formed, !traceSpill_memWf, Put.Formed]

theorem spillWait_memWf (wf : s.memWf) : (s.spillWait x t).memWf := by
  unfold State.spillWait
  grind [!putSpill_formed, Put.Formed]

theorem unspill_memWf {ring : Nat} (wf : s.memWf) : (s.unspill c ring).memWf := by
  unfold State.unspill
  grind [!modCtx_memWf, !foldl_memWf, !spots_memWf, !writeSpots_memWf]

theorem spillEng_memWf {r : FRec} (wf : s.memWf) : (s.spillEng unit r x hdr t).2.memWf := by
  unfold State.spillEng
  grind [!modCtx_memWf, !takeFault_memWf, !putSpill_formed, !traceSpill_memWf, Put.Formed]

theorem drainEscape_memWf {l : List (Nat × Esc)} (wf : s.memWf) : (s.drainEscape c l).memWf := by
  induction l generalizing s with
  | nil => exact wf
  | cons e l ih =>
    unfold State.drainEscape
    grind [!putSpill_formed, !modCell_memWf, !traceSpill_memWf, !takeFault_memWf, Put.Formed]

theorem destInvalid_memWf (wf : s.memWf) : (s.destInvalid x t).memWf := by
  unfold State.destInvalid
  grind [!takeFault_memWf]

theorem setReady_memWf {uid : Nat} {tag : W64} (wf : s.memWf) : (s.setReady x uid node pos tag depth pri).memWf := by
  unfold State.setReady
  grind [!modCell_memWf]

theorem setAlone_memWf (wf : s.memWf) : (s.setAlone x ctx node t).memWf := by
  unfold State.setAlone
  grind [!modCell_memWf]

theorem consume_memWf {ports : List Nat} (wf : s.memWf) : (s.consume f ports).memWf := by
  unfold State.consume
  grind [!modCell_memWf]

theorem traceFire_memWf {opc : Nat} {used : List Tok} {made : List Tok} (wf : s.memWf) : (s.traceFire f opc used made).memWf := by
  unfold State.traceFire
  grind [!traceCell_memWf]

theorem raise_memWf {flags : Nat} (wf : s.memWf) : (s.raise c flags).memWf := by
  unfold State.raise
  grind [!modCtx_memWf]

theorem again_memWf (wf : s.memWf) : (s.again f).memWf := by
  unfold State.again
  grind [!foldl_memWf, !setReady_memWf]

theorem issued_memWf {o : Out} (wf : s.memWf) : (s.issued f o toks).memWf := by
  unfold State.issued
  grind [!consume_memWf, !raise_memWf, !traceFire_memWf, !modCell_memWf, !again_memWf, !progress_memWf]

theorem issue_memWf {o : Out} {k : State → List Tok → State} (wf : s.memWf) (keeps : ∀ (t : State) a, t.memWf → (k t a).memWf) :
    (s.issue f o k).memWf := by
  rcases issue_refusals s f o k with ⟨code, arg, -, refused⟩ | ⟨toks, performs⟩
  · rw [refused]
    exact refuse_memWf wf
  · rw [performs]
    exact keeps _ _ (issued_memWf wf)

theorem departAs_memWf {exits : Bool} {all : List Tok} (wf : s.memWf) : (s.departAs f n exits all).memWf := by
  unfold State.departAs
  grind [!modCell_memWf]

theorem depart_memWf {all : List Tok} (wf : s.memWf) : (s.depart f n all).memWf := by
  unfold State.depart
  grind [!departAs_memWf]

theorem fire_memWf {o : Out} (wf : s.memWf) : (s.fire f o).memWf := by
  unfold State.fire
  grind [!issue_memWf, !depart_memWf]

theorem fireWith_memWf {o : Out} {k : State → State} (wf : s.memWf) (keeps : ∀ (t : State), t.memWf → (k t).memWf) :
    (s.fireWith f o k).memWf := by
  unfold State.fireWith
  grind [!issue_memWf, !depart_memWf]

theorem tracePark_memWf (wf : s.memWf) : (s.tracePark f code off).memWf := by
  unfold State.tracePark
  grind [!traceCell_memWf]

theorem parkId_memWf (wf : s.memWf) : (s.parkId f).2.memWf := by
  unfold State.parkId
  grind [!modMem_memWf]

theorem park_memWf {ports : List Nat} {b : Block} (wf : s.memWf) : (s.park f ports b).memWf := by
  unfold State.park
  grind [!parkId_memWf, !consume_memWf, !traceFire_memWf, !tracePark_memWf, !takeFault_memWf, !waitPage_memWf, !beginCow_memWf]

/-- What the firing under way keeps in its form, its instruction does. -/
theorem firing_memWf {k : State → Firing → State} (wf : s.memWf) (keeps : ∀ (t : State) a, t.memWf → (k t a).memWf)
    (e : s.firing k = .next s1) : s1.memWf := by
  unfold State.firing at e
  split at e
  · cases e
  · cases e
    exact keeps _ _ wf

end Sys2Proof.Machine
end

section
/-! What fetching, matching and the flow instructions keep of the form of memory (R15 to R23, R100 to R112, R164 to R171; O28). -/
namespace Sys2Proof.Machine

variable {s s1 : State} {h : Hdr} {x : Site} {f : Firing} {l : Lit} {t : Tok} {b : Blk} {uid : Option Nat} {cnt pri k die pos depth id ctx
    level node : Nat}

theorem unready_memWf (wf : s.memWf) : (s.unready f).memWf := by
  unfold State.unready
  grind [!consume_memWf]

theorem startIssue_memWf (wf : s.memWf) : (s.startIssue x).2.memWf := by
  unfold State.startIssue
  grind [!unready_memWf, !modCell_memWf]

theorem startPacked_memWf {uid : Nat} (wf : s.memWf) : (s.startPacked x node uid).2.memWf := by
  unfold State.startPacked
  grind [!unready_memWf]

theorem startRefire_memWf (wf : s.memWf) : (s.startRefire id).2.memWf := by
  unfold State.startRefire
  grind

theorem dropHandle_memWf (wf : s.memWf) : (s.dropHandle k).memWf := by
  unfold State.dropHandle
  grind [!modMem_memWf]

theorem dropEntry_memWf (wf : s.memWf) : (s.dropEntry k).memWf := by
  unfold State.dropEntry
  grind [!modMem_memWf]

theorem nextAct_memWf (wf : s.memWf) : s.nextAct.2.memWf := by
  unfold State.nextAct
  grind

theorem newInst_memWf {base : Nat} {tag : W64} (wf : s.memWf) : (s.newInst x b base tag depth).memWf := by
  unfold State.newInst
  grind [!modCell_memWf, !foldl_memWf, !setReady_memWf]

theorem readyCheck_memWf {uid : Nat} (wf : s.memWf) : (s.readyCheck x b uid pos node pri).memWf := by
  unfold State.readyCheck
  grind [!setReady_memWf]

theorem fillSlot_memWf {e : DirEnt} (wf : s.memWf) : (s.fillSlot x e b pos t cnt).memWf := by
  unfold State.fillSlot
  grind [!modCell_memWf]

theorem matchTok_memWf {refill : Bool} (wf : s.memWf) (e : s.matchTok x b pos t refill = some s1) : s1.memWf := by
  unfold State.matchTok at e
  grind [→ spill_memWf, !setAlone_memWf, !fillSlot_memWf, !readyCheck_memWf, !newInst_memWf]

theorem bindReady_memWf (wf : s.memWf) : (s.bindReady x b pos t).memWf := by
  unfold State.bindReady
  grind [!foldl_memWf, !readyCheck_memWf]

theorem bindTok_memWf {refill : Bool} (wf : s.memWf) (e : s.bindTok x b pos t refill = some s1) : s1.memWf := by
  unfold State.bindTok at e
  grind [→ spill_memWf, !fillSlot_memWf, !bindReady_memWf, !setReady_memWf, !modCell_memWf]

theorem nullMiss_memWf (wf : s.memWf) : (s.nullMiss x).memWf := by
  unfold State.nullMiss
  grind [!modCell_memWf]

theorem nullTok_memWf (wf : s.memWf) : (s.nullTok x b t).memWf := by
  unfold State.nullTok
  grind [!forceRetire_memWf, !nullMiss_memWf]

theorem purgeTok_memWf (wf : s.memWf) : (s.purgeTok x b pos t).memWf := by
  unfold State.purgeTok
  grind [!modCell_memWf, !nullTok_memWf]

theorem streamTok_memWf {refill : Bool} (wf : s.memWf) (e : s.streamTok x b pos t refill = some s1) : s1.memWf := by
  unfold State.streamTok at e
  grind [→ spill_memWf, !foldl_memWf, !forceRetire_memWf, !setAlone_memWf]

theorem accept_memWf {refill : Bool} (wf : s.memWf) (e : s.accept x b pos t refill = some s1) : s1.memWf := by
  unfold State.accept at e
  grind [!purgeTok_memWf, !nullTok_memWf, → streamTok_memWf, → bindTok_memWf, → matchTok_memWf]

theorem spatArrive_memWf {k : Arrival} (wf : s.memWf) : (s.spatArrive x k).memWf := by
  unfold State.spatArrive
  grind [!modCell_memWf]

theorem modDual_memWf {f : Dual → Dual} (wf : s.memWf) : (s.modDual die k f).memWf := by
  unfold State.modDual
  grind [!modDie_memWf]

theorem mirror_memWf {src : Source} (wf : s.memWf) : (s.mirror x src t).memWf := by
  unfold State.mirror
  grind [!modCell_memWf, !modDual_memWf]

theorem arrive_memWf {k : Arrival} (wf : s.memWf) : (s.arrive x k).memWf := by
  have took (g : Cell → Cell) : (s.modCell x g).memWf := modCell_memWf wf
  unfold State.arrive
  dsimp only
  split
  · exact spatArrive_memWf wf
  split
  · exact wf
  split
  · exact wf
  split
  · exact wf
  split
  · exact took _
  split
  · exact modCell_memWf (took _)
  split
  · exact ite_memWf wf (destInvalid_memWf (took _))
  split
  · exact ite_memWf wf (modCell_memWf (took _))
  split
  · exact ite_memWf wf (destInvalid_memWf (took _))
  split
  · next accepted => exact mirror_memWf (accept_memWf (took _) accepted)
  · exact spillWait_memWf wf

theorem execTokenMatch_memWf (wf : s.memWf) (e : execTokenMatch x s = .next s1) : s1.memWf := by
  unfold execTokenMatch at e
  grind [!arrive_memWf]

theorem execBindingArrival_memWf (wf : s.memWf) (e : execBindingArrival x s = .next s1) : s1.memWf := by
  unfold execBindingArrival at e
  grind [!arrive_memWf]

theorem execPurgeArrival_memWf (wf : s.memWf) (e : execPurgeArrival x s = .next s1) : s1.memWf := by
  unfold execPurgeArrival at e
  grind [!arrive_memWf]

theorem execNullArrival_memWf (wf : s.memWf) (e : execNullArrival x s = .next s1) : s1.memWf := by
  unfold execNullArrival at e
  grind [!arrive_memWf]

theorem execStreamEndArrival_memWf (wf : s.memWf) (e : execStreamEndArrival x s = .next s1) : s1.memWf := by
  unfold execStreamEndArrival at e
  grind [!arrive_memWf]

theorem unheld_memWf {p : Spill} (wf : s.memWf) : (s.unheld p).memWf := by
  unfold State.unheld
  grind [!modCell_memWf]

theorem execSpillRefill_memWf (wf : s.memWf) (e : execSpillRefill x ctx s = .next s1) : s1.memWf := by
  unfold execSpillRefill at e
  grind [!drainEscape_memWf, !unspill_memWf, !unheld_memWf, !modCell_memWf, !destInvalid_memWf, !setAlone_memWf, → accept_memWf,
    !spillWait_memWf]

theorem execBlockFetch_memWf (wf : s.memWf) (e : execBlockFetch x ctx node s = .next s1) : s1.memWf := by
  unfold execBlockFetch at e
  grind [!modCell_memWf]

theorem execReadyAging_memWf (wf : s.memWf) (e : execReadyAging x s = .next s1) : s1.memWf := by
  unfold execReadyAging at e
  grind [!modCell_memWf]

theorem psnDrop_memWf {l : List Tok} (wf : s.memWf) : (s.psnDrop x l).memWf := by
  unfold State.psnDrop
  grind [!modCell_memWf]

theorem retire_memWf (wf : s.memWf) : (s.retire x uid).memWf := by
  unfold State.retire
  grind [!tryRetire_memWf]

theorem execExit_memWf (wf : s.memWf) (e : execExit h s = .next s1) : s1.memWf := by
  unfold execExit at e
  grind [→ firing_memWf, !issue_memWf, !psnDrop_memWf, !depart_memWf, !countExit_memWf, !retire_memWf]

theorem execNull_memWf (wf : s.memWf) (e : execNull h s = .next s1) : s1.memWf := by
  unfold execNull at e
  grind [→ firing_memWf, !fire_memWf]

theorem execSteer_memWf (wf : s.memWf) (e : execSteer h s = .next s1) : s1.memWf := by
  unfold execSteer at e
  grind [→ firing_memWf, !fire_memWf]

theorem execMerge_memWf (wf : s.memWf) (e : execMerge h s = .next s1) : s1.memWf := by
  unfold execMerge at e
  grind [→ firing_memWf, !fire_memWf]

theorem execMergeOrd_memWf (wf : s.memWf) (e : execMergeOrd h s = .next s1) : s1.memWf := by
  unfold execMergeOrd at e
  grind [→ firing_memWf, !fire_memWf]

theorem execMov_memWf (wf : s.memWf) (e : execMov h l s = .next s1) : s1.memWf := by
  unfold execMov at e
  grind [→ firing_memWf, !fire_memWf]

theorem execMov4_memWf {t2 : Target} {t3 : Target} (wf : s.memWf) (e : execMov4 h t2 t3 s = .next s1) : s1.memWf := by
  unfold execMov4 at e
  grind [→ firing_memWf, !fire_memWf]

theorem retag_memWf {r : Option (W64 × Nat)} (wf : s.memWf) : (s.retag f h r).memWf := by
  unfold State.retag
  grind [!refuse_memWf, !fire_memWf]

theorem execTagpush_memWf (wf : s.memWf) (e : execTagpush h l s = .next s1) : s1.memWf := by
  unfold execTagpush at e
  grind [→ firing_memWf, !retag_memWf]

theorem execTagpop_memWf (wf : s.memWf) (e : execTagpop h s = .next s1) : s1.memWf := by
  unfold execTagpop at e
  grind [→ firing_memWf, !retag_memWf]

theorem execTaginc_memWf (wf : s.memWf) (e : execTaginc h s = .next s1) : s1.memWf := by
  unfold execTaginc at e
  grind [→ firing_memWf, !retag_memWf]

theorem execTagset_memWf (wf : s.memWf) (e : execTagset h level s = .next s1) : s1.memWf := by
  unfold execTagset at e
  grind [→ firing_memWf, !retag_memWf]

theorem execTagget_memWf {sel : TagSel} (wf : s.memWf) (e : execTagget h sel level s = .next s1) : s1.memWf := by
  unfold execTagget at e
  grind [→ firing_memWf, !fire_memWf]

theorem execPurge_memWf (wf : s.memWf) (e : execPurge h s = .next s1) : s1.memWf := by
  unfold execPurge at e
  grind [→ firing_memWf, !fire_memWf]

end Sys2Proof.Machine
end

section
/-! What memory instructions and the memory system keep of the form of memory (R225 to R293; O28). -/
namespace Sys2Proof.Machine

variable {s s1 : State} {h : Hdr} {x : Site} {f : Firing} {t : Tok} {a : Access} {uid : Option Nat} {poison : Bool} {toks : List Tok} {q :
    NodeReq} {code c k el home o gib n policy die addr handle op off port va bank nlm1 pos id i ctx ord node pa : Nat}

theorem locHandle_memWf {h : Nat} (wf : s.memWf) : (s.locHandle x c h o n).2.memWf := by
  unfold State.locHandle
  grind [!checkHandle_memWf]

theorem place_memWf {q : Ask} (wf : s.memWf) : (s.place f q o).2.memWf := by
  unfold State.place
  grind [!locHandle_memWf]

theorem spendStore_memWf {q : Ask} (wf : s.memWf) : (s.spendStore f q).memWf := by
  unfold State.spendStore
  grind [!modCell_memWf]

theorem enterWave_memWf {q : Ask} {l : Loc} {outs : List Tok} {b : Nat} (wf : s.memWf) : (s.enterWave f q l outs b c).memWf := by
  unfold State.enterWave
  grind [!modMem_memWf, !spendStore_memWf]

theorem parkAsk_memWf {q : Ask} {b : Block} (wf : s.memWf) : (s.parkAsk f q b).memWf := by
  unfold State.parkAsk
  grind [!modMem_memWf, !spendStore_memWf, !park_memWf]

theorem answerAs_memWf {exits : Bool} (wf : s.memWf) : (s.answerAs x ctx uid node ord home exits toks).memWf := by
  unfold State.answerAs
  grind [!netSend_memWf]

theorem answer_memWf (wf : s.memWf) : (s.answer x ctx uid node ord home toks).memWf := by
  unfold State.answer
  grind [!answerAs_memWf]

theorem modSaved_memWf {uid : Nat} {f : DirEnt → DirEnt} (wf : s.memWf) : (s.modSaved x uid f).memWf := by
  unfold State.modSaved
  grind

theorem storeDone_memWf (wf : s.memWf) : (s.storeDone x uid pos).memWf := by
  unfold State.storeDone
  grind [!modCell_memWf, !retire_memWf, !modSaved_memWf]

theorem memory_memWf {q : Ask} {sends : List Send} {b : Nat} (wf : s.memWf) : (s.memory f q o sends b c).memWf := by
  unfold State.memory
  grind [!refuse_memWf, !place_memWf, !parkAsk_memWf, !issue_memWf, !enterWave_memWf]

theorem load_memWf {c : MemCtl} (wf : s.memWf) : (s.load f h c).memWf := by
  unfold State.load
  grind [!memory_memWf]

theorem store_memWf {c : MemCtl} (wf : s.memWf) : (s.store f h c).memWf := by
  unfold State.store
  grind [!refuse_memWf, !place_memWf, !parkAsk_memWf, !issue_memWf, !enterWave_memWf, !modMem_memWf, !answer_memWf, !storeDone_memWf,
    !memory_memWf]

theorem atomic_memWf {c : MemCtl} (wf : s.memWf) : (s.atomic f h c op).memWf := by
  unfold State.atomic
  grind [!memory_memWf]

theorem execLd_memWf {c : MemCtl} (wf : s.memWf) (e : execLd h c s = .next s1) : s1.memWf := by
  unfold execLd at e
  grind [→ firing_memWf, !load_memWf]

theorem execLdG_memWf {c : MemCtl} (wf : s.memWf) (e : execLdG h c s = .next s1) : s1.memWf := by
  unfold execLdG at e
  grind [→ firing_memWf, !load_memWf]

theorem execSt_memWf {c : MemCtl} (wf : s.memWf) (e : execSt h c s = .next s1) : s1.memWf := by
  unfold execSt at e
  grind [→ firing_memWf, !store_memWf]

theorem execStG_memWf {c : MemCtl} (wf : s.memWf) (e : execStG h c s = .next s1) : s1.memWf := by
  unfold execStG at e
  grind [→ firing_memWf, !store_memWf]

theorem memReq_memWf {c : MemCtl} {st : Bool} (wf : s.memWf) : (s.memReq f h c st).memWf := by
  unfold State.memReq
  grind [!refuse_memWf, !place_memWf, !parkAsk_memWf, !issue_memWf, !enterWave_memWf]

theorem execLdm_memWf {c : MemCtl} (wf : s.memWf) (e : execLdm h c s = .next s1) : s1.memWf := by
  unfold execLdm at e
  grind [→ firing_memWf, !memReq_memWf]

theorem execStm_memWf {c : MemCtl} (wf : s.memWf) (e : execStm h c s = .next s1) : s1.memWf := by
  unfold execStm at e
  grind [→ firing_memWf, !memReq_memWf]

theorem prefLine_memWf (wf : s.memWf) : (s.prefLine x c va policy).memWf := by
  unfold State.prefLine
  grind [!lookRange_memWf, !touch_memWf, !reachVa_memWf]

theorem prefLines_memWf {limit : Nat} {i' : Nat} (wf : s.memWf) : (s.prefLines x c policy limit i i').memWf := by
  induction i generalizing s i' with
  | zero => exact wf
  | succ i ih =>
    unfold State.prefLines
    grind [!prefLine_memWf]

theorem prefOut_memWf {k : State → State} (wf : s.memWf) (keeps : ∀ (t : State), t.memWf → (k t).memWf) : (s.prefOut f h k).memWf := by
  unfold State.prefOut
  grind [!fireWith_memWf]

theorem execPref_memWf (wf : s.memWf) (e : execPref h handle nlm1 s = .next s1) : s1.memWf := by
  unfold execPref at e
  grind [→ firing_memWf, !prefOut_memWf, !checkHandle_memWf, !prefLines_memWf]

theorem execPrefG_memWf (wf : s.memWf) (e : execPrefG h nlm1 s = .next s1) : s1.memWf := by
  unfold execPrefG at e
  grind [→ firing_memWf, !prefOut_memWf, !prefLines_memWf]

theorem execGtoh_memWf (wf : s.memWf) (e : execGtoh h handle s = .next s1) : s1.memWf := by
  unfold execGtoh at e
  grind [→ firing_memWf, !checkHandle_memWf, !park_memWf, !fire_memWf]

theorem execHtog_memWf (wf : s.memWf) (e : execHtog h handle s = .next s1) : s1.memWf := by
  unfold execHtog at e
  grind [→ firing_memWf, !checkHandle_memWf, !park_memWf, !fire_memWf]

theorem execAptest_memWf {test : Nat} (wf : s.memWf) (e : execAptest h test s = .next s1) : s1.memWf := by
  unfold execAptest at e
  grind [→ firing_memWf, !fire_memWf]

theorem execAadd_memWf {c : MemCtl} (wf : s.memWf) (e : execAadd h c s = .next s1) : s1.memWf := by
  unfold execAadd at e
  grind [→ firing_memWf, !atomic_memWf]

theorem execAfadd_memWf {c : MemCtl} (wf : s.memWf) (e : execAfadd h c s = .next s1) : s1.memWf := by
  unfold execAfadd at e
  grind [→ firing_memWf, !atomic_memWf]

theorem execAmin_memWf {c : MemCtl} (wf : s.memWf) (e : execAmin h c s = .next s1) : s1.memWf := by
  unfold execAmin at e
  grind [→ firing_memWf, !atomic_memWf]

theorem execAmax_memWf {c : MemCtl} (wf : s.memWf) (e : execAmax h c s = .next s1) : s1.memWf := by
  unfold execAmax at e
  grind [→ firing_memWf, !atomic_memWf]

theorem execAand_memWf {c : MemCtl} (wf : s.memWf) (e : execAand h c s = .next s1) : s1.memWf := by
  unfold execAand at e
  grind [→ firing_memWf, !atomic_memWf]

theorem execAor_memWf {c : MemCtl} (wf : s.memWf) (e : execAor h c s = .next s1) : s1.memWf := by
  unfold execAor at e
  grind [→ firing_memWf, !atomic_memWf]

theorem execAxor_memWf {c : MemCtl} (wf : s.memWf) (e : execAxor h c s = .next s1) : s1.memWf := by
  unfold execAxor at e
  grind [→ firing_memWf, !atomic_memWf]

theorem execAxchg_memWf {c : MemCtl} (wf : s.memWf) (e : execAxchg h c s = .next s1) : s1.memWf := by
  unfold execAxchg at e
  grind [→ firing_memWf, !atomic_memWf]

theorem execAcas_memWf {c : MemCtl} (wf : s.memWf) (e : execAcas h c s = .next s1) : s1.memWf := by
  unfold execAcas at e
  grind [→ firing_memWf, !atomic_memWf]

theorem execLdr_memWf {c : MemCtl} (wf : s.memWf) (e : execLdr h c s = .next s1) : s1.memWf := by
  unfold execLdr at e
  grind [→ firing_memWf, !memory_memWf]

theorem cmlsCheck_memWf {q : Ask} {l : List (Nat × Nat)} (wf : s.memWf) : (s.cmlsCheck f q l).2.memWf := by
  induction l generalizing s with
  | nil => exact wf
  | cons p l ih =>
    unfold State.cmlsCheck
    grind [!place_memWf]

theorem execCmls_memWf {c : MemCtl} (wf : s.memWf) (e : execCmls h c s = .next s1) : s1.memWf := by
  unfold execCmls at e
  grind [→ firing_memWf, !refuse_memWf, !cmlsCheck_memWf, !parkAsk_memWf, !issue_memWf, !enterWave_memWf, !modMem_memWf, !answer_memWf,
    !storeDone_memWf]

theorem execOrdtok_memWf {c : MemCtl} (wf : s.memWf) (e : execOrdtok h c s = .next s1) : s1.memWf := by
  unfold execOrdtok at e
  grind [→ firing_memWf, !issue_memWf, !enterWave_memWf]

theorem execFence_memWf {c : MemCtl} (wf : s.memWf) (e : execFence h c s = .next s1) : s1.memWf := by
  unfold execFence at e
  grind [→ firing_memWf, !issue_memWf, !enterWave_memWf]

theorem accSet_memWf {g : Access → Access} (wf : s.memWf) : (s.accSet id g).memWf := by
  unfold State.accSet
  grind [!modMem_memWf]

theorem accepted_memWf (wf : s.memWf) : (s.accepted a).memWf := by
  unfold State.accepted
  grind [!accSet_memWf, !answer_memWf, !storeDone_memWf]

theorem traceAcc_memWf (wf : s.memWf) : (s.traceAcc a code).memWf := by
  unfold State.traceAcc
  grind [!traceCell_memWf]

theorem accFault_memWf {code : FCode} (wf : s.memWf) : (s.accFault a code).memWf := by
  unfold State.accFault
  grind [!accSet_memWf, !traceAcc_memWf, !takeFault_memWf]

theorem accHeld_memWf {code : FCode} (wf : s.memWf) : (s.accHeld a code).memWf := by
  unfold State.accHeld
  grind [!accSet_memWf, !takeFault_memWf]

theorem lookAll_memWf {useTlb : Bool} {l : List (Nat × Nat)} {l' : List Page} (wf : s.memWf) : (s.lookAll a useTlb l l').2.memWf := by
  induction l generalizing s l' with
  | nil => exact wf
  | cons p l ih =>
    unfold State.lookAll
    grind [!lookRange_memWf]

theorem send_memWf {before : List Nat} {useTlb : Bool} (wf : s.memWf) : (s.send a before useTlb).memWf := by
  unfold State.send
  grind [!modMem_memWf, !accSet_memWf, !modCell_memWf, !answer_memWf, !accepted_memWf, !lookAll_memWf]

theorem accMigr_memWf (wf : s.memWf) : (s.accMigr a).memWf := by
  unfold State.accMigr
  grind [!accSet_memWf, !traceAcc_memWf]

theorem execPageWalk_memWf (wf : s.memWf) (e : execPageWalk id s = .next s1) : s1.memWf := by
  unfold execPageWalk at e
  grind [!lookAll_memWf, !accSet_memWf, !accepted_memWf, !accFault_memWf, !beginCow_memWf, !accMigr_memWf, !waitPage_memWf]

theorem releaseAct_memWf {a : Act} (wf : s.memWf) : (s.releaseAct a).memWf := by
  unfold State.releaseAct
  grind [!tracePark_memWf, !accSet_memWf, !traceAcc_memWf]

theorem releasePage_memWf {hit : PageWait → Bool} {last : Option PageWait} (wf : s.memWf) : (s.releasePage hit last).memWf := by
  unfold State.releasePage
  grind [!foldl_memWf, !releaseAct_memWf, !modMem_memWf]

theorem pteWritten_memWf (wf : s.memWf) : (s.pteWritten pa n).memWf := by
  unfold State.pteWritten
  grind [!releasePage_memWf]

theorem releaseLeft_memWf (wf : s.memWf) : s.releaseLeft.memWf := by
  unfold State.releaseLeft
  grind [!releasePage_memWf]

theorem execCowCopyDone_memWf (wf : s.memWf) (e : execCowCopyDone k s = .next s1) : s1.memWf := by
  unfold execCowCopyDone at e
  split at e
  · cases e
    exact wf
  split at e
  · cases e
    exact wf
  · obtain rfl := Host.Outcome.next.inj e
    refine releasePage_memWf (tracePeri_memWf (ite_memWf (takeFault_memWf ?_) ?_))
    all_goals
      refine modMem_memWf (setRefcnt_memWf (touchWrite_memWf (setNum_memWf _ _ _ _ (setRefcnt_memWf (foldl_memWf ?_ ?_)))))
      · exact foldl_memWf (clearPoison_memWf (setBytes_memWf _ _ _ wf)) (fun _ _ => touchWrite_memWf)
      · exact fun _ _ => setPoison_memWf

theorem putBytes_memWf {a : Nat} {l : List (Option Byte)} (wf : s.memWf) : (s.putBytes a l).memWf := by
  induction l generalizing s a with
  | nil => exact wf
  | cons b l ih =>
    cases b with
    | none => exact ih wf
    | some b => exact ih (setByte_memWf s a b wf)

theorem mark_memWf {a : Nat} {l : List (Option Byte)} (wf : s.memWf) : (s.mark poison a n l).memWf := by
  unfold State.mark
  grind [!foldl_memWf, !setPoison_memWf]

theorem keepAnswer_memWf (wf : s.memWf) : (s.keepAnswer a toks).memWf := by
  unfold State.keepAnswer
  grind [!modDual_memWf]

theorem farOff_memWf (wf : s.memWf) : (s.farOff a).2.memWf := by
  unfold State.farOff
  grind [!freeVal_memWf]

theorem performed_memWf {outs : List Tok} (wf : s.memWf) : (s.performed a home outs).memWf := by
  unfold State.performed
  grind [!progress_memWf, !farOff_memWf, !answer_memWf, !accSet_memWf, !keepAnswer_memWf, !storeDone_memWf, !retire_memWf]

theorem barRelease_memWf (wf : s.memWf) : (s.barRelease k).memWf := by
  unfold State.barRelease
  grind [!modMem_memWf, !foldl_memWf, !performed_memWf]

theorem barAccess_memWf {d : Nat} {sl : Nat} (wf : s.memWf) : (s.barAccess a pa d sl c).memWf := by
  unfold State.barAccess
  grind [!modMem_memWf, !accHeld_memWf, !performed_memWf, !barRelease_memWf, !accSet_memWf]

theorem markWords_memWf {l : List (Nat × Nat)} (wf : s.memWf) : (s.markWords poison l).memWf := by
  unfold State.markWords
  grind [!foldl_memWf, !setPoison_memWf]

theorem cmlsAt_memWf (wf : s.memWf) : (s.cmlsAt a).memWf := by
  unfold State.cmlsAt
  grind [!foldl_memWf, !touch_memWf, !reachVa_memWf, !performed_memWf, !setNum_memWf, !markWords_memWf, !touchWrite_memWf,
    !pteWritten_memWf]

theorem putEl_memWf (wf : s.memWf) : (s.putEl a pa off policy).memWf := by
  unfold State.putEl
  grind [!putBytes_memWf, !mark_memWf, !touchWrite_memWf, !touch_memWf, !pteWritten_memWf]

theorem virtEl_memWf (wf : s.memWf) : (s.virtEl a el).memWf := by
  unfold State.virtEl
  extract_lets off va pa pas home
  have asked := remoteRefuses_memWf (pas := pas) wf
  refine ite_memWf wf ?_
  split
  · exact accFault_memWf wf
  refine ite_memWf (accFault_memWf asked) (ite_memWf ?_ ?_)
  · exact ite_memWf (accHeld_memWf wf) (ite_memWf (accHeld_memWf wf) (cmlsAt_memWf wf))
  split
  · exact barAccess_memWf wf
  have came := ite_memWf (c := (a.lineMates el).any fun e => a.els.contains e) asked
    (reachVa_memWf (x := a.x) (ps := a.pages) (va := va) asked)
  split
  · exact ite_memWf (performed_memWf (putEl_memWf came)) (accSet_memWf (putEl_memWf came))
  · exact performed_memWf (pteWritten_memWf (touchWrite_memWf (mark_memWf (putBytes_memWf came))))
  · exact ite_memWf (performed_memWf (touch_memWf came)) (accSet_memWf (touch_memWf came))

theorem mtAccess_memWf (wf : s.memWf) : (s.mtAccess a).memWf := by
  unfold State.mtAccess
  grind [!bankCheck_memWf, !accFault_memWf, !putBytes_memWf, !mark_memWf, !mtAdvance_memWf, !performed_memWf]

theorem sdmAccess_memWf (wf : s.memWf) : (s.sdmAccess a).memWf := by
  unfold State.sdmAccess
  grind [!modCell_memWf, !sdmCheck_memWf, !accFault_memWf, !putBytes_memWf, !mark_memWf, !performed_memWf]

theorem accessAt_memWf (wf : s.memWf) : (s.accessAt a el).memWf := by
  unfold State.accessAt
  grind [!accSet_memWf, !answer_memWf, !storeDone_memWf, !virtEl_memWf, !mtAccess_memWf, !sdmAccess_memWf]

theorem execAccessPerform_memWf {evict : List Nat} (wf : s.memWf) (e : execAccessPerform id el evict s = .next s1) : s1.memWf := by
  unfold execAccessPerform at e
  grind [!modMem_memWf, !accessAt_memWf]

theorem report_memWf (wf : s.memWf) : (s.report t).memWf := by
  unfold State.report
  grind [!accSet_memWf, !storeDone_memWf, !retire_memWf]

theorem traceReq_memWf (wf : s.memWf) : (s.traceReq q code addr).memWf := by
  unfold State.traceReq
  grind [!traceCell_memWf]

theorem reqFault_memWf {code : FCode} (wf : s.memWf) : (s.reqFault q code addr).memWf := by
  unfold State.reqFault
  grind [!modMem_memWf, !traceReq_memWf, !takeFault_memWf]

theorem respond_memWf {r : BitVec 128} (wf : s.memWf) : (s.respond q r t).memWf := by
  unfold State.respond
  grind [!sendTok_memWf]

theorem portTakes_memWf (wf : s.memWf) : (s.portTakes q).memWf := by
  unfold State.portTakes
  grind [!modMem_memWf, !respond_memWf, !report_memWf, !accSet_memWf]

theorem nodePerform_memWf (wf : s.memWf) : (s.nodePerform q).memWf := by
  unfold State.nodePerform
  extract_lets pop fin
  have popped {t : State} (wf : t.memWf) : (pop t).memWf := modCell_memWf wf
  have ended {t : State} (wf : t.memWf) : (fin t).memWf := modMem_memWf wf
  clear_value pop fin
  split
  · exact destInvalid_memWf (ended (popped wf))
  refine ite_memWf (destInvalid_memWf (ended (popped wf))) ?_
  extract_lets op lsz n addr at_ rsp
  refine ite_memWf (ite_memWf wf (ite_memWf (respond_memWf (ended (popped wf))) (ended (popped wf)))) ?_
  refine ite_memWf wf (ite_memWf (reqFault_memWf (popped wf)) ?_)
  split
  · next found => exact reqFault_memWf (popped (memWf_of_eq found (sdmCheck_memWf wf)))
  · next found => exact memWf_of_eq found (sdmCheck_memWf wf)
  · next found =>
    have performed := ended (popped (progress_memWf (c := q.tok.ctx) (memWf_of_eq found (sdmCheck_memWf wf))))
    refine ite_memWf (report_memWf (respond_memWf performed)) ?_
    have stored {a n l} (p : Bool) : (((fin (pop _)).putBytes a l).mark p a n l).memWf := mark_memWf (putBytes_memWf performed)
    exact ite_memWf (stored _) (report_memWf (ite_memWf (respond_memWf (stored _)) (stored _)))

theorem execMemnodeRequest_memWf (wf : s.memWf) (e : execMemnodeRequest x port s = .next s1) : s1.memWf := by
  unfold execMemnodeRequest at e
  grind [!nodePerform_memWf, !accessAt_memWf]

theorem execFaultLatchDrain_memWf (wf : s.memWf) (e : execFaultLatchDrain k s = .next s1) : s1.memWf := by
  unfold execFaultLatchDrain at e
  grind [!putRecord_formed, !settle_memWf, Put.Formed]

theorem execBankPowerEffect_memWf (wf : s.memWf) (e : execBankPowerEffect x bank s = .next s1) : s1.memWf := by
  unfold execBankPowerEffect at e
  grind [!modCell_memWf, !lose_memWf]

theorem execBankWake_memWf (wf : s.memWf) (e : execBankWake x bank s = .next s1) : s1.memWf := by
  unfold execBankWake at e
  grind [!modCell_memWf]

theorem execSdmWake_memWf (wf : s.memWf) (e : execSdmWake die gib s = .next s1) : s1.memWf := by
  unfold execSdmWake at e
  grind [!modDie_memWf]

end Sys2Proof.Machine
end

section
/-! What departures, networks and herd placement keep of the form of memory (R96, R172 to R189, R211 to R222; O28). -/
namespace Sys2Proof.Machine

variable {s s1 : State} {h : Hdr} {x : Site} {f : Firing} {t : Tok} {a : Access} {b : Blk} {uid : Option Nat} {toks : List Tok} {p :
    Packet} {k row m cls stage res die port pos id i ctx node idx col : Nat}

theorem traffic_memWf {peer : Nat} (wf : s.memWf) : (s.traffic x peer).memWf := by
  unfold State.traffic
  grind [!modCell_memWf]

theorem deliver_memWf (wf : s.memWf) (e : s.deliver x port t = some s1) : s1.memWf := by
  unfold State.deliver at e
  grind [!modCell_memWf, !destInvalid_memWf]

theorem setQueue_memWf {q : Nat} {v : HQueue} (wf : s.memWf) : (s.setQueue die q v).memWf := by
  unfold State.setQueue
  grind [!modDie_memWf]

theorem toQueue_memWf {q : Nat} (wf : s.memWf) (e : s.toQueue x node q t = some s1) : s1.memWf := by
  unfold State.toQueue at e
  grind [!takeFault_memWf, !setQueue_memWf]

theorem toPort_memWf (wf : s.memWf) (e : s.toPort x m t = some s1) : s1.memWf := by
  unfold State.toPort at e
  grind [!modMem_memWf, !modCell_memWf, !portTakes_memWf]

theorem toTrace_memWf (wf : s.memWf) : (s.toTrace x node t).memWf := by
  unfold State.toTrace
  grind [!traceCell_memWf]

theorem sendAt_memWf {p : Nat × Nat} {q : Nat × Nat} {body : Body} (wf : s.memWf) : (s.sendAt die p q cls res body).memWf := by
  unfold State.sendAt
  grind [!modDie_memWf]

theorem toTracks_memWf {p : Nat × Nat} {trk : Nat} (wf : s.memWf) (e : s.toTracks die p trk t = some s1) : s1.memWf := by
  unfold State.toTracks at e
  grind [!modDie_memWf]

theorem toRoute_memWf (wf : s.memWf) (e : s.toRoute x t = some s1) : s1.memWf := by
  unfold State.toRoute at e
  grind [→ toTracks_memWf, !sendAt_memWf]

theorem reqLeft_memWf (wf : s.memWf) : (s.reqLeft x t).memWf := by
  unfold State.reqLeft
  grind [!modMem_memWf, !accSet_memWf]

theorem sendTo_memWf (wf : s.memWf) (e : s.sendTo x node uid t = some s1) : s1.memWf := by
  unfold State.sendTo at e
  grind [→ toRoute_memWf, !psnDrop_memWf, !countExit_memWf, !modDie_memWf, !toTrace_memWf, → toQueue_memWf, → toPort_memWf, !modCell_memWf,
    → deliver_memWf, !traffic_memWf, !sendTok_memWf]

theorem sendOne_memWf (wf : s.memWf) (e : s.sendOne x node uid t = some s1) : s1.memWf := by
  unfold State.sendOne at e
  grind [!reqLeft_memWf, → sendTo_memWf]

theorem leaveOne_memWf (wf : s.memWf) (e : s.leaveOne x node idx uid t = some s1) : s1.memWf := by
  unfold State.leaveOne at e
  grind [→ sendOne_memWf, !modDual_memWf]

theorem leaveAll_memWf {l : List Tok} (wf : s.memWf) : (s.leaveAll x node uid i l).1.memWf := by
  induction l generalizing s i with
  | nil => exact wf
  | cons t l ih =>
    unfold State.leaveAll
    grind [→ leaveOne_memWf]

theorem pinsCount_memWf {grp : Nat} (wf : s.memWf) : (s.pinsCount x ctx grp).memWf := by
  unfold State.pinsCount
  grind [!modCell_memWf]

theorem leaveDep_memWf {d : Dep} {start : Nat} {drop : State → State} {keep : State → List Tok → State} (wf : s.memWf)
    (drop_keeps : ∀ (t : State), t.memWf → (drop t).memWf) (keep_keeps : ∀ (t : State) a, t.memWf → (keep t a).memWf) :
    (s.leaveDep x d start drop keep).memWf := by
  unfold State.leaveDep
  grind [!modCell_memWf, !leaveAll_memWf, !pinsCount_memWf, !retire_memWf]

theorem execFiringTokensLeave_memWf (wf : s.memWf) (e : execFiringTokensLeave x s = .next s1) : s1.memWf := by
  unfold execFiringTokensLeave at e
  grind [!leaveDep_memWf, !modCell_memWf]

theorem execMemoryAnswer_memWf (wf : s.memWf) (e : execMemoryAnswer x k s = .next s1) : s1.memWf := by
  unfold execMemoryAnswer at e
  grind [!modCell_memWf, !leaveDep_memWf]

theorem toCompare_memWf {d : Dual} {role : Nat} (wf : s.memWf) : (s.toCompare a d role).memWf := by
  unfold State.toCompare
  grind [!accSet_memWf, !modDual_memWf]

theorem execWaveSend_memWf {useTlb : Bool} (wf : s.memWf) (e : execWaveSend id useTlb s = .next s1) : s1.memWf := by
  unfold execWaveSend at e
  grind [!toCompare_memWf, !send_memWf]

theorem commit_memWf {y : Site} {p : DOut} {q : DOut} (wf : s.memWf) (e : s.commit x y p q = some s1) : s1.memWf := by
  unfold State.commit at e
  grind [!accSet_memWf, !send_memWf, !psnDrop_memWf, !countExit_memWf, !retire_memWf, → sendOne_memWf]

theorem unkeep_memWf (wf : s.memWf) : (s.unkeep die k).memWf := by
  unfold State.unkeep
  grind [!modDual_memWf]

theorem execDualCompare_memWf (wf : s.memWf) (e : execDualCompare die k s = .next s1) : s1.memWf := by
  unfold execDualCompare at e
  split at e
  · cases e
    exact wf
  split at e
  · cases e
    exact wf
  · grind [!modDual_memWf, → commit_memWf, !unkeep_memWf]

theorem stageFire_memWf {hs : List Head} {lead : Tok} (wf : s.memWf) : (s.stageFire x b pos hs lead).memWf := by
  unfold State.stageFire
  grind [!traceFire_memWf, !modCell_memWf, !foldl_memWf, !fire_memWf, !modMem_memWf]

theorem streamSkew_memWf {a : Tok} {b : Tok} (wf : s.memWf) : (s.streamSkew x node stage a b).memWf := by
  unfold State.streamSkew
  grind [!takeFault_memWf]

theorem stageTry_memWf {hs : List Head} (wf : s.memWf) : (s.stageTry x b pos stage hs).memWf := by
  unfold State.stageTry
  grind [!streamSkew_memWf, !stageFire_memWf]

theorem execSpatialStageFire_memWf (wf : s.memWf) (e : execSpatialStageFire x stage s = .next s1) : s1.memWf := by
  unfold execSpatialStageFire at e
  grind [!stageTry_memWf]

theorem forward_memWf {p : Nat × Nat} (wf : s.memWf) : (s.forward die p cls res t).memWf := by
  unfold State.forward
  grind [!modDie_memWf, !netSend_memWf]

theorem portUsed_memWf (wf : s.memWf) : (s.portUsed x cls).memWf := by
  unfold State.portUsed
  grind [!modCell_memWf]

theorem routeDeliver_memWf {p : Nat × Nat} {e : RouteEnt} (wf : s.memWf) (e : s.routeDeliver die p e t = some s1) : s1.memWf := by
  unfold State.routeDeliver at e
  grind [→ deliver_memWf, !portUsed_memWf, !traffic_memWf, !forward_memWf, Option.map_eq_some_iff]

theorem routeStep_memWf {p : Nat × Nat} {e : RouteEnt} (wf : s.memWf) (e : s.routeStep die p e t = some s1) : s1.memWf := by
  unfold State.routeStep at e
  grind [!modDie_memWf, !sendTok_memWf, → routeDeliver_memWf]

theorem routeMiss_memWf {p : Nat × Nat} (wf : s.memWf) (e : s.routeMiss die p t = some s1) : s1.memWf := by
  unfold State.routeMiss at e
  grind [!takeFault_memWf]

theorem routeAt_memWf {p : Nat × Nat} (wf : s.memWf) (e : s.routeAt die p t = some s1) : s1.memWf := by
  unfold State.routeAt at e
  grind [→ routeMiss_memWf, → routeStep_memWf]

theorem execTrackRouteEntry_memWf (wf : s.memWf) (e : execTrackRouteEntry die col row s = .next s1) : s1.memWf := by
  unfold execTrackRouteEntry at e
  grind [!modDie_memWf, → routeAt_memWf]

theorem holdBeyond_memWf (wf : s.memWf) : (s.holdBeyond die k p).memWf := by
  unfold State.holdBeyond
  grind [!putSpill_formed, !modDie_memWf, !modCell_memWf, Put.Formed]

theorem unheldPacket_memWf (wf : s.memWf) : (s.unheldPacket die p).memWf := by
  unfold State.unheldPacket
  grind [!unspill_memWf, !modCell_memWf]

theorem movePacket_memWf {q : Nat × Nat × Nat} (wf : s.memWf) : (s.movePacket die k p q).memWf := by
  unfold State.movePacket
  grind [!modDie_memWf, !holdBeyond_memWf]

theorem packetIn_memWf (wf : s.memWf) (e : s.packetIn die p = some s1) : s1.memWf := by
  unfold State.packetIn at e
  grind [→ toTracks_memWf, → deliver_memWf, !portUsed_memWf, !modCell_memWf, Option.map_eq_some_iff]

theorem execMeshPacketHop_memWf (wf : s.memWf) (e : execMeshPacketHop die k s = .next s1) : s1.memWf := by
  unfold execMeshPacketHop at e
  grind [!modDie_memWf, !takeFault_memWf, !movePacket_memWf, → packetIn_memWf, !unheldPacket_memWf]

theorem execTokenForward_memWf (wf : s.memWf) (e : execTokenForward die k s = .next s1) : s1.memWf := by
  unfold execTokenForward at e
  grind [!modDie_memWf, !netSend_memWf]

theorem flushed_memWf {src : Nat} (wf : s.memWf) : (s.flushed die src res cls).memWf := by
  unfold State.flushed
  grind [!modCell_memWf, !modDie_memWf]

theorem execFlushArrival_memWf (wf : s.memWf) (e : execFlushArrival die k s = .next s1) : s1.memWf := by
  unfold execFlushArrival at e
  grind [!modDie_memWf, !flushed_memWf]

theorem setPair_memWf (wf : s.memWf) : (s.setPair x k).memWf := by
  unfold State.setPair
  grind [!modDie_memWf]

theorem exchange_memWf {a : Nat} {b : Nat} (wf : s.memWf) : (s.exchange die a b).memWf := by
  unfold State.exchange
  grind [!modDie_memWf, !foldl_memWf, !setPair_memWf, !setCell_memWf, !modMem_memWf]

theorem beginSwap_memWf {inst : Nat} {c : Couple} (wf : s.memWf) : (s.beginSwap die inst c).memWf := by
  unfold State.beginSwap
  grind [!modCell_memWf, !exchange_memWf]

theorem execSwapInstant_memWf {exLen : Nat} (wf : s.memWf) (e : execSwapInstant die exLen s = .next s1) : s1.memWf := by
  unfold execSwapInstant at e
  grind [!foldl_memWf, !beginSwap_memWf, !modDie_memWf]

theorem traceSwap_memWf {ver : Nat} {c : Couple} (wf : s.memWf) : (s.traceSwap die ver c).memWf := by
  unfold State.traceSwap
  grind [!foldl_memWf, !trace_memWf]

theorem sendFlush_memWf {r : Nat} {old : Nat × Nat} (wf : s.memWf) : (s.sendFlush die r res old).memWf := by
  unfold State.sendFlush
  grind [!modDie_memWf, !modCell_memWf]

theorem installMap_memWf {r : Nat} (wf : s.memWf) : (s.installMap die r).memWf := by
  unfold State.installMap
  grind [!foldl_memWf, !sendFlush_memWf, !modDie_memWf]

theorem execMapVersionAdvance_memWf (wf : s.memWf) (e : execMapVersionAdvance k s = .next s1) : s1.memWf := by
  unfold execMapVersionAdvance at e
  grind [!installMap_memWf, !foldl_memWf, !traceSwap_memWf, !modDie_memWf]

theorem departPin_memWf (wf : s.memWf) : (s.departPin f toks).memWf := by
  unfold State.departPin
  grind [!depart_memWf, !modCell_memWf]

theorem execHpin_memWf (wf : s.memWf) (e : execHpin h s = .next s1) : s1.memWf := by
  unfold execHpin at e
  grind [→ firing_memWf, !refuse_memWf, !fireWith_memWf, !modCell_memWf, !issue_memWf, !departPin_memWf]

theorem execHunpin_memWf (wf : s.memWf) (e : execHunpin h s = .next s1) : s1.memWf := by
  unfold execHunpin at e
  grind [→ firing_memWf, !refuse_memWf, !fireWith_memWf, !modCell_memWf]

end Sys2Proof.Machine
end

section
/-! What key stores and logical stores keep of the form of memory (R134 to R152, R203 to R210; O28). -/
namespace Sys2Proof.Machine

variable {s s1 : State} {h : Hdr} {x : Site} {f : Firing} {t : Tok} {v : View} {poison : Bool} {toks : List Tok} {cnt k store n die id i
    ctx node : Nat}

theorem region_memWf (wf : s.memWf) : (s.region x ctx v).2.memWf := KeepsForm.homeFrame.region _ _ _ _ wf

theorem view_memWf (wf : s.memWf) : (s.view x ctx node).2.memWf := KeepsForm.homeFrame.view _ _ _ _ wf

theorem back_memWf (wf : s.memWf) : (s.back x v).memWf := by
  unfold State.back
  grind [!modCell_memWf]

theorem plan_memWf {new : List KEnt} (wf : s.memWf) : (s.plan x ctx v new).2.memWf := KeepsForm.homeFrame.plan _ _ _ _ _ wf

theorem commitStore_memWf {new : List KEnt} {w : List (List Spot × List Byte)} {f : KStore → KStore} (wf : s.memWf) :
    (s.commitStore x v new w f).memWf := by
  unfold State.commitStore
  grind [!foldl_memWf, !writeSpots_memWf, !modCell_memWf]

theorem readKey_memWf {a : Tok} {ref : Bool} {d : Nat} {kw : Nat} (wf : s.memWf) : (s.readKey f a ref d kw).2.memWf :=
  KeepsForm.homeFrame.readKey _ _ _ _ _ _ wf

theorem sendOp_memWf {kind : LKind} (wf : s.memWf) : (s.sendOp f node kind toks).memWf := by
  unfold State.sendOp
  grind [!modDie_memWf]

theorem storeOp_memWf {fmt : Ty} {kind : LKind} {k : State → View → State} (wf : s.memWf)
    (keeps : ∀ (t : State) a, t.memWf → (k t a).memWf) : (s.storeOp f h node fmt kind k).memWf := by
  unfold State.storeOp
  grind [!view_memWf, !park_memWf, !refuse_memWf, !issue_memWf, !sendOp_memWf]

theorem storeChange_memWf {new : List KEnt} {g : KStore → KStore} (wf : s.memWf) : (s.storeChange f h v new t g).memWf := by
  unfold State.storeChange
  grind [!plan_memWf, !back_memWf, !park_memWf, !fireWith_memWf, !commitStore_memWf]

theorem kgen_memWf {new : Option Nat} (wf : s.memWf) : (s.kgen f h v new).memWf := by
  unfold State.kgen
  grind [!back_memWf, !refuse_memWf, !storeChange_memWf]

theorem execKgenRead_memWf (wf : s.memWf) (e : execKgenRead h store s = .next s1) : s1.memWf := by
  unfold execKgenRead at e
  grind [→ firing_memWf, !storeOp_memWf, !kgen_memWf]

theorem execKgenAdv_memWf (wf : s.memWf) (e : execKgenAdv h store s = .next s1) : s1.memWf := by
  unfold execKgenAdv at e
  grind [→ firing_memWf, !storeOp_memWf, !kgen_memWf]

theorem execKgenSet_memWf (wf : s.memWf) (e : execKgenSet h store s = .next s1) : s1.memWf := by
  unfold execKgenSet at e
  grind [→ firing_memWf, !storeOp_memWf, !kgen_memWf]

theorem execKdel_memWf {byVal : Bool} (wf : s.memWf) (e : execKdel h byVal store s = .next s1) : s1.memWf := by
  unfold execKdel at e
  grind [→ firing_memWf, !storeOp_memWf, !storeChange_memWf]

theorem execKpurge_memWf (wf : s.memWf) (e : execKpurge h store s = .next s1) : s1.memWf := by
  unfold execKpurge at e
  grind [→ firing_memWf, !storeOp_memWf, !storeChange_memWf]

theorem insert_memWf {c : KinsCtl} {e : KEnt} (wf : s.memWf) : (s.insert f h c v e).memWf := by
  unfold State.insert
  grind [!back_memWf, !refuse_memWf, !storeChange_memWf]

theorem execKins_memWf {c : KinsCtl} (wf : s.memWf) (e : execKins h c s = .next s1) : s1.memWf := by
  unfold execKins at e
  grind [→ firing_memWf, !view_memWf, !park_memWf, !refuse_memWf, !back_memWf, !readKey_memWf, !issue_memWf, !sendOp_memWf, !insert_memWf]

theorem departEach_memWf {exits : Bool} {l : List Tok} (wf : s.memWf) : (s.departEach f exits i l).memWf := by
  induction l generalizing s i with
  | nil => exact wf
  | cons t l ih => exact ih (departAs_memWf wf)

theorem takeScan_memWf {p : Nat × Nat} (wf : s.memWf) : (s.takeScan die p n).memWf := by
  unfold State.takeScan
  grind [!modDie_memWf]

theorem query_memWf {q : List Nat} (wf : s.memWf) : (s.query f h v q poison).memWf := by
  unfold State.query
  grind [!back_memWf, !refuse_memWf, !park_memWf, !plan_memWf, !issue_memWf, !commitStore_memWf, !modCell_memWf, !takeScan_memWf,
    !departEach_memWf]

theorem execKmatch_memWf {c : KmCtl} (wf : s.memWf) (e : execKmatch h c s = .next s1) : s1.memWf := by
  refine firing_memWf wf (fun t f wf => ?_) e
  split
  · next found => exact park_memWf (memWf_of_eq found (view_memWf wf))
  · next found => exact refuse_memWf (memWf_of_eq found (view_memWf wf))
  · next found =>
    have viewed := memWf_of_eq found (view_memWf wf)
    refine ite_memWf (refuse_memWf (back_memWf viewed)) (ite_memWf (refuse_memWf (back_memWf viewed)) ?_)
    grind [!readKey_memWf, !back_memWf, !park_memWf, !query_memWf, !refuse_memWf, !issue_memWf, !sendOp_memWf]

theorem modLop_memWf {f : LOp → LOp} (wf : s.memWf) : (s.modLop die id f).memWf := by
  unfold State.modLop
  grind [!modDie_memWf]

theorem dropLop_memWf (wf : s.memWf) : (s.dropLop die id).memWf := by
  unfold State.dropLop
  grind [!modDie_memWf]

theorem modLstore_memWf {f : LStore → LStore} (wf : s.memWf) : (s.modLstore x ctx node f).memWf := by
  unfold State.modLstore
  grind [!modDie_memWf]

theorem lopFault_memWf {o : LOp} {code : FCode} (wf : s.memWf) : (s.lopFault o code).memWf := by
  unfold State.lopFault
  grind [!dropLop_memWf, !takeFault_memWf]

theorem execStoreOpSequence_memWf (wf : s.memWf) (e : execStoreOpSequence die k s = .next s1) : s1.memWf := by
  unfold execStoreOpSequence at e
  grind [!lopFault_memWf, !modLstore_memWf, !modLop_memWf, !foldl_memWf, !modCell_memWf]

theorem lopResult_memWf {o : LOp} {v : Nat} (wf : s.memWf) : (s.lopResult o v).memWf := by
  unfold State.lopResult
  grind [!dropLop_memWf, !depart_memWf]

theorem shardDone_memWf {value : LOp → Nat} (wf : s.memWf) : (s.shardDone die x id cnt value).memWf := by
  unfold State.shardDone
  grind [!modLop_memWf, !lopResult_memWf]

theorem flive_memWf {old : List KEnt} {new : List KEnt} (wf : s.memWf) : (s.flive x ctx node old new).memWf := by
  unfold State.flive
  grind [!modLstore_memWf]

theorem setEnts_memWf {new : List KEnt} {f : KStore → KStore} {k : State → State} (wf : s.memWf)
    (keeps : ∀ (t : State), t.memWf → (k t).memWf) : (s.setEnts x v new f k).memWf := by
  unfold State.setEnts
  grind [!plan_memWf, !commitStore_memWf, !flive_memWf]

theorem shardQuery_memWf {o : LOp} {c : KmCtl} {fmt : Ty} {reg : W32} {q : List Nat} (wf : s.memWf) :
    (s.shardQuery x v o c fmt reg q).memWf := by
  unfold State.shardQuery
  grind [!modCell_memWf, !modLop_memWf]

theorem shardTakes_memWf (wf : s.memWf) : (s.shardTakes x v).memWf := by
  unfold State.shardTakes
  grind [!modCell_memWf]

theorem shardStep_memWf {o : LOp} (wf : s.memWf) : (s.shardStep x v o).memWf := by
  unfold State.shardStep
  grind [!shardTakes_memWf, !shardDone_memWf, !shardQuery_memWf, !lopFault_memWf, !setEnts_memWf]

theorem shardRegion_memWf {o : LOp} (wf : s.memWf) : (s.shardRegion x v o).memWf := by
  unfold State.shardRegion
  grind [!region_memWf, !shardStep_memWf, !shardTakes_memWf, !lopFault_memWf]

theorem execShardPerform_memWf (wf : s.memWf) (e : execShardPerform x s = .next s1) : s1.memWf := by
  unfold execShardPerform at e
  extract_lets c can at e
  split at e
  · cases e
    exact wf
  split at e
  · cases e
    exact wf
  split at e
  · cases e
    exact wf
  split at e
  · cases e
    exact modCell_memWf wf
  · cases e
    split
    · exact shardRegion_memWf wf
    · exact wf

theorem merged_memWf {o : LOp} {c : KmCtl} {fmt : Ty} (wf : s.memWf) : (s.merged die o c fmt poison).memWf := by
  unfold State.merged
  grind [!modLop_memWf, !dropLop_memWf, !takeFault_memWf, !departEach_memWf]

theorem execLensMerge_memWf (wf : s.memWf) (e : execLensMerge die k s = .next s1) : s1.memWf := by
  unfold execLensMerge at e
  grind [!merged_memWf]

theorem execShardCommit_memWf (wf : s.memWf) (e : execShardCommit x s = .next s1) : s1.memWf := by
  unfold execShardCommit at e
  split at e
  · cases e
    exact wf
  extract_lets free at e
  have freed {t : State} (wf : t.memWf) : (free t).memWf := modCell_memWf wf
  split at e
  · cases e
    exact freed wf
  split at e
  · cases e
    exact wf
  extract_lets mine did at e
  have done (t : State) (wf : t.memWf) : (did t).memWf := ite_memWf (dropLop_memWf (modLop_memWf (freed wf))) (modLop_memWf (freed wf))
  split at e
  · cases e
    exact done s wf
  split at e <;> cases e
  · next found => exact setEnts_memWf (memWf_of_eq found (region_memWf wf)) done
  · next found => exact done _ (memWf_of_eq found (region_memWf wf))
  · next found => exact memWf_of_eq found (region_memWf wf)

end Sys2Proof.Machine
end

section
/-! What the loader and the contexts keep of the form of memory (R60 to R66, R155 to R162, R309, R310; O28). -/
namespace Sys2Proof.Machine

variable {s s1 : State} {h : Hdr} {x : Site} {f : Firing} {t : Tok} {b : Blk} {c status sc o cls n die handle slot plane i ctx : Nat}

theorem rejectBlk_memWf {nridx : Nat} {reason : Nat} (wf : s.memWf) : (s.rejectBlk x ctx nridx reason).memWf := by
  unfold State.rejectBlk
  grind [!modDie_memWf, !traceCell_memWf, !takeFault_memWf]

theorem placeBlk_memWf {ks : List KStore} (wf : s.memWf) : (s.placeBlk x b ks).memWf := by
  unfold State.placeBlk
  grind [!modCell_memWf]

theorem loadSite_memWf {e : LoadEnv} (wf : s.memWf) : (s.loadSite e plane slot).memWf := by
  unfold State.loadSite
  grind [!foldl_memWf, !rejectBlk_memWf, !placeBlk_memWf]

theorem siteWord_memWf {i : SiteImg} {free : Bool} (wf : s.memWf) : (s.siteWord i free).memWf := by
  unfold State.siteWord
  grind [!modCell_memWf]

theorem makeStores_memWf {sets : List (Nat × List Nat)} (wf : s.memWf) : (s.makeStores die ctx plane sets).memWf := by
  refine foldl_memWf wf (fun t a wf => ?_)
  refine ite_memWf wf ?_
  split
  · exact modDie_memWf (foldl_memWf wf (fun _ _ => modCell_memWf))
  · exact modDie_memWf wf

theorem leaveStore_memWf {k : KStore} (wf : s.memWf) : (s.leaveStore x k).memWf := by
  unfold State.leaveStore
  grind [!modDie_memWf]

theorem drop_memWf {pats : List Pattern} (wf : s.memWf) : (s.drop die ctx plane slot pats).memWf := by
  unfold State.drop
  grind [!modDie_memWf, !foldl_memWf, !siteWord_memWf, !modCell_memWf, !loadSite_memWf, !makeStores_memWf]

theorem launchRead_memWf {h : Nat} (wf : s.memWf) : (s.launchRead sc h o n).2.memWf := by
  unfold State.launchRead
  grind [!spots_memWf]

theorem tokenList_memWf {h : Nat} {tl : BitVec 96} {nsrc : Nat} {i' : Nat} {l : List Tok} {good : Bool} (wf : s.memWf) :
    (s.tokenList sc h tl nsrc i i' l good).2.memWf := by
  induction i generalizing s i' l good with
  | zero => exact wf
  | succ i ih =>
    unfold State.tokenList
    grind [!launchRead_memWf]

theorem launchCheck_memWf {d : List Byte} {bad : Bool} {aligned : Bool} {srcs : List W32} {by_ : Option Nat} {dov : Option Nat}
    (wf : s.memWf) : (s.launchCheck d bad aligned srcs by_ dov).2.memWf := by
  have begun {c : Nat} {v : Ctx} : (s.setCtx c v).memWf := setCtx_memWf wf
  unfold State.launchCheck
  extract_lets w tenant die nsrc tl htbase sc s0 clean
  have cleaned {t : State} (wf : t.memWf) : (clean t).memWf := setCtx_memWf (modMem_memWf wf)
  clear_value clean
  split
  · exact wf
  split
  · next listed => exact cleaned (memWf_of_eq listed (tokenList_memWf begun))
  · next listed => exact cleaned (memWf_of_eq listed (tokenList_memWf begun))
  · next toks good s1 listed =>
    have listed_memWf := memWf_of_eq listed (tokenList_memWf begun)
    dsimp only
    generalize read : (if fld (w 8) 16 16 = 0xFFFF then _ else s1.launchRead sc (fld (w 8) 16 16) 0 64) = fr
    have last : (clean fr.2).memWf := by
      rw [← read]
      split
      · exact cleaned listed_memWf
      · exact cleaned (launchRead_memWf listed_memWf)
    repeat' split
    all_goals exact last

theorem create_memWf {p : Plan} (wf : s.memWf) : (s.create p).memWf := by
  unfold State.create
  grind [!setCtx_memWf, !modMem_memWf, !modDie_memWf, !drop_memWf]

theorem launchDone_memWf {desc : Nat} (wf : s.memWf) : (s.launchDone desc status c).memWf := by
  unfold State.launchDone
  grind

theorem execHostLaunch_memWf {descPa : Nat} (wf : s.memWf) (e : execHostLaunch descPa s = .next s1) : s1.memWf := by
  unfold execHostLaunch at e
  grind [!launchCheck_memWf, !launchDone_memWf, !create_memWf]

theorem laterOn_memWf {ports : List Nat} {k : State → Dep → State} (wf : s.memWf) (keeps : ∀ (t : State) a, t.memWf → (k t a).memWf) :
    (s.laterOn f h ports t k).memWf := by
  unfold State.laterOn
  grind [!issue_memWf, !modMem_memWf]

theorem later_memWf {k : State → Dep → State} (wf : s.memWf) (keeps : ∀ (t : State) a, t.memWf → (k t a).memWf) :
    (s.later f h t k).memWf := by
  unfold State.later
  grind [!laterOn_memWf]

theorem pay_memWf {d : Dep} (wf : s.memWf) : (s.pay x d).memWf := by
  unfold State.pay
  grind [!answer_memWf]

theorem execLaunch_memWf {die : Option Nat} (wf : s.memWf) (e : execLaunch h handle die s = .next s1) : s1.memWf := by
  refine firing_memWf wf (fun t f wf => ?_) e
  refine ite_memWf (refuse_memWf wf) ?_
  grind [!cellSpots_memWf, !park_memWf, !regsOf_memWf, !launchCheck_memWf, !later_memWf, !pay_memWf, !create_memWf]

theorem execDropComplete_memWf (wf : s.memWf) (e : execDropComplete ctx s = .next s1) : s1.memWf := by
  unfold execDropComplete at e
  grind [!modCtx_memWf, !tracePeri_memWf, !launchDone_memWf, !foldl_memWf, !pay_memWf, !settle_memWf]

theorem toSource_memWf {w : W32} (wf : s.memWf) : (s.toSource ctx w cls t).memWf := by
  unfold State.toSource
  grind [!netSend_memWf]

theorem execTokenInjection_memWf (wf : s.memWf) (e : execTokenInjection ctx s = .next s1) : s1.memWf := by
  unfold execTokenInjection at e
  grind [!modDie_memWf, !modCtx_memWf, !toSource_memWf]

theorem endCtx_memWf (wf : s.memWf) : (s.endCtx ctx).memWf := by
  unfold State.endCtx
  grind [!freeVal_memWf, !foldl_memWf, !pay_memWf, !setCtx_memWf, !modMem_memWf, !dropWaits_memWf, !tracePeri_memWf]

theorem execHalt_memWf (wf : s.memWf) (e : execHalt h s = .next s1) : s1.memWf := by
  unfold execHalt at e
  grind [→ firing_memWf, !fireWith_memWf, !endCtx_memWf]

theorem execHostTerminate_memWf (wf : s.memWf) (e : execHostTerminate ctx s = .next s1) : s1.memWf := by
  unfold execHostTerminate at e
  grind [!endCtx_memWf]

theorem execContextRelease_memWf (wf : s.memWf) (e : execContextRelease ctx s = .next s1) : s1.memWf := by
  unfold execContextRelease at e
  grind [!modMem_memWf, !setCtx_memWf]

end Sys2Proof.Machine
end

section
/-! What streamers, queues and planes keep of the form of memory (R297 to R314; O28). -/
namespace Sys2Proof.Machine

variable {s s1 : State} {h : Hdr} {x : Site} {f : Firing} {write : Bool} {bs : List Byte} {code c k o st streamer n res arg die place
    handle slot queue plane id data ctx index : Nat}

theorem readDesc_memWf {h : Nat} (wf : s.memWf) : (s.readDesc x c h o).2.memWf := by
  unfold State.readDesc
  grind [!cellSpots_memWf]

theorem modEng_memWf {f : Engines → Engines} (wf : s.memWf) : (s.modEng die f).memWf := by
  unfold State.modEng
  grind [!modDie_memWf]

theorem install_memWf {l : Layout} (wf : s.memWf) : (s.install ctx st slot l).memWf := by
  unfold State.install
  grind [!modEng_memWf, !setQueue_memWf, !pay_memWf]

theorem armSlot_memWf {l : Layout} (wf : s.memWf) : (s.armSlot ctx st slot l).memWf := by
  unfold State.armSlot
  grind [!install_memWf, !modEng_memWf]

theorem execArm_memWf {tslot : Nat} {queue : Option Nat} (wf : s.memWf) (e : execArm h handle streamer tslot queue s = .next s1) :
    s1.memWf := by
  unfold execArm at e
  grind [→ firing_memWf, !refuse_memWf, !readDesc_memWf, !park_memWf, !regsOf_memWf, !later_memWf, !armSlot_memWf]

theorem execStrm_memWf {scope : Option Scope} (wf : s.memWf) (e : execStrm h handle streamer scope s = .next s1) : s1.memWf := by
  unfold execStrm at e
  grind [→ firing_memWf, !refuse_memWf, !readDesc_memWf, !park_memWf, !regsOf_memWf, !issue_memWf, !modEng_memWf]

theorem served_memWf {q : Nat} (wf : s.memWf) : (s.served die q).memWf := by
  unfold State.served
  grind [!setQueue_memWf, !pay_memWf, !foldl_memWf]

theorem execQpostPost_memWf (wf : s.memWf) (e : execQpostPost h queue s = .next s1) : s1.memWf := by
  unfold execQpostPost at e
  grind [→ firing_memWf, !issue_memWf, !takeFault_memWf, !later_memWf, !setQueue_memWf, !pay_memWf]

theorem execQpostUnbind_memWf (wf : s.memWf) (e : execQpostUnbind h queue s = .next s1) : s1.memWf := by
  unfold execQpostUnbind at e
  grind [→ firing_memWf, !refuse_memWf, !later_memWf, !setQueue_memWf, !pay_memWf]

theorem execQpostStat_memWf (wf : s.memWf) (e : execQpostStat h queue s = .next s1) : s1.memWf := by
  unfold execQpostStat at e
  grind [→ firing_memWf, !fire_memWf]

theorem popQueue_memWf {q : Nat} (wf : s.memWf) : (s.popQueue die q).memWf := by
  unfold State.popQueue
  grind [!setQueue_memWf, !served_memWf]

theorem execHqToken_memWf {q : Nat} (wf : s.memWf) (e : execHqToken die q s = .next s1) : s1.memWf := by
  unfold execHqToken at e
  grind [!popQueue_memWf, !takeFault_memWf, !modEng_memWf]

theorem execHqStreamEnd_memWf {q : Nat} (wf : s.memWf) (e : execHqStreamEnd die q s = .next s1) : s1.memWf := by
  unfold execHqStreamEnd at e
  grind [!popQueue_memWf, !sendTok_memWf, !install_memWf]

theorem modCopy_memWf {f : Copy → Copy} (wf : s.memWf) : (s.modCopy die id f).memWf := by
  unfold State.modCopy
  grind [!modEng_memWf]

theorem traceCopy_memWf {c : Copy} (wf : s.memWf) : (s.traceCopy die c code data).memWf := by
  unfold State.traceCopy
  grind [!tracePeri_memWf]

theorem traceSector_memWf {c : Copy} (wf : s.memWf) : (s.traceSector die c code data).memWf := by
  unfold State.traceSector
  grind [!tracePeri_memWf]

theorem parkCopy_memWf {c : Copy} {code : FCode} (wf : s.memWf) : (s.parkCopy die c code arg data).memWf := by
  unfold State.parkCopy
  grind [!modCopy_memWf, !traceCopy_memWf, !traceSector_memWf, !takeFault_memWf]

theorem rangeCheck_memWf {c : Copy} {dst : Bool} (wf : s.memWf) : (s.rangeCheck c dst).2.memWf := by
  unfold State.rangeCheck
  grind [!checkHandle_memWf]

theorem copyRanges_memWf {c : Copy} (wf : s.memWf) : (s.copyRanges c).2.memWf := by
  unfold State.copyRanges
  grind [!rangeCheck_memWf]

theorem startCopy_memWf {c : Copy} (wf : s.memWf) : (s.startCopy die c).memWf := by
  unfold State.startCopy
  grind [!traceSector_memWf, !modCopy_memWf, !copyRanges_memWf, !parkCopy_memWf, !takeFault_memWf, !modCell_memWf, !traceCopy_memWf,
    !progress_memWf]

theorem execCopyStart_memWf (wf : s.memWf) (e : execCopyStart die streamer k s = .next s1) : s1.memWf := by
  unfold execCopyStart at e
  grind [!startCopy_memWf, !modEng_memWf]

theorem endIssue_memWf {h : Nat} {o : ℤ} (wf : s.memWf) : (s.endIssue x ctx h o n write).2.memWf := by
  unfold State.endIssue
  grind [!checkHandle_memWf, !virtRange_memWf]

theorem sectorIssue_memWf {c : Copy} {r : Except Block Unit} (wf : s.memWf) (e : s.sectorIssue c k = some (r, s1)) : s1.memWf := by
  unfold State.sectorIssue at e
  grind [!endIssue_memWf]

theorem sectorEnds_memWf {c : Copy} {r : Except Block (List Spot × List Spot × Nat)} (wf : s.memWf)
    (e : s.sectorEnds c place k = some (r, s1)) : s1.memWf := by
  unfold State.sectorEnds at e
  grind [!spotsAt_memWf]

theorem sectorPend_memWf {c : Copy} (wf : s.memWf) : (s.sectorPend die c k).memWf := by
  unfold State.sectorPend
  grind [!modCopy_memWf]

theorem sectorFault_memWf {c : Copy} {code : FCode} (wf : s.memWf) : (s.sectorFault die c k code arg).memWf := by
  unfold State.sectorFault
  grind [!sectorPend_memWf, !missFault_memWf, !parkCopy_memWf]

theorem sectorParks_memWf {c : Copy} (wf : s.memWf) : (s.sectorParks die c k).memWf := by
  unfold State.sectorParks
  grind [!sectorPend_memWf, !traceSector_memWf]

theorem sectorBlocked_memWf {c : Copy} {b : Block} (wf : s.memWf) : (s.sectorBlocked die c k b).memWf := by
  unfold State.sectorBlocked
  grind [!sectorFault_memWf, !waitPage_memWf, !sectorParks_memWf, !beginCow_memWf]

theorem execSectorIssue_memWf (wf : s.memWf) (e : execSectorIssue id s = .next s1) : s1.memWf := by
  unfold execSectorIssue at e
  split at e
  · cases e
    exact wf
  split at e
  · cases e
    exact wf
  split at e
  · cases e
    exact wf
  split at e
  · cases e
    exact wf
  · next r t issued =>
    have sent := sectorIssue_memWf wf issued
    have traced {k off pa} {c : Copy} : (if c.pend.contains k then t.traceSector 0 c off pa else t).memWf :=
      ite_memWf (traceSector_memWf sent) sent
    grind [!traceSector_memWf, !sectorFault_memWf, !sectorBlocked_memWf, !modMem_memWf, !modCopy_memWf, !progress_memWf]

theorem endWrite_memWf {l : List Spot} {psn : List Bool} (wf : s.memWf) : (s.endWrite l bs psn).memWf := by
  unfold State.endWrite
  grind [!foldl_memWf, !setPoison_memWf, !putBytes_memWf, !mark_memWf, !pteWritten_memWf]

theorem completeTile_memWf {c : Copy} {t : Nat} (wf : s.memWf) : (s.completeTile die c t).memWf := by
  unfold State.completeTile
  grind [!takeFault_memWf, !sendTok_memWf, !answer_memWf]

theorem completeTiles_memWf {c : Copy} {upto : Nat} (wf : s.memWf) : (s.completeTiles die c upto).memWf := by
  unfold State.completeTiles
  grind [!foldl_memWf, !completeTile_memWf, !modCopy_memWf]

theorem sectorDone_memWf {c : Copy} (wf : s.memWf) : (s.sectorDone die c k).memWf := by
  unfold State.sectorDone
  grind [!modCopy_memWf, !completeTiles_memWf, !modCell_memWf, !modEng_memWf, !traceCopy_memWf]

theorem execSectorPerform_memWf {sector : Nat} (wf : s.memWf) (e : execSectorPerform id sector s = .next s1) : s1.memWf := by
  unfold execSectorPerform at e
  grind [→ sectorEnds_memWf, !sectorBlocked_memWf, !endWrite_memWf, !sectorDone_memWf, !progress_memWf]

theorem planeStatus_memWf {k : State → State} (wf : s.memWf) (keeps : ∀ (t : State), t.memWf → (k t).memWf) :
    (s.planeStatus f h code k).memWf := by
  unfold State.planeStatus
  grind [!fireWith_memWf]

theorem execPlaneLoad_memWf (wf : s.memWf) (e : execPlaneLoad h handle index s = .next s1) : s1.memWf := by
  refine firing_memWf wf (fun t f wf => ?_) e
  have status {s : State} {n : Nat} (wf : s.memWf) : (s.planeStatus f h n id).memWf := planeStatus_memWf wf (fun _ => id)
  refine ite_memWf (refuse_memWf wf) (ite_memWf (status wf) (ite_memWf (status wf) ?_))
  split
  · next found => exact park_memWf (memWf_of_eq found (spots_memWf wf))
  · next found =>
    have named := memWf_of_eq found (spots_memWf wf)
    refine ite_memWf (status named) ?_
    grind [!spots_memWf, !park_memWf, !planeStatus_memWf, !modDie_memWf]

theorem execPlaneEvict_memWf (wf : s.memWf) (e : execPlaneEvict h handle index s = .next s1) : s1.memWf := by
  unfold execPlaneEvict at e
  grind [→ firing_memWf, !planeStatus_memWf, !modDie_memWf]

theorem execPlaneQuery_memWf (wf : s.memWf) (e : execPlaneQuery h handle index s = .next s1) : s1.memWf := by
  unfold execPlaneQuery at e
  grind [→ firing_memWf, !planeStatus_memWf]

theorem recfg_memWf {rect : Option Rect} {site : Bool} (wf : s.memWf) : (s.recfg f h plane rect site).memWf := by
  unfold State.recfg
  grind [!refuse_memWf, !later_memWf, !pay_memWf, !modEng_memWf, !modDie_memWf, !foldl_memWf, !netSend_memWf]

theorem execRecfgBlocks_memWf {rect : Option Rect} (wf : s.memWf) (e : execRecfgBlocks h plane rect s = .next s1) : s1.memWf := by
  unfold execRecfgBlocks at e
  grind [→ firing_memWf, !recfg_memWf]

theorem execRecfgSite_memWf {rect : Option Rect} (wf : s.memWf) (e : execRecfgSite h plane rect s = .next s1) : s1.memWf := by
  unfold execRecfgSite at e
  grind [→ firing_memWf, !recfg_memWf]

theorem execRecfgArrival_memWf (wf : s.memWf) (e : execRecfgArrival k s = .next s1) : s1.memWf := by
  unfold execRecfgArrival at e
  grind [!modDie_memWf, !netSend_memWf]

theorem reloadRoutes_memWf {r : Recfg} {p : Nat × Nat} (wf : s.memWf) : (s.reloadRoutes r p).memWf := by
  unfold State.reloadRoutes
  grind [!modDie_memWf]

theorem reloadSite_memWf {r : Recfg} (wf : s.memWf) : (s.reloadSite r res).memWf := by
  unfold State.reloadSite
  grind [!modCell_memWf, !foldl_memWf, !leaveStore_memWf, !reloadRoutes_memWf, !siteWord_memWf, !loadSite_memWf, !makeStores_memWf,
    !traceCell_memWf]

theorem execSiteReload_memWf (wf : s.memWf) (e : execSiteReload k s = .next s1) : s1.memWf := by
  unfold execSiteReload at e
  grind [!modDie_memWf, !reloadSite_memWf, !pay_memWf]

end Sys2Proof.Machine
end

section
/-! What the islands keep of the form of memory (R315 to R327; O28). -/
namespace Sys2Proof.Machine

variable {s s1 : State} {h : Hdr} {f : Firing} {l : Lit} {t : Tok} {poison : Bool} {bs : List Byte} {d : Drain} {code o cslot n arg die
    handle reg off isl va depth id i : Nat}

theorem modIsl_memWf {f : Island → Island} (wf : s.memWf) : (s.modIsl die isl f).memWf := by
  unfold State.modIsl
  grind [!modEng_memWf]

theorem modSlot_memWf {f : CSlot → CSlot} (wf : s.memWf) : (s.modSlot die isl n f).memWf := by
  unfold State.modSlot
  grind [!modIsl_memWf]

theorem sendNotice_memWf {kind : NoticeKind} {tag : W64} {trace : Bool} {w : Dep} (wf : s.memWf) :
    (s.sendNotice f isl cslot kind tag depth poison trace w).memWf := by
  unfold State.sendNotice
  grind [!modEng_memWf, !modIsl_memWf]

theorem mxop_memWf {kind : NoticeKind} (wf : s.memWf) : (s.mxop f h isl cslot kind).memWf := by
  unfold State.mxop
  grind [!later_memWf, !sendNotice_memWf]

theorem mxEnd_memWf (wf : s.memWf) : (s.mxEnd f h isl cslot).memWf := by
  unfold State.mxEnd
  grind [!issue_memWf, !modMem_memWf, !sendNotice_memWf]

theorem execMxopArm_memWf {cmd : MxCmd} (wf : s.memWf) (e : execMxopArm h isl cslot cmd s = .next s1) : s1.memWf := by
  unfold execMxopArm at e
  grind [→ firing_memWf, !mxop_memWf]

theorem execMxopTileA_memWf (wf : s.memWf) (e : execMxopTileA h isl cslot reg s = .next s1) : s1.memWf := by
  unfold execMxopTileA at e
  grind [→ firing_memWf, !mxEnd_memWf, !mxop_memWf]

theorem execMxopTileB_memWf (wf : s.memWf) (e : execMxopTileB h isl cslot reg s = .next s1) : s1.memWf := by
  unfold execMxopTileB at e
  grind [→ firing_memWf, !mxEnd_memWf, !mxop_memWf]

theorem execMxtab_memWf {c : MxTabCtl} (wf : s.memWf) (e : execMxtab h c s = .next s1) : s1.memWf := by
  unfold execMxtab at e
  grind [→ firing_memWf, !refuse_memWf, !cellSpots_memWf, !park_memWf, !later_memWf, !sendNotice_memWf]

theorem execMxdrain_memWf {scope : Scope} (wf : s.memWf) (e : execMxdrain h isl cslot scope handle s = .next s1) : s1.memWf := by
  unfold execMxdrain at e
  grind [→ firing_memWf, !refuse_memWf, !checkHandle_memWf, !park_memWf, !later_memWf, !modEng_memWf, !modIsl_memWf]

theorem execScl_memWf (wf : s.memWf) (e : execScl h l s = .next s1) : s1.memWf := by
  unfold execScl at e
  grind [→ firing_memWf, !refuse_memWf, !issue_memWf, !depart_memWf]

theorem modNote_memWf {f : Notice → Notice} (wf : s.memWf) : (s.modNote die isl id f).memWf := by
  unfold State.modNote
  grind [!modIsl_memWf]

theorem endNote_memWf {n : Notice} (wf : s.memWf) : (s.endNote die isl n).memWf := by
  unfold State.endNote
  grind [!modIsl_memWf, !progress_memWf, !unspill_memWf]

theorem traceIsl_memWf (wf : s.memWf) : (s.traceIsl die isl t code off).memWf := by
  unfold State.traceIsl
  grind [!trace_memWf]

theorem parkNote_memWf {n : Notice} {code : FCode} (wf : s.memWf) : (s.parkNote die isl n code arg).memWf := by
  unfold State.parkNote
  grind [!modNote_memWf, !traceIsl_memWf, !takeFault_memWf]

theorem replayNote_memWf {n : Notice} (wf : s.memWf) : (s.replayNote die isl n).memWf := by
  unfold State.replayNote
  grind [!traceIsl_memWf, !modNote_memWf]

theorem armAt_memWf {n : Notice} {cmd : MxCmd} (wf : s.memWf) : (s.armAt die isl n cmd).2.memWf := by
  unfold State.armAt
  grind [!modIsl_memWf, !endNote_memWf, !pay_memWf, !parkNote_memWf, !modSlot_memWf]

theorem spillTile_memWf {n : Notice} (wf : s.memWf) : (s.spillTile die isl n).2.memWf := by
  unfold State.spillTile
  grind [!spillEng_memWf, !modNote_memWf]

theorem tileAt_memWf {n : Notice} {opB : Bool} {behind : Bool} (wf : s.memWf) : (s.tileAt die isl n opB reg behind).2.memWf := by
  unfold State.tileAt
  grind [!parkNote_memWf, !spillTile_memWf, !tileSpots_memWf, !modEng_memWf, !modIsl_memWf, !endNote_memWf, !pay_memWf]

theorem tableAt_memWf {n : Notice} {tbl : Nat} {bank : Option Nat} (wf : s.memWf) : (s.tableAt die isl n tbl bank bs).2.memWf := by
  unfold State.tableAt
  grind [!parkNote_memWf, !modSlot_memWf, !endNote_memWf, !pay_memWf]

theorem endAt_memWf {n : Notice} (wf : s.memWf) : (s.endAt die isl n).memWf := by
  unfold State.endAt
  grind [!modSlot_memWf, !endNote_memWf, !pay_memWf]

theorem noteAt_memWf {n : Notice} {behind : Bool} (wf : s.memWf) : (s.noteAt die isl n behind).2.memWf := by
  unfold State.noteAt
  grind [!armAt_memWf, !tileAt_memWf, !tableAt_memWf, !endAt_memWf]

theorem firstNote_memWf {l : List Notice} {l' : List Notice} (wf : s.memWf) : (s.firstNote die isl l l').memWf := by
  induction l' generalizing s l with
  | nil => exact wf
  | cons n l' ih =>
    unfold State.firstNote
    grind [!replayNote_memWf, !noteAt_memWf]

theorem execMxNotice_memWf (wf : s.memWf) (e : execMxNotice die isl s = .next s1) : s1.memWf := by
  unfold execMxNotice at e
  grind [!firstNote_memWf]

theorem ringScale_memWf {l : List (Tok × Nat)} (wf : s.memWf) : (s.ringScale die isl l).2.memWf := by
  induction l generalizing s with
  | nil => exact wf
  | cons p l ih =>
    unfold State.ringScale
    grind [!spillEng_memWf, !modIsl_memWf]

theorem execScaleArrival_memWf (wf : s.memWf) (e : execScaleArrival die isl s = .next s1) : s1.memWf := by
  unfold execScaleArrival at e
  grind [!modIsl_memWf, !unspill_memWf, !progress_memWf, !ringScale_memWf, !spillEng_memWf]

theorem firePair_memWf {p : Pair} (wf : s.memWf) : (s.firePair die isl p).memWf := by
  unfold State.firePair
  grind [!trace_memWf, !modIsl_memWf, !modSlot_memWf]

theorem execPairFire_memWf (wf : s.memWf) (e : execPairFire die isl s = .next s1) : s1.memWf := by
  unfold execPairFire at e
  grind [!firePair_memWf, !progress_memWf]

theorem modDrain_memWf {f : Drain → Drain} (wf : s.memWf) : (s.modDrain die isl id f).memWf := by
  unfold State.modDrain
  grind [!modIsl_memWf]

theorem parkDrain_memWf {code : FCode} (wf : s.memWf) : (s.parkDrain die isl d code arg).memWf := by
  unfold State.parkDrain
  grind [!modDrain_memWf, !traceIsl_memWf, !takeFault_memWf]

theorem spillDrain_memWf (wf : s.memWf) : (s.spillDrain die isl d).2.memWf := by
  unfold State.spillDrain
  grind [!spillEng_memWf, !modDrain_memWf]

theorem queueDrains_memWf (wf : s.memWf) : (s.queueDrains die isl).2.memWf := by
  unfold State.queueDrains
  grind [!modDrain_memWf, !unspill_memWf, !spillDrain_memWf]

theorem rowWrite_memWf {l : List (List Byte)} (wf : s.memWf) : (s.rowWrite d o poison i l).2.2.memWf := by
  induction l generalizing s i with
  | nil => exact wf
  | cons p l ih =>
    unfold State.rowWrite
    grind [!spots_memWf, !endWrite_memWf]

theorem drainDone_memWf {k : CSlot} {b : Nat} (wf : s.memWf) : (s.drainDone die isl d k b poison).memWf := by
  unfold State.drainDone
  grind [!modSlot_memWf, !modIsl_memWf, !pay_memWf, !trace_memWf]

theorem drainParks_memWf (wf : s.memWf) : (s.drainParks die isl d va).memWf := by
  unfold State.drainParks
  grind [!modDrain_memWf, !traceIsl_memWf]

theorem replayDrain_memWf (wf : s.memWf) : (s.replayDrain die isl d).memWf := by
  unfold State.replayDrain
  grind [!traceIsl_memWf, !modDrain_memWf]

theorem rowBlocked_memWf {b : Block} (wf : s.memWf) : (s.rowBlocked die isl d b).memWf := by
  unfold State.rowBlocked
  grind [!modDrain_memWf, !missFault_memWf, !parkDrain_memWf, !waitPage_memWf, !drainParks_memWf, !beginCow_memWf]

theorem drainRow_memWf {k : CSlot} {b : Nat} (wf : s.memWf) : (s.drainRow die isl d k b).memWf := by
  unfold State.drainRow
  grind [!replayDrain_memWf, !rowWrite_memWf, !modDrain_memWf, !rowBlocked_memWf, !drainDone_memWf, !progress_memWf]

theorem execIslandDrain_memWf (wf : s.memWf) (e : execIslandDrain die isl cslot s = .next s1) : s1.memWf := by
  unfold execIslandDrain at e
  grind [!queueDrains_memWf, !parkDrain_memWf, !drainRow_memWf, !modSlot_memWf, !modDrain_memWf, !progress_memWf]

end Sys2Proof.Machine
end

section
/-! What the walkers keep of the form of memory (R328 to R340; O28). -/
namespace Sys2Proof.Machine

variable {s s1 : State} {h : Hdr} {x : Site} {f : Firing} {w : Walk} {uid : Option Nat} {poison : Bool} {bs : List Byte} {code k status o
    quad m n die handle pos id i unit data : Nat}

theorem modWalk_memWf {f : Walk → Walk} (wf : s.memWf) : (s.modWalk die id f).memWf := by
  unfold State.modWalk
  grind [!modEng_memWf]

theorem dropWalk_memWf (wf : s.memWf) : (s.dropWalk die id).memWf := by
  unfold State.dropWalk
  grind [!modEng_memWf]

theorem awCount_memWf (wf : s.memWf) : (s.awCount die k n).memWf := by
  unfold State.awCount
  grind [!modEng_memWf]

theorem sendWalk_memWf {kind : WalkKind} {dep : Dep} (wf : s.memWf) : (s.sendWalk f h kind dep).memWf := by
  unfold State.sendWalk
  grind [!modEng_memWf, !modCell_memWf]

theorem walkTakes_memWf (wf : s.memWf) : (s.walkTakes w).memWf := by
  unfold State.walkTakes
  grind [!modCell_memWf]

theorem unspend_memWf (wf : s.memWf) : (s.unspend x uid pos).memWf := by
  unfold State.unspend
  grind [!modCell_memWf, !retire_memWf]

theorem execAwalk_memWf {c : AwCtl} (wf : s.memWf) (e : execAwalk h c s = .next s1) : s1.memWf := by
  unfold execAwalk at e
  grind [→ firing_memWf, !refuse_memWf, !issue_memWf, !sendWalk_memWf]

theorem execAins_memWf {c : AinsCtl} (wf : s.memWf) (e : execAins h c s = .next s1) : s1.memWf := by
  unfold execAins at e
  grind [→ firing_memWf, !refuse_memWf, !laterOn_memWf, !sendWalk_memWf]

theorem execAdel_memWf {scope : Scope} (wf : s.memWf) (e : execAdel h handle scope s = .next s1) : s1.memWf := by
  unfold execAdel at e
  grind [→ firing_memWf, !laterOn_memWf, !sendWalk_memWf]

theorem traceWalk_memWf (wf : s.memWf) : (s.traceWalk die w code data).memWf := by
  unfold State.traceWalk
  grind [!tracePeri_memWf]

theorem walkStop_memWf {r : FRec} (wf : s.memWf) : (s.walkStop die w unit r).memWf := by
  unfold State.walkStop
  grind [!dropWalk_memWf, !modCell_memWf, !unspend_memWf, !takeFault_memWf]

theorem seedStop_memWf {code : FCode} (wf : s.memWf) : (s.seedStop die w code).memWf := by
  unfold State.seedStop
  grind [!walkStop_memWf]

theorem traceWalker_memWf (wf : s.memWf) : (s.traceWalker die w code data).memWf := by
  unfold State.traceWalker
  grind [!tracePeri_memWf]

theorem replayWalk_memWf (wf : s.memWf) : (s.replayWalk die w).memWf := by
  unfold State.replayWalk
  grind [!traceWalker_memWf, !modWalk_memWf]

theorem walkBlocked_memWf {s0 : State} {b : Block} (wf : s.memWf) (wf0 : s0.memWf) : (s.walkBlocked s0 die w b).memWf := by
  unfold State.walkBlocked
  extract_lets again parks park
  have parked {t : State} {code : FCode} {arg : Nat} (wf : t.memWf) : (park t code arg).memWf :=
    takeFault_memWf (traceWalker_memWf (missFault_memWf (modWalk_memWf wf)))
  have moved {t : State} {va : Nat} (wf : t.memWf) : (parks t va).memWf := modWalk_memWf wf
  split
  · exact parked wf0
  · exact regsOf_memWf wf
  · exact ite_memWf wf0 (traceWalker_memWf (moved (waitPage_memWf wf0)))
  · split
    · next begun => exact traceWalker_memWf (moved (memWf_of_eq begun (beginCow_memWf wf0)))
    · next begun => exact parked (memWf_of_eq begun (beginCow_memWf wf0))

theorem walkRead_memWf (wf : s.memWf) : (s.walkRead w o n).2.memWf := by
  unfold State.walkRead
  grind [!spots_memWf]

theorem putSpots_memWf {l : List Spot} (wf : s.memWf) : (s.putSpots l bs poison).memWf := by
  unfold State.putSpots
  grind [!writeSpots_memWf, !foldl_memWf, !setPoison_memWf]

theorem walkWrite_memWf (wf : s.memWf) : (s.walkWrite w o bs poison).2.memWf := by
  unfold State.walkWrite
  grind [!spots_memWf, !putSpots_memWf, !pteWritten_memWf]

theorem nodeHead_memWf (wf : s.memWf) : (s.nodeHead w i).2.memWf := by
  unfold State.nodeHead
  grind [!walkRead_memWf]

theorem nodeScore_memWf {n : NodeHead} (wf : s.memWf) : (s.nodeScore w i n).2.memWf := by
  unfold State.nodeScore
  grind [!walkRead_memWf]

theorem offer_memWf {n : NodeHead} {c : Tally} (wf : s.memWf) : (s.offer w i n c).2.memWf := by
  unfold State.offer
  grind [!nodeScore_memWf]

theorem edges_memWf {i' : Nat} {cnt : Tally} (wf : s.memWf) : (s.edges w bs i i' cnt).2.memWf := by
  induction i generalizing s w i' cnt with
  | zero => exact wf
  | succ i ih =>
    unfold State.edges
    grind [!nodeHead_memWf, !offer_memWf]

theorem walkExit_memWf (wf : s.memWf) : (s.walkExit die w).memWf := by
  unfold State.walkExit
  grind [!modWalk_memWf, !awCount_memWf]

theorem expand_memWf (wf : s.memWf) : (s.expand die w).memWf := by
  unfold State.expand
  grind [!walkExit_memWf, !awCount_memWf, !walkRead_memWf, !walkBlocked_memWf, !edges_memWf, !modWalk_memWf]

theorem beginWalk_memWf {s0 : State} (wf : s.memWf) (wf0 : s0.memWf) : (s.beginWalk s0 die w).memWf := by
  unfold State.beginWalk
  grind [!walkExit_memWf, !nodeHead_memWf, !walkBlocked_memWf, !offer_memWf, !modWalk_memWf, !awCount_memWf]

theorem claim_memWf (wf : s.memWf) : (s.claim die w).memWf := by
  unfold State.claim
  grind [!walkRead_memWf, !walkBlocked_memWf, !regsOf_memWf, !seedStop_memWf, !walkWrite_memWf, !walkTakes_memWf, !modWalk_memWf]

theorem fillNode_memWf (wf : s.memWf) : (s.fillNode die w).memWf := by
  unfold State.fillNode
  grind [!walkWrite_memWf, !walkBlocked_memWf, !beginWalk_memWf]

theorem deleted_memWf (wf : s.memWf) : (s.deleted die w status).memWf := by
  unfold State.deleted
  grind [!modWalk_memWf]

theorem deleteNode_memWf (wf : s.memWf) : (s.deleteNode die w).memWf := by
  unfold State.deleteNode
  grind [!walkRead_memWf, !walkBlocked_memWf, !deleted_memWf, !walkWrite_memWf, !modWalk_memWf]

theorem seed_memWf {w0 : Walk} (wf : s.memWf) : (s.seed die w0).memWf := by
  unfold State.seed
  split
  · next found => exact walkBlocked_memWf (memWf_of_eq found (walkRead_memWf wf)) wf
  · next found =>
    have read := memWf_of_eq found (walkRead_memWf wf)
    dsimp only
    have stop {w : Walk} {code : FCode} {t : State} (wf : t.memWf) : ((t.regsOf s w.f.x).seedStop die w code).memWf :=
      seedStop_memWf (regsOf_memWf wf)
    split
    · refine ite_memWf (stop read) (ite_memWf (stop read) ?_)
      grind [!nodeHead_memWf, !walkBlocked_memWf, !walkTakes_memWf, !deleted_memWf, !modWalk_memWf]
    · refine ite_memWf (stop read) (ite_memWf (stop read) ?_)
      grind [!readKey_memWf, !walkBlocked_memWf, !beginWalk_memWf]
    · refine ite_memWf (stop read) (ite_memWf (stop read) (ite_memWf (stop read) (ite_memWf (stop read) ?_)))
      grind [!readKey_memWf, !walkBlocked_memWf, !walkRead_memWf, !regsOf_memWf, !seedStop_memWf, !modWalk_memWf]

theorem seeding_memWf (wf : s.memWf) : (s.seeding die w).memWf := by
  unfold State.seeding
  grind [!seed_memWf, !claim_memWf, !deleteNode_memWf, !fillNode_memWf, !deleted_memWf]

theorem listOf_memWf {l : List (Nat × Nat)} {good : Bool} (wf : s.memWf) : (s.listOf w l bs good).2.memWf := by
  induction l generalizing s bs good with
  | nil => exact wf
  | cons p l ih =>
    unfold State.listOf
    grind [!nodeHead_memWf]

theorem linked_memWf (wf : s.memWf) : (s.linked die w).memWf := by
  unfold State.linked
  grind [!modWalk_memWf]

theorem linkList_memWf (wf : s.memWf) : (s.linkList die w).memWf := by
  unfold State.linkList
  grind [!listOf_memWf, !walkBlocked_memWf, !walkWrite_memWf, !linked_memWf]

theorem linkBack_memWf (wf : s.memWf) : (s.linkBack die w m).memWf := by
  unfold State.linkBack
  grind [!awCount_memWf, !linked_memWf, !walkRead_memWf, !walkBlocked_memWf, !modWalk_memWf, !walkWrite_memWf]

theorem linkEntry_memWf (wf : s.memWf) : (s.linkEntry die w).memWf := by
  unfold State.linkEntry
  grind [!walkRead_memWf, !walkBlocked_memWf, !linked_memWf, !walkWrite_memWf, !modWalk_memWf, !nodeHead_memWf]

theorem linkCommit_memWf (wf : s.memWf) : (s.linkCommit die w).memWf := by
  unfold State.linkCommit
  grind [!walkWrite_memWf, !walkBlocked_memWf, !linked_memWf]

theorem linkDone_memWf (wf : s.memWf) : (s.linkDone die w).memWf := by
  unfold State.linkDone
  grind [!modWalk_memWf]

theorem link_memWf (wf : s.memWf) : (s.link die w).memWf := by
  unfold State.link
  grind [!linkList_memWf, !linkBack_memWf, !linkEntry_memWf, !linked_memWf, !linkCommit_memWf, !linkDone_memWf]

theorem payloads_memWf {l : List (Nat × Nat)} {l' : List KEnt} (wf : s.memWf) : (s.payloads w l l').2.memWf := by
  induction l generalizing s l' with
  | nil => exact wf
  | cons p l ih =>
    unfold State.payloads
    grind [!walkRead_memWf]

theorem finish_memWf (wf : s.memWf) : (s.finish die w).memWf := by
  unfold State.finish
  grind [!traceWalk_memWf, !dropWalk_memWf, !payloads_memWf, !walkBlocked_memWf, !walkTakes_memWf, !walkStop_memWf, !foldl_memWf,
    !answerAs_memWf, !answer_memWf, !storeDone_memWf]

theorem queueWalks_memWf (wf : s.memWf) : (s.queueWalks die quad).2.memWf := by
  unfold State.queueWalks
  grind [!modWalk_memWf, !unspill_memWf, !spillEng_memWf]

theorem execWalkRequest_memWf (wf : s.memWf) (e : execWalkRequest die quad s = .next s1) : s1.memWf := by
  unfold execWalkRequest at e
  grind [!queueWalks_memWf, !modWalk_memWf, !traceWalk_memWf, !progress_memWf]

theorem walkMoved_memWf (wf : s.memWf) : (s.walkMoved die w).memWf := by
  unfold State.walkMoved
  grind [!progress_memWf]

theorem execWalkResult_memWf {walker : Nat} (wf : s.memWf) (e : execWalkResult die quad walker s = .next s1) : s1.memWf := by
  unfold execWalkResult at e
  grind [!finish_memWf, !replayWalk_memWf, !seeding_memWf, !walkMoved_memWf, !expand_memWf, !link_memWf]

end Sys2Proof.Machine
end

section
/-! What the clock, traps and the answers to faults keep of the form of memory (R361 to R372, R386; O28). -/
namespace Sys2Proof.Machine

variable {s s1 : State} {h : Hdr} {x : Site} {f : Firing} {a : Access} {uid : Option Nat} {q : NodeReq} {code c k row seq n die i unit ctx
    dt node col sp : Nat}

theorem collect_memWf (wf : s.memWf) : (s.collect die).memWf := by
  unfold State.collect
  grind [!modDie_memWf]

theorem collectN_memWf (wf : s.memWf) : (s.collectN die i).memWf := by
  induction i with
  | zero => exact wf
  | succ i ih => exact collect_memWf ih

theorem chansOn_memWf (wf : s.memWf) : (s.chansOn die).memWf := by
  unfold State.chansOn
  grind [!foldl_memWf, !modDie_memWf]

theorem life_memWf (wf : s.memWf) : (s.life k n).memWf := by
  unfold State.life
  grind

theorem seconds_memWf (wf : s.memWf) : (s.seconds die dt).memWf := by
  unfold State.seconds
  grind [!modDie_memWf, !life_memWf]

theorem hours_memWf (wf : s.memWf) : (s.hours dt).memWf := by
  unfold State.hours
  grind [!life_memWf]

theorem dieOn_memWf (wf : s.memWf) : (s.dieOn die).memWf := by
  unfold State.dieOn
  grind [!modDie_memWf, !chansOn_memWf, !collectN_memWf, !seconds_memWf]

theorem watchOn_memWf (wf : s.memWf) : (s.watchOn c).memWf := by
  unfold State.watchOn
  grind [!progress_memWf, !modCtx_memWf]

theorem invDone_memWf (wf : s.memWf) : s.invDone.memWf := by
  unfold State.invDone
  grind [!foldl_memWf, !pay_memWf]

theorem together_memWf (wf : s.memWf) : s.together.memWf := by
  unfold State.together
  grind [!foldl_memWf, !modDie_memWf]

/-- The cells are no memory, and neither are the cycle and the agenda. -/
theorem memWf_with_cells (wf : s.memWf) (l : Table Cell) : ({ s with cells := l } : State).memWf := wf

theorem memWf_with_agenda (wf : s.memWf) (n : Nat) (l : List Act) : ({ s with cycle := n, agenda := l } : State).memWf := wf

theorem clock_memWf (wf : s.memWf) : s.clock.memWf := by
  have aged {l} := memWf_with_cells (invDone_memWf wf) l
  unfold State.clock
  refine memWf_with_agenda (hours_memWf (foldl_memWf (together_memWf (foldl_memWf aged ?_)) ?_)) _ _
  · exact fun _ _ => dieOn_memWf
  · exact fun _ _ => watchOn_memWf

theorem trap_memWf {code : FCode} (wf : s.memWf) : (s.trap f h code n).memWf := by
  unfold State.trap
  grind [!refuse_memWf, !later_memWf, !takeFault_memWf]

theorem sendOn_memWf (wf : s.memWf) : (s.sendOn f h).memWf := by
  unfold State.sendOn
  grind [!fire_memWf]

theorem execTrap_memWf {cond : Bool} (wf : s.memWf) (e : execTrap h code cond s = .next s1) : s1.memWf := by
  unfold execTrap at e
  grind [→ firing_memWf, !sendOn_memWf, !trap_memWf]

theorem execBrkpt_memWf {cond : Bool} (wf : s.memWf) (e : execBrkpt h code cond s = .next s1) : s1.memWf := by
  unfold execBrkpt at e
  grind [→ firing_memWf, !trap_memWf, !sendOn_memWf]

theorem execSys_memWf {svc : Nat} (wf : s.memWf) (e : execSys h svc s = .next s1) : s1.memWf := by
  unfold execSys at e
  grind [→ firing_memWf, !later_memWf]

theorem execSysAnswer_memWf {v : W64} (wf : s.memWf) (e : execSysAnswer k v s = .next s1) : s1.memWf := by
  unfold execSysAnswer at e
  grind [!progress_memWf, !pay_memWf]

theorem resendAcc_memWf (wf : s.memWf) : (s.resendAcc a).memWf := by
  unfold State.resendAcc
  grind [!accSet_memWf, !missEnd_memWf, !modCell_memWf]

theorem resendReq_memWf (wf : s.memWf) : (s.resendReq q).memWf := by
  unfold State.resendReq
  grind [!modMem_memWf, !modCell_memWf]

theorem resume_memWf {memory : Bool} {what : Resume} (wf : s.memWf) : (s.resume c memory what).memWf := by
  unfold State.resume
  grind [!pay_memWf, !traceAcc_memWf, !resendAcc_memWf, !traceReq_memWf, !resendReq_memWf, !tracePark_memWf, !missEnd_memWf,
    !modCopy_memWf, !modWalk_memWf, !modNote_memWf, !modDrain_memWf, !drainEscape_memWf]

theorem forceOut_memWf (wf : s.memWf) : (s.forceOut x uid).memWf := by
  unfold State.forceOut
  grind [!forceRetire_memWf]

theorem skipAcc_memWf (wf : s.memWf) : (s.skipAcc a).memWf := by
  unfold State.skipAcc
  grind [!accSet_memWf, !missEnd_memWf, !forceOut_memWf, !unspend_memWf]

theorem skip_memWf {memory : Bool} {what : Resume} (wf : s.memWf) : (s.skip c memory what).memWf := by
  unfold State.skip
  grind [!forceOut_memWf, !pay_memWf, !skipAcc_memWf, !modMem_memWf, !accSet_memWf, !missEnd_memWf, !unspend_memWf, !modCopy_memWf,
    !modCell_memWf, !modEng_memWf, !dropWalk_memWf, !unspill_memWf, !endNote_memWf, !modIsl_memWf, !modSlot_memWf, !drainEscape_memWf]

theorem answerRec_memWf {o : OpenRec} {act : Nat} (wf : s.memWf) : (s.answerRec c o act).memWf := by
  unfold State.answerRec
  grind [!endCtx_memWf, !modCtx_memWf, !skip_memWf, !resume_memWf, !settle_memWf]

theorem answersDue_memWf (wf : s.memWf) : (s.answersDue c).memWf := by
  unfold State.answersDue
  grind [!foldl_memWf, !modCtx_memWf, !answerRec_memWf]

theorem faultret_memWf {act0 : Nat} (wf : s.memWf) : (s.faultret f h act0).memWf := by
  unfold State.faultret
  grind [!fire_memWf, !fireWith_memWf, !modCtx_memWf, !answerRec_memWf]

theorem execFaultretResume_memWf (wf : s.memWf) (e : execFaultretResume h s = .next s1) : s1.memWf := by
  unfold execFaultretResume at e
  grind [→ firing_memWf, !faultret_memWf]

theorem execFaultretSkip_memWf (wf : s.memWf) (e : execFaultretSkip h s = .next s1) : s1.memWf := by
  unfold execFaultretSkip at e
  grind [→ firing_memWf, !faultret_memWf]

theorem execFaultretEnd_memWf (wf : s.memWf) (e : execFaultretEnd h s = .next s1) : s1.memWf := by
  unfold execFaultretEnd at e
  grind [→ firing_memWf, !faultret_memWf]

theorem badWord_memWf {struct : Nat} (wf : s.memWf) : (s.badWord die struct).memWf := by
  unfold State.badWord
  grind [!life_memWf]

theorem eccState_memWf {r : FRec} (wf : s.memWf) : (s.eccState unit r).memWf := by
  unfold State.eccState
  grind [!takeFault_memWf]

theorem badEntries_memWf (wf : s.memWf) : (s.badEntries x node seq).memWf := by
  unfold State.badEntries
  grind [!lose_memWf, !setPoison_memWf, !modCell_memWf, !foldl_memWf]

theorem execSoftError_memWf {e : SoftErr} (wf : s.memWf) (e : execSoftError e s = .next s1) : s1.memWf := by
  unfold execSoftError at e
  grind [!life_memWf, !lose_memWf, !setPoison_memWf, !badWord_memWf, !modCell_memWf, !badEntries_memWf, !modSlot_memWf, !eccState_memWf,
    !modDie_memWf]

theorem execRouteEntryFetch_memWf {route : Nat} {ssite : Nat} (wf : s.memWf)
    (e : execRouteEntryFetch die col row ctx route ssite s = .next s1) : s1.memWf := by
  unfold execRouteEntryFetch at e
  grind [!modDie_memWf]

theorem execWatchdogExpiry_memWf (wf : s.memWf) (e : execWatchdogExpiry ctx s = .next s1) : s1.memWf := by
  unfold execWatchdogExpiry at e
  grind [!modCtx_memWf, !takeFault_memWf]

theorem sinkMismatch_memWf {d : Dual} {p : DOut} (wf : s.memWf) : (s.sinkMismatch die d p).memWf := by
  unfold State.sinkMismatch
  grind [!takeFault_memWf]

theorem replayOn_memWf {d : Dual} (wf : s.memWf) : (s.replayOn die d sp).memWf := by
  unfold State.replayOn
  grind [!modCell_memWf, !modDual_memWf]

theorem voted_memWf {p : DOut} {q : DOut} (wf : s.memWf) : (s.voted p q).1.memWf := by
  unfold State.voted
  grind [!accSet_memWf]

theorem charge_memWf {rank : Nat} (wf : s.memWf) : (s.charge die rank).memWf := by
  unfold State.charge
  grind [!life_memWf]

theorem dualNotice_memWf {d : Dual} {p : DOut} {code : FCode} (wf : s.memWf) : (s.dualNotice die d p code).memWf := by
  unfold State.dualNotice
  grind [!takeFault_memWf]

theorem retirePair_memWf {d : Dual} {p : DOut} {r : Nat} (wf : s.memWf) : (s.retirePair die d p r sp).memWf := by
  unfold State.retirePair
  grind [!beginSwap_memWf, !modDie_memWf, !life_memWf, !modDual_memWf, !dualNotice_memWf]

theorem clearSpare_memWf (wf : s.memWf) : (s.clearSpare die sp ctx).memWf := by
  unfold State.clearSpare
  grind [!modCell_memWf, !modMem_memWf]

theorem vote_memWf {d : Dual} {p : DOut} {q : DOut} {v : DOut} (wf : s.memWf) (e : s.vote die d sp p q v = some s1) : s1.memWf := by
  unfold State.vote at e
  grind [!sinkMismatch_memWf, !voted_memWf, → commit_memWf, !modDual_memWf, !clearSpare_memWf, !charge_memWf, !dualNotice_memWf,
    !unkeep_memWf, !retirePair_memWf]

theorem execDualReplay_memWf (wf : s.memWf) (e : execDualReplay die k s = .next s1) : s1.memWf := by
  unfold execDualReplay at e
  split at e
  · cases e
    exact wf
  · grind [!sinkMismatch_memWf, !replayOn_memWf, → vote_memWf]

end Sys2Proof.Machine
end

section
/-! What pre-emption and restoration keep of the form of memory (R373 to R379; O28). -/
namespace Sys2Proof.Machine

variable {s s1 : State} {x : Site} {t : Tok} {w : Walk} {who : Actor} {bs : List Byte} {code c o n die ctx : Nat}

theorem tick_memWf (wf : s.memWf) : s.tick.memWf := by
  unfold State.tick
  grind [!foldl_memWf, !answersDue_memWf, !releaseLeft_memWf, !clock_memWf]

theorem beginSave_memWf (wf : s.memWf) : (s.beginSave ctx).memWf := by
  unfold State.beginSave
  grind [!modCtx_memWf]

theorem preempt_memWf {owed : List (Site × Dep)} (wf : s.memWf) : (s.preempt ctx owed).memWf := by
  unfold State.preempt
  grind [!modCtx_memWf, !beginSave_memWf]

theorem execCtxPrePreempt_memWf (wf : s.memWf) (e : execCtxPrePreempt ctx who s = .next s1) : s1.memWf := by
  unfold execCtxPrePreempt at e
  grind [!preempt_memWf]

theorem freeze_memWf (wf : s.memWf) : (s.freeze x ctx).memWf := by
  unfold State.freeze
  grind [!modCell_memWf]

theorem channelMark_memWf {chan : Nat} (wf : s.memWf) : (s.mark_ x ctx chan).memWf := by
  unfold State.mark_
  grind [!modCell_memWf]

/-- What every step of a fold that may stop keeps in its form, the fold does. -/
theorem foldlM_memWf {α : Type} {g : State → α → Option State} {l : List α} (wf : s.memWf)
    (keeps : ∀ {t u : State} {a}, t.memWf → g t a = some u → u.memWf) (e : l.foldlM g s = some s1) : s1.memWf := by
  induction l generalizing s with
  | nil => exact Option.some.inj e ▸ wf
  | cons a l ih =>
    obtain ⟨t, step, rest⟩ := Option.bind_eq_some_iff.mp e
    exact ih (keeps wf step) rest

theorem sendMarkers_memWf (wf : s.memWf) (e : s.sendMarkers x ctx = some s1) : s1.memWf := by
  obtain ⟨t, sent, rfl⟩ := Option.map_eq_some_iff.mp e
  exact channelMark_memWf (foldlM_memWf (foldl_memWf wf (fun _ _ wf => foldl_memWf wf (fun _ _ => netSend_memWf))) toRoute_memWf sent)

theorem takeMarker_memWf {src : Source} (wf : s.memWf) : (s.takeMarker x src t).memWf := by
  unfold State.takeMarker
  grind [!modCell_memWf, !freeze_memWf, !channelMark_memWf]

theorem traceUnit_memWf (wf : s.memWf) : (s.traceUnit x ctx code n).memWf := by
  unfold State.traceUnit
  grind [!traceCell_memWf]

theorem payPre_memWf (wf : s.memWf) : (s.payPre ctx code).memWf := by
  unfold State.payPre
  grind [!modCtx_memWf, !foldl_memWf, !pay_memWf]

theorem goOn_memWf (wf : s.memWf) : (s.goOn ctx).memWf := by
  unfold State.goOn
  grind [!modCtx_memWf, !foldl_memWf, !takeFault_memWf, !answerRec_memWf, !settle_memWf]

theorem abortSave_memWf (wf : s.memWf) : (s.abortSave ctx).memWf := by
  unfold State.abortSave
  grind [!foldl_memWf, !modCell_memWf, !payPre_memWf, !goOn_memWf]

theorem ctxWrite_formed {h : Nat} (wf : s.memWf) : (s.ctxWrite c h o bs).Formed := by
  unfold State.ctxWrite
  grind [!spots_memWf, !writeSpots_memWf, !putBlocked_formed, Put.Formed]

theorem saved_memWf {us : List SavedUnit} (wf : s.memWf) : (s.saved ctx us).memWf := by
  unfold State.saved
  grind [!foldl_memWf, !modCell_memWf, !modEng_memWf, !modCtx_memWf, !modMem_memWf, !payPre_memWf]

theorem completeSave_memWf (wf : s.memWf) : (s.completeSave ctx).memWf := by
  unfold State.completeSave
  grind [!ctxBound_memWf, !ctxWrite_formed, !saved_memWf, !abortSave_memWf, Put.Formed]

theorem saveStep_memWf (wf : s.memWf) (e : s.saveStep x ctx = some s1) : s1.memWf := by
  unfold State.saveStep at e
  grind [!freeze_memWf, → sendMarkers_memWf, !traceUnit_memWf, !channelMark_memWf, !completeSave_memWf]

theorem execMarkerArrival_memWf (wf : s.memWf) (e : execMarkerArrival x s = .next s1) : s1.memWf := by
  unfold execMarkerArrival at e
  extract_lets c saving at e
  split at e
  · grind [!takeMarker_memWf]
  split at e
  · next found =>
    cases e
    obtain ⟨k, -, saved⟩ := List.exists_of_findSome?_eq_some found
    exact saveStep_memWf wf saved
  · split at e <;> cases e
    · exact completeSave_memWf wf
    · exact wf

/-- What every step of a fold keeps in its form beside what else it gathers, the fold does. -/
theorem foldl_fst_memWf {α β : Type} {g : State × β → α → State × β} {l : List α} {r : State × β} (wf : r.1.memWf)
    (keeps : ∀ r a, r.1.memWf → (g r a).1.memWf) : (l.foldl g r).1.memWf := by
  induction l generalizing r with
  | nil => exact wf
  | cons a l ih => exact ih (keeps r a wf)

theorem restoreUnit_memWf {v : SavedUnit} (wf : s.memWf) (e : s.restoreUnit ctx v = some s1) : s1.memWf := by
  unfold State.restoreUnit at e
  split at e
  · cases e
  · obtain rfl := Option.some.inj e
    refine traceUnit_memWf ?_
    split
    · exact setCell_memWf wf
    · refine modCell_memWf (foldl_fst_memWf (setBytes_memWf _ _ _ (setCell_memWf wf)) (fun r k wf => ?_))
      split
      · exact setBytes_memWf _ _ _ wf
      · exact wf

theorem restoreUnits_memWf {l : List SavedUnit} (wf : s.memWf) (e : s.restoreUnits ctx l = some s1) : s1.memWf := by
  induction l generalizing s with
  | nil => exact Option.some.inj e ▸ wf
  | cons v l ih =>
    obtain ⟨t, first, rest⟩ := Option.bind_eq_some_iff.mp e
    exact ih (restoreUnit_memWf wf first) rest

theorem restoreCopy_memWf {c : Copy} (wf : s.memWf) (e : s.restoreCopy ctx c = some s1) : s1.memWf := by
  unfold State.restoreCopy at e
  grind [!modEng_memWf]

theorem restoreWalk_memWf (wf : s.memWf) (e : s.restoreWalk ctx w = some s1) : s1.memWf := by
  unfold State.restoreWalk at e
  grind [!modEng_memWf]

theorem restoreIsl_memWf {p : Nat × Island} (wf : s.memWf) (e : s.restoreIsl die p = some s1) : s1.memWf := by
  unfold State.restoreIsl at e
  grind [!modIsl_memWf]

/-- What each of a list of steps keeps in its form, all of them do. -/
theorem allOf_memWf {α : Type} {g : State → α → Option State} {l : List α} (wf : s.memWf)
    (keeps : ∀ {t u : State} {a}, t.memWf → g t a = some u → u.memWf) (e : allOf g l s = some s1) : s1.memWf := by
  induction l generalizing s with
  | nil => exact Option.some.inj e ▸ wf
  | cons a l ih =>
    obtain ⟨t, step, rest⟩ := Option.bind_eq_some_iff.mp e
    exact ih (keeps wf step) rest

theorem restoreNow_memWf (wf : s.memWf) : (s.restoreNow ctx).memWf := by
  unfold State.restoreNow
  dsimp only
  refine ite_memWf wf ?_
  split
  · exact wf
  · next restored =>
    obtain ⟨s1, units, restored⟩ := Option.bind_eq_some_iff.mp restored
    obtain ⟨s2, copies, restored⟩ := Option.bind_eq_some_iff.mp restored
    obtain ⟨s3, walks, islands⟩ := Option.bind_eq_some_iff.mp restored
    have back := allOf_memWf (allOf_memWf (allOf_memWf (restoreUnits_memWf wf units) restoreCopy_memWf copies) restoreWalk_memWf walks)
      restoreIsl_memWf islands
    exact foldl_memWf (goOn_memWf (payPre_memWf back)) (fun _ _ => retire_memWf)

theorem restore_memWf {owed : List (Site × Dep)} (wf : s.memWf) : (s.restore ctx owed).memWf := by
  unfold State.restore
  grind [!modCtx_memWf, !restoreNow_memWf]

theorem execCtxPreRestore_memWf (wf : s.memWf) (e : execCtxPreRestore ctx who s = .next s1) : s1.memWf := by
  unfold execCtxPreRestore at e
  grind [!restoreNow_memWf, !restore_memWf]

end Sys2Proof.Machine
end

section
/-! What traces, registers and the debug port keep of the form of memory (R341 to R356, R380 to R396; O28). -/
namespace Sys2Proof.Machine

variable {s s1 : State} {h : Hdr} {x : Site} {r : DebugReq} {b : Blk} {who : Actor} {write : Bool} {time code c k o st n tenant arg die op
    va word i ctx pa : Nat}

theorem execTrev_memWf {c : TrevCtl} (wf : s.memWf) (e : execTrev h c s = .next s1) : s1.memWf := by
  unfold execTrev at e
  grind [→ firing_memWf, !fireWith_memWf, !traceCell_memWf]

theorem execRdtime_memWf (wf : s.memWf) (e : execRdtime h s = .next s1) : s1.memWf := by
  unfold execRdtime at e
  grind [→ firing_memWf, !issue_memWf, !depart_memWf, !modCell_memWf]

theorem execTraceWatermark_memWf (wf : s.memWf) (e : execTraceWatermark die s = .next s1) : s1.memWf := by
  unfold execTraceWatermark at e
  grind [!modDie_memWf]

theorem traceStore_memWf {ws : List W32} (wf : s.memWf) : (s.traceStore pa ws).memWf := by
  unfold State.traceStore
  grind [!setBytes_memWf, !touchWrite_memWf, !clearPoison_memWf]

/-- The trace blocks of the tenants are no memory. -/
theorem memWf_with_tens (wf : s.memWf) (b : Table TenBlk) : ({ s with tens := b } : State).memWf := wf

theorem tracePut_memWf {t : Nat} {r : List W32} (wf : s.memWf) : (s.tracePut t r).memWf := by
  unfold State.tracePut
  exact memWf_with_tens (traceStore_memWf wf) _

theorem traceOne_memWf {t : Nat} {r : List W32} (wf : s.memWf) : (s.traceOne t time r).2.memWf := by
  unfold State.traceOne
  grind [!tracePut_memWf]

theorem traceWrite_memWf {t : Nat} {r : TRec} (wf : s.memWf) : (s.traceWrite t r).2.memWf := by
  unfold State.traceWrite
  grind [!traceOne_memWf]

theorem execTraceWrite_memWf (wf : s.memWf) (e : execTraceWrite tenant s = .next s1) : s1.memWf := by
  unfold execTraceWrite at e
  grind [!modDie_memWf, !traceWrite_memWf]

theorem traceClock_memWf (wf : s.memWf) : (s.traceClock die code arg).memWf := by
  unfold State.traceClock
  grind [!foldl_memWf, !tracePeri_memWf]

theorem clockState_memWf {which : Loupe → Bool} (wf : s.memWf) : (s.clockState which st).memWf := by
  unfold State.clockState
  grind [!foldl_memWf, !modDie_memWf, !traceClock_memWf]

theorem stepClock_memWf (wf : s.memWf) : (s.stepClock die time).memWf := by
  unfold State.stepClock
  grind [!modDie_memWf, !traceClock_memWf]

theorem allLoupes_memWf {f : Loupe → Loupe} (wf : s.memWf) : (s.allLoupes f).memWf := by
  unfold State.allLoupes
  grind [!foldl_memWf, !modDie_memWf]

theorem execPtpMessage_memWf {offset : BitVec 16} {locked : Bool} (wf : s.memWf) (e : execPtpMessage time offset locked s = .next s1) :
    s1.memWf := by
  unfold execPtpMessage at e
  grind [!allLoupes_memWf, !clockState_memWf, !freeVal_memWf, !foldl_memWf, !stepClock_memWf]

theorem execPtpMasterLoss_memWf (wf : s.memWf) (e : execPtpMasterLoss s = .next s1) : s1.memWf := by
  unfold execPtpMasterLoss at e
  grind [!clockState_memWf]

theorem dualWrite_memWf {v : Nat} (wf : s.memWf) : (s.dualWrite ctx k v).memWf := by
  unfold State.dualWrite
  grind [!modDie_memWf]

theorem hinv_memWf (wf : s.memWf) : (s.hinv ctx).memWf := by
  unfold State.hinv
  grind [!modMem_memWf]

theorem tlbinv_memWf {ten : Nat} {v : Nat} {owed : Option (Site × Dep)} (wf : s.memWf) : (s.tlbinv ctx ten v owed).memWf := by
  unfold State.tlbinv
  grind [!modMem_memWf]

theorem mtpwr_memWf {v : Nat} (wf : s.memWf) : (s.mtpwr x v).memWf := by
  unfold State.mtpwr
  grind [!modCell_memWf]

theorem regWrite_memWf {c : SysCtl} {v : Nat} (wf : s.memWf) : (s.regWrite x ctx c v).memWf := by
  unfold State.regWrite
  grind [!modCtx_memWf, !modDie_memWf, !hinv_memWf, !mtpwr_memWf, !modCell_memWf, !dualWrite_memWf]

theorem execSysrd_memWf {c : SysCtl} (wf : s.memWf) (e : execSysrd h c s = .next s1) : s1.memWf := by
  unfold execSysrd at e
  grind [→ firing_memWf, !fire_memWf]

theorem execSyswr_memWf {c : SysCtl} (wf : s.memWf) (e : execSyswr h c s = .next s1) : s1.memWf := by
  unfold execSyswr at e
  grind [→ firing_memWf, !fire_memWf, !later_memWf, !tlbinv_memWf, !preempt_memWf, !restore_memWf, !fireWith_memWf, !regWrite_memWf]

theorem write_memWf {c : SysCtl} {v : Nat} (wf : s.memWf) : (s.write who x ctx c v).memWf := by
  unfold State.write
  grind [!regWrite_memWf]

theorem execFmtWrite_memWf {v : W32} (wf : s.memWf) (e : execFmtWrite ctx k v who s = .next s1) : s1.memWf := by
  unfold execFmtWrite at e
  grind [!write_memWf]

theorem execCtxHinv_memWf (wf : s.memWf) (e : execCtxHinv ctx who s = .next s1) : s1.memWf := by
  unfold execCtxHinv at e
  grind [!write_memWf]

theorem execCtxTlbinv_memWf {v : W64} (wf : s.memWf) (e : execCtxTlbinv ctx v who s = .next s1) : s1.memWf := by
  unfold execCtxTlbinv at e
  grind [!tlbinv_memWf]

theorem execTrapDualWrite_memWf {v : W64} (wf : s.memWf) (e : execTrapDualWrite die k v ctx who s = .next s1) : s1.memWf := by
  unfold execTrapDualWrite at e
  grind [!write_memWf]

theorem execPlaneRejClear_memWf {v : W32} (wf : s.memWf) (e : execPlaneRejClear die v who s = .next s1) : s1.memWf := by
  unfold execPlaneRejClear at e
  grind [!write_memWf]

theorem execCellMtpwrWrite_memWf {v : W32} (wf : s.memWf) (e : execCellMtpwrWrite x v who s = .next s1) : s1.memWf := by
  unfold execCellMtpwrWrite at e
  grind [!write_memWf]

theorem tenWrite_memWf {v : W32} (wf : s.memWf) : (s.tenWrite tenant word v who).memWf := by
  unfold State.tenWrite
  grind

theorem execLoupeTenWrite_memWf {v : W32} (wf : s.memWf) (e : execLoupeTenWrite tenant word v who s = .next s1) : s1.memWf := by
  unfold execLoupeTenWrite at e
  grind [!tenWrite_memWf]

theorem execRegisterWrite_memWf {c : SysCtl} {v : W64} (wf : s.memWf) (e : execRegisterWrite x ctx c v who s = .next s1) : s1.memWf := by
  unfold execRegisterWrite at e
  grind [!write_memWf]

theorem modTab_memWf {f : Tables → Tables} (wf : s.memWf) : (s.modTab die f).memWf := by
  unfold State.modTab
  grind [!modDie_memWf]

theorem tableWrite_memWf {w : TableWrite} (wf : s.memWf) : (s.tableWrite w).memWf := by
  unfold State.tableWrite
  grind [!modTab_memWf, !tenWrite_memWf]

theorem execBar0TableWrite_memWf {t : TableWrite} (wf : s.memWf) (e : execBar0TableWrite t s = .next s1) : s1.memWf := by
  unfold execBar0TableWrite at e
  grind [!tableWrite_memWf]

theorem dbgAnswer_memWf {c : DbgStatus} {data : List Byte} (wf : s.memWf) : (s.dbgAnswer k c data).memWf := by
  unfold State.dbgAnswer
  grind

theorem dbgServe_memWf {k : State → Nat → State} (wf : s.memWf) (keeps : ∀ (t : State) a, t.memWf → (k t a).memWf) :
    (s.dbgServe op r k).memWf := by
  unfold State.dbgServe
  grind [!dbgAnswer_memWf]

theorem setStop_memWf {d : DbgSet} {on : Bool} (wf : s.memWf) : (s.setStop d on).memWf := by
  unfold State.setStop
  grind [!modCell_memWf, !modCtx_memWf, !settle_memWf, !foldl_memWf, !modDie_memWf]

theorem beginHeld_memWf (wf : s.memWf) : (s.beginHeld c).memWf := by
  unfold State.beginHeld
  grind [!beginSave_memWf]

theorem dbgStop_memWf {k : State → DbgSet → State} (wf : s.memWf) (keeps : ∀ (t : State) a, t.memWf → (k t a).memWf) :
    (s.dbgStop r n k).memWf := by
  unfold State.dbgStop
  grind [!dbgAnswer_memWf]

theorem execDebugStop_memWf (wf : s.memWf) (e : execDebugStop r s = .next s1) : s1.memWf := by
  unfold execDebugStop at e
  grind [!dbgServe_memWf, !dbgStop_memWf, !setStop_memWf, !dbgAnswer_memWf]

theorem execDebugStopDrain_memWf (wf : s.memWf) (e : execDebugStopDrain r s = .next s1) : s1.memWf := by
  unfold execDebugStopDrain at e
  grind [!dbgServe_memWf, !dbgStop_memWf, !setStop_memWf]

theorem execDebugResume_memWf (wf : s.memWf) (e : execDebugResume r s = .next s1) : s1.memWf := by
  unfold execDebugResume at e
  grind [!dbgServe_memWf, !dbgStop_memWf, !setStop_memWf, !foldl_memWf, !beginHeld_memWf, !dbgAnswer_memWf]

theorem execDrained_memWf (wf : s.memWf) (e : execDrained k s = .next s1) : s1.memWf := by
  unfold execDrained at e
  grind [!dbgAnswer_memWf]

theorem dbgGive_memWf {d : DbgData} {stopped : Bool} (wf : s.memWf) : (s.dbgGive n tenant d stopped).memWf := by
  unfold State.dbgGive
  grind [!dbgAnswer_memWf]

theorem dbgMt_memWf {r : Bool} (wf : s.memWf) (e : s.dbgMt x o n = some (r, s1)) : s1.memWf := by
  unfold State.dbgMt at e
  grind [!foldl_memWf, !wake_memWf]

theorem dbgSdm_memWf {r : Bool} (wf : s.memWf) (e : s.dbgSdm die o n = some (r, s1)) : s1.memWf := by
  unfold State.dbgSdm at e
  grind [!modDie_memWf]

theorem dbgVirt_memWf {r : List Nat} (wf : s.memWf) (e : s.dbgVirt ctx va write = some (r, s1)) : s1.memWf := by
  unfold State.dbgVirt at e
  grind [!lookRange_memWf]

theorem dbgRead_memWf (wf : s.memWf) : (s.dbgRead r n).memWf := by
  unfold State.dbgRead
  grind [!dbgAnswer_memWf, → dbgMt_memWf, !dbgGive_memWf, → dbgSdm_memWf, !freeVal_memWf, → dbgVirt_memWf]

theorem execDebugRead_memWf (wf : s.memWf) (e : execDebugRead r s = .next s1) : s1.memWf := by
  unfold execDebugRead at e
  grind [!dbgServe_memWf, !dbgRead_memWf]

theorem dbgRecord_memWf {new : Rec} (wf : s.memWf) : (s.dbgRecord x b i new).memWf := by
  unfold State.dbgRecord
  grind [!rejectBlk_memWf, !modCell_memWf]

theorem dbgWrite_memWf (wf : s.memWf) : (s.dbgWrite r n).memWf := by
  unfold State.dbgWrite
  grind [!dbgAnswer_memWf, !setBytes_memWf, !clearPoison_memWf, !modDie_memWf, !dbgRecord_memWf, → dbgMt_memWf, → dbgSdm_memWf, →
    dbgVirt_memWf, !writeSpots_memWf, !foldl_memWf, !touchWrite_memWf, !pteWritten_memWf]

theorem execDebugWrite_memWf (wf : s.memWf) (e : execDebugWrite r s = .next s1) : s1.memWf := by
  unfold execDebugWrite at e
  grind [!dbgServe_memWf, !dbgWrite_memWf]

theorem chamoisStart_memWf (wf : s.memWf) : (s.chamoisStart r n).memWf := by
  unfold State.chamoisStart
  grind [!dbgAnswer_memWf, !modDie_memWf]

theorem execChamois_memWf (wf : s.memWf) (e : execChamois r s = .next s1) : s1.memWf := by
  unfold execChamois at e
  grind [!dbgServe_memWf, !chamoisStart_memWf]

theorem execChamoisWindowEnd_memWf (wf : s.memWf) (e : execChamoisWindowEnd die s = .next s1) : s1.memWf := by
  unfold execChamoisWindowEnd at e
  grind [!modDie_memWf, !dbgAnswer_memWf]

end Sys2Proof.Machine
end

section
/-! What loops, portals and power keep of the form of memory (R163, R199 to R202, R403 to R417; O28). -/
namespace Sys2Proof.Machine

variable {s s1 : State} {h : Hdr} {x : Site} {f : Firing} {t : Tok} {k gib temp die level pa : Nat}

theorem execLcarry_memWf (wf : s.memWf) (e : execLcarry h level s = .next s1) : s1.memWf := by
  unfold execLcarry at e
  grind [→ firing_memWf, !fire_memWf, !refuse_memWf]

theorem execMark_memWf {pass : Bool} (wf : s.memWf) (e : execMark h level pass s = .next s1) : s1.memWf := by
  unfold execMark at e
  grind [→ firing_memWf, !refuse_memWf, !fire_memWf]

theorem lboundStart_memWf (wf : s.memWf) : (s.lboundStart f h k t).memWf := by
  unfold State.lboundStart
  grind [!refuse_memWf, → spill_memWf, !issue_memWf, !spillWait_memWf, !modCell_memWf, !depart_memWf]

theorem lboundMarker_memWf (wf : s.memWf) : (s.lboundMarker f h t).memWf := by
  unfold State.lboundMarker
  grind [→ spill_memWf, !modCell_memWf, !fire_memWf, !issue_memWf, !spillWait_memWf, !depart_memWf]

theorem lboundDone_memWf (wf : s.memWf) : (s.lboundDone f t).memWf := by
  unfold State.lboundDone
  grind [!issue_memWf, !modCell_memWf]

theorem execLbound_memWf {km1 : Nat} (wf : s.memWf) (e : execLbound h km1 s = .next s1) : s1.memWf := by
  unfold execLbound at e
  grind [→ firing_memWf, !lboundMarker_memWf, !lboundStart_memWf, !lboundDone_memWf]

theorem execPortalForward_memWf {q : Nat} (wf : s.memWf) (e : execPortalForward die q s = .next s1) : s1.memWf := by
  unfold execPortalForward at e
  grind [!setQueue_memWf]

theorem portalRefused_memWf {p : PortalTok} (wf : s.memWf) : (s.portalRefused p).memWf := by
  unfold State.portalRefused
  grind [!takeFault_memWf]

theorem execPortalArrival_memWf (wf : s.memWf) (e : execPortalArrival k s = .next s1) : s1.memWf := by
  unfold execPortalArrival at e
  split at e
  · cases e
    exact wf
  split at e
  · cases e
    exact wf
  extract_lets host t c x hdr at e
  have moved : t.memWf := wf
  split at e
  · cases e
    exact portalRefused_memWf moved
  split at e
  · cases e
    exact netSend_memWf moved
  split at e <;> cases e
  · next spilt => exact spill_memWf moved spilt
  · exact spillWait_memWf wf

theorem execUnreachableDestination_memWf {dev : Nat} {reachable : Bool} (wf : s.memWf)
    (e : execUnreachableDestination dev reachable s = .next s1) : s1.memWf := by
  unfold execUnreachableDestination at e
  grind

theorem execHostMemoryAccess_memWf {write : Option (List Byte)} {len : Nat} (wf : s.memWf)
    (e : execHostMemoryAccess pa write len s = .next s1) : s1.memWf := by
  unfold execHostMemoryAccess at e
  grind [!setBytes_memWf, !clearPoison_memWf, !foldl_memWf, !touchWrite_memWf, !pteWritten_memWf]

theorem execLinkTraining_memWf {width : Nat} {rate : Nat} (wf : s.memWf) (e : execLinkTraining width rate s = .next s1) : s1.memWf := by
  unfold execLinkTraining at e
  grind

theorem execPowerUp_memWf {images : List (Nat × List Byte × List Byte × Bool)} (wf : s.memWf) (e : execPowerUp images s = .next s1) :
    s1.memWf := by
  unfold execPowerUp at e
  grind [!life_memWf]

theorem execPlaneKeyInstall_memWf {key : List Byte} (wf : s.memWf) (e : execPlaneKeyInstall key s = .next s1) : s1.memWf := by
  unfold execPlaneKeyInstall at e
  grind

theorem execAttestationQuote_memWf {nonce : List Byte} (wf : s.memWf) (e : execAttestationQuote nonce s = .next s1) : s1.memWf := by
  unfold execAttestationQuote at e
  grind

theorem hostAnswer_memWf {r : RegStatus} (wf : s.memWf) : (s.hostAnswer r).memWf := by
  unfold State.hostAnswer
  grind

theorem clearDie_memWf {d : Die} (wf : s.memWf) : (s.clearDie die d).memWf := by
  unfold State.clearDie
  grind [!lose_memWf, !modMem_memWf, !setDie_memWf]

theorem execDiePowerDown_memWf (wf : s.memWf) (e : execDiePowerDown die s = .next s1) : s1.memWf := by
  unfold execDiePowerDown at e
  grind [!hostAnswer_memWf, !clearDie_memWf]

theorem execDiePowerUp_memWf (wf : s.memWf) (e : execDiePowerUp die s = .next s1) : s1.memWf := by
  unfold execDiePowerUp at e
  grind [!setDie_memWf]

theorem execSdmPowerWrite_memWf {state : Nat} (wf : s.memWf) (e : execSdmPowerWrite die gib state s = .next s1) : s1.memWf := by
  unfold execSdmPowerWrite at e
  grind [!modDie_memWf, !lose_memWf]

theorem execClockGate_memWf (wf : s.memWf) (e : execClockGate x s = .next s1) : s1.memWf := by
  unfold execClockGate at e
  grind [!modCell_memWf]

theorem thermalNotice_memWf (wf : s.memWf) : (s.thermalNotice die).memWf := by
  unfold State.thermalNotice
  grind

theorem execThermalThrottle_memWf (wf : s.memWf) (e : execThermalThrottle die temp s = .next s1) : s1.memWf := by
  unfold execThermalThrottle at e
  grind [!modDie_memWf, !thermalNotice_memWf]

theorem execThermalShutdown_memWf (wf : s.memWf) (e : execThermalShutdown die temp s = .next s1) : s1.memWf := by
  unfold execThermalShutdown at e
  grind [!foldl_memWf, !endCtx_memWf, !clearDie_memWf, !thermalNotice_memWf]

theorem repair_memWf (wf : s.memWf) : (s.repair die).memWf := by
  unfold State.repair
  grind [!modDie_memWf, !foldl_memWf, !modCell_memWf, !life_memWf]

theorem execBringUp_memWf (wf : s.memWf) (e : execBringUp s = .next s1) : s1.memWf := by
  unfold execBringUp at e
  grind [!foldl_memWf, !repair_memWf]

theorem execLifetimeFlush_memWf {orderly : Bool} (wf : s.memWf) (e : execLifetimeFlush orderly s = .next s1) : s1.memWf := by
  unfold execLifetimeFlush at e
  grind

theorem execDieReset_memWf (wf : s.memWf) (e : execDieReset die s = .next s1) : s1.memWf := by
  unfold execDieReset at e
  grind [!clearDie_memWf]

theorem execVerticalBusFallback_memWf {good : Nat} (wf : s.memWf) (e : execVerticalBusFallback x good s = .next s1) : s1.memWf := by
  unfold execVerticalBusFallback at e
  grind [!modCell_memWf, !life_memWf, !modDie_memWf]

theorem execAbruptPowerLoss_memWf (wf : s.memWf) (e : execAbruptPowerLoss s = .next s1) : s1.memWf := by
  unfold execAbruptPowerLoss at e
  grind [!lose_memWf]

end Sys2Proof.Machine
end

section
/-! Every step keeps memory in its canonical form (R4, R225; O28). -/
namespace Sys2Proof.Machine

variable {i : Instr} {s s1 : State}

/-- An instruction that only fires writes nothing to memory but what a refusal writes of its fault (R361). -/
theorem OnlyFires.memWf (fires : OnlyFires i) (wf : s.memWf) (e : exec i s = .next s1) : s1.memWf := by
  obtain ⟨k, runs, fires⟩ := fires
  refine firing_memWf (k := k) wf (fun t f wf => ?_) ((runs s).symm.trans e)
  obtain ⟨o, made⟩ := fires t f
  rw [made]
  exact fire_memWf wf

/-- Whatever an instruction does, it keeps the form: an instruction that only computes only fires, and each other has its law. -/
theorem exec_memWf (wf : s.memWf) (e : exec i s = .next s1) : s1.memWf := by
  by_cases computing : computes i = true
  · exact (onlyFires_of_computes computing).memWf wf e
  cases i
  case tokenMatch => exact execTokenMatch_memWf wf e
  case bindingArrival => exact execBindingArrival_memWf wf e
  case purgeArrival => exact execPurgeArrival_memWf wf e
  case nullArrival => exact execNullArrival_memWf wf e
  case streamEndArrival => exact execStreamEndArrival_memWf wf e
  case spillRefill => exact execSpillRefill_memWf wf e
  case blockFetch => exact execBlockFetch_memWf wf e
  case readyAging => exact execReadyAging_memWf wf e
  case firingTokensLeave => exact execFiringTokensLeave_memWf wf e
  case memoryAnswer => exact execMemoryAnswer_memWf wf e
  case spatialStageFire => exact execSpatialStageFire_memWf wf e
  case exit => exact execExit_memWf wf e
  case null => exact execNull_memWf wf e
  case steer => exact execSteer_memWf wf e
  case merge => exact execMerge_memWf wf e
  case mergeOrd => exact execMergeOrd_memWf wf e
  case mov => exact execMov_memWf wf e
  case mov4 => exact execMov4_memWf wf e
  case tagpush => exact execTagpush_memWf wf e
  case tagpop => exact execTagpop_memWf wf e
  case taginc => exact execTaginc_memWf wf e
  case tagset => exact execTagset_memWf wf e
  case tagget => exact execTagget_memWf wf e
  case lcarry => exact execLcarry_memWf wf e
  case lbound => exact execLbound_memWf wf e
  case mark => exact execMark_memWf wf e
  case purge => exact execPurge_memWf wf e
  case ld => exact execLd_memWf wf e
  case st => exact execSt_memWf wf e
  case ldG => exact execLdG_memWf wf e
  case stG => exact execStG_memWf wf e
  case ldm => exact execLdm_memWf wf e
  case stm => exact execStm_memWf wf e
  case pref => exact execPref_memWf wf e
  case prefG => exact execPrefG_memWf wf e
  case gtoh => exact execGtoh_memWf wf e
  case htog => exact execHtog_memWf wf e
  case aptest => exact execAptest_memWf wf e
  case aadd => exact execAadd_memWf wf e
  case afadd => exact execAfadd_memWf wf e
  case amin => exact execAmin_memWf wf e
  case amax => exact execAmax_memWf wf e
  case aand => exact execAand_memWf wf e
  case aor => exact execAor_memWf wf e
  case axor => exact execAxor_memWf wf e
  case axchg => exact execAxchg_memWf wf e
  case acas => exact execAcas_memWf wf e
  case ldr => exact execLdr_memWf wf e
  case cmls => exact execCmls_memWf wf e
  case ordtok => exact execOrdtok_memWf wf e
  case fence => exact execFence_memWf wf e
  case kins => exact execKins_memWf wf e
  case kdel => exact execKdel_memWf wf e
  case kmatch => exact execKmatch_memWf wf e
  case kpurge => exact execKpurge_memWf wf e
  case kgenRead => exact execKgenRead_memWf wf e
  case kgenAdv => exact execKgenAdv_memWf wf e
  case kgenSet => exact execKgenSet_memWf wf e
  case strm => exact execStrm_memWf wf e
  case arm => exact execArm_memWf wf e
  case qpostPost => exact execQpostPost_memWf wf e
  case qpostUnbind => exact execQpostUnbind_memWf wf e
  case qpostStat => exact execQpostStat_memWf wf e
  case planeLoad => exact execPlaneLoad_memWf wf e
  case planeEvict h handle index => exact execPlaneEvict_memWf (handle := handle) wf e
  case planeQuery h handle index => exact execPlaneQuery_memWf (handle := handle) wf e
  case recfgBlocks => exact execRecfgBlocks_memWf wf e
  case recfgSite => exact execRecfgSite_memWf wf e
  case mxopArm => exact execMxopArm_memWf wf e
  case mxopTileA => exact execMxopTileA_memWf wf e
  case mxopTileB => exact execMxopTileB_memWf wf e
  case mxtab => exact execMxtab_memWf wf e
  case mxdrain => exact execMxdrain_memWf wf e
  case scl => exact execScl_memWf wf e
  case awalk => exact execAwalk_memWf wf e
  case ains => exact execAins_memWf wf e
  case adel => exact execAdel_memWf wf e
  case trev => exact execTrev_memWf wf e
  case rdtime => exact execRdtime_memWf wf e
  case hpin => exact execHpin_memWf wf e
  case hunpin => exact execHunpin_memWf wf e
  case trap => exact execTrap_memWf wf e
  case sys => exact execSys_memWf wf e
  case launch => exact execLaunch_memWf wf e
  case halt => exact execHalt_memWf wf e
  case brkpt => exact execBrkpt_memWf wf e
  case sysrd => exact execSysrd_memWf wf e
  case syswr => exact execSyswr_memWf wf e
  case faultretResume => exact execFaultretResume_memWf wf e
  case faultretSkip => exact execFaultretSkip_memWf wf e
  case faultretEnd => exact execFaultretEnd_memWf wf e
  case trackRouteEntry => exact execTrackRouteEntry_memWf wf e
  case meshPacketHop => exact execMeshPacketHop_memWf wf e
  case hostLaunch => exact execHostLaunch_memWf wf e
  case dropComplete => exact execDropComplete_memWf wf e
  case tokenInjection => exact execTokenInjection_memWf wf e
  case contextRelease => exact execContextRelease_memWf wf e
  case hostTerminate => exact execHostTerminate_memWf wf e
  case storeOpSequence => exact execStoreOpSequence_memWf wf e
  case shardPerform => exact execShardPerform_memWf wf e
  case lensMerge => exact execLensMerge_memWf wf e
  case shardCommit => exact execShardCommit_memWf wf e
  case swapInstant => exact execSwapInstant_memWf wf e
  case mapVersionAdvance => exact execMapVersionAdvance_memWf wf e
  case tokenForward => exact execTokenForward_memWf wf e
  case flushArrival => exact execFlushArrival_memWf wf e
  case waveSend => exact execWaveSend_memWf wf e
  case accessPerform => exact execAccessPerform_memWf wf e
  case memnodeRequest => exact execMemnodeRequest_memWf wf e
  case pageWalk => exact execPageWalk_memWf wf e
  case cowCopyDone => exact execCowCopyDone_memWf wf e
  case faultLatchDrain => exact execFaultLatchDrain_memWf wf e
  case bankPowerEffect => exact execBankPowerEffect_memWf wf e
  case bankWake => exact execBankWake_memWf wf e
  case sdmWake => exact execSdmWake_memWf wf e
  case hqToken => exact execHqToken_memWf wf e
  case hqStreamEnd => exact execHqStreamEnd_memWf wf e
  case copyStart => exact execCopyStart_memWf wf e
  case sectorIssue => exact execSectorIssue_memWf wf e
  case sectorPerform => exact execSectorPerform_memWf wf e
  case recfgArrival => exact execRecfgArrival_memWf wf e
  case siteReload => exact execSiteReload_memWf wf e
  case mxNotice => exact execMxNotice_memWf wf e
  case scaleArrival => exact execScaleArrival_memWf wf e
  case pairFire => exact execPairFire_memWf wf e
  case islandDrain => exact execIslandDrain_memWf wf e
  case walkRequest => exact execWalkRequest_memWf wf e
  case walkResult => exact execWalkResult_memWf wf e
  case traceWatermark => exact execTraceWatermark_memWf wf e
  case traceWrite => exact execTraceWrite_memWf wf e
  case ptpMessage => exact execPtpMessage_memWf wf e
  case ptpMasterLoss => exact execPtpMasterLoss_memWf wf e
  case softError => exact execSoftError_memWf wf e
  case watchdogExpiry => exact execWatchdogExpiry_memWf wf e
  case dualCompare => exact execDualCompare_memWf wf e
  case dualReplay => exact execDualReplay_memWf wf e
  case ctxPrePreempt => exact execCtxPrePreempt_memWf wf e
  case ctxPreRestore => exact execCtxPreRestore_memWf wf e
  case markerArrival => exact execMarkerArrival_memWf wf e
  case debugStop => exact execDebugStop_memWf wf e
  case debugStopDrain => exact execDebugStopDrain_memWf wf e
  case drained => exact execDrained_memWf wf e
  case debugResume => exact execDebugResume_memWf wf e
  case debugRead => exact execDebugRead_memWf wf e
  case debugWrite => exact execDebugWrite_memWf wf e
  case chamois => exact execChamois_memWf wf e
  case chamoisWindowEnd => exact execChamoisWindowEnd_memWf wf e
  case fmtWrite => exact execFmtWrite_memWf wf e
  case ctxHinv => exact execCtxHinv_memWf wf e
  case ctxTlbinv => exact execCtxTlbinv_memWf wf e
  case trapDualWrite => exact execTrapDualWrite_memWf wf e
  case planeRejClear => exact execPlaneRejClear_memWf wf e
  case cellMtpwrWrite => exact execCellMtpwrWrite_memWf wf e
  case loupeTenWrite => exact execLoupeTenWrite_memWf wf e
  case registerWrite => exact execRegisterWrite_memWf wf e
  case bar0TableWrite => exact execBar0TableWrite_memWf wf e
  case sysAnswer => exact execSysAnswer_memWf wf e
  case portalForward => exact execPortalForward_memWf wf e
  case portalArrival => exact execPortalArrival_memWf wf e
  case powerUp => exact execPowerUp_memWf wf e
  case planeKeyInstall => exact execPlaneKeyInstall_memWf wf e
  case attestationQuote => exact execAttestationQuote_memWf wf e
  case diePowerDown => exact execDiePowerDown_memWf wf e
  case diePowerUp => exact execDiePowerUp_memWf wf e
  case sdmPowerWrite => exact execSdmPowerWrite_memWf wf e
  case clockGate => exact execClockGate_memWf wf e
  case thermalThrottle => exact execThermalThrottle_memWf wf e
  case thermalShutdown => exact execThermalShutdown_memWf wf e
  case bringUp => exact execBringUp_memWf wf e
  case lifetimeFlush orderly => exact execLifetimeFlush_memWf (orderly := orderly) wf e
  case dieReset => exact execDieReset_memWf wf e
  case hostMemoryAccess => exact execHostMemoryAccess_memWf wf e
  case unreachableDestination => exact execUnreachableDestination_memWf wf e
  case linkTraining => exact execLinkTraining_memWf wf e
  case routeEntryFetch => exact execRouteEntryFetch_memWf wf e
  case verticalBusFallback => exact execVerticalBusFallback_memWf wf e
  case abruptPowerLoss => exact execAbruptPowerLoss_memWf wf e
  -- the rest only compute
  all_goals simp [computes, parts, opParts, zParts, cParts] at computing

/-- What a fetch has found runs, and keeps the form. -/
theorem runFetched_memWf {r : Option Instr × State} (wf : r.2.memWf) (e : runFetched r = .next s1) : s1.memWf := by
  unfold runFetched at e
  split at e
  · exact exec_memWf wf e
  · cases e
    exact wf

/-- Settles O28: choosing what happens next changes no memory (`nextAct_memWf`), and each act keeps the form: a tick of the clock
(`tick_memWf`), a firing that is fetched (`runFetched_memWf`), a cached entry that goes, and an event (`exec_memWf`). -/
theorem stepKeepsMemoryForm : Obligations.StepKeepsMemoryForm := by
  intro s t wf e
  unfold step at e
  split at e <;> (rename_i chosen; have chosen := memWf_of_eq chosen (nextAct_memWf wf))
  · cases e
    exact tick_memWf chosen
  · exact runFetched_memWf (startIssue_memWf chosen) e
  · exact runFetched_memWf (startPacked_memWf chosen) e
  · exact runFetched_memWf (startRefire_memWf chosen) e
  · cases e
    exact dropHandle_memWf chosen
  · cases e
    exact dropEntry_memWf chosen
  · split at e
    · cases e
      exact chosen
    · exact exec_memWf chosen e

end Sys2Proof.Machine
end
